-- ==== Sys2Proof/Word.lean ====
section
/-! DEFINITION. The word types, and the small closed types that operands are made of: engines, spaces, element
types, orders, scopes, guards, stream names, and the outcomes that reach the device from outside (decoded pictures). -/

namespace Sys2Proof

abbrev Byte := BitVec 8
abbrev W32 := BitVec 32
abbrev W64 := BitVec 64
/-- A five-bit register field (R272). -/
abbrev R5 := BitVec 5
/-- A six-bit vector register field (R272). -/
abbrev R6 := BitVec 6
/-- The sync flags WP WN SP SN of a head word, bits [31:28] (R270). -/
abbrev Sync := BitVec 4

/-- The four engines of a core (R122), in the order A, M, V, S of R87 and R250. -/
inductive Eng where
  | a | m | v | s
deriving DecidableEq, Repr, Inhabited

def Eng.idx : Eng → Fin 4
  | .a => 0 | .m => 1 | .v => 2 | .s => 3

def Eng.all : List Eng := [.a, .m, .v, .s]

/-- The five spaces (R155, R277). -/
inductive Space where
  | g | c | k | d | l
deriving DecidableEq, Repr, Inhabited

/-- The element types of R275. -/
inductive Ty where
  | f32 | f16 | bf16 | e4m3 | e5m2 | e2m1 | s8 | n8 | s16 | n16 | s32 | n32 | s64 | n64 | e3m5
deriving DecidableEq, Repr, Inhabited

/-- The orders of R278. -/
inductive Order where
  | weak | strong | acquire | release
deriving DecidableEq, Repr, Inhabited

/-- The scopes of R185, narrowest first. -/
inductive Scope where
  | core | eight | die | package | system
deriving DecidableEq, Repr, Inhabited

/-- The sync flags, issue predicate (R274) and loop-issue condition (R276) of a 64-bit instruction. -/
structure Guard where
  sync : Sync
  pred : R5
  li : BitVec 4
deriving DecidableEq, Repr, Inhabited

/-- One engine stream of one resident slot of one core. -/
structure Ref where
  core : Nat
  slot : Nat
  eng : Eng
deriving DecidableEq, Repr, Inhabited

/-- A certificate (R26): the key it binds, the key that its signature verifies under, the serial and part numbers it names, and the SHA-384
of its bytes. Keys and hashes stand as numbers (notes/assumptions/64.md). -/
structure Cert where
  key : Nat
  signer : Nat
  serial : Nat
  part : Nat
  digest : Nat
deriving DecidableEq, Repr, Inhabited

/-- What the tag of a data flit covers (R8, R34): the 16-byte header and the 224-byte payload. The 16-byte tag ends the flit. -/
structure Flit where
  header : BitVec 128
  payload : BitVec 1792
deriving DecidableEq, Repr, Inhabited
/-- KEYSEQ: bit [0] of header byte 1 (R34). -/
def Flit.keyseq (f : Flit) : Bool := f.header.getLsbD 8

/-- A motion vector in quarter-pel luma units (R70). -/
structure Mv where
  x : Int
  y : Int
deriving DecidableEq, Repr, Inhabited

/-- A prediction unit overlapping a 16 × 16 block: how many of the block's samples inside the picture it covers, the raster
index of its top-left sample, its list-0 and list-1 vectors, each with the signed output-order distance of R70 step 3; and, of a warped or
global-motion unit of AV1, the motion of the block's centre sample in 2^-16 luma samples (notes/assumptions/102.md). -/
structure PredUnit where
  cover : Nat
  first : Nat
  l0 : Option (Mv × Int)
  l1 : Option (Mv × Int)
  warp : Option (Int × Int)
deriving DecidableEq, Repr, Inhabited

/-- What the bitstream says of one 16 × 16 block: intra, skipped or neither, its prediction units, and its residual samples, 16 rows of 16,
after dequantisation and inverse transform (R70, R71). -/
structure PicBlock where
  intra : Bool
  skip : Bool
  units : List PredUnit
  resid : List (List Int)
deriving DecidableEq, Repr, Inhabited

/-- A decoded picture (R61): its size, type, flags, samples (rows of luma and of interleaved chroma), blocks in raster order, and the
access unit that carried it. The standards that define it are outside this spec, so it is an operand of ACCESS_UNIT_DECODE, one for a
bitstream (notes/assumptions/102.md). -/
structure Picture where
  w : Nat
  h : Nat
  ptype : Nat
  rap : Bool
  d10 : Bool
  luma : List (List Nat)
  chroma : List (List Nat)
  blocks : List PicBlock
  /-- how many access units before the one now decoded carried it -/
  age : Nat
deriving DecidableEq, Repr, Inhabited

/-- One use of the work area by a decode (R66): bytes read at an offset, then bytes written there. -/
structure WorkUse where
  off : Nat
  n : Nat
  data : List Byte
deriving DecidableEq, Repr, Inhabited

/-- What a decode does beside its answer: the extent of the refinement search at that moment (R83), and its uses of the work area (R66). -/
structure AuUse where
  srange : Nat
  work : List WorkUse
deriving DecidableEq, Repr, Inhabited

/-- What decoding an access unit gives: pictures leaving in output order, a bitstream error (R73), or a feature outside R61. -/
inductive AuResult where
  | pictures (ps : List Picture)
  | bitstreamError
  | unsupported
deriving DecidableEq, Repr, Inhabited

end Sys2Proof
end

