-- ==== Sys2Proof/Config.lean ====
section
/-! DEFINITION. What the spec leaves open: values that nothing constrains, each an opaque function with no body, applied to a
counter the step advances (notes/assumptions/5.md). -/

namespace Sys2Proof.Config

/-- A value the spec leaves undefined, one for each count. -/
opaque freeWord : Nat → W64

/-- The AES-256-GCM tag of a header and an encrypted payload under a key and a 96-bit nonce (R34): a standard's function, which nothing
here constrains. -/
opaque gcmTag : Nat → BitVec 96 → BitVec 128 → BitVec 1792 → BitVec 128
/-- The AES-256-GCM encryption of a payload under a key and a nonce (R34). -/
opaque gcmSeal : Nat → BitVec 96 → BitVec 1792 → BitVec 1792

/-- The n-th key that the package root draws from its DRBG (R33). -/
opaque drbgKey : Nat → Nat

/-- Whether the code of a protected word misses a pattern of three or more changed bits (R255, R446): no code is given. -/
opaque eccMissed : Nat → Bool

/-- The sectors a coder needs for a block's bytes: the coded forms are internal to the device (R212, R213). -/
opaque coderSectors : Nat → List Byte → Nat

/-- The luma SAD of a block at a quarter-pel displacement from the previous output picture: no interpolation is given (R83). -/
opaque sad : Picture → Picture → Nat → Nat → Mv → Nat

/-- Which order of its FP32 operations a bilinear sample takes: none is written (R219). -/
opaque bilinearOrder : Nat

end Sys2Proof.Config
end

