-- ==== Sys2Proof/Syntax.lean ====
section
/-! DEFINITION. The one inductive of everything the device can do: the 96 happenings without an encoding and the 263
instructions of spec/opcode_table.json, one constructor per row. `f` holds the sync flags of a 32-bit instruction, `g` the guard
of a 64-bit one; the other operands carry the field names of R272. -/

namespace Sys2Proof

inductive Instr where
  /-- R23. Power-good starts a full bring-up: the M-die boots, verifies its firmware and runs the bring-up sequence. -/
  | powerGood (fwOk : Bool)
  /-- R24. A fundamental PCIe reset starts a full bring-up from step 1 of R23. -/
  | pcieFundamentalReset (fwOk : Bool)
  /-- R24. A management write that resets the package starts a full bring-up from step 1 of R23. -/
  | packageReset (fwOk : Bool)
  /-- R30. A C-die finishes fuse sensing and self-test with its sideband up, and moves from RESET to ATTESTING. -/
  | dieSelfTestDone (die : Nat)
  /-- R28. The package root sends SPDM GET_VERSION to a C-die and checks that version 1.3 is listed. -/
  | getVersion (die : Nat) (versions : List Nat)
  /-- R28. The package root sends GET_CAPABILITIES and checks the required capability flags. -/
  | getCapabilities (die : Nat) (flags : BitVec 6)
  /-- R28. The package root negotiates the P-384, SHA-384, secp384r1 and AES-256-GCM algorithms. -/
  | negotiateAlgorithms (die : Nat) (selected : BitVec 5)
  /-- R28. The package root reads the certificate digests and checks that slot 0 is populated. -/
  | getDigests (die : Nat) (slot0 : Option Nat)
  /-- R28. The package root reads the slot 0 chain in 1,024-byte portions and checks its digest, root hash and binding-list serial. -/
  | getCertificate (die : Nat) (digest : Nat) (root : Cert) (inter : Cert) (leaf : Cert)
  /-- R28. The package root challenges the die and verifies the signature against the leaf key. -/
  | challenge (die : Nat) (sigOk : Bool)
  /-- R29. The package root reads the signed measurements and compares them with the manifest references, requiring debug state 0x00. -/
  | getMeasurements (die : Nat) (sigOk : Bool) (ms : List Nat)
  /-- R28. The package root performs the ephemeral secp384r1 key exchange and checks the responder signature. -/
  | keyExchange (die : Nat) (sigOk : Bool)
  /-- R28. FINISH is checked and the secured SPDM session with the die opens. -/
  | finish (die : Nat) (verifyOk : Bool)
  /-- R28. A response deadline of 50 ms expires, ending the attestation attempt as a failure. -/
  | spdmResponseTimeout (die : Nat)
  /-- R33. The package root installs a link key in both ends inside their secured sessions; the last key of link Mn makes die n TRUSTED. -/
  | keyinstall (link : Nat) (dir : Nat) (key : Nat)
  /-- R23. A TRUSTED die's HBM is trained and scrubbed and its links are up, so its DIEUP bit is set. -/
  | dieBringupDone (die : Nat)
  /-- R10. A receiver takes a flit, checks its integrity and tag, opens it with the key that KEYSEQ names and requests a replay on failure. -/
  | flitReceive (link : Nat) (dir : Nat) (count : Nat) (intact : Bool) (flit : Flit) (tag : BitVec 128)
  /-- R10. A receiver acknowledges a flit, freeing its entry in the sender's replay buffer. -/
  | flitAck (link : Nat) (dir : Nat)
  /-- R37. The flit count under a direction's key reaches ROLLCTL.FLITS × 2^32, and the package root starts a rollover. -/
  | rolloverStart (link : Nat) (dir : Nat) (key : Nat)
  /-- R38. A write of a die number to DIERST kills the contexts that touch the die, takes its links down and starts its scrub. -/
  | dierstWrite (fn : Nat) (v : W64)
  /-- R38. The reset die's HBM and SRAMs are cleared, and the die enters RESET to be attested again. -/
  | dieResetScrubDone (die : Nat)
  /-- R39. A voltage or clock glitch sensor fires, raising a package alarm and applying ALMPOL. -/
  | glitchAlarm (die : Nat)
  /-- R39. A die's mesh breaks, raising a package alarm and applying ALMPOL. -/
  | meshBreach (die : Nat)
  /-- R17. At the end of each 100 µs window, firmware averages power and lowers the clock one step when capping or a thermal throttle asks for it. -/
  | powerWindow (watts : Nat) (cdie : Nat) (mdie : Nat) (hbm : Nat)
  /-- R17. Average power has stayed at or below 95 % of PWRLIM for 1 ms, so the clock is raised one step. -/
  | clockRaise
  /-- R20. A sensor reaches its trip point, so every context is killed, TRIP is set and the C-dies are held in reset. -/
  | thermalTrip (cdie : Nat) (mdie : Nat) (hbm : Nat)
  /-- R16. An HBM4 stack with no access for 10 ms enters self-refresh. -/
  | hbmSelfRefresh (stack : Nat)
  /-- R16. A shell with no lease held for 256 cycles enters the gated state. -/
  | shellGate (eight : Nat)
  /-- R46. A host read through BAR4 is translated in the aperture context and completes with data, the default pattern, or Unsupported Request. -/
  | bar4Read (fn : Nat) (off : Nat) (n : Nat)
  /-- R46. A host write through BAR4 is translated in the aperture context and performed, birthing a tile when needed, or dropped with APERR set. -/
  | bar4Write (fn : Nat) (off : Nat) (data : List Byte)
  /-- R50. A KICK write is checked against the tail and head and either accepted or refused with KERR set. -/
  | kickWrite (fn : Nat) (stream : Nat) (v : W64)
  /-- R89. The device fetches a task record from a stream queue, checks it and arms it, or refuses it with BADREC. -/
  | taskRecordFetch (stream : Nat)
  /-- R98. A replay record swaps the parameter generations and instantiates every node of the graph as ARMED. -/
  | replayRecord (stream : Nat)
  /-- R54. A patch record writes its payload into the inactive parameter generation of the graph, after waiting for that generation to be free. -/
  | patchRecord (stream : Nat)
  /-- R52. A record of the reserved kind completes with BADREC and is otherwise ignored. -/
  | reservedRecord (stream : Nat)
  /-- R58. Once every write of a task is performed at system scope, its completion record is written to the ring and MSI-X vector 0 is signalled. -/
  | completionPost (fn : Nat)
  /-- R58. The CRIRQ.USEC time after an unsignalled record elapses, and the interrupt is sent. -/
  | completionIrqTimer (fn : Nat)
  /-- R59. The host advances CRHEAD, which frees ring space for records that are waiting to be posted. -/
  | crheadWrite (fn : Nat) (v : W64)
  /-- R59. A CRSIZE write enables or disables the completion ring; enabling posts the held kill and CANCELLED records. -/
  | crsizeWrite (fn : Nat) (v : W64)
  /-- R65. Setting RUN makes the stream read its descriptor again and resume decoding at AUCONS. -/
  | mdctlRunSet (fn : Nat) (stream : Nat)
  /-- R65. Clearing RUN lets the stream finish its current picture and lists, then stop. -/
  | mdctlRunClear (fn : Nat) (stream : Nat)
  /-- R65. A write of EXACT selects exact mode, which is sampled at the start of the next CMU pass. -/
  | mdctlExact (fn : Nat) (stream : Nat) (on : Bool)
  /-- R64. A PF write of REFINE selects the refinement search, which is sampled when decoding of the next access unit begins. -/
  | mdctlRefine (fn : Nat) (stream : Nat) (on : Bool)
  /-- R67. A write to the line that holds AUPROD makes the device read AUPROD again and take the new access-unit entries. -/
  | auprodReread (stream : Nat)
  /-- R61. A codec engine decodes one access unit, advances AUCONS and handles bitstream errors and unsupported features. -/
  | accessUnitDecode (stream : Nat) (r : AuResult) (use : AuUse)
  /-- R68. Once RELCNT allows it, a picture's frame, tensors and information record are written to its slot. -/
  | pictureOutput (stream : Nat)
  /-- R68. A write to the line that holds RELCNT makes the device read it again and release a stalled output. -/
  | relcntReread (stream : Nat)
  /-- R77. The change-mask unit decides each tile of each layer, writes the lists and state, then writes OUTCNT and signals EVDONE. -/
  | cmuPass (stream : Nat)
  /-- R107. A core with a free slot takes a dispatch turn, chooses a class and a stream by deficit round robin, reads the stream set and dispatches. -/
  | dispatchTurn (core : Nat)
  /-- R106. A task has waited AGE cycles in a ready queue and becomes stealable. -/
  | ageExpiry (core : Nat) (tid : Nat)
  /-- R110. An idle core asks at three levels for a stealable task or a split of a range task. -/
  | stealRequest (core : Nat)
  /-- R109. A resident task exceeds the quantum of its stream while a task of equal or higher class waits, so pre-emption is requested. -/
  | quantumExpiry (core : Nat)
  /-- R152. At the allowed boundary the task's state is saved to a save frame, its lease is released, and it returns to READY. -/
  | preemptSave (core : Nat) (slot : Nat)
  /-- R153. A pre-empted task is restored on the core it left and its streams resume at their stopped headers. -/
  | taskResume (core : Nat)
  /-- R93. All streams have retired and their commands completed, so the task's writes are made visible, its successors are decremented and SIGEV is signalled. -/
  | taskEnd (core : Nat) (slot : Nat)
  /-- R119. The shell arbiter grants the lease to the lowest-class requester, in round robin within the class. -/
  | leaseGrant (eight : Nat)
  /-- R119. The lease reaches 256 commands or 4,096 cycles, and it is renewed or passed on. -/
  | leaseCap (eight : Nat)
  /-- R149. A raised abort line reaches the tasks of its group after the propagation delay. -/
  | abortLineArrival (core : Nat) (slot : Nat)
  /-- R129. A block whose instructions have issued, whose loads have returned and which has room for its commands and signals commits in one step. -/
  | blockCommit
  /-- R248. A fault that arose after its block committed is taken at the stream's next block boundary. -/
  | deferredTrap
  /-- R137. A marker retires once the commands ahead of it have completed, updating LM and the rendezvous. -/
  | markerRetire (r : Ref)
  /-- R141. The x[a] cycles of an mwait elapse without a trigger, and it wakes with code 2. -/
  | mwaitTimeout (r : Ref)
  /-- R398. A long command in an engine's command queue completes, setting its flags and freeing its queue entry. -/
  | commandComplete (r : Ref)
  /-- R202. Every write of a handle's producer is performed, so the handle becomes FULL and any gate arrival is made. -/
  | handleFull (core : Nat) (slot : Nat) (h : R5)
  /-- R202. Every read of a handle's consumer is performed, so the handle becomes FREE. -/
  | handleFree (core : Nat) (slot : Nat) (h : R5)
  /-- R203. A wait on a handle that has been FREE for 2^20 cycles with no producer queued traps HSTALL. -/
  | hstallTimeout (r : Ref)
  /-- R183. An eligible path-queue entry is performed at its home, with translation, faults, births and poison handling. -/
  | memPerform (uid : Nat)
  /-- R183. A weak load is answered from a view-cache copy. -/
  | viewServe (uid : Nat)
  /-- R183. A view cache takes a copy of a global line with its current home bytes. -/
  | viewFill (core : Nat) (cid : Nat) (addr : Nat)
  /-- R183. A view cache drops a copy of a line. -/
  | viewDrop (core : Nat) (cid : Nat) (addr : Nat)
  /-- R172. An FQRES write with FATAL 0 makes every access waiting on the tag translate again. -/
  | fqresRetry (fn : Nat) (tag : Nat)
  /-- R172. An FQRES write with FATAL 1 makes every access waiting on the tag fail with XLATE. -/
  | fqresFatal (fn : Nat) (tag : Nat)
  /-- R176. Once its fault resolves, a logged entry is replayed at its home in log order and freed. -/
  | sideLogReplay (core : Nat) (uid : Nat)
  /-- R170. A TLBCMD write starts invalidating a page, or every page of a context, on a die. -/
  | tlbcmdWrite (fn : Nat) (v : W64)
  /-- R170. Every entry and L1 line has been dropped and every access using them performed, so TLBSTAT.BUSY clears. -/
  | tlbInvalidateDone
  /-- R164. A pending KCFG value takes effect at the first moment no task is resident on the eight. -/
  | kcfgApply (eight : Nat)
  /-- R254. A CTXKILL write with GO set kills the named context with KILLHOST. -/
  | ctxkillWrite (fn : Nat) (v : W64)
  /-- R253. The peers' zero-length reads complete, so the entries are freed and the kill records are posted. -/
  | killDrainEnd
  /-- R180. A write to a region descriptor's line retries every logged or held birth of the region. -/
  | birthRetry (cid : Nat) (die : Nat) (reg : Nat)
  /-- R212. An L2 line is evicted; a compressed page's 512-byte block is coded, with its metadata written. -/
  | l2Evict (die : Nat) (paddr : Nat)
  /-- R217. A write to a transform ring header makes the engines read PROD again and take new requests. -/
  | teRingPoll (ring : Nat)
  /-- R219. Transform request NOP completes with OK. -/
  | teNop (ring : Nat)
  /-- R219. Transform request PICT converts and resamples a YCbCr picture to RGB. -/
  | tePict (ring : Nat)
  /-- R219. Transform request TRANSP transposes an H × W array. -/
  | teTransp (ring : Nat)
  /-- R219. Transform request FCONV converts each element between formats under RM. -/
  | teFconv (ring : Nat)
  /-- R219. Transform request RECOMP rewrites 512-byte blocks so that they are coded again. -/
  | teRecomp (ring : Nat)
  /-- R219. Transform request CBLOAD loads a codebook slot and inverts its parity. -/
  | teCbload (ring : Nat)
  /-- R220. A transform request with OP 6 to 15 completes with BADOP. -/
  | teBadop (ring : Nat)
  /-- R220. A transform request's writes are performed, so its completion record is written, CONS advances and EV is signalled. -/
  | teRequestComplete (ring : Nat)
  /-- R264. A write to SNAPTRG fires the package snapshot trigger. -/
  | snaptrgWrite (fn : Nat) (v : W64)
  /-- R264. A falling edge of at least 100 ns on SNAPIN_N fires the snapshot trigger. -/
  | snapinEdge (ns : Nat)
  /-- R264. 256 ns after a trigger, every unit's snapshot registers are latched and held. -/
  | snapshotLatch
  /-- R265. A write of 1 to SNAPARM releases the held snapshot and arms the trigger. -/
  | snaparmWrite (fn : Nat) (v : W64)
  /-- R255. The scrub timer reads a piece, correcting or poisoning errors and counting them. -/
  | scrubPass (die : Nat) (store : Nat) (addr : Nat) (errs : Nat)
  /-- R4. A write to a register with no behaviour of its own stores its writable fields as its access code gives. -/
  | registerWrite (fn : Nat) (bar : Nat) (off : Nat) (v : W64)
  /-- R255. A soft error changes stored bits in a protected store; the word is then corrected or its piece poisoned when it is next read or scrubbed. -/
  | softError (die : Nat) (store : Nat) (addr : Nat) (bits : List Nat)
  /-- R125. Opens a block; the whole block is decoded, its header waits are taken and the abort line may be sampled. -/
  | blockHeader (f : Sync) (ni : BitVec 5) (nx : BitVec 2) (ac : Bool)
  /-- R128. Jump exit to the header plus the displacement. -/
  | jump (f : Sync) (pred : R5) (disp : BitVec 14)
  /-- R128. Call exit, which writes the return address to x31. -/
  | call (f : Sync) (pred : R5) (disp : BitVec 14)
  /-- R128. Return exit to the address in x31. -/
  | ret (f : Sync) (pred : R5)
  /-- R128. Done exit, which retires the stream. -/
  | done (f : Sync) (pred : R5)
  /-- R341. Integer add, modulo 2^64. -/
  | add (f : Sync) (d : R5) (a : R5) (b : R5)
  /-- R341. Integer subtract, modulo 2^64. -/
  | sub (f : Sync) (d : R5) (a : R5) (b : R5)
  /-- R341. Bitwise and. -/
  | and (f : Sync) (d : R5) (a : R5) (b : R5)
  /-- R341. Bitwise or. -/
  | or (f : Sync) (d : R5) (a : R5) (b : R5)
  /-- R341. Bitwise exclusive or. -/
  | xor (f : Sync) (d : R5) (a : R5) (b : R5)
  /-- R341. And with the complement of x[b]. -/
  | andn (f : Sync) (d : R5) (a : R5) (b : R5)
  /-- R341. Shift left logical. -/
  | sll (f : Sync) (d : R5) (a : R5) (b : R5)
  /-- R341. Shift right logical. -/
  | srl (f : Sync) (d : R5) (a : R5) (b : R5)
  /-- R341. Shift right arithmetic. -/
  | sra (f : Sync) (d : R5) (a : R5) (b : R5)
  /-- R341. Signed minimum. -/
  | minS (f : Sync) (d : R5) (a : R5) (b : R5)
  /-- R341. Unsigned minimum. -/
  | minN (f : Sync) (d : R5) (a : R5) (b : R5)
  /-- R341. Signed maximum. -/
  | maxS (f : Sync) (d : R5) (a : R5) (b : R5)
  /-- R341. Unsigned maximum. -/
  | maxN (f : Sync) (d : R5) (a : R5) (b : R5)
  /-- R341. Count leading zero bits. -/
  | clz (f : Sync) (d : R5) (a : R5)
  /-- R341. Count one bits. -/
  | popc (f : Sync) (d : R5) (a : R5)
  /-- R341. 32-bit add, sign-extended. -/
  | addW (f : Sync) (d : R5) (a : R5) (b : R5)
  /-- R341. 32-bit subtract, sign-extended. -/
  | subW (f : Sync) (d : R5) (a : R5) (b : R5)
  /-- R342. Add a sign-extended immediate. -/
  | addi (f : Sync) (d : R5) (a : R5) (imm : BitVec 11)
  /-- R342. And with a sign-extended immediate. -/
  | andi (f : Sync) (d : R5) (a : R5) (imm : BitVec 11)
  /-- R342. Or with a sign-extended immediate. -/
  | ori (f : Sync) (d : R5) (a : R5) (imm : BitVec 11)
  /-- R342. Exclusive or with a sign-extended immediate. -/
  | xori (f : Sync) (d : R5) (a : R5) (imm : BitVec 11)
  /-- R342. Shift left logical by an immediate count. -/
  | slli (f : Sync) (d : R5) (a : R5) (sh : BitVec 6)
  /-- R342. Shift right logical by an immediate count. -/
  | srli (f : Sync) (d : R5) (a : R5) (sh : BitVec 6)
  /-- R342. Shift right arithmetic by an immediate count. -/
  | srai (f : Sync) (d : R5) (a : R5) (sh : BitVec 6)
  /-- R343. Load a sign-extended 32-bit immediate. -/
  | liw (f : Sync) (d : R5) (imm : W32)
  /-- R343. Load the upper 32 bits of a register. -/
  | lih (f : Sync) (d : R5) (imm : W32)
  /-- R344. Set a predicate if the registers are equal. -/
  | cmpEq (f : Sync) (d : R5) (a : R5) (b : R5)
  /-- R344. Set a predicate if the registers are not equal. -/
  | cmpNe (f : Sync) (d : R5) (a : R5) (b : R5)
  /-- R344. Set a predicate on signed less-than. -/
  | cmpLtS (f : Sync) (d : R5) (a : R5) (b : R5)
  /-- R344. Set a predicate on unsigned less-than. -/
  | cmpLtN (f : Sync) (d : R5) (a : R5) (b : R5)
  /-- R344. Set a predicate on signed greater-or-equal. -/
  | cmpGeS (f : Sync) (d : R5) (a : R5) (b : R5)
  /-- R344. Set a predicate on unsigned greater-or-equal. -/
  | cmpGeN (f : Sync) (d : R5) (a : R5) (b : R5)
  /-- R344. Set a predicate if the register equals the immediate. -/
  | cmpiEq (g : Guard) (d : R5) (a : R5) (imm : BitVec 14)
  /-- R344. Set a predicate if the register differs from the immediate. -/
  | cmpiNe (g : Guard) (d : R5) (a : R5) (imm : BitVec 14)
  /-- R344. Signed less-than against the immediate. -/
  | cmpiLtS (g : Guard) (d : R5) (a : R5) (imm : BitVec 14)
  /-- R344. Unsigned less-than against the immediate. -/
  | cmpiLtN (g : Guard) (d : R5) (a : R5) (imm : BitVec 14)
  /-- R344. Signed greater-or-equal against the immediate. -/
  | cmpiGeS (g : Guard) (d : R5) (a : R5) (imm : BitVec 14)
  /-- R344. Unsigned greater-or-equal against the immediate. -/
  | cmpiGeN (g : Guard) (d : R5) (a : R5) (imm : BitVec 14)
  /-- R345. Predicate and. -/
  | pand (f : Sync) (d : R5) (a : R5) (b : R5)
  /-- R345. Predicate or. -/
  | por (f : Sync) (d : R5) (a : R5) (b : R5)
  /-- R345. Predicate exclusive or. -/
  | pxor (f : Sync) (d : R5) (a : R5) (b : R5)
  /-- R345. Predicate and-not. -/
  | pandn (f : Sync) (d : R5) (a : R5) (b : R5)
  /-- R345. Predicate complement. -/
  | pnot (f : Sync) (d : R5) (a : R5)
  /-- R345. Predicate copy. -/
  | pmov (f : Sync) (d : R5) (a : R5)
  /-- R345. All ones if every bit of the predicate is set. -/
  | pall (f : Sync) (d : R5) (a : R5)
  /-- R345. All ones if no bit of the predicate is set. -/
  | pnone (f : Sync) (d : R5) (a : R5)
  /-- R345. Count the set bits of a predicate into an x register. -/
  | ppop (f : Sync) (d : R5) (a : R5)
  /-- R345. All ones if the predicate has any set bit. -/
  | pfirst (f : Sync) (d : R5) (a : R5)
  /-- R347. 64-bit multiply, low half. -/
  | mul (f : Sync) (d : R5) (a : R5) (b : R5)
  /-- R347. Signed multiply, high half. -/
  | mulhS (f : Sync) (d : R5) (a : R5) (b : R5)
  /-- R347. Unsigned multiply, high half. -/
  | mulhN (f : Sync) (d : R5) (a : R5) (b : R5)
  /-- R348. Signed 64-bit divide, with a DIVZ trap or a defined result on zero. -/
  | divS (f : Sync) (d : R5) (a : R5) (b : R5)
  /-- R348. Unsigned 64-bit divide. -/
  | divN (f : Sync) (d : R5) (a : R5) (b : R5)
  /-- R348. Signed 64-bit remainder. -/
  | remS (f : Sync) (d : R5) (a : R5) (b : R5)
  /-- R348. Unsigned 64-bit remainder. -/
  | remN (f : Sync) (d : R5) (a : R5) (b : R5)
  /-- R347. 32-bit multiply, sign-extended. -/
  | mulW (f : Sync) (d : R5) (a : R5) (b : R5)
  /-- R348. Signed 32-bit divide. -/
  | divWS (f : Sync) (d : R5) (a : R5) (b : R5)
  /-- R348. Unsigned 32-bit divide. -/
  | divWN (f : Sync) (d : R5) (a : R5) (b : R5)
  /-- R348. Signed 32-bit remainder. -/
  | remWS (f : Sync) (d : R5) (a : R5) (b : R5)
  /-- R348. Unsigned 32-bit remainder. -/
  | remWN (f : Sync) (d : R5) (a : R5) (b : R5)
  /-- R346. Select x[a] or x[b] by bit 0 of a predicate. -/
  | sel (g : Guard) (d : R5) (a : R5) (b : R5) (c : R5)
  /-- R316. Read a control register. -/
  | rdc (g : Guard) (d : R5) (n : BitVec 14)
  /-- R316. Write a control register at commit. -/
  | wrc (g : Guard) (a : R5) (n : BitVec 14)
  /-- R316. Swap a control register with x[a]. -/
  | swpc (g : Guard) (d : R5) (a : R5) (n : BitVec 14)
  /-- R316. Set bits of a control register at commit. -/
  | setc (g : Guard) (d : R5) (a : R5) (n : BitVec 14)
  /-- R316. Clear bits of a control register at commit. -/
  | clrc (g : Guard) (d : R5) (a : R5) (n : BitVec 14)
  /-- R314. No operation; its sync flags act. -/
  | nop (f : Sync)
  /-- R314. Trap TRAPI with the operand as EVAL. -/
  | trap (f : Sync) (a : R5)
  /-- R249. Return from a trap level at commit. -/
  | eret (f : Sync)
  /-- R314. Breakpoint trap with bit 63 of EVAL set. -/
  | brk (f : Sync) (a : R5)
  /-- R314. Kill the task's context with KILLTRAP at issue. -/
  | kill (f : Sync)
  /-- R319. Set the count of a loop level. -/
  | loopn (g : Guard) (a : R5) (lvl : BitVec 3) (cnt : BitVec 11)
  /-- R319. Set a loop stride entry. -/
  | lstride (g : Guard) (d : R5) (a : R5) (lvl : BitVec 3) (ent : BitVec 3) (str : BitVec 8)
  /-- R143. Latch the shadow loop state and start the nest. -/
  | loopgo (g : Guard) (len : BitVec 14)
  /-- R319. End a running loop at commit. -/
  | loopbrk (g : Guard)
  /-- R136. Add n to a core event at commit. -/
  | post (f : Sync) (e : R5) (n : BitVec 16)
  /-- R136. Hold until a core event has n counts, then take them. -/
  | await (f : Sync) (e : R5) (n : BitVec 16)
  /-- R137. Enter a rendezvous marker in the command queue. -/
  | mark (f : Sync) (n : BitVec 16)
  /-- R325. Arm a rendezvous on a marker number and an engine mask. -/
  | rdvset (g : Guard) (a : R5) (mask : BitVec 4) (num : BitVec 10)
  /-- R139. Hold until the rendezvous fires, then acquire. -/
  | rdvwait (g : Guard)
  /-- R148. Barrier at a sync level among the domain's members. -/
  | dsync (f : Sync) (n : BitVec 16)
  /-- R328. Arm the stream's monitor on a 256-byte line. -/
  | mon (g : Guard) (a : R5) (sp3 : BitVec 3) (off : BitVec 14)
  /-- R141. Wait, clock-gated, for a monitor trigger or a timeout. -/
  | mwait (g : Guard) (d : R5) (a : R5)
  /-- R328. Disarm the monitor at commit. -/
  | mclr (g : Guard)
  /-- R332. Read a task record and create a spawned task. -/
  | spawn (g : Guard) (d : R5) (a : R5)
  /-- R333. Spawn a task as an implicit successor of the spawner. -/
  | spawnr (g : Guard) (d : R5) (a : R5)
  /-- R334. Signal a task event of the context. -/
  | evsig (g : Guard) (a : R5) (imm : BitVec 14)
  /-- R334. Wait on a task event of the context. -/
  | evwait (g : Guard) (a : R5) (imm : BitVec 14)
  /-- R334. Decrement the join count of a named task. -/
  | joindec (g : Guard) (a : R5)
  /-- R335. Ask to be pre-empted when another task is ready. -/
  | yield (g : Guard)
  /-- R330. Write the task's own key. -/
  | tself (g : Guard) (d : R5)
  /-- R117. Advance the iteration's stage counter at commit. -/
  | stgadv (g : Guard) (a : R5) (imm : BitVec 14)
  /-- R117. Set the stage counter to a value at commit. -/
  | stgjmp (g : Guard) (a : R5) (imm : BitVec 14)
  /-- R117. Hold until the left neighbour's stage counter reaches a value. -/
  | waitl (g : Guard) (a : R5) (imm : BitVec 14)
  /-- R117. Read the own or the left stage counter. -/
  | stgrd (g : Guard) (d : R5) (imm : BitVec 14)
  /-- R337. Raise the abort line of the task's group at commit. -/
  | abort (g : Guard)
  /-- R337. Sample the abort line and end the task if it is raised. -/
  | abchk (g : Guard)
  /-- R337. Read the abort line without acting on it. -/
  | abrd (g : Guard) (d : R5)
  /-- R338. Open a signed segment with its table entry. -/
  | segb (g : Guard) (a : R5) (off : BitVec 14)
  /-- R338. Close a segment, comparing its count and CRC. -/
  | sege (g : Guard)
  /-- R350. Load from a space with the width and order chosen by its fields. -/
  | ld (g : Guard) (sp : Space) (w : BitVec 3) (o : Order) (sc : Scope) (d : R5) (a : R5) (off : BitVec 14)
  /-- R351. Store to a space at commit. -/
  | st (g : Guard) (sp : Space) (w : BitVec 3) (o : Order) (sc : Scope) (a : R5) (b : R5) (off : BitVec 14)
  /-- R352. Atomic add at home. -/
  | amoAdd (g : Guard) (w64 : Bool) (sp : Space) (o : Order) (sc : Scope) (d : R5) (a : R5) (b : R5) (off : BitVec 11)
  /-- R352. Atomic and. -/
  | amoAnd (g : Guard) (w64 : Bool) (sp : Space) (o : Order) (sc : Scope) (d : R5) (a : R5) (b : R5) (off : BitVec 11)
  /-- R352. Atomic or. -/
  | amoOr (g : Guard) (w64 : Bool) (sp : Space) (o : Order) (sc : Scope) (d : R5) (a : R5) (b : R5) (off : BitVec 11)
  /-- R352. Atomic exclusive or. -/
  | amoXor (g : Guard) (w64 : Bool) (sp : Space) (o : Order) (sc : Scope) (d : R5) (a : R5) (b : R5) (off : BitVec 11)
  /-- R352. Atomic signed minimum. -/
  | amoMinS (g : Guard) (w64 : Bool) (sp : Space) (o : Order) (sc : Scope) (d : R5) (a : R5) (b : R5) (off : BitVec 11)
  /-- R352. Atomic unsigned minimum. -/
  | amoMinN (g : Guard) (w64 : Bool) (sp : Space) (o : Order) (sc : Scope) (d : R5) (a : R5) (b : R5) (off : BitVec 11)
  /-- R352. Atomic signed maximum. -/
  | amoMaxS (g : Guard) (w64 : Bool) (sp : Space) (o : Order) (sc : Scope) (d : R5) (a : R5) (b : R5) (off : BitVec 11)
  /-- R352. Atomic unsigned maximum. -/
  | amoMaxN (g : Guard) (w64 : Bool) (sp : Space) (o : Order) (sc : Scope) (d : R5) (a : R5) (b : R5) (off : BitVec 11)
  /-- R352. Atomic swap. -/
  | amoSwap (g : Guard) (w64 : Bool) (sp : Space) (o : Order) (sc : Scope) (d : R5) (a : R5) (b : R5) (off : BitVec 11)
  /-- R352. Atomic compare and swap. -/
  | amoCas (g : Guard) (w64 : Bool) (sp : Space) (o : Order) (sc : Scope) (d : R5) (a : R5) (b : R5) (off : BitVec 11)
  /-- R192. Order the stream's LSU accesses at a scope. -/
  | fence (g : Guard) (sc : Scope)
  /-- R192. Order the entries of source paths before those of destination paths. -/
  | xfence (g : Guard) (src : BitVec 6) (dst : BitVec 6)
  /-- R355. Make earlier page-table stores visible to the walkers. -/
  | ptfence (g : Guard) (sc : Scope)
  /-- R355. Invalidate a page or a context's pages on a die. -/
  | tlbinv (g : Guard) (a : R5) (b : R5) (all : BitVec 1)
  /-- R356. Load 8 bytes from a sparse-existence tile along with its existence bit. -/
  | ldx (g : Guard) (d : R5) (a : R5) (c : R5) (off : BitVec 14)
  /-- R356. Erase a sparse-existence tile at commit. -/
  | erase (g : Guard) (a : R5) (off : BitVec 14)
  /-- R356. Test the existence of a tile. -/
  | extest (g : Guard) (a : R5) (c : R5) (off : BitVec 14)
  /-- R356. Read 64 existence bits of tiles. -/
  | exmap (g : Guard) (d : R5) (a : R5) (off : BitVec 14)
  /-- R357. Set a stream register's base and space. -/
  | setsBase (g : Guard) (sr : BitVec 4) (a : R5) (b : R5)
  /-- R357. Set one dimension's size and stride. -/
  | setsDim (g : Guard) (sr : BitVec 4) (a : R5) (b : R5)
  /-- R357. Set the type, rows and row length. -/
  | setsFmt (g : Guard) (ty : Ty) (sr : BitVec 4) (a : R5)
  /-- R357. Set the scale base and stride. -/
  | setsScl (g : Guard) (sr : BitVec 4) (a : R5) (b : R5)
  /-- R357. Set the expansion point. -/
  | setsXp (g : Guard) (sr : BitVec 4) (xp : BitVec 2)
  /-- R357. Set the motion-compensation fields. -/
  | setsMc (g : Guard) (sr : BitVec 4) (a : R5)
  /-- R357. Bind a buffer handle. -/
  | setsHdl (g : Guard) (sr : BitVec 4) (h : R5)
  /-- R357. Clear a stream register. -/
  | setsClr (g : Guard) (sr : BitVec 4)
  /-- R358. Read a word of a stream register or a handle. -/
  | gets (g : Guard) (a : R5) (sr : BitVec 4) (h : R5) (b : R5)
  /-- R360. Copy a strided layout into a handle's buffer. -/
  | copyin (g : Guard) (sr : BitVec 4) (h : R5) (sgr : BitVec 2) (gate : BitVec 6) (xp : BitVec 2)
  /-- R360. Copy a handle's buffer out to a strided layout. -/
  | copyout (g : Guard) (sr : BitVec 4) (h : R5) (sgr : BitVec 2) (gate : BitVec 6)
  /-- R360. Copy a buffer to a cluster-shared address. -/
  | copyk (g : Guard) (a : R5) (h : R5) (b : R5) (sgr : BitVec 2) (gate : BitVec 6)
  /-- R360. Copy a buffer to a die-scratchpad address. -/
  | copyd (g : Guard) (a : R5) (h : R5) (b : R5) (sgr : BitVec 2) (gate : BitVec 6)
  /-- R360. Copy linear global bytes into a buffer. -/
  | copylin (g : Guard) (a : R5) (h : R5) (b : R5) (sgr : BitVec 2) (gate : BitVec 6) (xp : BitVec 2)
  /-- R207. Gather indexed table rows into a handle. -/
  | gath (g : Guard) (a : R5) (sr : BitVec 4) (h : R5) (b : R5) (gate : BitVec 6) (xp : BitVec 2)
  /-- R209. Gather a motion-compensated tile with a halo. -/
  | gathmc (g : Guard) (sr : BitVec 4) (h : R5) (b : R5) (gate : BitVec 6) (xp : BitVec 2)
  /-- R208. Scatter buffer rows to indexed table rows. -/
  | scat (g : Guard) (a : R5) (sr : BitVec 4) (h : R5) (b : R5) (gate : BitVec 6) (xp : BitVec 2)
  /-- R208. Scatter rows with element-wise addition at home. -/
  | scatadd (g : Guard) (ty : Ty) (a : R5) (sr : BitVec 4) (h : R5) (b : R5) (gate : BitVec 6) (xp : BitVec 2)
  /-- R205. Post an expectation on a gate. -/
  | gexp (g : Guard) (a : R5) (b : R5) (gate : BitVec 6)
  /-- R206. Arrive at a gate of a core in the eight. -/
  | garr (g : Guard) (a : R5) (b : R5) (gate : BitVec 6)
  /-- R205. Hold until a gate's phase changes. -/
  | gwait (g : Guard) (a : R5) (gate : BitVec 6)
  /-- R205. Initialise a gate's mask and counts. -/
  | ginit (g : Guard) (a : R5) (gate : BitVec 6)
  /-- R363. Hold until a handle reaches a state. -/
  | hwait (g : Guard) (h : R5) (a : R5)
  /-- R364. Set a free handle's space, base and length. -/
  | hset (g : Guard) (h : R5) (a : R5) (b : R5)
  /-- R202. Return a handle to FREE. -/
  | hfree (g : Guard) (h : R5)
  /-- R365. List the indices of non-zero elements and add dropped magnitude. -/
  | nzscan (g : Guard) (sr : BitVec 4) (h : R5) (b : R5)
  /-- R366. Set a layer threshold and LAYER. -/
  | thrset (g : Guard) (a : R5) (b : R5)
  /-- R366. Read a layer's dropped magnitude. -/
  | dmrd (g : Guard) (a : R5) (b : R5)
  /-- R367. Read a change-mask list entry. -/
  | tlget (g : Guard) (a : R5) (b : R5)
  /-- R367. Read NREC and NMC from a list header. -/
  | tlstat (g : Guard) (a : R5) (b : R5)
  /-- R367. Read the SEQ, flags and layer of a list header. -/
  | tlack (g : Guard) (a : R5) (b : R5)
  /-- R369. Take a ticket from a reorder ring. -/
  | rngtk (g : Guard) (sp3 : BitVec 3) (d : R5) (a : R5)
  /-- R369. Put a slot of data at a ticket. -/
  | rngput (g : Guard) (sp3 : BitVec 3) (d : R5) (a : R5) (b : R5) (n : BitVec 14)
  /-- R369. Take the slot at the ring's head. -/
  | rngget (g : Guard) (sp3 : BitVec 3) (d : R5) (a : R5) (n : BitVec 14)
  /-- R369. Close a ring at a ticket. -/
  | rngeos (g : Guard) (sp3 : BitVec 3) (a : R5) (b : R5)
  /-- R368. Read a ring's TKT and HEAD. -/
  | rngstat (g : Guard) (sp3 : BitVec 3) (d : R5) (a : R5)
  /-- R370. Append a value to an engine queue at commit. -/
  | qpush (g : Guard) (a : R5) (q : R5)
  /-- R370. Take the head value of an engine queue. -/
  | qpop (g : Guard) (d : R5) (q : R5)
  /-- R370. Read the head value without taking it. -/
  | qpeek (g : Guard) (d : R5) (q : R5)
  /-- R370. Take the head value into a predicate. -/
  | qpopp (g : Guard) (d : R5) (q : R5)
  /-- R374. Floating-point vector add. -/
  | vaddF (g : Guard) (ty : Ty) (vd : R6) (va : R6) (vb : R6)
  /-- R374. Floating-point vector subtract. -/
  | vsubF (g : Guard) (ty : Ty) (vd : R6) (va : R6) (vb : R6)
  /-- R374. Floating-point vector multiply. -/
  | vmulF (g : Guard) (ty : Ty) (vd : R6) (va : R6) (vb : R6)
  /-- R374. Fused multiply-add. -/
  | vfma (g : Guard) (ty : Ty) (vd : R6) (va : R6) (vb : R6) (vc : R6)
  /-- R374. Fused multiply-subtract. -/
  | vfms (g : Guard) (ty : Ty) (vd : R6) (va : R6) (vb : R6) (vc : R6)
  /-- R374. Fused negated multiply-add. -/
  | vfnma (g : Guard) (ty : Ty) (vd : R6) (va : R6) (vb : R6) (vc : R6)
  /-- R374. Floating-point minimum. -/
  | vminF (g : Guard) (ty : Ty) (vd : R6) (va : R6) (vb : R6)
  /-- R374. Floating-point maximum. -/
  | vmaxF (g : Guard) (ty : Ty) (vd : R6) (va : R6) (vb : R6)
  /-- R374. Clear the sign. -/
  | vabsF (g : Guard) (ty : Ty) (vd : R6) (va : R6)
  /-- R374. Invert the sign. -/
  | vneg (g : Guard) (ty : Ty) (vd : R6) (va : R6)
  /-- R374. Floating-point divide. -/
  | vdiv (g : Guard) (ty : Ty) (vd : R6) (va : R6) (vb : R6)
  /-- R374. Floating-point square root. -/
  | vsqrt (g : Guard) (ty : Ty) (vd : R6) (va : R6)
  /-- R375. Integer vector add. -/
  | vaddI (g : Guard) (ty : Ty) (vd : R6) (va : R6) (vb : R6)
  /-- R375. Integer vector subtract. -/
  | vsubI (g : Guard) (ty : Ty) (vd : R6) (va : R6) (vb : R6)
  /-- R375. Integer multiply, low half. -/
  | vmulI (g : Guard) (ty : Ty) (vd : R6) (va : R6) (vb : R6)
  /-- R375. Integer multiply, high half. -/
  | vmulh (g : Guard) (ty : Ty) (vd : R6) (va : R6) (vb : R6)
  /-- R375. Vector and. -/
  | vand (g : Guard) (ty : Ty) (vd : R6) (va : R6) (vb : R6)
  /-- R375. Vector or. -/
  | vor (g : Guard) (ty : Ty) (vd : R6) (va : R6) (vb : R6)
  /-- R375. Vector exclusive or. -/
  | vxor (g : Guard) (ty : Ty) (vd : R6) (va : R6) (vb : R6)
  /-- R375. Vector and-not. -/
  | vandn (g : Guard) (ty : Ty) (vd : R6) (va : R6) (vb : R6)
  /-- R375. Vector shift left logical. -/
  | vsll (g : Guard) (ty : Ty) (vd : R6) (va : R6) (vb : R6)
  /-- R375. Vector shift right logical. -/
  | vsrl (g : Guard) (ty : Ty) (vd : R6) (va : R6) (vb : R6)
  /-- R375. Vector shift right arithmetic. -/
  | vsra (g : Guard) (ty : Ty) (vd : R6) (va : R6) (vb : R6)
  /-- R375. Integer minimum. -/
  | vminI (g : Guard) (ty : Ty) (vd : R6) (va : R6) (vb : R6)
  /-- R375. Integer maximum. -/
  | vmaxI (g : Guard) (ty : Ty) (vd : R6) (va : R6) (vb : R6)
  /-- R375. Integer absolute value. -/
  | vabsI (g : Guard) (ty : Ty) (vd : R6) (va : R6)
  /-- R376. Vector compare equal into a lane predicate. -/
  | vcmpEq (g : Guard) (ty : Ty) (pd : R5) (va : R6) (vb : R6) (el : R6)
  /-- R376. Vector compare not equal. -/
  | vcmpNe (g : Guard) (ty : Ty) (pd : R5) (va : R6) (vb : R6) (el : R6)
  /-- R376. Vector compare less-than. -/
  | vcmpLt (g : Guard) (ty : Ty) (pd : R5) (va : R6) (vb : R6) (el : R6)
  /-- R376. Vector compare less-or-equal. -/
  | vcmpLe (g : Guard) (ty : Ty) (pd : R5) (va : R6) (vb : R6) (el : R6)
  /-- R376. Vector compare greater-than. -/
  | vcmpGt (g : Guard) (ty : Ty) (pd : R5) (va : R6) (vb : R6) (el : R6)
  /-- R376. Vector compare greater-or-equal. -/
  | vcmpGe (g : Guard) (ty : Ty) (pd : R5) (va : R6) (vb : R6) (el : R6)
  /-- R376. Test the floating-point class against a mask. -/
  | vclass (g : Guard) (ty : Ty) (pd : R5) (va : R6) (mask : R6) (el : R6)
  /-- R378. Convert with round to nearest even. -/
  | cvtRne (g : Guard) (ty : Ty) (sty : Ty) (vd : R6) (va : R6) (pt : R6)
  /-- R378. Convert with round toward zero. -/
  | cvtRtz (g : Guard) (ty : Ty) (sty : Ty) (vd : R6) (va : R6) (pt : R6)
  /-- R378. Convert with round up. -/
  | cvtRup (g : Guard) (ty : Ty) (sty : Ty) (vd : R6) (va : R6) (pt : R6)
  /-- R378. Convert with round down. -/
  | cvtRdn (g : Guard) (ty : Ty) (sty : Ty) (vd : R6) (va : R6) (pt : R6)
  /-- R378. Convert with saturation. -/
  | cvtSat (g : Guard) (ty : Ty) (sty : Ty) (vd : R6) (va : R6) (pt : R6)
  /-- R378. Convert and pack two sources into one. -/
  | vpack (g : Guard) (ty : Ty) (sty : Ty) (vd : R6) (va : R6) (vc : R6)
  /-- R378. Convert and unpack into two registers. -/
  | vunpack (g : Guard) (ty : Ty) (sty : Ty) (vd : R6) (va : R6)
  /-- R379. Correctly rounded 2^x. -/
  | vexp2 (g : Guard) (ty : Ty) (vd : R6) (va : R6)
  /-- R379. Correctly rounded log2. -/
  | vlog2 (g : Guard) (ty : Ty) (vd : R6) (va : R6)
  /-- R379. Correctly rounded reciprocal. -/
  | vrcp (g : Guard) (ty : Ty) (vd : R6) (va : R6)
  /-- R379. Correctly rounded reciprocal square root. -/
  | vrsqrt (g : Guard) (ty : Ty) (vd : R6) (va : R6)
  /-- R379. Correctly rounded sigmoid. -/
  | vsig (g : Guard) (ty : Ty) (vd : R6) (va : R6)
  /-- R379. Correctly rounded tanh. -/
  | vtanh (g : Guard) (ty : Ty) (vd : R6) (va : R6)
  /-- R380. Broadcast a scalar to the lanes. -/
  | vbcast (g : Guard) (vd : R6) (xa : R5)
  /-- R380. Read one lane into an x register. -/
  | vlane (g : Guard) (xd : R5) (va : R6) (xb : R5)
  /-- R380. Permute lanes by an index vector. -/
  | vperm (g : Guard) (vd : R6) (va : R6) (vb : R6)
  /-- R380. Rotate lanes. -/
  | vrot (g : Guard) (vd : R6) (va : R6) (xb : R5)
  /-- R380. Shift lanes up, filling with zero. -/
  | vshl (g : Guard) (vd : R6) (va : R6) (xb : R5)
  /-- R381. Tree reduction by addition. -/
  | vredadd (g : Guard) (ty : Ty) (vd : R6) (va : R6)
  /-- R381. Tree reduction by maximum. -/
  | vredmax (g : Guard) (ty : Ty) (vd : R6) (va : R6)
  /-- R381. Tree reduction by minimum. -/
  | vredmin (g : Guard) (ty : Ty) (vd : R6) (va : R6)
  /-- R381. Sequential running sum over the lanes. -/
  | vscan (g : Guard) (ty : Ty) (vd : R6) (va : R6)
  /-- R380. Select lanes by a predicate. -/
  | vsel (g : Guard) (vd : R6) (va : R6) (vb : R6) (pc : R5)
  /-- R380. Copy a vector register. -/
  | vmov (g : Guard) (vd : R6) (va : R6)
  /-- R382. Strided vector load. -/
  | vld (g : Guard) (sp : Space) (ty : Ty) (vd : R6) (xa : R5) (xb : R5)
  /-- R382. Strided vector store. -/
  | vst (g : Guard) (sp : Space) (ty : Ty) (xa : R5) (xb : R5) (vc : R6)
  /-- R382. Indexed vector load. -/
  | vldi (g : Guard) (sp : Space) (ty : Ty) (vd : R6) (xa : R5) (vb : R6)
  /-- R382. Indexed vector store. -/
  | vsti (g : Guard) (sp : Space) (ty : Ty) (xa : R5) (vb : R6) (vc : R6)
  /-- R385. Load rows from a FULL handle's buffer. -/
  | vldb (g : Guard) (vd : R6) (sa : BitVec 4) (xb : R5) (n : R6)
  /-- R387. Merge the lanes' sparse lists. -/
  | vmrg (g : Guard) (ty : Ty) (vd : R6) (va : R6) (vb : R6) (pc : R5)
  /-- R387. Intersect sparse lists, multiplying values. -/
  | visect (g : Guard) (ty : Ty) (vd : R6) (va : R6) (vb : R6) (pc : R5)
  /-- R387. Union of sparse lists, adding values. -/
  | vunion (g : Guard) (ty : Ty) (vd : R6) (va : R6) (vb : R6) (pc : R5)
  /-- R389. Zero the elements below the threshold. -/
  | vthr (g : Guard) (ty : Ty) (vd : R6) (va : R6)
  /-- R390. Compress the non-zero lanes. -/
  | vcmpr (g : Guard) (ty : Ty) (vd : R6) (va : R6) (xc : R5)
  /-- R390. Expand lanes by a predicate. -/
  | vexpd (g : Guard) (ty : Ty) (vd : R6) (va : R6) (pc : R5)
  /-- R390. List the numbers of the non-zero lanes. -/
  | vnzidx (g : Guard) (ty : Ty) (vd : R6) (va : R6) (xc : R5)
  /-- R392. Quantise blocks to e2m1 with scales. -/
  | vqnt (g : Guard) (vd : R6) (va : R6) (vb : R6)
  /-- R392. Dequantise e2m1 blocks. -/
  | vdqnt (g : Guard) (vd : R6) (va : R6) (vb : R6)
  /-- R392. Absolute maximum of each block. -/
  | vamax (g : Guard) (vd : R6) (va : R6)
  /-- R392. Choose the e3m5 block scale of a magnitude. -/
  | vbscl (g : Guard) (vd : R6) (va : R6)
  /-- R402. Dense shell multiply-accumulate. -/
  | mma (g : Guard) (ty : Ty) (acc : BitVec 3) (sa : BitVec 4) (breg : BitVec 12) (sgr : BitVec 2)
  /-- R403. Sparse-B shell multiply-accumulate. -/
  | mmas (g : Guard) (ty : Ty) (acc : BitVec 3) (sa : BitVec 4) (breg : BitVec 12) (sgr : BitVec 2)
  /-- R405. Gathered-row shell multiply-accumulate. -/
  | mmag (g : Guard) (ty : Ty) (acc : BitVec 3) (sa : BitVec 4) (breg : BitVec 12) (sgr : BitVec 2) (si : BitVec 4) (so : BitVec 4)
  /-- R404. Multi-K-step shell multiply-accumulate. -/
  | mmak (g : Guard) (ty : Ty) (acc : BitVec 3) (sa : BitVec 4) (breg : BitVec 12) (sgr : BitVec 2) (si : BitVec 4)
  /-- R407. Request the shell lease and hold until it is granted. -/
  | mlease (g : Guard)
  /-- R407. Release the lease once the queued shell commands complete. -/
  | mrel (g : Guard)
  /-- R408. Load a B region, dense or sparse. -/
  | mldb (g : Guard) (ty : Ty) (sa : BitVec 4) (breg : BitVec 12) (form : BitVec 4)
  /-- R409. Clear an accumulator and set its type. -/
  | mzero (g : Guard) (ty : Ty) (acc : BitVec 3)
  /-- R409. Copy an accumulator's whole state. -/
  | maccd (g : Guard) (acc : BitVec 3) (src : BitVec 4)
  /-- R410. Write an accumulator to scratchpad. -/
  | mrd (g : Guard) (acc : BitVec 3) (sa : BitVec 4)
  /-- R410. Load an accumulator from scratchpad. -/
  | mwr (g : Guard) (ty : Ty) (acc : BitVec 3) (sa : BitVec 4)
  /-- R411. Verify an accumulator against its checksum. -/
  | mchk (g : Guard) (acc : BitVec 3)
  /-- R413. Scale the tile, applying the band product. -/
  | escale (g : Guard) (acc : BitVec 3) (sa : BitVec 4) (mode : BitVec 4)
  /-- R413. Add a bias to the tile. -/
  | ebias (g : Guard) (acc : BitVec 3) (sa : BitVec 4) (mode : BitVec 4)
  /-- R413. ReLU on the tile. -/
  | erelu (g : Guard) (acc : BitVec 3)
  /-- R413. Sigmoid on the tile. -/
  | esig (g : Guard) (acc : BitVec 3)
  /-- R413. SiLU on the tile. -/
  | esilu (g : Guard) (acc : BitVec 3)
  /-- R413. Element-wise multiply of two tiles. -/
  | emul (g : Guard) (acc : BitVec 3) (src : BitVec 4)
  /-- R413. Element-wise add of two tiles. -/
  | eadd (g : Guard) (acc : BitVec 3) (src : BitVec 4)
  /-- R413. Convert the tile to a narrower type. -/
  | econv (g : Guard) (ty : Ty) (acc : BitVec 3) (sat : BitVec 4)
  /-- R417. Write a handle's buffer through the store engine. -/
  | swb (g : Guard) (sr : BitVec 4) (h : R5) (sgr : BitVec 2) (gate : BitVec 6)
  /-- R416. Convert, verify and write an accumulator. -/
  | swbacc (g : Guard) (ty : Ty) (a : R5) (sr : BitVec 4) (gate : BitVec 6)
  /-- R418. Write an accumulator pruned to N:M. -/
  | swbnm (g : Guard) (ty : Ty) (a : R5) (sr : BitVec 4) (b : R5) (gate : BitVec 6)
  /-- R416. Write an accumulator, skipping all-zero pieces. -/
  | swbz (g : Guard) (ty : Ty) (a : R5) (sr : BitVec 4) (gate : BitVec 6)
  /-- R419. Read the store engine's verification counts. -/
  | sckstat (g : Guard) (a : R5)
deriving DecidableEq, Repr, Inhabited

end Sys2Proof
end

