-- ==== Sys2Proof/WellFormed.lean ====
section
/-! DEFINITION. Which terms of Instr stand for something the device can do: the reserved values of R273 to R280, R289 and the
field rules of each instruction, and for a happening the numbers that name a unit that exists. -/

namespace Sys2Proof

/-- Bits of an element (R222, R275). -/
def Ty.bits : Ty → Nat
  | .f32 | .s32 | .n32 => 32
  | .f16 | .bf16 | .s16 | .n16 => 16
  | .e4m3 | .e5m2 | .s8 | .n8 | .e3m5 => 8
  | .e2m1 => 4
  | .s64 | .n64 => 64

/-- Elements per 32-bit lane (R373). -/
def Ty.epl (t : Ty) : Nat := if t.bits ≤ 32 then 32 / t.bits else 0

/-- The types VALUF accepts (R286). -/
def Ty.isValuF : Ty → Bool
  | .f32 | .f16 | .bf16 | .e4m3 | .e5m2 => true
  | .e2m1 | .s8 | .n8 | .s16 | .n16 | .s32 | .n32 | .s64 | .n64 | .e3m5 => false

/-- The types VALUI accepts (R286). -/
def Ty.isValuI : Ty → Bool
  | .s8 | .n8 | .s16 | .n16 | .s32 | .n32 => true
  | .f32 | .f16 | .bf16 | .e4m3 | .e5m2 | .e2m1 | .s64 | .n64 | .e3m5 => false

/-- The types conversions accept (R378): every type but s64, n64 and e3m5. -/
def Ty.isCvt (t : Ty) : Bool := t.isValuF || t.isValuI || t == .e2m1

/-- The types VMEM accepts (R383): elements of 1, 2 or 4 bytes. -/
def Ty.isMem (t : Ty) : Bool := t.isValuF || t.isValuI

/-- The operand types of MMA and MLDB (R400). -/
def Ty.isMma : Ty → Bool
  | .e2m1 | .e4m3 | .e5m2 | .f16 | .bf16 | .s8 | .n8 => true
  | .f32 | .s16 | .n16 | .s32 | .n32 | .s64 | .n64 | .e3m5 => false

/-- The types SWBNM accepts (R418). -/
def Ty.isNarrow : Ty → Bool
  | .e4m3 | .e5m2 | .f16 | .bf16 | .s8 | .n8 => true
  | .f32 | .e2m1 | .s16 | .n16 | .s32 | .n32 | .s64 | .n64 | .e3m5 => false

/-- The types ECONV accepts (R413). -/
def Ty.isEconv (t : Ty) : Bool := t.isNarrow || t == .f32

/-- PRED and pred codes 24 to 30 are reserved (R274). -/
def predOk (p : R5) : Bool := decide (p.toNat < 24) || p == 31

/-- LI codes 0111, 1000 and 1111 are reserved (R276). -/
def liOk (l : BitVec 4) : Bool := l != 7 && l != 8 && l != 15

def Guard.ok (g : Guard) : Bool := predOk g.pred && liOk g.li

/-- Space code 4 is reserved outside VMEM (R277). -/
def notLane : Space → Bool
  | .l => false
  | .g | .c | .k | .d => true

/-- A weak or strong access names no scope (R278). -/
def scopeOk (o : Order) (sc : Scope) : Bool :=
  match o with
  | .weak | .strong => sc == .core
  | .acquire | .release => true

def ldOrderOk (o : Order) (sc : Scope) : Bool := o != .release && scopeOk o sc
def stOrderOk (o : Order) (sc : Scope) : Bool := o != .acquire && scopeOk o sc
def amoOrderOk (o : Order) (sc : Scope) : Bool := o != .weak && scopeOk o sc

/-- The control register numbers that R291 assigns. -/
def csrAssigned (n : Nat) : Bool :=
  n ≤ 0xd || (0x10 ≤ n && n ≤ 0x18) || (0x20 ≤ n && n ≤ 0x2b) || n == 0x30 || n == 0x31 || n == 0x40 ||
  (0x100 ≤ n && n ≤ 0x17f)

/-- Whether a term holds no reserved value. -/
def Instr.wf : Instr → Bool
  | .powerGood _ => true
  | .pcieFundamentalReset _ => true
  | .packageReset _ => true
  | .dieSelfTestDone die => decide (die < 4)
  | .getVersion die _ => decide (die < 4)
  | .getCapabilities die _ => decide (die < 4)
  | .negotiateAlgorithms die _ => decide (die < 4)
  | .getDigests die _ => decide (die < 4)
  | .getCertificate die _ _ _ _ => decide (die < 4)
  | .challenge die _ => decide (die < 4)
  | .getMeasurements die _ _ => decide (die < 4)
  | .keyExchange die _ => decide (die < 4)
  | .finish die _ => decide (die < 4)
  | .spdmResponseTimeout die => decide (die < 4)
  | .keyinstall link dir _ => decide (link < 8) && decide (dir < 2)
  | .dieBringupDone die => decide (die < 4)
  | .flitReceive link dir _ _ _ _ => decide (link < 8) && decide (dir < 2)
  | .flitAck link dir => decide (link < 8) && decide (dir < 2)
  | .rolloverStart link dir _ => decide (link < 8) && decide (dir < 2)
  | .dierstWrite fn _ => decide (fn ≤ 8)
  | .dieResetScrubDone die => decide (die < 4)
  | .glitchAlarm die => decide (die < 5)
  | .meshBreach die => decide (die < 5)
  | .powerWindow _ _ _ _ => true
  | .clockRaise => true
  | .thermalTrip _ _ _ => true
  | .hbmSelfRefresh stack => decide (stack < 8)
  | .shellGate eight => decide (eight < 12)
  | .bar4Read fn _ _ => decide (fn ≤ 8)
  | .bar4Write fn _ _ => decide (fn ≤ 8)
  | .kickWrite fn stream _ => decide (fn ≤ 8) && decide (stream < 128)
  | .taskRecordFetch stream => decide (stream < 128)
  | .replayRecord stream => decide (stream < 128)
  | .patchRecord stream => decide (stream < 128)
  | .reservedRecord stream => decide (stream < 128)
  | .completionPost fn => decide (fn ≤ 8)
  | .completionIrqTimer fn => decide (fn ≤ 8)
  | .crheadWrite fn _ => decide (fn ≤ 8)
  | .crsizeWrite fn _ => decide (fn ≤ 8)
  | .mdctlRunSet fn stream => decide (fn ≤ 8) && decide (stream < 128)
  | .mdctlRunClear fn stream => decide (fn ≤ 8) && decide (stream < 128)
  | .mdctlExact fn stream _ => decide (fn ≤ 8) && decide (stream < 128)
  | .mdctlRefine fn stream _ => decide (fn ≤ 8) && decide (stream < 128)
  | .auprodReread stream => decide (stream < 128)
  | .accessUnitDecode stream _ _ => decide (stream < 128)
  | .pictureOutput stream => decide (stream < 128)
  | .relcntReread stream => decide (stream < 128)
  | .cmuPass stream => decide (stream < 128)
  | .dispatchTurn core => decide (core < 96)
  | .ageExpiry core _ => decide (core < 96)
  | .stealRequest core => decide (core < 96)
  | .quantumExpiry core => decide (core < 96)
  | .preemptSave core slot => decide (core < 96) && decide (slot < 4)
  | .taskResume core => decide (core < 96)
  | .taskEnd core slot => decide (core < 96) && decide (slot < 4)
  | .leaseGrant eight => decide (eight < 12)
  | .leaseCap eight => decide (eight < 12)
  | .abortLineArrival core slot => decide (core < 96) && decide (slot < 4)
  | .blockCommit => true
  | .deferredTrap => true
  | .markerRetire r => decide (r.core < 96) && decide (r.slot < 4)
  | .mwaitTimeout r => decide (r.core < 96) && decide (r.slot < 4)
  | .commandComplete r => decide (r.core < 96) && decide (r.slot < 4)
  | .handleFull core slot _ => decide (core < 96) && decide (slot < 4)
  | .handleFree core slot _ => decide (core < 96) && decide (slot < 4)
  | .hstallTimeout r => decide (r.core < 96) && decide (r.slot < 4)
  | .memPerform _ => true
  | .viewServe _ => true
  | .viewFill core _ _ => decide (core < 96)
  | .viewDrop core _ _ => decide (core < 96)
  | .fqresRetry fn _ => decide (fn ≤ 8)
  | .fqresFatal fn _ => decide (fn ≤ 8)
  | .sideLogReplay core _ => decide (core < 96)
  | .tlbcmdWrite fn _ => decide (fn ≤ 8)
  | .tlbInvalidateDone => true
  | .kcfgApply eight => decide (eight < 12)
  | .ctxkillWrite fn _ => decide (fn ≤ 8)
  | .killDrainEnd => true
  | .birthRetry _ die _ => decide (die < 4)
  | .l2Evict die _ => decide (die < 4)
  | .teRingPoll ring => decide (ring < 64)
  | .teNop ring => decide (ring < 64)
  | .tePict ring => decide (ring < 64)
  | .teTransp ring => decide (ring < 64)
  | .teFconv ring => decide (ring < 64)
  | .teRecomp ring => decide (ring < 64)
  | .teCbload ring => decide (ring < 64)
  | .teBadop ring => decide (ring < 64)
  | .teRequestComplete ring => decide (ring < 64)
  | .snaptrgWrite fn _ => decide (fn ≤ 8)
  | .snapinEdge _ => true
  | .snapshotLatch => true
  | .snaparmWrite fn _ => decide (fn ≤ 8)
  | .scrubPass die _ _ _ => decide (die < 4)
  | .registerWrite fn _ _ _ => decide (fn ≤ 8)
  | .softError die _ _ _ => decide (die < 4)
  | .blockHeader _ ni nx _ => decide (nx.toNat ≤ ni.toNat)
  | .jump _ pred _ => predOk pred
  | .call _ pred _ => predOk pred
  | .ret _ pred => predOk pred
  | .done _ pred => predOk pred
  | .add _ _ _ _ => true
  | .sub _ _ _ _ => true
  | .and _ _ _ _ => true
  | .or _ _ _ _ => true
  | .xor _ _ _ _ => true
  | .andn _ _ _ _ => true
  | .sll _ _ _ _ => true
  | .srl _ _ _ _ => true
  | .sra _ _ _ _ => true
  | .minS _ _ _ _ => true
  | .minN _ _ _ _ => true
  | .maxS _ _ _ _ => true
  | .maxN _ _ _ _ => true
  | .clz _ _ _ => true
  | .popc _ _ _ => true
  | .addW _ _ _ _ => true
  | .subW _ _ _ _ => true
  | .addi _ _ _ _ => true
  | .andi _ _ _ _ => true
  | .ori _ _ _ _ => true
  | .xori _ _ _ _ => true
  | .slli _ _ _ _ => true
  | .srli _ _ _ _ => true
  | .srai _ _ _ _ => true
  | .liw _ _ _ => true
  | .lih _ _ _ => true
  | .cmpEq _ d _ _ => decide (d.toNat < 24)
  | .cmpNe _ d _ _ => decide (d.toNat < 24)
  | .cmpLtS _ d _ _ => decide (d.toNat < 24)
  | .cmpLtN _ d _ _ => decide (d.toNat < 24)
  | .cmpGeS _ d _ _ => decide (d.toNat < 24)
  | .cmpGeN _ d _ _ => decide (d.toNat < 24)
  | .cmpiEq g d _ _ => g.ok && decide (d.toNat < 24)
  | .cmpiNe g d _ _ => g.ok && decide (d.toNat < 24)
  | .cmpiLtS g d _ _ => g.ok && decide (d.toNat < 24)
  | .cmpiLtN g d _ _ => g.ok && decide (d.toNat < 24)
  | .cmpiGeS g d _ _ => g.ok && decide (d.toNat < 24)
  | .cmpiGeN g d _ _ => g.ok && decide (d.toNat < 24)
  | .pand _ d a b => decide (d.toNat < 24) && decide (a.toNat < 24) && decide (b.toNat < 24)
  | .por _ d a b => decide (d.toNat < 24) && decide (a.toNat < 24) && decide (b.toNat < 24)
  | .pxor _ d a b => decide (d.toNat < 24) && decide (a.toNat < 24) && decide (b.toNat < 24)
  | .pandn _ d a b => decide (d.toNat < 24) && decide (a.toNat < 24) && decide (b.toNat < 24)
  | .pnot _ d a => decide (d.toNat < 24) && decide (a.toNat < 24)
  | .pmov _ d a => decide (d.toNat < 24) && decide (a.toNat < 24)
  | .pall _ d a => decide (d.toNat < 24) && decide (a.toNat < 24)
  | .pnone _ d a => decide (d.toNat < 24) && decide (a.toNat < 24)
  | .ppop _ _ a => decide (a.toNat < 24)
  | .pfirst _ d a => decide (d.toNat < 24) && decide (a.toNat < 24)
  | .mul _ _ _ _ => true
  | .mulhS _ _ _ _ => true
  | .mulhN _ _ _ _ => true
  | .divS _ _ _ _ => true
  | .divN _ _ _ _ => true
  | .remS _ _ _ _ => true
  | .remN _ _ _ _ => true
  | .mulW _ _ _ _ => true
  | .divWS _ _ _ _ => true
  | .divWN _ _ _ _ => true
  | .remWS _ _ _ _ => true
  | .remWN _ _ _ _ => true
  | .sel g _ _ _ c => g.ok && decide (c.toNat < 24)
  | .rdc g _ n => g.ok && csrAssigned n.toNat
  | .wrc g _ n => g.ok && csrAssigned n.toNat
  | .swpc g _ _ n => g.ok && csrAssigned n.toNat
  | .setc g _ _ n => g.ok && csrAssigned n.toNat
  | .clrc g _ _ n => g.ok && csrAssigned n.toNat
  | .nop _ => true
  | .trap _ _ => true
  | .eret _ => true
  | .brk _ _ => true
  | .kill _ => true
  | .loopn g _ lvl _ => g.ok && decide (1 ≤ lvl.toNat ∧ lvl.toNat ≤ 6)
  | .lstride g _ _ lvl _ _ => g.ok && decide (lvl.toNat ≤ 6)
  | .loopgo g len => g.ok && decide (1 ≤ len.toNat ∧ len.toNat ≤ 4096)
  | .loopbrk g => g.ok
  | .post _ e n => decide (e.toNat < 16) && decide (n ≠ 0)
  | .await _ e n => decide (e.toNat < 16) && decide (n ≠ 0)
  | .mark _ _ => true
  | .rdvset g _ _ _ => g.ok
  | .rdvwait g => g.ok
  | .dsync _ n => decide (n.toNat ≤ 4)
  | .mon g _ sp3 _ => g.ok && decide (sp3.toNat < 5)
  | .mwait g _ _ => g.ok
  | .mclr g => g.ok
  | .spawn g _ _ => g.ok
  | .spawnr g _ _ => g.ok
  | .evsig g _ _ => g.ok
  | .evwait g _ _ => g.ok
  | .joindec g _ => g.ok
  | .yield g => g.ok
  | .tself g _ => g.ok
  | .stgadv g _ _ => g.ok
  | .stgjmp g _ _ => g.ok
  | .waitl g _ _ => g.ok
  | .stgrd g _ imm => g.ok && decide (imm.toNat ≤ 1)
  | .abort g => g.ok
  | .abchk g => g.ok
  | .abrd g _ => g.ok
  | .segb g _ _ => g.ok
  | .sege g => g.ok
  | .ld g sp w o sc _ _ _ => g.ok && notLane sp && decide (w ≠ 7) && ldOrderOk o sc
  | .st g sp w o sc _ _ _ => g.ok && notLane sp && decide (w = 0 ∨ w = 2 ∨ w = 4 ∨ w = 6) && stOrderOk o sc
  | .amoAdd g _ sp o sc _ _ _ _ => g.ok && notLane sp && amoOrderOk o sc
  | .amoAnd g _ sp o sc _ _ _ _ => g.ok && notLane sp && amoOrderOk o sc
  | .amoOr g _ sp o sc _ _ _ _ => g.ok && notLane sp && amoOrderOk o sc
  | .amoXor g _ sp o sc _ _ _ _ => g.ok && notLane sp && amoOrderOk o sc
  | .amoMinS g _ sp o sc _ _ _ _ => g.ok && notLane sp && amoOrderOk o sc
  | .amoMinN g _ sp o sc _ _ _ _ => g.ok && notLane sp && amoOrderOk o sc
  | .amoMaxS g _ sp o sc _ _ _ _ => g.ok && notLane sp && amoOrderOk o sc
  | .amoMaxN g _ sp o sc _ _ _ _ => g.ok && notLane sp && amoOrderOk o sc
  | .amoSwap g _ sp o sc _ _ _ _ => g.ok && notLane sp && amoOrderOk o sc
  | .amoCas g _ sp o sc _ _ _ _ => g.ok && notLane sp && amoOrderOk o sc
  | .fence g _ => g.ok
  | .xfence g _ _ => g.ok
  | .ptfence g _ => g.ok
  | .tlbinv g _ _ _ => g.ok
  | .ldx g _ _ c _ => g.ok && decide (c.toNat < 24)
  | .erase g _ _ => g.ok
  | .extest g _ c _ => g.ok && decide (c.toNat < 24)
  | .exmap g _ _ _ => g.ok
  | .setsBase g _ _ _ => g.ok
  | .setsDim g _ _ _ => g.ok
  | .setsFmt g _ _ _ => g.ok
  | .setsScl g _ _ _ => g.ok
  | .setsXp g _ _ => g.ok
  | .setsMc g _ _ => g.ok
  | .setsHdl g _ _ => g.ok
  | .setsClr g _ => g.ok
  | .gets g _ _ _ _ => g.ok
  | .copyin g _ _ sgr _ _ => g.ok && decide (sgr ≠ 3)
  | .copyout g _ _ sgr _ => g.ok && decide (sgr ≠ 3)
  | .copyk g _ _ _ sgr _ => g.ok && decide (sgr ≠ 3)
  | .copyd g _ _ _ sgr _ => g.ok && decide (sgr ≠ 3)
  | .copylin g _ _ _ sgr _ _ => g.ok && decide (sgr ≠ 3)
  | .gath g _ _ _ _ _ _ => g.ok
  | .gathmc g _ _ _ _ _ => g.ok
  | .scat g _ _ _ _ _ _ => g.ok
  | .scatadd g ty _ _ _ _ _ _ => g.ok && (ty == .f32 || ty == .s32 || ty == .n32)
  | .gexp g _ _ _ => g.ok
  | .garr g _ _ _ => g.ok
  | .gwait g _ _ => g.ok
  | .ginit g _ _ => g.ok
  | .hwait g _ _ => g.ok
  | .hset g _ _ _ => g.ok
  | .hfree g _ => g.ok
  | .nzscan g _ _ _ => g.ok
  | .thrset g _ _ => g.ok
  | .dmrd g _ _ => g.ok
  | .tlget g _ _ => g.ok
  | .tlstat g _ _ => g.ok
  | .tlack g _ _ => g.ok
  | .rngtk g sp3 _ _ => g.ok && decide (sp3.toNat < 5)
  | .rngput g sp3 _ _ _ _ => g.ok && decide (sp3.toNat < 5)
  | .rngget g sp3 _ _ _ => g.ok && decide (sp3.toNat < 5)
  | .rngeos g sp3 _ _ => g.ok && decide (sp3.toNat < 5)
  | .rngstat g sp3 _ _ => g.ok && decide (sp3.toNat < 5)
  | .qpush g _ q => g.ok && decide (q.toNat < 8)
  | .qpop g _ q => g.ok && decide (q.toNat < 8)
  | .qpeek g _ q => g.ok && decide (q.toNat < 8)
  | .qpopp g d q => g.ok && decide (q.toNat < 8) && decide (d.toNat < 24)
  | .vaddF g ty _ _ _ => g.ok && ty.isValuF
  | .vsubF g ty _ _ _ => g.ok && ty.isValuF
  | .vmulF g ty _ _ _ => g.ok && ty.isValuF
  | .vfma g ty _ _ _ _ => g.ok && ty.isValuF
  | .vfms g ty _ _ _ _ => g.ok && ty.isValuF
  | .vfnma g ty _ _ _ _ => g.ok && ty.isValuF
  | .vminF g ty _ _ _ => g.ok && ty.isValuF
  | .vmaxF g ty _ _ _ => g.ok && ty.isValuF
  | .vabsF g ty _ _ => g.ok && ty.isValuF
  | .vneg g ty _ _ => g.ok && ty.isValuF
  | .vdiv g ty _ _ _ => g.ok && ty.isValuF
  | .vsqrt g ty _ _ => g.ok && ty.isValuF
  | .vaddI g ty _ _ _ => g.ok && ty.isValuI
  | .vsubI g ty _ _ _ => g.ok && ty.isValuI
  | .vmulI g ty _ _ _ => g.ok && ty.isValuI
  | .vmulh g ty _ _ _ => g.ok && ty.isValuI
  | .vand g ty _ _ _ => g.ok && ty.isValuI
  | .vor g ty _ _ _ => g.ok && ty.isValuI
  | .vxor g ty _ _ _ => g.ok && ty.isValuI
  | .vandn g ty _ _ _ => g.ok && ty.isValuI
  | .vsll g ty _ _ _ => g.ok && ty.isValuI
  | .vsrl g ty _ _ _ => g.ok && ty.isValuI
  | .vsra g ty _ _ _ => g.ok && ty.isValuI
  | .vminI g ty _ _ _ => g.ok && ty.isValuI
  | .vmaxI g ty _ _ _ => g.ok && ty.isValuI
  | .vabsI g ty _ _ => g.ok && ty.isValuI
  | .vcmpEq g ty pd _ _ el => g.ok && (ty.isValuF || ty.isValuI) && decide (pd.toNat < 24) && decide (el.toNat < ty.epl)
  | .vcmpNe g ty pd _ _ el => g.ok && (ty.isValuF || ty.isValuI) && decide (pd.toNat < 24) && decide (el.toNat < ty.epl)
  | .vcmpLt g ty pd _ _ el => g.ok && (ty.isValuF || ty.isValuI) && decide (pd.toNat < 24) && decide (el.toNat < ty.epl)
  | .vcmpLe g ty pd _ _ el => g.ok && (ty.isValuF || ty.isValuI) && decide (pd.toNat < 24) && decide (el.toNat < ty.epl)
  | .vcmpGt g ty pd _ _ el => g.ok && (ty.isValuF || ty.isValuI) && decide (pd.toNat < 24) && decide (el.toNat < ty.epl)
  | .vcmpGe g ty pd _ _ el => g.ok && (ty.isValuF || ty.isValuI) && decide (pd.toNat < 24) && decide (el.toNat < ty.epl)
  | .vclass g ty pd _ _ el => g.ok && ty.isValuF && decide (pd.toNat < 24) && decide (el.toNat < ty.epl)
  | .cvtRne g ty sty _ _ pt => g.ok && ty.isCvt && sty.isCvt && decide (pt.toNat < max (ty.bits / sty.bits) (sty.bits / ty.bits))
  | .cvtRtz g ty sty _ _ pt => g.ok && ty.isCvt && sty.isCvt && decide (pt.toNat < max (ty.bits / sty.bits) (sty.bits / ty.bits))
  | .cvtRup g ty sty _ _ pt => g.ok && ty.isCvt && sty.isCvt && decide (pt.toNat < max (ty.bits / sty.bits) (sty.bits / ty.bits))
  | .cvtRdn g ty sty _ _ pt => g.ok && ty.isCvt && sty.isCvt && decide (pt.toNat < max (ty.bits / sty.bits) (sty.bits / ty.bits))
  | .cvtSat g ty sty _ _ pt => g.ok && ty.isCvt && sty.isCvt && decide (pt.toNat < max (ty.bits / sty.bits) (sty.bits / ty.bits))
  | .vpack g ty sty _ _ _ => g.ok && ty.isCvt && sty.isCvt && decide (sty.bits = 2 * ty.bits)
  | .vunpack g ty sty vd _ => g.ok && ty.isCvt && sty.isCvt && decide (ty.bits = 2 * sty.bits) && decide (vd.toNat % 2 = 0)
  | .vexp2 g ty _ _ => g.ok && (ty == .f32 || ty == .f16 || ty == .bf16)
  | .vlog2 g ty _ _ => g.ok && (ty == .f32 || ty == .f16 || ty == .bf16)
  | .vrcp g ty _ _ => g.ok && (ty == .f32 || ty == .f16 || ty == .bf16)
  | .vrsqrt g ty _ _ => g.ok && (ty == .f32 || ty == .f16 || ty == .bf16)
  | .vsig g ty _ _ => g.ok && (ty == .f32 || ty == .f16 || ty == .bf16)
  | .vtanh g ty _ _ => g.ok && (ty == .f32 || ty == .f16 || ty == .bf16)
  | .vbcast g _ _ => g.ok
  | .vlane g _ _ _ => g.ok && decide (g.pred = 31)
  | .vperm g _ _ _ => g.ok
  | .vrot g _ _ _ => g.ok
  | .vshl g _ _ _ => g.ok
  | .vredadd g ty _ _ => g.ok && (ty == .f32 || ty == .f16 || ty == .bf16 || ty == .s32 || ty == .n32)
  | .vredmax g ty _ _ => g.ok && (ty == .f32 || ty == .f16 || ty == .bf16 || ty == .s32 || ty == .n32)
  | .vredmin g ty _ _ => g.ok && (ty == .f32 || ty == .f16 || ty == .bf16 || ty == .s32 || ty == .n32)
  | .vscan g ty _ _ => g.ok && (ty == .f32 || ty == .f16 || ty == .bf16 || ty == .s32 || ty == .n32)
  | .vsel g _ _ _ pc => g.ok && decide (pc.toNat < 24)
  | .vmov g _ _ => g.ok
  | .vld g _ ty _ _ _ => g.ok && ty.isMem
  | .vst g _ ty _ _ _ => g.ok && ty.isMem
  | .vldi g _ ty _ _ _ => g.ok && ty.isMem
  | .vsti g _ ty _ _ _ => g.ok && ty.isMem
  | .vldb g vd _ _ n => g.ok && decide (1 ≤ n.toNat ∧ vd.toNat + n.toNat ≤ 64)
  | .vmrg g ty _ _ _ pc => g.ok && decide (pc.toNat < 24) && (ty == .f32 || ty == .s32 || ty == .n32)
  | .visect g ty _ _ _ pc => g.ok && decide (pc.toNat < 24) && (ty == .f32 || ty == .s32 || ty == .n32)
  | .vunion g ty _ _ _ pc => g.ok && decide (pc.toNat < 24) && (ty == .f32 || ty == .s32 || ty == .n32)
  | .vthr g ty _ _ => g.ok && (ty.isValuF || ty.isValuI)
  | .vcmpr g ty _ _ _ => g.ok && decide (g.pred = 31) && (ty == .f32 || ty == .s32 || ty == .n32)
  | .vexpd g ty _ _ pc => g.ok && decide (g.pred = 31) && decide (pc.toNat < 24) && (ty == .f32 || ty == .s32 || ty == .n32)
  | .vnzidx g ty _ _ _ => g.ok && decide (g.pred = 31) && (ty == .f32 || ty == .s32 || ty == .n32)
  | .vqnt g _ _ _ => g.ok && decide (g.pred = 31)
  | .vdqnt g _ _ _ => g.ok && decide (g.pred = 31)
  | .vamax g _ _ => g.ok && decide (g.pred = 31)
  | .vbscl g _ _ => g.ok
  | .mma g ty _ _ _ sgr => g.ok && ty.isMma && decide (sgr.toNat ≤ 1)
  | .mmas g ty _ _ breg sgr => g.ok && ty.isMma && decide (sgr.toNat ≤ 1) && decide (breg.toNat ≠ 4095)
  | .mmag g ty _ _ _ sgr _ _ => g.ok && ty.isMma && decide (sgr.toNat ≤ 1)
  | .mmak g ty _ _ _ sgr _ => g.ok && ty.isMma && decide (sgr.toNat ≤ 1)
  | .mlease g => g.ok
  | .mrel g => g.ok
  | .mldb g ty _ _ form => g.ok && ty.isMma && decide (form.toNat ≤ 2)
  | .mzero g ty _ => g.ok && (ty == .f32 || ty == .s32)
  | .maccd g _ src => g.ok && decide (src.toNat < 8)
  | .mrd g _ _ => g.ok
  | .mwr g ty _ _ => g.ok && (ty == .f32 || ty == .s32)
  | .mchk g _ => g.ok
  | .escale g _ sa mode => g.ok && decide (mode.toNat ≤ 3) && decide (mode ≠ 3 ∨ sa = 0)
  | .ebias g _ _ mode => g.ok && decide (mode.toNat ≤ 1)
  | .erelu g _ => g.ok
  | .esig g _ => g.ok
  | .esilu g _ => g.ok
  | .emul g _ src => g.ok && decide (src.toNat < 8)
  | .eadd g _ src => g.ok && decide (src.toNat < 8)
  | .econv g ty _ sat => g.ok && ty.isEconv && decide (sat.toNat ≤ 1)
  | .swb g _ _ sgr _ => g.ok && decide (sgr = 0 ∨ sgr = 2)
  | .swbacc g ty _ _ _ => g.ok && (ty.isEconv || ty == .s32)
  | .swbnm g ty _ _ _ _ => g.ok && (ty.isNarrow)
  | .swbz g ty _ _ _ => g.ok && (ty.isEconv || ty == .s32)
  | .sckstat g _ => g.ok

end Sys2Proof
end

