-- ==== Sys2Proof/Decode.lean ====
section
/-! DEFINITION. The instruction words of R269 to R289: the fields of each format, the decoder, which rejects by name, and the
encoder. A word list is read from its head; decoding answers the instruction and the words after it. -/

namespace Sys2Proof

/-- Why a word is not an instruction: the rows of R289. -/
inductive Reject where
  /-- The word list ends before the instruction does. -/
  | truncated
  /-- MAJ reserved (R284). -/
  | reservedMajor
  /-- An fn beyond the last assigned value (R281 to R285). -/
  | reservedFunction
  /-- L differs from the width of the major's format (R271). -/
  | wrongWidth
  /-- Tail bits 31 to 28 are not 0000 (R271). -/
  | tailNibble
  /-- A required-zero bit is 1. -/
  | requiredZero
  /-- A field the instruction does not use is not zero (R272). -/
  | unusedField
  /-- A type code 15 to 31, or one fixed by the instruction (R275). -/
  | reservedType
  /-- A space code 5 to 7 (R277). -/
  | reservedSpace
  /-- A scope code 5 to 7 (R278). -/
  | reservedScope
  /-- A register field beyond its class (R280). -/
  | reservedRegister
  /-- Any other reserved value: what Instr.wf says (R274 to R280, R289). -/
  | reservedValue
deriving DecidableEq, Repr, Inhabited

/-- The fields of an instruction word, one constructor per format (R272). -/
inductive Enc where
  | bh (f : Sync) (ni : BitVec 5) (nx : BitVec 2) (ac : Bool)
  | ex (f : Sync) (pred : R5) (kind : BitVec 2) (disp : BitVec 14)
  | rr (f : Sync) (maj : BitVec 6) (d a b : R5) (fn : BitVec 6)
  | ri (f : Sync) (maj : BitVec 6) (d a : R5) (imm : BitVec 11)
  | sy (f : Sync) (maj : BitVec 6) (a : R5) (imm : BitVec 16)
  | lw (f : Sync) (maj : BitVec 6) (d : R5) (imm : W32)
  | xr (g : Guard) (maj : BitVec 6) (d a b : R5) (fn : BitVec 6) (c : R5) (imm : BitVec 14)
  | vv (g : Guard) (maj : BitVec 6) (vd va vb : R6) (sp : BitVec 3) (ty : BitVec 5) (vc : R6) (fn : BitVec 8)
  | mc (g : Guard) (maj : BitVec 6) (acc : BitVec 3) (sa : BitVec 4) (breg : BitVec 12) (sgr : BitVec 2)
      (ty : BitVec 5) (si so : BitVec 4) (fn : BitVec 6)
  | ac (g : Guard) (maj : BitVec 6) (a : R5) (s : BitVec 4) (h b : R5) (sgr : BitVec 2)
      (ty : BitVec 5) (gate : BitVec 6) (xp : BitVec 2) (fn : BitVec 6)
deriving DecidableEq, Repr, Inhabited

def Ty.code : Ty → BitVec 5
  | .f32 => 0 | .f16 => 1 | .bf16 => 2 | .e4m3 => 3 | .e5m2 => 4 | .e2m1 => 5 | .s8 => 6 | .n8 => 7
  | .s16 => 8 | .n16 => 9 | .s32 => 10 | .n32 => 11 | .s64 => 12 | .n64 => 13 | .e3m5 => 14

def typeOf (c : BitVec 5) : Except Reject Ty :=
  match c.toNat with
  | 0 => .ok .f32 | 1 => .ok .f16 | 2 => .ok .bf16 | 3 => .ok .e4m3 | 4 => .ok .e5m2 | 5 => .ok .e2m1
  | 6 => .ok .s8 | 7 => .ok .n8 | 8 => .ok .s16 | 9 => .ok .n16 | 10 => .ok .s32 | 11 => .ok .n32
  | 12 => .ok .s64 | 13 => .ok .n64 | 14 => .ok .e3m5 | _ => .error .reservedType

def Space.code : Space → BitVec 3
  | .g => 0 | .c => 1 | .k => 2 | .d => 3 | .l => 4

def spaceOf (c : BitVec 3) : Except Reject Space :=
  match c.toNat with
  | 0 => .ok .g | 1 => .ok .c | 2 => .ok .k | 3 => .ok .d | 4 => .ok .l | _ => .error .reservedSpace

def Order.code : Order → BitVec 2
  | .weak => 0 | .strong => 1 | .acquire => 2 | .release => 3

def Order.ofCode (c : BitVec 2) : Order :=
  match c.toNat with
  | 0 => .weak | 1 => .strong | 2 => .acquire | _ => .release

def Scope.code : Scope → BitVec 3
  | .core => 0 | .eight => 1 | .die => 2 | .package => 3 | .system => 4

def scopeOf (c : BitVec 3) : Except Reject Scope :=
  match c.toNat with
  | 0 => .ok .core | 1 => .ok .eight | 2 => .ok .die | 3 => .ok .package | 4 => .ok .system
  | _ => .error .reservedScope

def req (b : Bool) (e : Reject) : Except Reject Unit := if b then .ok () else .error e

/-- The formats of R272. -/
inductive Fmt where
  | bh | ex | rr | ri | sy | lw | xr | vv | mc | ac
deriving DecidableEq, Repr, Inhabited

/-- 64-bit formats (R271). -/
def Fmt.wide : Fmt → Bool
  | .bh | .ex | .rr | .ri | .sy => false
  | .lw | .xr | .vv | .mc | .ac => true

/-- The format of an assigned major (R281 to R284). -/
def fmtOf (maj : BitVec 6) : Option Fmt :=
  match maj.toNat with
  | 0x01 => some .bh
  | 0x02 => some .ex
  | 0x03 | 0x0d | 0x0f | 0x10 | 0x13 => some .rr
  | 0x04 | 0x05 | 0x06 | 0x07 | 0x08 | 0x09 | 0x0a => some .ri
  | 0x0b | 0x0c => some .lw
  | 0x15 | 0x16 | 0x17 | 0x19 => some .sy
  | 0x0e | 0x11 | 0x12 | 0x14 | 0x18 | 0x1a | 0x1b | 0x1c | 0x1d | 0x1e | 0x20 | 0x21 | 0x22 | 0x23 | 0x24
  | 0x2b | 0x2c => some .xr
  | 0x25 | 0x26 | 0x27 | 0x28 | 0x29 | 0x2a | 0x3d => some .ac
  | 0x30 | 0x31 | 0x32 | 0x33 | 0x34 | 0x35 | 0x36 | 0x37 | 0x38 => some .vv
  | 0x3a | 0x3b | 0x3c => some .mc
  | _ => none

def majOf (w : W32) : BitVec 6 := w.extractLsb' 21 6
def syncOf (w : W32) : Sync := w.extractLsb' 28 4
def widthBit (w : W32) : Bool := w.getLsbD 27

/-- Words a head word stands for when the next one is looked for (R271). -/
def wordsOf (head : W32) : Nat :=
  match fmtOf (majOf head) with
  | some f => if f.wide then 2 else 1
  | none => if widthBit head then 2 else 1

/-- The words of the fields (R270 to R272). -/
def Enc.pack : Enc → List W32
  | .bh f ni nx smp => [f ++ 0#1 ++ 1#6 ++ ni ++ nx ++ BitVec.ofBool smp ++ 0#13]
  | .ex f pred kind disp => [f ++ 0#1 ++ 2#6 ++ pred ++ kind ++ disp]
  | .rr f maj d a b fn => [f ++ 0#1 ++ maj ++ d ++ a ++ b ++ fn]
  | .ri f maj d a imm => [f ++ 0#1 ++ maj ++ d ++ a ++ imm]
  | .sy f maj a imm => [f ++ 0#1 ++ maj ++ a ++ imm]
  | .lw f maj d imm => [f ++ 1#1 ++ maj ++ d ++ imm.extractLsb' 16 16, 0#16 ++ imm.extractLsb' 0 16]
  | .xr g maj d a b fn c imm =>
    [g.sync ++ 1#1 ++ maj ++ d ++ a ++ b ++ fn, 0#4 ++ g.pred ++ c ++ g.li ++ imm]
  | .vv g maj vd va vb sp ty vc fn =>
    [g.sync ++ 1#1 ++ maj ++ vd ++ va ++ vb ++ sp, 0#4 ++ g.pred ++ ty ++ g.li ++ vc ++ fn]
  | .mc g maj acc sa breg sgr ty si so fn =>
    [g.sync ++ 1#1 ++ maj ++ acc ++ sa ++ breg ++ sgr, 0#4 ++ g.pred ++ ty ++ g.li ++ si ++ so ++ fn]
  | .ac g maj a s h b sgr ty gate xp fn =>
    [g.sync ++ 1#1 ++ maj ++ a ++ s ++ h ++ b ++ sgr, 0#4 ++ g.pred ++ ty ++ g.li ++ gate ++ xp ++ fn]

def guardOf (head tail : W32) : Guard :=
  ⟨syncOf head, tail.extractLsb' 23 5, tail.extractLsb' 14 4⟩

/-- The fields of a head word of a 32-bit format. -/
def parse1 (f : Fmt) (w : W32) : Except Reject Enc :=
  match f with
  | .bh => do
    req (w.extractLsb' 0 13 == 0) .requiredZero
    return .bh (syncOf w) (w.extractLsb' 16 5) (w.extractLsb' 14 2) (w.getLsbD 13)
  | .ex => .ok (.ex (syncOf w) (w.extractLsb' 16 5) (w.extractLsb' 14 2) (w.extractLsb' 0 14))
  | .rr => .ok (.rr (syncOf w) (majOf w) (w.extractLsb' 16 5) (w.extractLsb' 11 5) (w.extractLsb' 6 5) (w.extractLsb' 0 6))
  | .ri => .ok (.ri (syncOf w) (majOf w) (w.extractLsb' 16 5) (w.extractLsb' 11 5) (w.extractLsb' 0 11))
  | .sy => .ok (.sy (syncOf w) (majOf w) (w.extractLsb' 16 5) (w.extractLsb' 0 16))
  | .lw | .xr | .vv | .mc | .ac => .error .wrongWidth

/-- The fields of a head word and a tail word of a 64-bit format. -/
def parse2 (f : Fmt) (w t : W32) : Except Reject Enc :=
  match f with
  | .lw => do
    req (t.extractLsb' 16 12 == 0) .requiredZero
    return .lw (syncOf w) (majOf w) (w.extractLsb' 16 5) (w.extractLsb' 0 16 ++ t.extractLsb' 0 16)
  | .xr => .ok (.xr (guardOf w t) (majOf w) (w.extractLsb' 16 5) (w.extractLsb' 11 5) (w.extractLsb' 6 5) (w.extractLsb' 0 6)
      (t.extractLsb' 18 5) (t.extractLsb' 0 14))
  | .vv => .ok (.vv (guardOf w t) (majOf w) (w.extractLsb' 15 6) (w.extractLsb' 9 6) (w.extractLsb' 3 6) (w.extractLsb' 0 3)
      (t.extractLsb' 18 5) (t.extractLsb' 8 6) (t.extractLsb' 0 8))
  | .mc => .ok (.mc (guardOf w t) (majOf w) (w.extractLsb' 18 3) (w.extractLsb' 14 4) (w.extractLsb' 2 12) (w.extractLsb' 0 2)
      (t.extractLsb' 18 5) (t.extractLsb' 10 4) (t.extractLsb' 6 4) (t.extractLsb' 0 6))
  | .ac => .ok (.ac (guardOf w t) (majOf w) (w.extractLsb' 16 5) (w.extractLsb' 12 4) (w.extractLsb' 7 5) (w.extractLsb' 2 5)
      (w.extractLsb' 0 2) (t.extractLsb' 18 5) (t.extractLsb' 8 6) (t.extractLsb' 6 2) (t.extractLsb' 0 6))
  | .bh | .ex | .rr | .ri | .sy => .error .wrongWidth

/-- The fields of the first instruction of a word list, and the words after it. -/
def parse : List W32 → Except Reject (Enc × List W32)
  | [] => .error .truncated
  | w :: rest =>
    match fmtOf (majOf w) with
    | none => .error .reservedMajor
    | some f =>
      if widthBit w ≠ f.wide then .error .wrongWidth
      else if f.wide then
        match rest with
        | [] => .error .truncated
        | t :: rest' =>
          if t.extractLsb' 28 4 ≠ 0 then .error .tailNibble
          else (parse2 f w t).map (·, rest')
      else (parse1 f w).map (·, rest)

/-- The fields that encode an instruction (R281 to R286); a happening has none. -/
def Instr.enc : Instr → Option Enc
  | .powerGood _ => none
  | .pcieFundamentalReset _ => none
  | .packageReset _ => none
  | .dieSelfTestDone _ => none
  | .getVersion _ _ => none
  | .getCapabilities _ _ => none
  | .negotiateAlgorithms _ _ => none
  | .getDigests _ _ => none
  | .getCertificate _ _ _ _ _ => none
  | .challenge _ _ => none
  | .getMeasurements _ _ _ => none
  | .keyExchange _ _ => none
  | .finish _ _ => none
  | .spdmResponseTimeout _ => none
  | .keyinstall _ _ _ => none
  | .dieBringupDone _ => none
  | .flitReceive _ _ _ _ _ _ => none
  | .flitAck _ _ => none
  | .rolloverStart _ _ _ => none
  | .dierstWrite _ _ => none
  | .dieResetScrubDone _ => none
  | .glitchAlarm _ => none
  | .meshBreach _ => none
  | .powerWindow _ _ _ _ => none
  | .clockRaise => none
  | .thermalTrip _ _ _ => none
  | .hbmSelfRefresh _ => none
  | .shellGate _ => none
  | .bar4Read _ _ _ => none
  | .bar4Write _ _ _ => none
  | .kickWrite _ _ _ => none
  | .taskRecordFetch _ => none
  | .replayRecord _ => none
  | .patchRecord _ => none
  | .reservedRecord _ => none
  | .completionPost _ => none
  | .completionIrqTimer _ => none
  | .crheadWrite _ _ => none
  | .crsizeWrite _ _ => none
  | .mdctlRunSet _ _ => none
  | .mdctlRunClear _ _ => none
  | .mdctlExact _ _ _ => none
  | .mdctlRefine _ _ _ => none
  | .auprodReread _ => none
  | .accessUnitDecode _ _ _ => none
  | .pictureOutput _ => none
  | .relcntReread _ => none
  | .cmuPass _ => none
  | .dispatchTurn _ => none
  | .ageExpiry _ _ => none
  | .stealRequest _ => none
  | .quantumExpiry _ => none
  | .preemptSave _ _ => none
  | .taskResume _ => none
  | .taskEnd _ _ => none
  | .leaseGrant _ => none
  | .leaseCap _ => none
  | .abortLineArrival _ _ => none
  | .blockCommit => none
  | .deferredTrap => none
  | .markerRetire _ => none
  | .mwaitTimeout _ => none
  | .commandComplete _ => none
  | .handleFull _ _ _ => none
  | .handleFree _ _ _ => none
  | .hstallTimeout _ => none
  | .memPerform _ => none
  | .viewServe _ => none
  | .viewFill _ _ _ => none
  | .viewDrop _ _ _ => none
  | .fqresRetry _ _ => none
  | .fqresFatal _ _ => none
  | .sideLogReplay _ _ => none
  | .tlbcmdWrite _ _ => none
  | .tlbInvalidateDone => none
  | .kcfgApply _ => none
  | .ctxkillWrite _ _ => none
  | .killDrainEnd => none
  | .birthRetry _ _ _ => none
  | .l2Evict _ _ => none
  | .teRingPoll _ => none
  | .teNop _ => none
  | .tePict _ => none
  | .teTransp _ => none
  | .teFconv _ => none
  | .teRecomp _ => none
  | .teCbload _ => none
  | .teBadop _ => none
  | .teRequestComplete _ => none
  | .snaptrgWrite _ _ => none
  | .snapinEdge _ => none
  | .snapshotLatch => none
  | .snaparmWrite _ _ => none
  | .scrubPass _ _ _ _ => none
  | .registerWrite _ _ _ _ => none
  | .softError _ _ _ _ => none
  | .blockHeader f ni nx ac => some (.bh f ni nx ac)
  | .jump f pred disp => some (.ex f pred 0#2 disp)
  | .call f pred disp => some (.ex f pred 1#2 disp)
  | .ret f pred => some (.ex f pred 2#2 0#14)
  | .done f pred => some (.ex f pred 3#2 0#14)
  | .add f d a b => some (.rr f 0x03 d a b 0#6)
  | .sub f d a b => some (.rr f 0x03 d a b 1#6)
  | .and f d a b => some (.rr f 0x03 d a b 2#6)
  | .or f d a b => some (.rr f 0x03 d a b 3#6)
  | .xor f d a b => some (.rr f 0x03 d a b 4#6)
  | .andn f d a b => some (.rr f 0x03 d a b 5#6)
  | .sll f d a b => some (.rr f 0x03 d a b 6#6)
  | .srl f d a b => some (.rr f 0x03 d a b 7#6)
  | .sra f d a b => some (.rr f 0x03 d a b 8#6)
  | .minS f d a b => some (.rr f 0x03 d a b 9#6)
  | .minN f d a b => some (.rr f 0x03 d a b 10#6)
  | .maxS f d a b => some (.rr f 0x03 d a b 11#6)
  | .maxN f d a b => some (.rr f 0x03 d a b 12#6)
  | .clz f d a => some (.rr f 0x03 d a 0#5 13#6)
  | .popc f d a => some (.rr f 0x03 d a 0#5 14#6)
  | .addW f d a b => some (.rr f 0x03 d a b 15#6)
  | .subW f d a b => some (.rr f 0x03 d a b 16#6)
  | .addi f d a imm => some (.ri f 0x04 d a imm)
  | .andi f d a imm => some (.ri f 0x05 d a imm)
  | .ori f d a imm => some (.ri f 0x06 d a imm)
  | .xori f d a imm => some (.ri f 0x07 d a imm)
  | .slli f d a sh => some (.ri f 0x08 d a (0#5 ++ sh))
  | .srli f d a sh => some (.ri f 0x09 d a (0#5 ++ sh))
  | .srai f d a sh => some (.ri f 0x0a d a (0#5 ++ sh))
  | .liw f d imm => some (.lw f 0x0b d imm)
  | .lih f d imm => some (.lw f 0x0c d imm)
  | .cmpEq f d a b => some (.rr f 0x0d d a b 0#6)
  | .cmpNe f d a b => some (.rr f 0x0d d a b 1#6)
  | .cmpLtS f d a b => some (.rr f 0x0d d a b 2#6)
  | .cmpLtN f d a b => some (.rr f 0x0d d a b 3#6)
  | .cmpGeS f d a b => some (.rr f 0x0d d a b 4#6)
  | .cmpGeN f d a b => some (.rr f 0x0d d a b 5#6)
  | .cmpiEq g d a imm => some (.xr g 0x0e d a 0#5 0#6 0#5 imm)
  | .cmpiNe g d a imm => some (.xr g 0x0e d a 0#5 1#6 0#5 imm)
  | .cmpiLtS g d a imm => some (.xr g 0x0e d a 0#5 2#6 0#5 imm)
  | .cmpiLtN g d a imm => some (.xr g 0x0e d a 0#5 3#6 0#5 imm)
  | .cmpiGeS g d a imm => some (.xr g 0x0e d a 0#5 4#6 0#5 imm)
  | .cmpiGeN g d a imm => some (.xr g 0x0e d a 0#5 5#6 0#5 imm)
  | .pand f d a b => some (.rr f 0x0f d a b 0#6)
  | .por f d a b => some (.rr f 0x0f d a b 1#6)
  | .pxor f d a b => some (.rr f 0x0f d a b 2#6)
  | .pandn f d a b => some (.rr f 0x0f d a b 3#6)
  | .pnot f d a => some (.rr f 0x0f d a 0#5 4#6)
  | .pmov f d a => some (.rr f 0x0f d a 0#5 5#6)
  | .pall f d a => some (.rr f 0x0f d a 0#5 6#6)
  | .pnone f d a => some (.rr f 0x0f d a 0#5 7#6)
  | .ppop f d a => some (.rr f 0x0f d a 0#5 8#6)
  | .pfirst f d a => some (.rr f 0x0f d a 0#5 9#6)
  | .mul f d a b => some (.rr f 0x10 d a b 0#6)
  | .mulhS f d a b => some (.rr f 0x10 d a b 1#6)
  | .mulhN f d a b => some (.rr f 0x10 d a b 2#6)
  | .divS f d a b => some (.rr f 0x10 d a b 3#6)
  | .divN f d a b => some (.rr f 0x10 d a b 4#6)
  | .remS f d a b => some (.rr f 0x10 d a b 5#6)
  | .remN f d a b => some (.rr f 0x10 d a b 6#6)
  | .mulW f d a b => some (.rr f 0x10 d a b 7#6)
  | .divWS f d a b => some (.rr f 0x10 d a b 8#6)
  | .divWN f d a b => some (.rr f 0x10 d a b 9#6)
  | .remWS f d a b => some (.rr f 0x10 d a b 10#6)
  | .remWN f d a b => some (.rr f 0x10 d a b 11#6)
  | .sel g d a b c => some (.xr g 0x11 d a b 0#6 c 0#14)
  | .rdc g d n => some (.xr g 0x12 d 0#5 0#5 0#6 0#5 n)
  | .wrc g a n => some (.xr g 0x12 0#5 a 0#5 1#6 0#5 n)
  | .swpc g d a n => some (.xr g 0x12 d a 0#5 2#6 0#5 n)
  | .setc g d a n => some (.xr g 0x12 d a 0#5 3#6 0#5 n)
  | .clrc g d a n => some (.xr g 0x12 d a 0#5 4#6 0#5 n)
  | .nop f => some (.rr f 0x13 0#5 0#5 0#5 0#6)
  | .trap f a => some (.rr f 0x13 0#5 a 0#5 1#6)
  | .eret f => some (.rr f 0x13 0#5 0#5 0#5 2#6)
  | .brk f a => some (.rr f 0x13 0#5 a 0#5 3#6)
  | .kill f => some (.rr f 0x13 0#5 0#5 0#5 4#6)
  | .loopn g a lvl cnt => some (.xr g 0x14 0#5 a 0#5 0#6 0#5 (lvl ++ cnt))
  | .lstride g d a lvl ent str => some (.xr g 0x14 d a 0#5 1#6 0#5 (lvl ++ ent ++ str))
  | .loopgo g len => some (.xr g 0x14 0#5 0#5 0#5 2#6 0#5 len)
  | .loopbrk g => some (.xr g 0x14 0#5 0#5 0#5 3#6 0#5 0#14)
  | .post f e n => some (.sy f 0x15 e n)
  | .await f e n => some (.sy f 0x16 e n)
  | .mark f n => some (.sy f 0x17 0#5 n)
  | .rdvset g a mask num => some (.xr g 0x18 0#5 a 0#5 0#6 0#5 (mask ++ num))
  | .rdvwait g => some (.xr g 0x18 0#5 0#5 0#5 1#6 0#5 0#14)
  | .dsync f n => some (.sy f 0x19 0#5 n)
  | .mon g a sp3 off => some (.xr g 0x1a 0#5 a 0#5 0#6 (0#2 ++ sp3) off)
  | .mwait g d a => some (.xr g 0x1a d a 0#5 1#6 0#5 0#14)
  | .mclr g => some (.xr g 0x1a 0#5 0#5 0#5 2#6 0#5 0#14)
  | .spawn g d a => some (.xr g 0x1b d a 0#5 0#6 0#5 0#14)
  | .spawnr g d a => some (.xr g 0x1b d a 0#5 1#6 0#5 0#14)
  | .evsig g a imm => some (.xr g 0x1b 0#5 a 0#5 2#6 0#5 imm)
  | .evwait g a imm => some (.xr g 0x1b 0#5 a 0#5 3#6 0#5 imm)
  | .joindec g a => some (.xr g 0x1b 0#5 a 0#5 4#6 0#5 0#14)
  | .yield g => some (.xr g 0x1b 0#5 0#5 0#5 5#6 0#5 0#14)
  | .tself g d => some (.xr g 0x1b d 0#5 0#5 6#6 0#5 0#14)
  | .stgadv g a imm => some (.xr g 0x1c 0#5 a 0#5 0#6 0#5 imm)
  | .stgjmp g a imm => some (.xr g 0x1c 0#5 a 0#5 1#6 0#5 imm)
  | .waitl g a imm => some (.xr g 0x1c 0#5 a 0#5 2#6 0#5 imm)
  | .stgrd g d imm => some (.xr g 0x1c d 0#5 0#5 3#6 0#5 imm)
  | .abort g => some (.xr g 0x1d 0#5 0#5 0#5 0#6 0#5 0#14)
  | .abchk g => some (.xr g 0x1d 0#5 0#5 0#5 1#6 0#5 0#14)
  | .abrd g d => some (.xr g 0x1d d 0#5 0#5 2#6 0#5 0#14)
  | .segb g a off => some (.xr g 0x1e 0#5 a 0#5 0#6 0#5 off)
  | .sege g => some (.xr g 0x1e 0#5 0#5 0#5 1#6 0#5 0#14)
  | .ld g sp w o sc d a off => some (.xr g 0x20 d a 0#5 (Space.code sp ++ w) (Order.code o ++ Scope.code sc) off)
  | .st g sp w o sc a b off => some (.xr g 0x21 0#5 a b (Space.code sp ++ w) (Order.code o ++ Scope.code sc) off)
  | .amoAdd g w64 sp o sc d a b off => some (.xr g 0x22 d a b (BitVec.ofBool w64 ++ 0#1 ++ 0#4) (Order.code o ++ Scope.code sc) (Space.code sp ++ off))
  | .amoAnd g w64 sp o sc d a b off => some (.xr g 0x22 d a b (BitVec.ofBool w64 ++ 0#1 ++ 1#4) (Order.code o ++ Scope.code sc) (Space.code sp ++ off))
  | .amoOr g w64 sp o sc d a b off => some (.xr g 0x22 d a b (BitVec.ofBool w64 ++ 0#1 ++ 2#4) (Order.code o ++ Scope.code sc) (Space.code sp ++ off))
  | .amoXor g w64 sp o sc d a b off => some (.xr g 0x22 d a b (BitVec.ofBool w64 ++ 0#1 ++ 3#4) (Order.code o ++ Scope.code sc) (Space.code sp ++ off))
  | .amoMinS g w64 sp o sc d a b off => some (.xr g 0x22 d a b (BitVec.ofBool w64 ++ 0#1 ++ 4#4) (Order.code o ++ Scope.code sc) (Space.code sp ++ off))
  | .amoMinN g w64 sp o sc d a b off => some (.xr g 0x22 d a b (BitVec.ofBool w64 ++ 0#1 ++ 5#4) (Order.code o ++ Scope.code sc) (Space.code sp ++ off))
  | .amoMaxS g w64 sp o sc d a b off => some (.xr g 0x22 d a b (BitVec.ofBool w64 ++ 0#1 ++ 6#4) (Order.code o ++ Scope.code sc) (Space.code sp ++ off))
  | .amoMaxN g w64 sp o sc d a b off => some (.xr g 0x22 d a b (BitVec.ofBool w64 ++ 0#1 ++ 7#4) (Order.code o ++ Scope.code sc) (Space.code sp ++ off))
  | .amoSwap g w64 sp o sc d a b off => some (.xr g 0x22 d a b (BitVec.ofBool w64 ++ 0#1 ++ 8#4) (Order.code o ++ Scope.code sc) (Space.code sp ++ off))
  | .amoCas g w64 sp o sc d a b off => some (.xr g 0x22 d a b (BitVec.ofBool w64 ++ 0#1 ++ 9#4) (Order.code o ++ Scope.code sc) (Space.code sp ++ off))
  | .fence g sc => some (.xr g 0x23 0#5 0#5 0#5 0#6 (0#2 ++ Scope.code sc) 0#14)
  | .xfence g src dst => some (.xr g 0x23 0#5 0#5 0#5 1#6 0#5 (0#2 ++ dst ++ src))
  | .ptfence g sc => some (.xr g 0x23 0#5 0#5 0#5 2#6 (0#2 ++ Scope.code sc) 0#14)
  | .tlbinv g a b all => some (.xr g 0x23 0#5 a b 3#6 0#5 (0#13 ++ all))
  | .ldx g d a c off => some (.xr g 0x24 d a 0#5 0#6 c off)
  | .erase g a off => some (.xr g 0x24 0#5 a 0#5 1#6 0#5 off)
  | .extest g a c off => some (.xr g 0x24 0#5 a 0#5 2#6 c off)
  | .exmap g d a off => some (.xr g 0x24 d a 0#5 3#6 0#5 off)
  | .setsBase g s a b => some (.ac g 0x25 a s 0#5 b 0#2 0#5 0#6 0#2 0#6)
  | .setsDim g s a b => some (.ac g 0x25 a s 0#5 b 0#2 0#5 0#6 0#2 1#6)
  | .setsFmt g ty s a => some (.ac g 0x25 a s 0#5 0#5 0#2 (Ty.code ty) 0#6 0#2 2#6)
  | .setsScl g s a b => some (.ac g 0x25 a s 0#5 b 0#2 0#5 0#6 0#2 3#6)
  | .setsXp g s xp => some (.ac g 0x25 0#5 s 0#5 0#5 0#2 0#5 0#6 xp 4#6)
  | .setsMc g s a => some (.ac g 0x25 a s 0#5 0#5 0#2 0#5 0#6 0#2 5#6)
  | .setsHdl g s h => some (.ac g 0x25 0#5 s h 0#5 0#2 0#5 0#6 0#2 6#6)
  | .setsClr g s => some (.ac g 0x25 0#5 s 0#5 0#5 0#2 0#5 0#6 0#2 7#6)
  | .gets g a s h b => some (.ac g 0x25 a s h b 0#2 0#5 0#6 0#2 8#6)
  | .copyin g s h sgr gate xp => some (.ac g 0x26 0#5 s h 0#5 sgr 0#5 gate xp 0#6)
  | .copyout g s h sgr gate => some (.ac g 0x26 0#5 s h 0#5 sgr 0#5 gate 0#2 1#6)
  | .copyk g a h b sgr gate => some (.ac g 0x26 a 0#4 h b sgr 0#5 gate 0#2 2#6)
  | .copyd g a h b sgr gate => some (.ac g 0x26 a 0#4 h b sgr 0#5 gate 0#2 3#6)
  | .copylin g a h b sgr gate xp => some (.ac g 0x26 a 0#4 h b sgr 0#5 gate xp 4#6)
  | .gath g a s h b gate xp => some (.ac g 0x27 a s h b 0#2 0#5 gate xp 0#6)
  | .gathmc g s h b gate xp => some (.ac g 0x27 0#5 s h b 0#2 0#5 gate xp 1#6)
  | .scat g a s h b gate xp => some (.ac g 0x27 a s h b 0#2 0#5 gate xp 2#6)
  | .scatadd g ty a s h b gate xp => some (.ac g 0x27 a s h b 0#2 (Ty.code ty) gate xp 3#6)
  | .gexp g a b gate => some (.ac g 0x28 a 0#4 0#5 b 0#2 0#5 gate 0#2 0#6)
  | .garr g a b gate => some (.ac g 0x28 a 0#4 0#5 b 0#2 0#5 gate 0#2 1#6)
  | .gwait g a gate => some (.ac g 0x28 a 0#4 0#5 0#5 0#2 0#5 gate 0#2 2#6)
  | .ginit g a gate => some (.ac g 0x28 a 0#4 0#5 0#5 0#2 0#5 gate 0#2 3#6)
  | .hwait g h a => some (.ac g 0x28 a 0#4 h 0#5 0#2 0#5 0#6 0#2 4#6)
  | .hset g h a b => some (.ac g 0x28 a 0#4 h b 0#2 0#5 0#6 0#2 5#6)
  | .hfree g h => some (.ac g 0x28 0#5 0#4 h 0#5 0#2 0#5 0#6 0#2 6#6)
  | .nzscan g s h b => some (.ac g 0x29 0#5 s h b 0#2 0#5 0#6 0#2 0#6)
  | .thrset g a b => some (.ac g 0x29 a 0#4 0#5 b 0#2 0#5 0#6 0#2 1#6)
  | .dmrd g a b => some (.ac g 0x29 a 0#4 0#5 b 0#2 0#5 0#6 0#2 2#6)
  | .tlget g a b => some (.ac g 0x2a a 0#4 0#5 b 0#2 0#5 0#6 0#2 0#6)
  | .tlstat g a b => some (.ac g 0x2a a 0#4 0#5 b 0#2 0#5 0#6 0#2 1#6)
  | .tlack g a b => some (.ac g 0x2a a 0#4 0#5 b 0#2 0#5 0#6 0#2 2#6)
  | .rngtk g sp3 d a => some (.xr g 0x2b d a 0#5 0#6 (0#2 ++ sp3) 0#14)
  | .rngput g sp3 d a b n => some (.xr g 0x2b d a b 1#6 (0#2 ++ sp3) n)
  | .rngget g sp3 d a n => some (.xr g 0x2b d a 0#5 2#6 (0#2 ++ sp3) n)
  | .rngeos g sp3 a b => some (.xr g 0x2b 0#5 a b 3#6 (0#2 ++ sp3) 0#14)
  | .rngstat g sp3 d a => some (.xr g 0x2b d a 0#5 4#6 (0#2 ++ sp3) 0#14)
  | .qpush g a q => some (.xr g 0x2c 0#5 a 0#5 0#6 q 0#14)
  | .qpop g d q => some (.xr g 0x2c d 0#5 0#5 1#6 q 0#14)
  | .qpeek g d q => some (.xr g 0x2c d 0#5 0#5 2#6 q 0#14)
  | .qpopp g d q => some (.xr g 0x2c d 0#5 0#5 3#6 q 0#14)
  | .vaddF g ty vd va vb => some (.vv g 0x30 vd va vb 0#3 (Ty.code ty) 0#6 0#8)
  | .vsubF g ty vd va vb => some (.vv g 0x30 vd va vb 0#3 (Ty.code ty) 0#6 1#8)
  | .vmulF g ty vd va vb => some (.vv g 0x30 vd va vb 0#3 (Ty.code ty) 0#6 2#8)
  | .vfma g ty vd va vb vc => some (.vv g 0x30 vd va vb 0#3 (Ty.code ty) vc 3#8)
  | .vfms g ty vd va vb vc => some (.vv g 0x30 vd va vb 0#3 (Ty.code ty) vc 4#8)
  | .vfnma g ty vd va vb vc => some (.vv g 0x30 vd va vb 0#3 (Ty.code ty) vc 5#8)
  | .vminF g ty vd va vb => some (.vv g 0x30 vd va vb 0#3 (Ty.code ty) 0#6 6#8)
  | .vmaxF g ty vd va vb => some (.vv g 0x30 vd va vb 0#3 (Ty.code ty) 0#6 7#8)
  | .vabsF g ty vd va => some (.vv g 0x30 vd va 0#6 0#3 (Ty.code ty) 0#6 8#8)
  | .vneg g ty vd va => some (.vv g 0x30 vd va 0#6 0#3 (Ty.code ty) 0#6 9#8)
  | .vdiv g ty vd va vb => some (.vv g 0x30 vd va vb 0#3 (Ty.code ty) 0#6 10#8)
  | .vsqrt g ty vd va => some (.vv g 0x30 vd va 0#6 0#3 (Ty.code ty) 0#6 11#8)
  | .vaddI g ty vd va vb => some (.vv g 0x31 vd va vb 0#3 (Ty.code ty) 0#6 0#8)
  | .vsubI g ty vd va vb => some (.vv g 0x31 vd va vb 0#3 (Ty.code ty) 0#6 1#8)
  | .vmulI g ty vd va vb => some (.vv g 0x31 vd va vb 0#3 (Ty.code ty) 0#6 2#8)
  | .vmulh g ty vd va vb => some (.vv g 0x31 vd va vb 0#3 (Ty.code ty) 0#6 3#8)
  | .vand g ty vd va vb => some (.vv g 0x31 vd va vb 0#3 (Ty.code ty) 0#6 4#8)
  | .vor g ty vd va vb => some (.vv g 0x31 vd va vb 0#3 (Ty.code ty) 0#6 5#8)
  | .vxor g ty vd va vb => some (.vv g 0x31 vd va vb 0#3 (Ty.code ty) 0#6 6#8)
  | .vandn g ty vd va vb => some (.vv g 0x31 vd va vb 0#3 (Ty.code ty) 0#6 7#8)
  | .vsll g ty vd va vb => some (.vv g 0x31 vd va vb 0#3 (Ty.code ty) 0#6 8#8)
  | .vsrl g ty vd va vb => some (.vv g 0x31 vd va vb 0#3 (Ty.code ty) 0#6 9#8)
  | .vsra g ty vd va vb => some (.vv g 0x31 vd va vb 0#3 (Ty.code ty) 0#6 10#8)
  | .vminI g ty vd va vb => some (.vv g 0x31 vd va vb 0#3 (Ty.code ty) 0#6 11#8)
  | .vmaxI g ty vd va vb => some (.vv g 0x31 vd va vb 0#3 (Ty.code ty) 0#6 12#8)
  | .vabsI g ty vd va => some (.vv g 0x31 vd va 0#6 0#3 (Ty.code ty) 0#6 13#8)
  | .vcmpEq g ty pd va vb el => some (.vv g 0x32 (0#1 ++ pd) va vb 0#3 (Ty.code ty) el 0#8)
  | .vcmpNe g ty pd va vb el => some (.vv g 0x32 (0#1 ++ pd) va vb 0#3 (Ty.code ty) el 1#8)
  | .vcmpLt g ty pd va vb el => some (.vv g 0x32 (0#1 ++ pd) va vb 0#3 (Ty.code ty) el 2#8)
  | .vcmpLe g ty pd va vb el => some (.vv g 0x32 (0#1 ++ pd) va vb 0#3 (Ty.code ty) el 3#8)
  | .vcmpGt g ty pd va vb el => some (.vv g 0x32 (0#1 ++ pd) va vb 0#3 (Ty.code ty) el 4#8)
  | .vcmpGe g ty pd va vb el => some (.vv g 0x32 (0#1 ++ pd) va vb 0#3 (Ty.code ty) el 5#8)
  | .vclass g ty pd va mask el => some (.vv g 0x32 (0#1 ++ pd) va mask 0#3 (Ty.code ty) el 6#8)
  | .cvtRne g ty sty vd va pt => some (.vv g 0x33 vd va (0#1 ++ Ty.code sty) 0#3 (Ty.code ty) pt 0#8)
  | .cvtRtz g ty sty vd va pt => some (.vv g 0x33 vd va (0#1 ++ Ty.code sty) 0#3 (Ty.code ty) pt 1#8)
  | .cvtRup g ty sty vd va pt => some (.vv g 0x33 vd va (0#1 ++ Ty.code sty) 0#3 (Ty.code ty) pt 2#8)
  | .cvtRdn g ty sty vd va pt => some (.vv g 0x33 vd va (0#1 ++ Ty.code sty) 0#3 (Ty.code ty) pt 3#8)
  | .cvtSat g ty sty vd va pt => some (.vv g 0x33 vd va (0#1 ++ Ty.code sty) 0#3 (Ty.code ty) pt 4#8)
  | .vpack g ty sty vd va vc => some (.vv g 0x33 vd va (0#1 ++ Ty.code sty) 0#3 (Ty.code ty) vc 5#8)
  | .vunpack g ty sty vd va => some (.vv g 0x33 vd va (0#1 ++ Ty.code sty) 0#3 (Ty.code ty) 0#6 6#8)
  | .vexp2 g ty vd va => some (.vv g 0x34 vd va 0#6 0#3 (Ty.code ty) 0#6 0#8)
  | .vlog2 g ty vd va => some (.vv g 0x34 vd va 0#6 0#3 (Ty.code ty) 0#6 1#8)
  | .vrcp g ty vd va => some (.vv g 0x34 vd va 0#6 0#3 (Ty.code ty) 0#6 2#8)
  | .vrsqrt g ty vd va => some (.vv g 0x34 vd va 0#6 0#3 (Ty.code ty) 0#6 3#8)
  | .vsig g ty vd va => some (.vv g 0x34 vd va 0#6 0#3 (Ty.code ty) 0#6 4#8)
  | .vtanh g ty vd va => some (.vv g 0x34 vd va 0#6 0#3 (Ty.code ty) 0#6 5#8)
  | .vbcast g vd xa => some (.vv g 0x35 vd (0#1 ++ xa) 0#6 0#3 0#5 0#6 0#8)
  | .vlane g xd va xb => some (.vv g 0x35 (0#1 ++ xd) va (0#1 ++ xb) 0#3 0#5 0#6 1#8)
  | .vperm g vd va vb => some (.vv g 0x35 vd va vb 0#3 0#5 0#6 2#8)
  | .vrot g vd va xb => some (.vv g 0x35 vd va (0#1 ++ xb) 0#3 0#5 0#6 3#8)
  | .vshl g vd va xb => some (.vv g 0x35 vd va (0#1 ++ xb) 0#3 0#5 0#6 4#8)
  | .vredadd g ty vd va => some (.vv g 0x35 vd va 0#6 0#3 (Ty.code ty) 0#6 5#8)
  | .vredmax g ty vd va => some (.vv g 0x35 vd va 0#6 0#3 (Ty.code ty) 0#6 6#8)
  | .vredmin g ty vd va => some (.vv g 0x35 vd va 0#6 0#3 (Ty.code ty) 0#6 7#8)
  | .vscan g ty vd va => some (.vv g 0x35 vd va 0#6 0#3 (Ty.code ty) 0#6 8#8)
  | .vsel g vd va vb pc => some (.vv g 0x35 vd va vb 0#3 0#5 (0#1 ++ pc) 9#8)
  | .vmov g vd va => some (.vv g 0x35 vd va 0#6 0#3 0#5 0#6 10#8)
  | .vld g sp ty vd xa xb => some (.vv g 0x36 vd (0#1 ++ xa) (0#1 ++ xb) (Space.code sp) (Ty.code ty) 0#6 0#8)
  | .vst g sp ty xa xb vc => some (.vv g 0x36 0#6 (0#1 ++ xa) (0#1 ++ xb) (Space.code sp) (Ty.code ty) vc 1#8)
  | .vldi g sp ty vd xa vb => some (.vv g 0x36 vd (0#1 ++ xa) vb (Space.code sp) (Ty.code ty) 0#6 2#8)
  | .vsti g sp ty xa vb vc => some (.vv g 0x36 0#6 (0#1 ++ xa) vb (Space.code sp) (Ty.code ty) vc 3#8)
  | .vldb g vd sa xb n => some (.vv g 0x36 vd (0#2 ++ sa) (0#1 ++ xb) 0#3 0#5 n 4#8)
  | .vmrg g ty vd va vb pc => some (.vv g 0x37 vd va vb 0#3 (Ty.code ty) (0#1 ++ pc) 0#8)
  | .visect g ty vd va vb pc => some (.vv g 0x37 vd va vb 0#3 (Ty.code ty) (0#1 ++ pc) 1#8)
  | .vunion g ty vd va vb pc => some (.vv g 0x37 vd va vb 0#3 (Ty.code ty) (0#1 ++ pc) 2#8)
  | .vthr g ty vd va => some (.vv g 0x37 vd va 0#6 0#3 (Ty.code ty) 0#6 3#8)
  | .vcmpr g ty vd va xc => some (.vv g 0x37 vd va 0#6 0#3 (Ty.code ty) (0#1 ++ xc) 4#8)
  | .vexpd g ty vd va pc => some (.vv g 0x37 vd va 0#6 0#3 (Ty.code ty) (0#1 ++ pc) 5#8)
  | .vnzidx g ty vd va xc => some (.vv g 0x37 vd va 0#6 0#3 (Ty.code ty) (0#1 ++ xc) 6#8)
  | .vqnt g vd va vb => some (.vv g 0x38 vd va vb 0#3 (Ty.code .e2m1) 0#6 0#8)
  | .vdqnt g vd va vb => some (.vv g 0x38 vd va vb 0#3 (Ty.code .f32) 0#6 1#8)
  | .vamax g vd va => some (.vv g 0x38 vd va 0#6 0#3 (Ty.code .f32) 0#6 2#8)
  | .vbscl g vd va => some (.vv g 0x38 vd va 0#6 0#3 (Ty.code .e3m5) 0#6 3#8)
  | .mma g ty acc sa breg sgr => some (.mc g 0x3a acc sa breg sgr (Ty.code ty) 0#4 0#4 0#6)
  | .mmas g ty acc sa breg sgr => some (.mc g 0x3a acc sa breg sgr (Ty.code ty) 0#4 0#4 1#6)
  | .mmag g ty acc sa breg sgr si so => some (.mc g 0x3a acc sa breg sgr (Ty.code ty) si so 2#6)
  | .mmak g ty acc sa breg sgr si => some (.mc g 0x3a acc sa breg sgr (Ty.code ty) si 0#4 3#6)
  | .mlease g => some (.mc g 0x3b 0#3 0#4 0#12 0#2 0#5 0#4 0#4 0#6)
  | .mrel g => some (.mc g 0x3b 0#3 0#4 0#12 0#2 0#5 0#4 0#4 1#6)
  | .mldb g ty sa breg form => some (.mc g 0x3b 0#3 sa breg 0#2 (Ty.code ty) form 0#4 2#6)
  | .mzero g ty acc => some (.mc g 0x3b acc 0#4 0#12 0#2 (Ty.code ty) 0#4 0#4 3#6)
  | .maccd g acc src => some (.mc g 0x3b acc src 0#12 0#2 0#5 0#4 0#4 4#6)
  | .mrd g acc sa => some (.mc g 0x3b acc sa 0#12 0#2 0#5 0#4 0#4 5#6)
  | .mwr g ty acc sa => some (.mc g 0x3b acc sa 0#12 0#2 (Ty.code ty) 0#4 0#4 6#6)
  | .mchk g acc => some (.mc g 0x3b acc 0#4 0#12 0#2 0#5 0#4 0#4 7#6)
  | .escale g acc sa mode => some (.mc g 0x3c acc sa 0#12 0#2 0#5 mode 0#4 0#6)
  | .ebias g acc sa mode => some (.mc g 0x3c acc sa 0#12 0#2 0#5 mode 0#4 1#6)
  | .erelu g acc => some (.mc g 0x3c acc 0#4 0#12 0#2 0#5 0#4 0#4 2#6)
  | .esig g acc => some (.mc g 0x3c acc 0#4 0#12 0#2 0#5 0#4 0#4 3#6)
  | .esilu g acc => some (.mc g 0x3c acc 0#4 0#12 0#2 0#5 0#4 0#4 4#6)
  | .emul g acc src => some (.mc g 0x3c acc src 0#12 0#2 0#5 0#4 0#4 5#6)
  | .eadd g acc src => some (.mc g 0x3c acc src 0#12 0#2 0#5 0#4 0#4 6#6)
  | .econv g ty acc sat => some (.mc g 0x3c acc 0#4 0#12 0#2 (Ty.code ty) sat 0#4 7#6)
  | .swb g s h sgr gate => some (.ac g 0x3d 0#5 s h 0#5 sgr 0#5 gate 0#2 0#6)
  | .swbacc g ty a s gate => some (.ac g 0x3d a s 0#5 0#5 0#2 (Ty.code ty) gate 0#2 1#6)
  | .swbnm g ty a s b gate => some (.ac g 0x3d a s 0#5 b 0#2 (Ty.code ty) gate 0#2 2#6)
  | .swbz g ty a s gate => some (.ac g 0x3d a s 0#5 0#5 0#2 (Ty.code ty) gate 0#2 3#6)
  | .sckstat g a => some (.ac g 0x3d a 0#4 0#5 0#5 0#2 0#5 0#6 0#2 4#6)

/-! The compiler of Lean cannot build a constructor whose number is above 244, so what builds an Instr from its fields is
marked as having no code; the kernel evaluates it. -/

noncomputable section

/-- Major 0x02 (R281 to R285). -/
def decEX02 (f : Sync) (pred : BitVec 5) (kind : BitVec 2) (disp : BitVec 14) : Except Reject Instr :=
  match kind.toNat with
  | 0 => .ok (.jump f pred disp)
  | 1 => .ok (.call f pred disp)
  | 2 => do
      req (disp == 0) .unusedField
      return .ret f pred
  | 3 => do
      req (disp == 0) .unusedField
      return .done f pred
  | _ => .error .reservedFunction

/-- Major 0x03 (R281 to R285). -/
def decRR03 (f : Sync) (d : BitVec 5) (a : BitVec 5) (b : BitVec 5) (fn : BitVec 6) : Except Reject Instr :=
  match fn.toNat with
  | 0 => .ok (.add f d a b)
  | 1 => .ok (.sub f d a b)
  | 2 => .ok (.and f d a b)
  | 3 => .ok (.or f d a b)
  | 4 => .ok (.xor f d a b)
  | 5 => .ok (.andn f d a b)
  | 6 => .ok (.sll f d a b)
  | 7 => .ok (.srl f d a b)
  | 8 => .ok (.sra f d a b)
  | 9 => .ok (.minS f d a b)
  | 10 => .ok (.minN f d a b)
  | 11 => .ok (.maxS f d a b)
  | 12 => .ok (.maxN f d a b)
  | 13 => do
      req (b == 0) .unusedField
      return .clz f d a
  | 14 => do
      req (b == 0) .unusedField
      return .popc f d a
  | 15 => .ok (.addW f d a b)
  | 16 => .ok (.subW f d a b)
  | _ => .error .reservedFunction

/-- Major 0x04 (R281 to R285). -/
def decRI04 (f : Sync) (d : BitVec 5) (a : BitVec 5) (imm : BitVec 11) : Except Reject Instr := do
  return .addi f d a imm

/-- Major 0x05 (R281 to R285). -/
def decRI05 (f : Sync) (d : BitVec 5) (a : BitVec 5) (imm : BitVec 11) : Except Reject Instr := do
  return .andi f d a imm

/-- Major 0x06 (R281 to R285). -/
def decRI06 (f : Sync) (d : BitVec 5) (a : BitVec 5) (imm : BitVec 11) : Except Reject Instr := do
  return .ori f d a imm

/-- Major 0x07 (R281 to R285). -/
def decRI07 (f : Sync) (d : BitVec 5) (a : BitVec 5) (imm : BitVec 11) : Except Reject Instr := do
  return .xori f d a imm

/-- Major 0x08 (R281 to R285). -/
def decRI08 (f : Sync) (d : BitVec 5) (a : BitVec 5) (imm : BitVec 11) : Except Reject Instr := do
  req (imm.extractLsb' 6 5 == 0) .unusedField
  return .slli f d a (imm.extractLsb' 0 6)

/-- Major 0x09 (R281 to R285). -/
def decRI09 (f : Sync) (d : BitVec 5) (a : BitVec 5) (imm : BitVec 11) : Except Reject Instr := do
  req (imm.extractLsb' 6 5 == 0) .unusedField
  return .srli f d a (imm.extractLsb' 0 6)

/-- Major 0x0A (R281 to R285). -/
def decRI0A (f : Sync) (d : BitVec 5) (a : BitVec 5) (imm : BitVec 11) : Except Reject Instr := do
  req (imm.extractLsb' 6 5 == 0) .unusedField
  return .srai f d a (imm.extractLsb' 0 6)

/-- Major 0x0B (R281 to R285). -/
def decLW0B (f : Sync) (d : BitVec 5) (imm : BitVec 32) : Except Reject Instr := do
  return .liw f d imm

/-- Major 0x0C (R281 to R285). -/
def decLW0C (f : Sync) (d : BitVec 5) (imm : BitVec 32) : Except Reject Instr := do
  return .lih f d imm

/-- Major 0x0D (R281 to R285). -/
def decRR0D (f : Sync) (d : BitVec 5) (a : BitVec 5) (b : BitVec 5) (fn : BitVec 6) : Except Reject Instr :=
  match fn.toNat with
  | 0 => .ok (.cmpEq f d a b)
  | 1 => .ok (.cmpNe f d a b)
  | 2 => .ok (.cmpLtS f d a b)
  | 3 => .ok (.cmpLtN f d a b)
  | 4 => .ok (.cmpGeS f d a b)
  | 5 => .ok (.cmpGeN f d a b)
  | _ => .error .reservedFunction

/-- Major 0x0E (R281 to R285). -/
def decXR0E (g : Guard) (d : BitVec 5) (a : BitVec 5) (b : BitVec 5) (fn : BitVec 6) (c : BitVec 5) (imm : BitVec 14) : Except Reject Instr :=
  match fn.toNat with
  | 0 => do
      req (b == 0 && c == 0) .unusedField
      return .cmpiEq g d a imm
  | 1 => do
      req (b == 0 && c == 0) .unusedField
      return .cmpiNe g d a imm
  | 2 => do
      req (b == 0 && c == 0) .unusedField
      return .cmpiLtS g d a imm
  | 3 => do
      req (b == 0 && c == 0) .unusedField
      return .cmpiLtN g d a imm
  | 4 => do
      req (b == 0 && c == 0) .unusedField
      return .cmpiGeS g d a imm
  | 5 => do
      req (b == 0 && c == 0) .unusedField
      return .cmpiGeN g d a imm
  | _ => .error .reservedFunction

/-- Major 0x0F (R281 to R285). -/
def decRR0F (f : Sync) (d : BitVec 5) (a : BitVec 5) (b : BitVec 5) (fn : BitVec 6) : Except Reject Instr :=
  match fn.toNat with
  | 0 => .ok (.pand f d a b)
  | 1 => .ok (.por f d a b)
  | 2 => .ok (.pxor f d a b)
  | 3 => .ok (.pandn f d a b)
  | 4 => do
      req (b == 0) .unusedField
      return .pnot f d a
  | 5 => do
      req (b == 0) .unusedField
      return .pmov f d a
  | 6 => do
      req (b == 0) .unusedField
      return .pall f d a
  | 7 => do
      req (b == 0) .unusedField
      return .pnone f d a
  | 8 => do
      req (b == 0) .unusedField
      return .ppop f d a
  | 9 => do
      req (b == 0) .unusedField
      return .pfirst f d a
  | _ => .error .reservedFunction

/-- Major 0x10 (R281 to R285). -/
def decRR10 (f : Sync) (d : BitVec 5) (a : BitVec 5) (b : BitVec 5) (fn : BitVec 6) : Except Reject Instr :=
  match fn.toNat with
  | 0 => .ok (.mul f d a b)
  | 1 => .ok (.mulhS f d a b)
  | 2 => .ok (.mulhN f d a b)
  | 3 => .ok (.divS f d a b)
  | 4 => .ok (.divN f d a b)
  | 5 => .ok (.remS f d a b)
  | 6 => .ok (.remN f d a b)
  | 7 => .ok (.mulW f d a b)
  | 8 => .ok (.divWS f d a b)
  | 9 => .ok (.divWN f d a b)
  | 10 => .ok (.remWS f d a b)
  | 11 => .ok (.remWN f d a b)
  | _ => .error .reservedFunction

/-- Major 0x11 (R281 to R285). -/
def decXR11 (g : Guard) (d : BitVec 5) (a : BitVec 5) (b : BitVec 5) (fn : BitVec 6) (c : BitVec 5) (imm : BitVec 14) : Except Reject Instr :=
  match fn.toNat with
  | 0 => do
      req (imm == 0) .unusedField
      return .sel g d a b c
  | _ => .error .reservedFunction

/-- Major 0x12 (R281 to R285). -/
def decXR12 (g : Guard) (d : BitVec 5) (a : BitVec 5) (b : BitVec 5) (fn : BitVec 6) (c : BitVec 5) (imm : BitVec 14) : Except Reject Instr :=
  match fn.toNat with
  | 0 => do
      req (a == 0 && b == 0 && c == 0) .unusedField
      return .rdc g d imm
  | 1 => do
      req (d == 0 && b == 0 && c == 0) .unusedField
      return .wrc g a imm
  | 2 => do
      req (b == 0 && c == 0) .unusedField
      return .swpc g d a imm
  | 3 => do
      req (b == 0 && c == 0) .unusedField
      return .setc g d a imm
  | 4 => do
      req (b == 0 && c == 0) .unusedField
      return .clrc g d a imm
  | _ => .error .reservedFunction

/-- Major 0x13 (R281 to R285). -/
def decRR13 (f : Sync) (d : BitVec 5) (a : BitVec 5) (b : BitVec 5) (fn : BitVec 6) : Except Reject Instr :=
  match fn.toNat with
  | 0 => do
      req (d == 0 && a == 0 && b == 0) .unusedField
      return .nop f
  | 1 => do
      req (d == 0 && b == 0) .unusedField
      return .trap f a
  | 2 => do
      req (d == 0 && a == 0 && b == 0) .unusedField
      return .eret f
  | 3 => do
      req (d == 0 && b == 0) .unusedField
      return .brk f a
  | 4 => do
      req (d == 0 && a == 0 && b == 0) .unusedField
      return .kill f
  | _ => .error .reservedFunction

/-- Major 0x14 (R281 to R285). -/
def decXR14 (g : Guard) (d : BitVec 5) (a : BitVec 5) (b : BitVec 5) (fn : BitVec 6) (c : BitVec 5) (imm : BitVec 14) : Except Reject Instr :=
  match fn.toNat with
  | 0 => do
      req (d == 0 && b == 0 && c == 0) .unusedField
      return .loopn g a (imm.extractLsb' 11 3) (imm.extractLsb' 0 11)
  | 1 => do
      req (b == 0 && c == 0) .unusedField
      return .lstride g d a (imm.extractLsb' 11 3) (imm.extractLsb' 8 3) (imm.extractLsb' 0 8)
  | 2 => do
      req (d == 0 && a == 0 && b == 0 && c == 0) .unusedField
      return .loopgo g imm
  | 3 => do
      req (d == 0 && a == 0 && b == 0 && c == 0 && imm == 0) .unusedField
      return .loopbrk g
  | _ => .error .reservedFunction

/-- Major 0x15 (R281 to R285). -/
def decSY15 (f : Sync) (a : BitVec 5) (imm : BitVec 16) : Except Reject Instr := do
  return .post f a imm

/-- Major 0x16 (R281 to R285). -/
def decSY16 (f : Sync) (a : BitVec 5) (imm : BitVec 16) : Except Reject Instr := do
  return .await f a imm

/-- Major 0x17 (R281 to R285). -/
def decSY17 (f : Sync) (a : BitVec 5) (imm : BitVec 16) : Except Reject Instr := do
  req (a == 0) .unusedField
  return .mark f imm

/-- Major 0x18 (R281 to R285). -/
def decXR18 (g : Guard) (d : BitVec 5) (a : BitVec 5) (b : BitVec 5) (fn : BitVec 6) (c : BitVec 5) (imm : BitVec 14) : Except Reject Instr :=
  match fn.toNat with
  | 0 => do
      req (d == 0 && b == 0 && c == 0) .unusedField
      return .rdvset g a (imm.extractLsb' 10 4) (imm.extractLsb' 0 10)
  | 1 => do
      req (d == 0 && a == 0 && b == 0 && c == 0 && imm == 0) .unusedField
      return .rdvwait g
  | _ => .error .reservedFunction

/-- Major 0x19 (R281 to R285). -/
def decSY19 (f : Sync) (a : BitVec 5) (imm : BitVec 16) : Except Reject Instr := do
  req (a == 0) .unusedField
  return .dsync f imm

/-- Major 0x1A (R281 to R285). -/
def decXR1A (g : Guard) (d : BitVec 5) (a : BitVec 5) (b : BitVec 5) (fn : BitVec 6) (c : BitVec 5) (imm : BitVec 14) : Except Reject Instr :=
  match fn.toNat with
  | 0 => do
      req (d == 0 && b == 0 && c.extractLsb' 3 2 == 0) .unusedField
      return .mon g a (c.extractLsb' 0 3) imm
  | 1 => do
      req (b == 0 && c == 0 && imm == 0) .unusedField
      return .mwait g d a
  | 2 => do
      req (d == 0 && a == 0 && b == 0 && c == 0 && imm == 0) .unusedField
      return .mclr g
  | _ => .error .reservedFunction

/-- Major 0x1B (R281 to R285). -/
def decXR1B (g : Guard) (d : BitVec 5) (a : BitVec 5) (b : BitVec 5) (fn : BitVec 6) (c : BitVec 5) (imm : BitVec 14) : Except Reject Instr :=
  match fn.toNat with
  | 0 => do
      req (b == 0 && c == 0 && imm == 0) .unusedField
      return .spawn g d a
  | 1 => do
      req (b == 0 && c == 0 && imm == 0) .unusedField
      return .spawnr g d a
  | 2 => do
      req (d == 0 && b == 0 && c == 0) .unusedField
      return .evsig g a imm
  | 3 => do
      req (d == 0 && b == 0 && c == 0) .unusedField
      return .evwait g a imm
  | 4 => do
      req (d == 0 && b == 0 && c == 0 && imm == 0) .unusedField
      return .joindec g a
  | 5 => do
      req (d == 0 && a == 0 && b == 0 && c == 0 && imm == 0) .unusedField
      return .yield g
  | 6 => do
      req (a == 0 && b == 0 && c == 0 && imm == 0) .unusedField
      return .tself g d
  | _ => .error .reservedFunction

/-- Major 0x1C (R281 to R285). -/
def decXR1C (g : Guard) (d : BitVec 5) (a : BitVec 5) (b : BitVec 5) (fn : BitVec 6) (c : BitVec 5) (imm : BitVec 14) : Except Reject Instr :=
  match fn.toNat with
  | 0 => do
      req (d == 0 && b == 0 && c == 0) .unusedField
      return .stgadv g a imm
  | 1 => do
      req (d == 0 && b == 0 && c == 0) .unusedField
      return .stgjmp g a imm
  | 2 => do
      req (d == 0 && b == 0 && c == 0) .unusedField
      return .waitl g a imm
  | 3 => do
      req (a == 0 && b == 0 && c == 0) .unusedField
      return .stgrd g d imm
  | _ => .error .reservedFunction

/-- Major 0x1D (R281 to R285). -/
def decXR1D (g : Guard) (d : BitVec 5) (a : BitVec 5) (b : BitVec 5) (fn : BitVec 6) (c : BitVec 5) (imm : BitVec 14) : Except Reject Instr :=
  match fn.toNat with
  | 0 => do
      req (d == 0 && a == 0 && b == 0 && c == 0 && imm == 0) .unusedField
      return .abort g
  | 1 => do
      req (d == 0 && a == 0 && b == 0 && c == 0 && imm == 0) .unusedField
      return .abchk g
  | 2 => do
      req (a == 0 && b == 0 && c == 0 && imm == 0) .unusedField
      return .abrd g d
  | _ => .error .reservedFunction

/-- Major 0x1E (R281 to R285). -/
def decXR1E (g : Guard) (d : BitVec 5) (a : BitVec 5) (b : BitVec 5) (fn : BitVec 6) (c : BitVec 5) (imm : BitVec 14) : Except Reject Instr :=
  match fn.toNat with
  | 0 => do
      req (d == 0 && b == 0 && c == 0) .unusedField
      return .segb g a imm
  | 1 => do
      req (d == 0 && a == 0 && b == 0 && c == 0 && imm == 0) .unusedField
      return .sege g
  | _ => .error .reservedFunction

/-- Major 0x20 (R281 to R285). -/
def decXR20 (g : Guard) (d : BitVec 5) (a : BitVec 5) (b : BitVec 5) (fn : BitVec 6) (c : BitVec 5) (imm : BitVec 14) : Except Reject Instr := do
  req (b == 0) .unusedField
  let sp ← spaceOf (fn.extractLsb' 3 3)
  let o := Order.ofCode (c.extractLsb' 3 2)
  let sc ← scopeOf (c.extractLsb' 0 3)
  return .ld g sp (fn.extractLsb' 0 3) o sc d a imm

/-- Major 0x21 (R281 to R285). -/
def decXR21 (g : Guard) (d : BitVec 5) (a : BitVec 5) (b : BitVec 5) (fn : BitVec 6) (c : BitVec 5) (imm : BitVec 14) : Except Reject Instr := do
  req (d == 0) .unusedField
  let sp ← spaceOf (fn.extractLsb' 3 3)
  let o := Order.ofCode (c.extractLsb' 3 2)
  let sc ← scopeOf (c.extractLsb' 0 3)
  return .st g sp (fn.extractLsb' 0 3) o sc a b imm

/-- Major 0x22 (R281 to R285). -/
def decXR22 (g : Guard) (d : BitVec 5) (a : BitVec 5) (b : BitVec 5) (fn : BitVec 6) (c : BitVec 5) (imm : BitVec 14) : Except Reject Instr :=
  if fn.extractLsb' 4 1 ≠ 0 then .error .requiredZero else
  match (fn.extractLsb' 0 4).toNat with
  | 0 => do
      let o := Order.ofCode (c.extractLsb' 3 2)
      let sc ← scopeOf (c.extractLsb' 0 3)
      let sp ← spaceOf (imm.extractLsb' 11 3)
      return .amoAdd g (fn.getLsbD 5) sp o sc d a b (imm.extractLsb' 0 11)
  | 1 => do
      let o := Order.ofCode (c.extractLsb' 3 2)
      let sc ← scopeOf (c.extractLsb' 0 3)
      let sp ← spaceOf (imm.extractLsb' 11 3)
      return .amoAnd g (fn.getLsbD 5) sp o sc d a b (imm.extractLsb' 0 11)
  | 2 => do
      let o := Order.ofCode (c.extractLsb' 3 2)
      let sc ← scopeOf (c.extractLsb' 0 3)
      let sp ← spaceOf (imm.extractLsb' 11 3)
      return .amoOr g (fn.getLsbD 5) sp o sc d a b (imm.extractLsb' 0 11)
  | 3 => do
      let o := Order.ofCode (c.extractLsb' 3 2)
      let sc ← scopeOf (c.extractLsb' 0 3)
      let sp ← spaceOf (imm.extractLsb' 11 3)
      return .amoXor g (fn.getLsbD 5) sp o sc d a b (imm.extractLsb' 0 11)
  | 4 => do
      let o := Order.ofCode (c.extractLsb' 3 2)
      let sc ← scopeOf (c.extractLsb' 0 3)
      let sp ← spaceOf (imm.extractLsb' 11 3)
      return .amoMinS g (fn.getLsbD 5) sp o sc d a b (imm.extractLsb' 0 11)
  | 5 => do
      let o := Order.ofCode (c.extractLsb' 3 2)
      let sc ← scopeOf (c.extractLsb' 0 3)
      let sp ← spaceOf (imm.extractLsb' 11 3)
      return .amoMinN g (fn.getLsbD 5) sp o sc d a b (imm.extractLsb' 0 11)
  | 6 => do
      let o := Order.ofCode (c.extractLsb' 3 2)
      let sc ← scopeOf (c.extractLsb' 0 3)
      let sp ← spaceOf (imm.extractLsb' 11 3)
      return .amoMaxS g (fn.getLsbD 5) sp o sc d a b (imm.extractLsb' 0 11)
  | 7 => do
      let o := Order.ofCode (c.extractLsb' 3 2)
      let sc ← scopeOf (c.extractLsb' 0 3)
      let sp ← spaceOf (imm.extractLsb' 11 3)
      return .amoMaxN g (fn.getLsbD 5) sp o sc d a b (imm.extractLsb' 0 11)
  | 8 => do
      let o := Order.ofCode (c.extractLsb' 3 2)
      let sc ← scopeOf (c.extractLsb' 0 3)
      let sp ← spaceOf (imm.extractLsb' 11 3)
      return .amoSwap g (fn.getLsbD 5) sp o sc d a b (imm.extractLsb' 0 11)
  | 9 => do
      let o := Order.ofCode (c.extractLsb' 3 2)
      let sc ← scopeOf (c.extractLsb' 0 3)
      let sp ← spaceOf (imm.extractLsb' 11 3)
      return .amoCas g (fn.getLsbD 5) sp o sc d a b (imm.extractLsb' 0 11)
  | _ => .error .reservedFunction

/-- Major 0x23 (R281 to R285). -/
def decXR23 (g : Guard) (d : BitVec 5) (a : BitVec 5) (b : BitVec 5) (fn : BitVec 6) (c : BitVec 5) (imm : BitVec 14) : Except Reject Instr :=
  match fn.toNat with
  | 0 => do
      req (d == 0 && a == 0 && b == 0 && c.extractLsb' 3 2 == 0 && imm == 0) .unusedField
      let sc ← scopeOf (c.extractLsb' 0 3)
      return .fence g sc
  | 1 => do
      req (d == 0 && a == 0 && b == 0 && c == 0 && imm.extractLsb' 12 2 == 0) .unusedField
      return .xfence g (imm.extractLsb' 0 6) (imm.extractLsb' 6 6)
  | 2 => do
      req (d == 0 && a == 0 && b == 0 && c.extractLsb' 3 2 == 0 && imm == 0) .unusedField
      let sc ← scopeOf (c.extractLsb' 0 3)
      return .ptfence g sc
  | 3 => do
      req (d == 0 && c == 0 && imm.extractLsb' 1 13 == 0) .unusedField
      return .tlbinv g a b (imm.extractLsb' 0 1)
  | _ => .error .reservedFunction

/-- Major 0x24 (R281 to R285). -/
def decXR24 (g : Guard) (d : BitVec 5) (a : BitVec 5) (b : BitVec 5) (fn : BitVec 6) (c : BitVec 5) (imm : BitVec 14) : Except Reject Instr :=
  match fn.toNat with
  | 0 => do
      req (b == 0) .unusedField
      return .ldx g d a c imm
  | 1 => do
      req (d == 0 && b == 0 && c == 0) .unusedField
      return .erase g a imm
  | 2 => do
      req (d == 0 && b == 0) .unusedField
      return .extest g a c imm
  | 3 => do
      req (b == 0 && c == 0) .unusedField
      return .exmap g d a imm
  | _ => .error .reservedFunction

/-- Major 0x25 (R281 to R285). -/
def decAC25 (g : Guard) (a : BitVec 5) (s : BitVec 4) (h : BitVec 5) (b : BitVec 5) (sgr : BitVec 2) (ty : BitVec 5) (gate : BitVec 6) (xp : BitVec 2) (fn : BitVec 6) : Except Reject Instr :=
  match fn.toNat with
  | 0 => do
      req (h == 0 && sgr == 0 && ty == 0 && gate == 0 && xp == 0) .unusedField
      return .setsBase g s a b
  | 1 => do
      req (h == 0 && sgr == 0 && ty == 0 && gate == 0 && xp == 0) .unusedField
      return .setsDim g s a b
  | 2 => do
      req (h == 0 && b == 0 && sgr == 0 && gate == 0 && xp == 0) .unusedField
      let ty ← typeOf ty
      return .setsFmt g ty s a
  | 3 => do
      req (h == 0 && sgr == 0 && ty == 0 && gate == 0 && xp == 0) .unusedField
      return .setsScl g s a b
  | 4 => do
      req (a == 0 && h == 0 && b == 0 && sgr == 0 && ty == 0 && gate == 0) .unusedField
      return .setsXp g s xp
  | 5 => do
      req (h == 0 && b == 0 && sgr == 0 && ty == 0 && gate == 0 && xp == 0) .unusedField
      return .setsMc g s a
  | 6 => do
      req (a == 0 && b == 0 && sgr == 0 && ty == 0 && gate == 0 && xp == 0) .unusedField
      return .setsHdl g s h
  | 7 => do
      req (a == 0 && h == 0 && b == 0 && sgr == 0 && ty == 0 && gate == 0 && xp == 0) .unusedField
      return .setsClr g s
  | 8 => do
      req (sgr == 0 && ty == 0 && gate == 0 && xp == 0) .unusedField
      return .gets g a s h b
  | _ => .error .reservedFunction

/-- Major 0x26 (R281 to R285). -/
def decAC26 (g : Guard) (a : BitVec 5) (s : BitVec 4) (h : BitVec 5) (b : BitVec 5) (sgr : BitVec 2) (ty : BitVec 5) (gate : BitVec 6) (xp : BitVec 2) (fn : BitVec 6) : Except Reject Instr :=
  match fn.toNat with
  | 0 => do
      req (a == 0 && b == 0 && ty == 0) .unusedField
      return .copyin g s h sgr gate xp
  | 1 => do
      req (a == 0 && b == 0 && ty == 0 && xp == 0) .unusedField
      return .copyout g s h sgr gate
  | 2 => do
      req (s == 0 && ty == 0 && xp == 0) .unusedField
      return .copyk g a h b sgr gate
  | 3 => do
      req (s == 0 && ty == 0 && xp == 0) .unusedField
      return .copyd g a h b sgr gate
  | 4 => do
      req (s == 0 && ty == 0) .unusedField
      return .copylin g a h b sgr gate xp
  | _ => .error .reservedFunction

/-- Major 0x27 (R281 to R285). -/
def decAC27 (g : Guard) (a : BitVec 5) (s : BitVec 4) (h : BitVec 5) (b : BitVec 5) (sgr : BitVec 2) (ty : BitVec 5) (gate : BitVec 6) (xp : BitVec 2) (fn : BitVec 6) : Except Reject Instr :=
  match fn.toNat with
  | 0 => do
      req (sgr == 0 && ty == 0) .unusedField
      return .gath g a s h b gate xp
  | 1 => do
      req (a == 0 && sgr == 0 && ty == 0) .unusedField
      return .gathmc g s h b gate xp
  | 2 => do
      req (sgr == 0 && ty == 0) .unusedField
      return .scat g a s h b gate xp
  | 3 => do
      req (sgr == 0) .unusedField
      let ty ← typeOf ty
      return .scatadd g ty a s h b gate xp
  | _ => .error .reservedFunction

/-- Major 0x28 (R281 to R285). -/
def decAC28 (g : Guard) (a : BitVec 5) (s : BitVec 4) (h : BitVec 5) (b : BitVec 5) (sgr : BitVec 2) (ty : BitVec 5) (gate : BitVec 6) (xp : BitVec 2) (fn : BitVec 6) : Except Reject Instr :=
  match fn.toNat with
  | 0 => do
      req (s == 0 && h == 0 && sgr == 0 && ty == 0 && xp == 0) .unusedField
      return .gexp g a b gate
  | 1 => do
      req (s == 0 && h == 0 && sgr == 0 && ty == 0 && xp == 0) .unusedField
      return .garr g a b gate
  | 2 => do
      req (s == 0 && h == 0 && b == 0 && sgr == 0 && ty == 0 && xp == 0) .unusedField
      return .gwait g a gate
  | 3 => do
      req (s == 0 && h == 0 && b == 0 && sgr == 0 && ty == 0 && xp == 0) .unusedField
      return .ginit g a gate
  | 4 => do
      req (s == 0 && b == 0 && sgr == 0 && ty == 0 && gate == 0 && xp == 0) .unusedField
      return .hwait g h a
  | 5 => do
      req (s == 0 && sgr == 0 && ty == 0 && gate == 0 && xp == 0) .unusedField
      return .hset g h a b
  | 6 => do
      req (a == 0 && s == 0 && b == 0 && sgr == 0 && ty == 0 && gate == 0 && xp == 0) .unusedField
      return .hfree g h
  | _ => .error .reservedFunction

/-- Major 0x29 (R281 to R285). -/
def decAC29 (g : Guard) (a : BitVec 5) (s : BitVec 4) (h : BitVec 5) (b : BitVec 5) (sgr : BitVec 2) (ty : BitVec 5) (gate : BitVec 6) (xp : BitVec 2) (fn : BitVec 6) : Except Reject Instr :=
  match fn.toNat with
  | 0 => do
      req (a == 0 && sgr == 0 && ty == 0 && gate == 0 && xp == 0) .unusedField
      return .nzscan g s h b
  | 1 => do
      req (s == 0 && h == 0 && sgr == 0 && ty == 0 && gate == 0 && xp == 0) .unusedField
      return .thrset g a b
  | 2 => do
      req (s == 0 && h == 0 && sgr == 0 && ty == 0 && gate == 0 && xp == 0) .unusedField
      return .dmrd g a b
  | _ => .error .reservedFunction

/-- Major 0x2A (R281 to R285). -/
def decAC2A (g : Guard) (a : BitVec 5) (s : BitVec 4) (h : BitVec 5) (b : BitVec 5) (sgr : BitVec 2) (ty : BitVec 5) (gate : BitVec 6) (xp : BitVec 2) (fn : BitVec 6) : Except Reject Instr :=
  match fn.toNat with
  | 0 => do
      req (s == 0 && h == 0 && sgr == 0 && ty == 0 && gate == 0 && xp == 0) .unusedField
      return .tlget g a b
  | 1 => do
      req (s == 0 && h == 0 && sgr == 0 && ty == 0 && gate == 0 && xp == 0) .unusedField
      return .tlstat g a b
  | 2 => do
      req (s == 0 && h == 0 && sgr == 0 && ty == 0 && gate == 0 && xp == 0) .unusedField
      return .tlack g a b
  | _ => .error .reservedFunction

/-- Major 0x2B (R281 to R285). -/
def decXR2B (g : Guard) (d : BitVec 5) (a : BitVec 5) (b : BitVec 5) (fn : BitVec 6) (c : BitVec 5) (imm : BitVec 14) : Except Reject Instr :=
  match fn.toNat with
  | 0 => do
      req (b == 0 && c.extractLsb' 3 2 == 0 && imm == 0) .unusedField
      return .rngtk g (c.extractLsb' 0 3) d a
  | 1 => do
      req (c.extractLsb' 3 2 == 0) .unusedField
      return .rngput g (c.extractLsb' 0 3) d a b imm
  | 2 => do
      req (b == 0 && c.extractLsb' 3 2 == 0) .unusedField
      return .rngget g (c.extractLsb' 0 3) d a imm
  | 3 => do
      req (d == 0 && c.extractLsb' 3 2 == 0 && imm == 0) .unusedField
      return .rngeos g (c.extractLsb' 0 3) a b
  | 4 => do
      req (b == 0 && c.extractLsb' 3 2 == 0 && imm == 0) .unusedField
      return .rngstat g (c.extractLsb' 0 3) d a
  | _ => .error .reservedFunction

/-- Major 0x2C (R281 to R285). -/
def decXR2C (g : Guard) (d : BitVec 5) (a : BitVec 5) (b : BitVec 5) (fn : BitVec 6) (c : BitVec 5) (imm : BitVec 14) : Except Reject Instr :=
  match fn.toNat with
  | 0 => do
      req (d == 0 && b == 0 && imm == 0) .unusedField
      return .qpush g a c
  | 1 => do
      req (a == 0 && b == 0 && imm == 0) .unusedField
      return .qpop g d c
  | 2 => do
      req (a == 0 && b == 0 && imm == 0) .unusedField
      return .qpeek g d c
  | 3 => do
      req (a == 0 && b == 0 && imm == 0) .unusedField
      return .qpopp g d c
  | _ => .error .reservedFunction

/-- Major 0x30 (R281 to R285). -/
def decVV30 (g : Guard) (vd : BitVec 6) (va : BitVec 6) (vb : BitVec 6) (sp : BitVec 3) (ty : BitVec 5) (vc : BitVec 6) (fn : BitVec 8) : Except Reject Instr :=
  match fn.toNat with
  | 0 => do
      req (sp == 0 && vc == 0) .unusedField
      let ty ← typeOf ty
      return .vaddF g ty vd va vb
  | 1 => do
      req (sp == 0 && vc == 0) .unusedField
      let ty ← typeOf ty
      return .vsubF g ty vd va vb
  | 2 => do
      req (sp == 0 && vc == 0) .unusedField
      let ty ← typeOf ty
      return .vmulF g ty vd va vb
  | 3 => do
      req (sp == 0) .unusedField
      let ty ← typeOf ty
      return .vfma g ty vd va vb vc
  | 4 => do
      req (sp == 0) .unusedField
      let ty ← typeOf ty
      return .vfms g ty vd va vb vc
  | 5 => do
      req (sp == 0) .unusedField
      let ty ← typeOf ty
      return .vfnma g ty vd va vb vc
  | 6 => do
      req (sp == 0 && vc == 0) .unusedField
      let ty ← typeOf ty
      return .vminF g ty vd va vb
  | 7 => do
      req (sp == 0 && vc == 0) .unusedField
      let ty ← typeOf ty
      return .vmaxF g ty vd va vb
  | 8 => do
      req (vb == 0 && sp == 0 && vc == 0) .unusedField
      let ty ← typeOf ty
      return .vabsF g ty vd va
  | 9 => do
      req (vb == 0 && sp == 0 && vc == 0) .unusedField
      let ty ← typeOf ty
      return .vneg g ty vd va
  | 10 => do
      req (sp == 0 && vc == 0) .unusedField
      let ty ← typeOf ty
      return .vdiv g ty vd va vb
  | 11 => do
      req (vb == 0 && sp == 0 && vc == 0) .unusedField
      let ty ← typeOf ty
      return .vsqrt g ty vd va
  | _ => .error .reservedFunction

/-- Major 0x31 (R281 to R285). -/
def decVV31 (g : Guard) (vd : BitVec 6) (va : BitVec 6) (vb : BitVec 6) (sp : BitVec 3) (ty : BitVec 5) (vc : BitVec 6) (fn : BitVec 8) : Except Reject Instr :=
  match fn.toNat with
  | 0 => do
      req (sp == 0 && vc == 0) .unusedField
      let ty ← typeOf ty
      return .vaddI g ty vd va vb
  | 1 => do
      req (sp == 0 && vc == 0) .unusedField
      let ty ← typeOf ty
      return .vsubI g ty vd va vb
  | 2 => do
      req (sp == 0 && vc == 0) .unusedField
      let ty ← typeOf ty
      return .vmulI g ty vd va vb
  | 3 => do
      req (sp == 0 && vc == 0) .unusedField
      let ty ← typeOf ty
      return .vmulh g ty vd va vb
  | 4 => do
      req (sp == 0 && vc == 0) .unusedField
      let ty ← typeOf ty
      return .vand g ty vd va vb
  | 5 => do
      req (sp == 0 && vc == 0) .unusedField
      let ty ← typeOf ty
      return .vor g ty vd va vb
  | 6 => do
      req (sp == 0 && vc == 0) .unusedField
      let ty ← typeOf ty
      return .vxor g ty vd va vb
  | 7 => do
      req (sp == 0 && vc == 0) .unusedField
      let ty ← typeOf ty
      return .vandn g ty vd va vb
  | 8 => do
      req (sp == 0 && vc == 0) .unusedField
      let ty ← typeOf ty
      return .vsll g ty vd va vb
  | 9 => do
      req (sp == 0 && vc == 0) .unusedField
      let ty ← typeOf ty
      return .vsrl g ty vd va vb
  | 10 => do
      req (sp == 0 && vc == 0) .unusedField
      let ty ← typeOf ty
      return .vsra g ty vd va vb
  | 11 => do
      req (sp == 0 && vc == 0) .unusedField
      let ty ← typeOf ty
      return .vminI g ty vd va vb
  | 12 => do
      req (sp == 0 && vc == 0) .unusedField
      let ty ← typeOf ty
      return .vmaxI g ty vd va vb
  | 13 => do
      req (vb == 0 && sp == 0 && vc == 0) .unusedField
      let ty ← typeOf ty
      return .vabsI g ty vd va
  | _ => .error .reservedFunction

/-- Major 0x32 (R281 to R285). -/
def decVV32 (g : Guard) (vd : BitVec 6) (va : BitVec 6) (vb : BitVec 6) (sp : BitVec 3) (ty : BitVec 5) (vc : BitVec 6) (fn : BitVec 8) : Except Reject Instr :=
  match fn.toNat with
  | 0 => do
      req (sp == 0) .unusedField
      req (vd.extractLsb' 5 1 == 0) .reservedRegister
      let ty ← typeOf ty
      return .vcmpEq g ty (vd.extractLsb' 0 5) va vb vc
  | 1 => do
      req (sp == 0) .unusedField
      req (vd.extractLsb' 5 1 == 0) .reservedRegister
      let ty ← typeOf ty
      return .vcmpNe g ty (vd.extractLsb' 0 5) va vb vc
  | 2 => do
      req (sp == 0) .unusedField
      req (vd.extractLsb' 5 1 == 0) .reservedRegister
      let ty ← typeOf ty
      return .vcmpLt g ty (vd.extractLsb' 0 5) va vb vc
  | 3 => do
      req (sp == 0) .unusedField
      req (vd.extractLsb' 5 1 == 0) .reservedRegister
      let ty ← typeOf ty
      return .vcmpLe g ty (vd.extractLsb' 0 5) va vb vc
  | 4 => do
      req (sp == 0) .unusedField
      req (vd.extractLsb' 5 1 == 0) .reservedRegister
      let ty ← typeOf ty
      return .vcmpGt g ty (vd.extractLsb' 0 5) va vb vc
  | 5 => do
      req (sp == 0) .unusedField
      req (vd.extractLsb' 5 1 == 0) .reservedRegister
      let ty ← typeOf ty
      return .vcmpGe g ty (vd.extractLsb' 0 5) va vb vc
  | 6 => do
      req (sp == 0) .unusedField
      req (vd.extractLsb' 5 1 == 0) .reservedRegister
      let ty ← typeOf ty
      return .vclass g ty (vd.extractLsb' 0 5) va vb vc
  | _ => .error .reservedFunction

/-- Major 0x33 (R281 to R285). -/
def decVV33 (g : Guard) (vd : BitVec 6) (va : BitVec 6) (vb : BitVec 6) (sp : BitVec 3) (ty : BitVec 5) (vc : BitVec 6) (fn : BitVec 8) : Except Reject Instr :=
  match fn.toNat with
  | 0 => do
      req (sp == 0) .unusedField
      req (vb.extractLsb' 5 1 == 0) .requiredZero
      let sty ← typeOf (vb.extractLsb' 0 5)
      let ty ← typeOf ty
      return .cvtRne g ty sty vd va vc
  | 1 => do
      req (sp == 0) .unusedField
      req (vb.extractLsb' 5 1 == 0) .requiredZero
      let sty ← typeOf (vb.extractLsb' 0 5)
      let ty ← typeOf ty
      return .cvtRtz g ty sty vd va vc
  | 2 => do
      req (sp == 0) .unusedField
      req (vb.extractLsb' 5 1 == 0) .requiredZero
      let sty ← typeOf (vb.extractLsb' 0 5)
      let ty ← typeOf ty
      return .cvtRup g ty sty vd va vc
  | 3 => do
      req (sp == 0) .unusedField
      req (vb.extractLsb' 5 1 == 0) .requiredZero
      let sty ← typeOf (vb.extractLsb' 0 5)
      let ty ← typeOf ty
      return .cvtRdn g ty sty vd va vc
  | 4 => do
      req (sp == 0) .unusedField
      req (vb.extractLsb' 5 1 == 0) .requiredZero
      let sty ← typeOf (vb.extractLsb' 0 5)
      let ty ← typeOf ty
      return .cvtSat g ty sty vd va vc
  | 5 => do
      req (sp == 0) .unusedField
      req (vb.extractLsb' 5 1 == 0) .requiredZero
      let sty ← typeOf (vb.extractLsb' 0 5)
      let ty ← typeOf ty
      return .vpack g ty sty vd va vc
  | 6 => do
      req (sp == 0 && vc == 0) .unusedField
      req (vb.extractLsb' 5 1 == 0) .requiredZero
      let sty ← typeOf (vb.extractLsb' 0 5)
      let ty ← typeOf ty
      return .vunpack g ty sty vd va
  | _ => .error .reservedFunction

/-- Major 0x34 (R281 to R285). -/
def decVV34 (g : Guard) (vd : BitVec 6) (va : BitVec 6) (vb : BitVec 6) (sp : BitVec 3) (ty : BitVec 5) (vc : BitVec 6) (fn : BitVec 8) : Except Reject Instr :=
  match fn.toNat with
  | 0 => do
      req (vb == 0 && sp == 0 && vc == 0) .unusedField
      let ty ← typeOf ty
      return .vexp2 g ty vd va
  | 1 => do
      req (vb == 0 && sp == 0 && vc == 0) .unusedField
      let ty ← typeOf ty
      return .vlog2 g ty vd va
  | 2 => do
      req (vb == 0 && sp == 0 && vc == 0) .unusedField
      let ty ← typeOf ty
      return .vrcp g ty vd va
  | 3 => do
      req (vb == 0 && sp == 0 && vc == 0) .unusedField
      let ty ← typeOf ty
      return .vrsqrt g ty vd va
  | 4 => do
      req (vb == 0 && sp == 0 && vc == 0) .unusedField
      let ty ← typeOf ty
      return .vsig g ty vd va
  | 5 => do
      req (vb == 0 && sp == 0 && vc == 0) .unusedField
      let ty ← typeOf ty
      return .vtanh g ty vd va
  | _ => .error .reservedFunction

/-- Major 0x35 (R281 to R285). -/
def decVV35 (g : Guard) (vd : BitVec 6) (va : BitVec 6) (vb : BitVec 6) (sp : BitVec 3) (ty : BitVec 5) (vc : BitVec 6) (fn : BitVec 8) : Except Reject Instr :=
  match fn.toNat with
  | 0 => do
      req (vb == 0 && sp == 0 && ty == 0 && vc == 0) .unusedField
      req (va.extractLsb' 5 1 == 0) .reservedRegister
      return .vbcast g vd (va.extractLsb' 0 5)
  | 1 => do
      req (sp == 0 && ty == 0 && vc == 0) .unusedField
      req (vd.extractLsb' 5 1 == 0) .reservedRegister
      req (vb.extractLsb' 5 1 == 0) .reservedRegister
      return .vlane g (vd.extractLsb' 0 5) va (vb.extractLsb' 0 5)
  | 2 => do
      req (sp == 0 && ty == 0 && vc == 0) .unusedField
      return .vperm g vd va vb
  | 3 => do
      req (sp == 0 && ty == 0 && vc == 0) .unusedField
      req (vb.extractLsb' 5 1 == 0) .reservedRegister
      return .vrot g vd va (vb.extractLsb' 0 5)
  | 4 => do
      req (sp == 0 && ty == 0 && vc == 0) .unusedField
      req (vb.extractLsb' 5 1 == 0) .reservedRegister
      return .vshl g vd va (vb.extractLsb' 0 5)
  | 5 => do
      req (vb == 0 && sp == 0 && vc == 0) .unusedField
      let ty ← typeOf ty
      return .vredadd g ty vd va
  | 6 => do
      req (vb == 0 && sp == 0 && vc == 0) .unusedField
      let ty ← typeOf ty
      return .vredmax g ty vd va
  | 7 => do
      req (vb == 0 && sp == 0 && vc == 0) .unusedField
      let ty ← typeOf ty
      return .vredmin g ty vd va
  | 8 => do
      req (vb == 0 && sp == 0 && vc == 0) .unusedField
      let ty ← typeOf ty
      return .vscan g ty vd va
  | 9 => do
      req (sp == 0 && ty == 0) .unusedField
      req (vc.extractLsb' 5 1 == 0) .reservedRegister
      return .vsel g vd va vb (vc.extractLsb' 0 5)
  | 10 => do
      req (vb == 0 && sp == 0 && ty == 0 && vc == 0) .unusedField
      return .vmov g vd va
  | _ => .error .reservedFunction

/-- Major 0x36 (R281 to R285). -/
def decVV36 (g : Guard) (vd : BitVec 6) (va : BitVec 6) (vb : BitVec 6) (sp : BitVec 3) (ty : BitVec 5) (vc : BitVec 6) (fn : BitVec 8) : Except Reject Instr :=
  match fn.toNat with
  | 0 => do
      req (vc == 0) .unusedField
      req (va.extractLsb' 5 1 == 0) .reservedRegister
      req (vb.extractLsb' 5 1 == 0) .reservedRegister
      let sp ← spaceOf sp
      let ty ← typeOf ty
      return .vld g sp ty vd (va.extractLsb' 0 5) (vb.extractLsb' 0 5)
  | 1 => do
      req (vd == 0) .unusedField
      req (va.extractLsb' 5 1 == 0) .reservedRegister
      req (vb.extractLsb' 5 1 == 0) .reservedRegister
      let sp ← spaceOf sp
      let ty ← typeOf ty
      return .vst g sp ty (va.extractLsb' 0 5) (vb.extractLsb' 0 5) vc
  | 2 => do
      req (vc == 0) .unusedField
      req (va.extractLsb' 5 1 == 0) .reservedRegister
      let sp ← spaceOf sp
      let ty ← typeOf ty
      return .vldi g sp ty vd (va.extractLsb' 0 5) vb
  | 3 => do
      req (vd == 0) .unusedField
      req (va.extractLsb' 5 1 == 0) .reservedRegister
      let sp ← spaceOf sp
      let ty ← typeOf ty
      return .vsti g sp ty (va.extractLsb' 0 5) vb vc
  | 4 => do
      req (sp == 0 && ty == 0) .unusedField
      req (va.extractLsb' 4 2 == 0) .reservedRegister
      req (vb.extractLsb' 5 1 == 0) .reservedRegister
      return .vldb g vd (va.extractLsb' 0 4) (vb.extractLsb' 0 5) vc
  | _ => .error .reservedFunction

/-- Major 0x37 (R281 to R285). -/
def decVV37 (g : Guard) (vd : BitVec 6) (va : BitVec 6) (vb : BitVec 6) (sp : BitVec 3) (ty : BitVec 5) (vc : BitVec 6) (fn : BitVec 8) : Except Reject Instr :=
  match fn.toNat with
  | 0 => do
      req (sp == 0) .unusedField
      let ty ← typeOf ty
      req (vc.extractLsb' 5 1 == 0) .reservedRegister
      return .vmrg g ty vd va vb (vc.extractLsb' 0 5)
  | 1 => do
      req (sp == 0) .unusedField
      let ty ← typeOf ty
      req (vc.extractLsb' 5 1 == 0) .reservedRegister
      return .visect g ty vd va vb (vc.extractLsb' 0 5)
  | 2 => do
      req (sp == 0) .unusedField
      let ty ← typeOf ty
      req (vc.extractLsb' 5 1 == 0) .reservedRegister
      return .vunion g ty vd va vb (vc.extractLsb' 0 5)
  | 3 => do
      req (vb == 0 && sp == 0 && vc == 0) .unusedField
      let ty ← typeOf ty
      return .vthr g ty vd va
  | 4 => do
      req (vb == 0 && sp == 0) .unusedField
      let ty ← typeOf ty
      req (vc.extractLsb' 5 1 == 0) .reservedRegister
      return .vcmpr g ty vd va (vc.extractLsb' 0 5)
  | 5 => do
      req (vb == 0 && sp == 0) .unusedField
      let ty ← typeOf ty
      req (vc.extractLsb' 5 1 == 0) .reservedRegister
      return .vexpd g ty vd va (vc.extractLsb' 0 5)
  | 6 => do
      req (vb == 0 && sp == 0) .unusedField
      let ty ← typeOf ty
      req (vc.extractLsb' 5 1 == 0) .reservedRegister
      return .vnzidx g ty vd va (vc.extractLsb' 0 5)
  | _ => .error .reservedFunction

/-- Major 0x38 (R281 to R285). -/
def decVV38 (g : Guard) (vd : BitVec 6) (va : BitVec 6) (vb : BitVec 6) (sp : BitVec 3) (ty : BitVec 5) (vc : BitVec 6) (fn : BitVec 8) : Except Reject Instr :=
  match fn.toNat with
  | 0 => do
      req (sp == 0 && vc == 0) .unusedField
      req (ty == Ty.code .e2m1) .reservedType
      return .vqnt g vd va vb
  | 1 => do
      req (sp == 0 && vc == 0) .unusedField
      req (ty == Ty.code .f32) .reservedType
      return .vdqnt g vd va vb
  | 2 => do
      req (vb == 0 && sp == 0 && vc == 0) .unusedField
      req (ty == Ty.code .f32) .reservedType
      return .vamax g vd va
  | 3 => do
      req (vb == 0 && sp == 0 && vc == 0) .unusedField
      req (ty == Ty.code .e3m5) .reservedType
      return .vbscl g vd va
  | _ => .error .reservedFunction

/-- Major 0x3A (R281 to R285). -/
def decMC3A (g : Guard) (acc : BitVec 3) (sa : BitVec 4) (breg : BitVec 12) (sgr : BitVec 2) (ty : BitVec 5) (si : BitVec 4) (so : BitVec 4) (fn : BitVec 6) : Except Reject Instr :=
  match fn.toNat with
  | 0 => do
      req (si == 0 && so == 0) .unusedField
      let ty ← typeOf ty
      return .mma g ty acc sa breg sgr
  | 1 => do
      req (si == 0 && so == 0) .unusedField
      let ty ← typeOf ty
      return .mmas g ty acc sa breg sgr
  | 2 => do
      let ty ← typeOf ty
      return .mmag g ty acc sa breg sgr si so
  | 3 => do
      req (so == 0) .unusedField
      let ty ← typeOf ty
      return .mmak g ty acc sa breg sgr si
  | _ => .error .reservedFunction

/-- Major 0x3B (R281 to R285). -/
def decMC3B (g : Guard) (acc : BitVec 3) (sa : BitVec 4) (breg : BitVec 12) (sgr : BitVec 2) (ty : BitVec 5) (si : BitVec 4) (so : BitVec 4) (fn : BitVec 6) : Except Reject Instr :=
  match fn.toNat with
  | 0 => do
      req (acc == 0 && sa == 0 && breg == 0 && sgr == 0 && ty == 0 && si == 0 && so == 0) .unusedField
      return .mlease g
  | 1 => do
      req (acc == 0 && sa == 0 && breg == 0 && sgr == 0 && ty == 0 && si == 0 && so == 0) .unusedField
      return .mrel g
  | 2 => do
      req (acc == 0 && sgr == 0 && so == 0) .unusedField
      let ty ← typeOf ty
      return .mldb g ty sa breg si
  | 3 => do
      req (sa == 0 && breg == 0 && sgr == 0 && si == 0 && so == 0) .unusedField
      let ty ← typeOf ty
      return .mzero g ty acc
  | 4 => do
      req (breg == 0 && sgr == 0 && ty == 0 && si == 0 && so == 0) .unusedField
      return .maccd g acc sa
  | 5 => do
      req (breg == 0 && sgr == 0 && ty == 0 && si == 0 && so == 0) .unusedField
      return .mrd g acc sa
  | 6 => do
      req (breg == 0 && sgr == 0 && si == 0 && so == 0) .unusedField
      let ty ← typeOf ty
      return .mwr g ty acc sa
  | 7 => do
      req (sa == 0 && breg == 0 && sgr == 0 && ty == 0 && si == 0 && so == 0) .unusedField
      return .mchk g acc
  | _ => .error .reservedFunction

/-- Major 0x3C (R281 to R285). -/
def decMC3C (g : Guard) (acc : BitVec 3) (sa : BitVec 4) (breg : BitVec 12) (sgr : BitVec 2) (ty : BitVec 5) (si : BitVec 4) (so : BitVec 4) (fn : BitVec 6) : Except Reject Instr :=
  match fn.toNat with
  | 0 => do
      req (breg == 0 && sgr == 0 && ty == 0 && so == 0) .unusedField
      return .escale g acc sa si
  | 1 => do
      req (breg == 0 && sgr == 0 && ty == 0 && so == 0) .unusedField
      return .ebias g acc sa si
  | 2 => do
      req (sa == 0 && breg == 0 && sgr == 0 && ty == 0 && si == 0 && so == 0) .unusedField
      return .erelu g acc
  | 3 => do
      req (sa == 0 && breg == 0 && sgr == 0 && ty == 0 && si == 0 && so == 0) .unusedField
      return .esig g acc
  | 4 => do
      req (sa == 0 && breg == 0 && sgr == 0 && ty == 0 && si == 0 && so == 0) .unusedField
      return .esilu g acc
  | 5 => do
      req (breg == 0 && sgr == 0 && ty == 0 && si == 0 && so == 0) .unusedField
      return .emul g acc sa
  | 6 => do
      req (breg == 0 && sgr == 0 && ty == 0 && si == 0 && so == 0) .unusedField
      return .eadd g acc sa
  | 7 => do
      req (sa == 0 && breg == 0 && sgr == 0 && so == 0) .unusedField
      let ty ← typeOf ty
      return .econv g ty acc si
  | _ => .error .reservedFunction

/-- Major 0x3D (R281 to R285). -/
def decAC3D (g : Guard) (a : BitVec 5) (s : BitVec 4) (h : BitVec 5) (b : BitVec 5) (sgr : BitVec 2) (ty : BitVec 5) (gate : BitVec 6) (xp : BitVec 2) (fn : BitVec 6) : Except Reject Instr :=
  match fn.toNat with
  | 0 => do
      req (a == 0 && b == 0 && ty == 0 && xp == 0) .unusedField
      return .swb g s h sgr gate
  | 1 => do
      req (h == 0 && b == 0 && sgr == 0 && xp == 0) .unusedField
      let ty ← typeOf ty
      return .swbacc g ty a s gate
  | 2 => do
      req (h == 0 && sgr == 0 && xp == 0) .unusedField
      let ty ← typeOf ty
      return .swbnm g ty a s b gate
  | 3 => do
      req (h == 0 && b == 0 && sgr == 0 && xp == 0) .unusedField
      let ty ← typeOf ty
      return .swbz g ty a s gate
  | 4 => do
      req (s == 0 && h == 0 && b == 0 && sgr == 0 && ty == 0 && gate == 0 && xp == 0) .unusedField
      return .sckstat g a
  | _ => .error .reservedFunction

/-- The instruction the fields of a word mean, or why they mean none (R289). -/
def Enc.instr : Enc → Except Reject Instr
  | .bh f ni nx smp => .ok (.blockHeader f ni nx smp)
  | .ex f pred kind disp => decEX02 f pred kind disp
  | .rr f maj d a b fn =>
    match maj.toNat with
    | 0x03 => decRR03 f d a b fn
    | 0x0d => decRR0D f d a b fn
    | 0x0f => decRR0F f d a b fn
    | 0x10 => decRR10 f d a b fn
    | 0x13 => decRR13 f d a b fn
    | _ => .error .reservedMajor
  | .ri f maj d a imm =>
    match maj.toNat with
    | 0x04 => decRI04 f d a imm
    | 0x05 => decRI05 f d a imm
    | 0x06 => decRI06 f d a imm
    | 0x07 => decRI07 f d a imm
    | 0x08 => decRI08 f d a imm
    | 0x09 => decRI09 f d a imm
    | 0x0a => decRI0A f d a imm
    | _ => .error .reservedMajor
  | .sy f maj a imm =>
    match maj.toNat with
    | 0x15 => decSY15 f a imm
    | 0x16 => decSY16 f a imm
    | 0x17 => decSY17 f a imm
    | 0x19 => decSY19 f a imm
    | _ => .error .reservedMajor
  | .lw f maj d imm =>
    match maj.toNat with
    | 0x0b => decLW0B f d imm
    | 0x0c => decLW0C f d imm
    | _ => .error .reservedMajor
  | .xr g maj d a b fn c imm =>
    match maj.toNat with
    | 0x0e => decXR0E g d a b fn c imm
    | 0x11 => decXR11 g d a b fn c imm
    | 0x12 => decXR12 g d a b fn c imm
    | 0x14 => decXR14 g d a b fn c imm
    | 0x18 => decXR18 g d a b fn c imm
    | 0x1a => decXR1A g d a b fn c imm
    | 0x1b => decXR1B g d a b fn c imm
    | 0x1c => decXR1C g d a b fn c imm
    | 0x1d => decXR1D g d a b fn c imm
    | 0x1e => decXR1E g d a b fn c imm
    | 0x20 => decXR20 g d a b fn c imm
    | 0x21 => decXR21 g d a b fn c imm
    | 0x22 => decXR22 g d a b fn c imm
    | 0x23 => decXR23 g d a b fn c imm
    | 0x24 => decXR24 g d a b fn c imm
    | 0x2b => decXR2B g d a b fn c imm
    | 0x2c => decXR2C g d a b fn c imm
    | _ => .error .reservedMajor
  | .vv g maj vd va vb sp ty vc fn =>
    match maj.toNat with
    | 0x30 => decVV30 g vd va vb sp ty vc fn
    | 0x31 => decVV31 g vd va vb sp ty vc fn
    | 0x32 => decVV32 g vd va vb sp ty vc fn
    | 0x33 => decVV33 g vd va vb sp ty vc fn
    | 0x34 => decVV34 g vd va vb sp ty vc fn
    | 0x35 => decVV35 g vd va vb sp ty vc fn
    | 0x36 => decVV36 g vd va vb sp ty vc fn
    | 0x37 => decVV37 g vd va vb sp ty vc fn
    | 0x38 => decVV38 g vd va vb sp ty vc fn
    | _ => .error .reservedMajor
  | .mc g maj acc sa breg sgr ty si so fn =>
    match maj.toNat with
    | 0x3a => decMC3A g acc sa breg sgr ty si so fn
    | 0x3b => decMC3B g acc sa breg sgr ty si so fn
    | 0x3c => decMC3C g acc sa breg sgr ty si so fn
    | _ => .error .reservedMajor
  | .ac g maj a s h b sgr ty gate xp fn =>
    match maj.toNat with
    | 0x25 => decAC25 g a s h b sgr ty gate xp fn
    | 0x26 => decAC26 g a s h b sgr ty gate xp fn
    | 0x27 => decAC27 g a s h b sgr ty gate xp fn
    | 0x28 => decAC28 g a s h b sgr ty gate xp fn
    | 0x29 => decAC29 g a s h b sgr ty gate xp fn
    | 0x2a => decAC2A g a s h b sgr ty gate xp fn
    | 0x3d => decAC3D g a s h b sgr ty gate xp fn
    | _ => .error .reservedMajor

/-- The instruction a word list begins with, and the words after it; a reserved value is rejected (R289). -/
def decode (ws : List W32) : Except Reject (Instr × List W32) :=
  match parse ws with
  | .error r => .error r
  | .ok (e, rest) =>
    match e.instr with
    | .error r => .error r
    | .ok i => if i.wf then .ok (i, rest) else .error .reservedValue

end

/-- The words of an instruction; a happening has none. -/
def encode (i : Instr) : List W32 :=
  match i.enc with
  | some e => e.pack
  | none => []

/-- Majors legal in every stream, fn apart (R281). -/
def inEvery (maj : Nat) : Bool := (1 ≤ maj && maj ≤ 0x1e) || (0x20 ≤ maj && maj ≤ 0x23)

/-- Whether a stream of an engine may hold the fields (R281 to R283). -/
def Enc.legalIn (eng : Eng) : Enc → Bool
  | .bh _ _ _ _ | .ex _ _ _ _ | .rr _ _ _ _ _ _ | .ri _ _ _ _ _ | .sy _ _ _ _ | .lw _ _ _ _ => true
  | .xr _ maj _ _ _ fn _ _ =>
    if inEvery maj.toNat then true
    else if maj = 0x24 then eng == .a || (eng == .v && (fn == 0 || fn == 2))
    else if maj = 0x2b then eng == .a
    else if fn = 0 then eng == .a else eng != .a
  | .vv _ _ _ _ _ _ _ _ _ => eng == .v
  | .mc _ _ _ _ _ _ _ _ _ _ => eng == .m
  | .ac _ maj _ _ _ _ _ _ _ _ fn =>
    if maj = 0x3d then eng == .s
    else if maj = 0x28 then eng == .a || fn == 2 || fn == 4
    else eng == .a

/-- Whether a stream of an engine may hold the instruction. -/
def Instr.legalIn (eng : Eng) (i : Instr) : Bool :=
  match i.enc with
  | some e => e.legalIn eng
  | none => false

/-- The value of EVAL for a failing instruction: its one or two words, as R271 finds its width (R288). -/
def illopEval : List W32 → W64
  | [] => 0
  | w :: rest => if wordsOf w = 2 then (rest.headD 0) ++ w else 0#32 ++ w

noncomputable section

/-- The instruction whose bits, numbered from bit 0 of the first word, are w; words above nbits are zero. -/
def decodeTableWord (nbits w : Nat) : Option Instr :=
  let w := w % 2 ^ nbits
  match decode [BitVec.ofNat 32 w, BitVec.ofNat 32 (w / 2 ^ 32)] with
  | .ok (i, _) => some i
  | .error _ => none

end

end Sys2Proof
end

