-- ==== Sys2Proof/Machine/State.lean ====
section
/-! DEFINITION. The state of the device as plain data, the reasons a step can stop, and the state after reset. A `Tab α` is a
list of keyed entries in rising key order that lists no entry equal to what an unlisted key reads as; memory is one such table of
bytes, keyed by a region base and an offset (Ops.lean gives the bases). -/

namespace Sys2Proof.Machine

/-- Entries by key, rising, none equal to the default. -/
abbrev Tab (α : Type) := List (Nat × α)

/-- Why a stream is held (R265). -/
inductive Hold where
  | none | token | event | handle | gate | stage | rendezvous | dsync | monitor | memory | lease | queueFull
deriving DecidableEq, Repr, Inhabited

/-- One of the eight stride entries of a loop nest (R142); level 0 is no entry. -/
structure Stride where
  lvl : BitVec 3
  reg : R5
  str : W64
deriving DecidableEq, Repr, Inhabited

/-- The loop state of a stream (R142): live and shadow counts and strides, indices, the body and RUN. -/
structure Loop where
  n : Vector W32 6
  idx : Vector W32 6
  sn : Vector W32 6
  str : Vector Stride 8
  sstr : Vector Stride 8
  start : W64
  len : Nat
  run : Bool
deriving DecidableEq, Repr, Inhabited

/-- An open segment (R261, R262): its entry, the words counted and the CRC register over them. -/
structure Seg where
  ent : BitVec 128
  count : W32
  crc : W32
deriving DecidableEq, Repr, Inhabited

/-- A stream's armed monitor (R140): the line as space and line number, the context, and whether it has triggered. -/
structure Mon where
  sp : Space
  line : Nat
  trig : Bool
deriving DecidableEq, Repr, Inhabited

/-- What an access that returns data writes (R350, R356, R367, R368, R383, R385, R261, R332). -/
inductive LoadDst where
  | x (d : R5) (w : BitVec 3)
  | ldx (d c : R5)
  | extest (c : R5)
  | exmap (d : R5)
  | tl (k : BitVec 2) (d : R5)
  | vlane (vd : R6) (lane : Nat) (ty : Ty)
  | vrow (vd : R6) (mask : W64)
  | segb
  | spawn (r : Bool) (d : R5) (a : W64)
  | ring (d : R5)
  | none
deriving DecidableEq, Repr, Inhabited

/-- The atomic operations of R352. -/
inductive AmoOp where
  | add | and | or | xor | minS | minN | maxS | maxN | swap | cas
deriving DecidableEq, Repr, Inhabited

/-- What an entry of a path queue does when it is performed (R183, R192, R195). -/
inductive Acc where
  | load (dst : LoadDst)
  | store (data : List Byte)
  | amo (op : AmoOp) (w64 : Bool) (v e : W64) (d : R5)
  | erase
  | fence (sc : Scope)
  | xfence (src dst : BitVec 6)
  | acquire (sc : Scope)
  | token (k : Nat)
  | post (e : Nat) (n : Nat)
  | qpush (q : Nat) (v : W64)
  | evsig (name : Nat)
  | joindec (key : W64)
  | spawn (r : Bool) (rec : BitVec 512) (d : R5)
  | garr (core gate prod n : Nat)
  | stage (op : BitVec 2) (iter : W32) (v : Nat)
  | cread (cmd pos : Nat)
  | cwrite (cmd pos : Nat)
  | cadd (cmd pos : Nat) (ty : Ty)
deriving DecidableEq, Repr, Inhabited

/-- One access entered in a path queue and not yet performed (R182). -/
structure Entry where
  uid : Nat
  r : Ref
  tid : Nat
  cid : Nat
  path : Nat
  ord : Order
  sc : Scope
  sp : Space
  lane : Nat
  addr : Nat
  n : Nat
  acc : Acc
  ovl : List (Nat × Byte)
  inBlock : Bool
  tl0 : Bool
  /-- whether the part of a die scratchpad it reaches was its context's own when it was issued (R158, R164) -/
  owned : Bool
  wait : Option Nat
  /-- the cycle it was issued at -/
  since : Nat
deriving DecidableEq, Repr, Inhabited

/-- A phase of a dsync domain (R148): who has arrived, by member, task and the number its entries then stood below, and who has passed. -/
structure Phase where
  cid : Nat
  id : Nat
  lvl : Nat
  dom : W64
  arrived : List (Nat × Nat × Nat)
  passed : List Nat
deriving DecidableEq, Repr, Inhabited

/-- The operations of a command queue (R122, R129). -/
inductive CmdOp where
  | mark (n : BitVec 16)
  | copy
  | scan (ty : Ty) (n : Nat) (layer : Nat)
  | list (op : BitVec 2) (ty : Ty) (vd va vb : R6) (pc : R5) (mask : W64)
  | mma (fn : BitVec 2) (ty : Ty) (acc : BitVec 3) (breg : Nat) (steps : Nat)
  | mldb (ty : Ty) (breg form : Nat)
  | mrel
  | mzero (acc : BitVec 3) (ty : Ty)
  | maccd (acc src : BitVec 3)
  | mrd (acc : BitVec 3)
  | mwr (acc : BitVec 3) (ty : Ty)
  | epi (fn : BitVec 3) (acc src : BitVec 3) (ty : Ty) (mode : Nat)
  | swb
  | swbAcc (fn : BitVec 2) (acc : BitVec 3) (ty : Ty)
deriving DecidableEq, Repr, Inhabited

/-- A command of a command queue: what it does, the stream registers and values it took at issue (R199), its bytes, the handles
it produces and consumes, its gate arrival, and how far it has come. -/
structure Cmd where
  id : Nat
  op : CmdOp
  s1 : BitVec 512
  s2 : BitVec 512
  s3 : BitVec 512
  xs : List W64
  idx : List W32
  buf : List Host.Cell
  bad : List Nat
  prod : Option R5
  cons : List R5
  gate : Nat
  gateCore : Nat
  sgr : BitVec 2
  nbv : BitVec 2
  head : W32
  ents : List Entry
  phase : Nat
  /-- the end of its bytes performed so far, by which its boundaries are counted (R151) -/
  reach : Nat
deriving DecidableEq, Repr, Inhabited

/-- What a waiting instruction of an open block took, to be given back if the block is discarded (R130). -/
inductive Taken where
  | token (k : Nat)
  | event (e n : Nat)
  | queue (q : Nat) (v : W64)
  | evwait (name : Nat)
  /-- a member has passed a phase of a dsync -/
  | dsync (p : Phase) (me : Nat)
  /-- a release of the queue that an mlease has cancelled -/
  | rel (c : Cmd)
  /-- a handle or gate wait that has passed takes nothing back -/
  | passed
deriving DecidableEq, Repr, Inhabited

/-- What an open block will do at its commit, in block order (R129). Those of a task's own registers are seen by later
instructions of the block (R127). -/
inductive Eff where
  | setS (i : BitVec 4) (v : BitVec 512)
  | csr (n : Nat) (v : W64)
  | csrOr (n : Nat) (v : W64)
  | csrAnd (n : Nat) (v : W64)
  | lc (lvl : Nat) (cnt : W32)
  | stride (ent : Nat) (st : Stride)
  | loopgo (len : Nat)
  | loopbrk
  | entry (e : Entry)
  | cmd (c : Cmd)
  | gexp (g p : Nat) (n : Nat)
  | ginit (g : Nat) (mask : BitVec 8)
  | hset (h : R5) (base : BitVec 27) (len : BitVec 24) (sp : BitVec 3)
  | hfree (h : R5)
  | drain (h : R5)
  | mclr
  | yield
  | abort
  | eret
  | segb (uid : Nat) (ent : BitVec 128)
  | sege
  | stage (op : BitVec 2) (v : Nat)
  | vcnt (ufl sat : Nat)
  | dmag (l n : Nat)
deriving DecidableEq, Repr, Inhabited

/-- The uncommitted block of a stream (R125 to R130): its header, size in words, the words not yet issued, the registers as they
stood before it, the head words to count, the tokens taken, the effects to commit and the exits met. -/
structure Block where
  hdr : W64
  size : Nat
  words : List W32
  x0 : Vector W64 32
  p0 : Vector W64 24
  v0 : Tab (Vector W32 64)
  mon0 : Option Mon
  /-- whether a mon of the block itself has armed (R140) -/
  armed : Bool
  counted : List W32
  taken : List Taken
  effs : List Eff
  exits : List (R5 × BitVec 2 × BitVec 14 × W32)
  ringDone : Bool
  evRel : Bool
  began : Option Nat
  timeout : Bool
deriving DecidableEq, Repr, Inhabited

/-- Trap causes that are taken at a block boundary (R248). -/
structure Deferred where
  code : Nat
  eval : W64
deriving DecidableEq, Repr, Inhabited

/-- What one engine stream of a task holds (R122, R123). -/
structure EStream where
  x : Vector W64 32
  p : Vector W64 24
  pc : W64
  live : Bool
  stopped : Bool
  blk : Option Block
  loop : Loop
  seg : Option Seg
  mon : Option Mon
  lm : W32
  cq : List Cmd
  deferred : List Deferred
  hold : Hold
  ibuf : List (Nat × W32)
  /-- the words of the loop body as they stood at loopgo (R145, R196) -/
  body : List (Nat × W32)
  fetched : Option (List W32)
  illegal : Option W64
  fwait : Option (Nat × Nat)
  /-- its next block has been decoded since a pre-emption request, and no trap comes first (R294) -/
  looked : Bool
  first : Bool
  /-- the handle a held consumer waits for, plus one -/
  waitH : Nat
deriving DecidableEq, Repr, Inhabited

/-- An arrival gate (R204). -/
structure Gate where
  ph : Bool
  mask : BitVec 8
  pend : Vector Int 8
  armd : Bool
deriving DecidableEq, Repr, Inhabited

/-- An accumulator (R394): its 64 × 64 words, the checksum row, types, and the band product with its flag. -/
structure Accu where
  c : Tab W32
  chk : Tab W32
  aty : Ty
  oty : Ty
  bp : W32
  bpl : Bool
deriving DecidableEq, Repr, Inhabited

/-- The control registers that exist once per task (R291 to R293); the read-only ones are computed. -/
structure Csrs where
  iter : W32
  nbv : W64
  fpmode : W64
  vstat : W64
  mstat : W64
  layer : W64
  dom : W64
  trapen : W64
  vlive : W64
  acclive : W64
  tl : Nat
  cause1 : W64
  epc1 : W64
  eval1 : W64
  cause2 : W64
  epc2 : W64
  eval2 : W64
  tvec : W64
  tsave : W64
  rdv : W64
  snapctl : W64
  thr : Tab W64
  dmag : Tab W64
deriving DecidableEq, Repr, Inhabited

/-- An arrival that waits at a core for the task its gate belongs to (R206). -/
structure Arrival where
  core : Nat
  cid : Nat
  dom : Nat
  gate : Nat
  prod : Nat
  n : Nat
deriving DecidableEq, Repr, Inhabited

/-- Staging of a restartable task (R258, R259): bytes by memory key, the 64-byte pieces of them that are poisoned, and whether it has
become non-restartable. -/
structure Staging where
  bytes : List Host.Cell
  poison : List Nat
  ended : Bool
deriving DecidableEq, Repr, Inhabited

/-- A task of a slot (R86, R123), or, with `live` false, an empty slot. -/
structure Task where
  live : Bool
  tid : Nat
  trec : BitVec 512
  cid : Nat
  seq : W32
  pblk : W64
  fn : Nat
  queued : Bool
  replay : Nat
  part : Nat
  grp : Nat
  mtask : Bool
  hi : W32
  st : Vector EStream 4
  v : Tab (Vector W32 64)
  s : Vector (BitVec 512) 16
  h : Vector (BitVec 128) 32
  /-- the cycle each handle last became FREE, and those to be freed when their command ends -/
  hSince : Tab Nat
  hPend : BitVec 32
  q : Vector (List W64) 8
  g : Tab Gate
  e : Vector Nat 16
  tk : Vector Nat 8
  acc : Vector Accu 8
  c : Csrs
  sck : W64
  trap1 : Eng
  trap2 : Eng
  stg : Staging
  succ : List W64
  preempt : Bool
  aborted : Bool
  line : Bool
  rdvArr : BitVec 4
  since : Nat
  readyAt : Nat
  saved : Bool
  /-- its next entry to READY takes a new ready time (R101, R335) -/
  yielded : Bool
  /-- the successor list of a task that ends, once read (R88) -/
  list : Option (List W64)
  /-- the stream set is still to be read (R87); its entries once read -/
  unread : Bool
  entries : Vector W64 4
deriving DecidableEq, Repr, Inhabited

/-- A side-log entry (R174): the entry as entered, cut to a 64-byte piece, its place in program order, and why it is logged: where the
pool was exhausted, the line of the descriptor that its birth waits on (R180). -/
structure LogEnt where
  e : Entry
  age : Nat
  exhausted : Option Nat
deriving DecidableEq, Repr, Inhabited

/-- Where a task that is not resident stands (R91): armed; its join count reached and its arrival at its event waiting for a slot;
waiting on the event; its place in a ready queue, or its return to its core's queue, waiting for a slot (R96, R106); ready; ending, for
a task over no iteration whose turn has come (R90). -/
inductive JobState where
  | armed | arriving | waiting | placing | returning | ready | ending
deriving DecidableEq, Repr, Inhabited

/-- A task that is not resident: its fields as they will be dispatched, or its saved state. -/
structure Job where
  t : Task
  st : JobState
  /-- the ready queue it stands in -/
  q : Nat
  aged : Bool
  /-- the lane-slice bytes of its register-file window, the accesses left of its split commands and its side-log entries, as its save
  frame holds them (R152, R174) -/
  rows : List Host.Cell
  paths : List Entry
  logs : List LogEnt
  /-- the die whose save frame it holds -/
  frame : Option Nat
deriving DecidableEq, Repr, Inhabited

/-- An arm entry (R92), keyed by context and task key; that of a node by its stream and replay SEQ as well. -/
structure Arm where
  cid : Nat
  key : W64
  replay : Option Nat
  cnt : Int
  fetched : Bool
  tid : Nat
deriving DecidableEq, Repr, Inhabited

/-- Who waits on an event (R94): a task whose join count is zero, or a stream held at evwait. -/
inductive Waiter where
  | job (tid : Nat)
  | stream (r : Ref) (tid : Nat)
deriving DecidableEq, Repr, Inhabited

/-- An event of a context (R94, R95); `spilt` is one held wholly in the overflow area. -/
structure Event where
  cid : Nat
  name : Nat
  count : Nat
  hw : List Waiter
  ovf : List Waiter
  spilt : Bool
deriving DecidableEq, Repr, Inhabited

/-- A replay in flight (R53, R98): its sequence number, stream, template, generation, ALLNODES, and nodes not ENDED. -/
structure Replay where
  id : Nat
  cid : Nat
  stream : Nat
  seq : W32
  gid : Nat
  tmpl : Nat
  gen : Nat
  all : Bool
  left : Nat
  total : Nat
  status : Nat
deriving DecidableEq, Repr, Inhabited

/-- A task's completion waiting for its writes, and a record waiting for its ring (R56, R58, R59). -/
structure Record where
  seq : W32
  node : BitVec 16
  stream : Nat
  status : Nat
  kill : Bool
deriving DecidableEq, Repr, Inhabited

/-- The launch registers of one function (R47, R48, R96) and its records. -/
structure Fn where
  apbase : W64
  apctx : W64
  apstat : W64
  crbase : W64
  crsize : W64
  crhead : W32
  crtail : W32
  crstat : W64
  crirq : W64
  armbase : W64
  armsize : W64
  queue : List Record
  held : List Record
  unsig : Nat
  unsigAt : Nat
deriving DecidableEq, Repr, Inhabited

/-- A picture on its way out (R68, R72): it, the tag of its access unit, whether REFINE was sampled with the search range, and whether
pictures before it were skipped. -/
structure OutPic where
  pic : Picture
  tag : W32
  refine : Bool
  srange : Nat
  errskip : Bool
deriving DecidableEq, Repr, Inhabited

/-- A picture whose slot areas are written and whose change-mask pass is due (R74 to R80): the descriptor read for it and where it
stands, its record, and whether RUN has been set anew for another descriptor meanwhile (R65). -/
structure CmuJob where
  desc : Nat
  base : Nat
  info : BitVec 512
  old : Bool
  /-- the cycle it was due at -/
  since : Nat
deriving DecidableEq, Repr, Inhabited

/-- A codec stream's registers and progress (R61 to R73, R83): the descriptor's counts as last read, the output count, whether MDBASE is
new, whether the next picture is the first of a run, whether pictures are being skipped, the access units decoded with their tags and
samples of REFINE, and their bytes (newest first), the pictures decoded and not output, the previous output picture, the picture of a
pass; the 64-byte line of AUPROD and RELCNT that is watched, whether a write to it is still to be followed by a read of either (R67, R68),
AUQLOG2 as last read, and whether output waits for RELCNT. -/
structure Media where
  base : W64
  /-- MDBASE as RUN was last set, where the descriptor in use lies (R65) -/
  used : Nat
  ctl : W64
  stat : W64
  engine : Option Nat
  /-- the cycle since when its engine has its oldest request (R265) -/
  since : Nat
  stopping : Bool
  /-- RUN has been set and the descriptor is still to be read (R10, R65) -/
  opening : Bool
  prod : W32
  cons : W32
  rel : W32
  n : W32
  fresh : Bool
  first : Bool
  skipping : Bool
  units : List (W32 × Bool × Nat)
  history : List (List Byte)
  pending : List OutPic
  last : Option Picture
  cmu : Option CmuJob
  watch : Option Nat
  auDue : Bool
  relDue : Bool
  qlog : Nat
  stalled : Bool
deriving DecidableEq, Repr, Inhabited

/-- The registers and progress of one host stream (R47, R50, R51, R54, R331). -/
structure HStream where
  sqbase : W64
  sqsize : W64
  sqhead : W32
  kick : W32
  sqstat : W64
  spn : Nat
  tmpl : Tab Nat
  covers : List (Nat × Nat)
  owner : Nat
  stall : Bool
  qwait : Option Nat
  media : Media
deriving DecidableEq, Repr, Inhabited

/-- One direction of a link (R8, R10, R33 to R37): its keys and KEYSEQ, the flits sent under the current key, those accepted of a
rollover, how often the flit last refused has failed its tag and the count it was sealed with, the cycles at which the flits in the replay
buffer were sent, oldest first, whether a rollover is under way, and the keys of rollovers requested meanwhile. -/
structure LinkDir where
  key : Option Nat
  nextKey : Option Nat
  keyseq : Bool
  flits : Nat
  accepted : Nat
  fails : Nat
  failed : Nat
  replay : List Nat
  rolling : Bool
  waiting : List Nat
deriving DecidableEq, Repr, Inhabited

structure Link where
  up : Bool
  dirs : Vector LinkDir 2
deriving DecidableEq, Repr, Inhabited

/-- The states of a C-die (R30). -/
inductive DieState where
  | fused | reset | attesting | trusted | quarantined
deriving DecidableEq, Repr, Inhabited

/-- One C-die as management sees it: its state, failed attempts, the last step of R28 that passed, the moment of the request that is
out, the slot 0 digest, the portions of the chain received and the key of the leaf it has sent; the state that a reset of it ends in, once
its kills have drained its scrub; DIEUP (R28 to R30, R38); and its fuses and ROM: identity key, serial number and certificate chain, root
first, with the bytes the chain takes (R26). -/
structure Die where
  st : DieState
  att : Nat
  step : Nat
  reqAt : Nat
  digest : Nat
  portions : Nat
  leafKey : Nat
  keys : Nat
  rst : Option DieState
  scrub : Bool
  up : Bool
  idKey : Nat
  serial : Nat
  chain : List Cert
  chainLen : Nat
deriving DecidableEq, Repr, Inhabited

/-- Package management (R13 to R25, R39 to R42, R255 to R257). -/
structure Pkg where
  devid : W64
  ready : Bool
  capped : Bool
  throttle : Bool
  trip : Bool
  pwrlim : Nat
  pwrnow : Nat
  mhz : Nat
  capcnt : Nat
  tempC : Nat
  tempM : Nat
  tempH : Nat
  dieThr : Nat
  hbmThr : Nat
  dies : Vector Die 4
  almstat : BitVec 7
  rollctl : Nat
  almpol : Nat
  eccCnt : Nat
  eccUnc : Nat
  eccAddr : W64
  scrubHours : Nat
  fwOk : Bool
  bindList : List Nat
  rootHash : Nat
  manifest : List Nat
  /-- the identity key and serial number fused in the M-die (R26) -/
  idKey : Nat
  serial : Nat
  /-- the last quarantine that an alarm began: its cycle, the die, and the contexts it kills (R40) -/
  alarm : Option (Nat × Nat × List Nat)
  hold : Bool
  /-- a thermal trip, and an alarm's erase and hold, whose kills are still draining (R20, R40) -/
  tripping : Bool
  holding : Bool
  selfRefresh : BitVec 8
  stackAt : Tab Nat
  shellGated : BitVec 12
  /-- windows in a row at or below 95 % of PWRLIM (R17) -/
  low : Nat
deriving DecidableEq, Repr, Inhabited

/-- Snapshot registers (R264, R265). -/
structure Snap where
  armed : Bool
  held : Bool
  src : Nat
  cid : Nat
  miss : Nat
  time : W64
  sel : W64
  pend : Option (Nat × Nat × Nat)
  recs : Tab W64
deriving DecidableEq, Repr, Inhabited

/-- A written-back translation entry of a slice's TLB (R168), most recently used first in its list. -/
structure TlbEnt where
  die : Nat
  slice : Nat
  cid : Nat
  page : Nat
  leaf : BitVec 128
deriving DecidableEq, Repr, Inhabited

/-- An L2 line of 256 bytes (R160): its number among the HBM keys, the bytes that are valid and those that are dirty. The most recently
used stands first. -/
structure L2Line where
  line : Nat
  valid : BitVec 256
  dirty : BitVec 256
deriving DecidableEq, Repr, Inhabited

/-- A byte a stream stored that no ptfence of it has shown to the walker (R170): its key, the byte walks still read, and the stream. -/
structure Hidden where
  key : Nat
  old : Byte
  tid : Nat
  eng : Eng
deriving DecidableEq, Repr, Inhabited

/-- A view-cache copy (R182), which stands for the L1 line of R159. -/
structure View where
  core : Nat
  cid : Nat
  line : Nat
  data : List Byte
deriving DecidableEq, Repr, Inhabited

/-- An outstanding fault tag (R171). -/
structure FaultTag where
  tag : Nat
  die : Nat
  cid : Nat
  part : Nat
deriving DecidableEq, Repr, Inhabited

/-- A fault-queue record waiting to be posted (R171). -/
structure FaultRec where
  data : BitVec 256
deriving DecidableEq, Repr, Inhabited

/-- A pending page invalidation (R170). -/
structure Inval where
  die : Nat
  cid : Nat
  page : Option Nat
deriving DecidableEq, Repr, Inhabited

/-- A shell B region (R395): bytes, scale area, band scale, context and the form of its load (R397). -/
structure Region where
  data : List Host.Cell
  scale : List Host.Cell
  band : W32
  cid : Nat
  form : Nat
deriving DecidableEq, Repr, Inhabited

/-- An eight's shell: the lease (R119, R292, R407): its holder, the commands and the cycle it counts from, the cores that request it
(a core that lost it at a cap as 96 + core), and the last holder. -/
structure Shell where
  holder : Option Nat
  cmds : Nat
  grantAt : Nat
  reqs : List Nat
  last : Nat
deriving DecidableEq, Repr, Inhabited

/-- A transform ring's progress (R216 to R220): PROD as last read, none before it is, the requests completed as the engines count them, the
cycle since when its oldest request is there, the status and tag of a request that is done, the fault tag that the
ring waits on with the tag of the request that met it, if it was one, and whether its context has been killed. -/
structure Te where
  prod : Option W32
  cons : W32
  since : Nat
  done : Option (Nat × W32)
  wait : Option (Nat × Option W32)
  dead : Bool
deriving DecidableEq, Repr, Inhabited

/-- The scheduler's registers, the values of them that the last dispatch turn took, and its turn state (R104, R107, R108, R110); `asked`
is the cycle of a core's last request that found nothing, plus one. -/
structure Sched where
  age : W64
  drrq : W64
  weights : Tab Nat
  ageIn : W64
  drrqIn : W64
  weightsIn : Tab Nat
  sk : Tab Nat
  act : Tab (List Nat)
  deficit : Tab Int
  asked : Tab Nat
deriving DecidableEq, Repr, Inhabited

/-- The stage table of a staged task (R112 to R118). -/
structure StageTab where
  key : Nat
  grp : Nat
  home : Nat
  lo : Nat
  hi : Nat
  next : Nat
  counts : Tab Nat
  retired : List Nat
deriving DecidableEq, Repr, Inhabited

/-- The parts of a range task (R111), its implicit successors in the order they were added (R333), and whether it has been refused
(R89). -/
structure Parts where
  key : Nat
  live : Nat
  status : Nat
  succ : List W64
  refused : Bool
deriving DecidableEq, Repr, Inhabited

/-- A kill whose drain waits or runs (R252, R253): its records, and the slots its tasks' places in ready queues keep until the drain
ends (R102). -/
structure Kill where
  cid : Nat
  status : Nat
  recs : List (Nat × Record)
  slots : Nat
deriving DecidableEq, Repr, Inhabited

/-- What happens next in the device: a happening, the turn of one stream, or the passing of time. -/
inductive Move where
  | event (i : Instr)
  | run (r : Ref)
  | time (cycles ns : Nat)
deriving DecidableEq, Repr, Inhabited

/-- The whole device. -/
structure State where
  inputs : List Move
  cur : Ref
  cycle : Nat
  timebase : W64
  free : Nat
  uid : Nat
  pkg : Pkg
  links : Vector Link 8
  snap : Snap
  fns : Vector Fn 9
  strmap : Tab Nat
  peerwin : Tab W64
  /-- the 4 KiB pages of host bus addresses at which a peer completes requests with an error (R60) -/
  peerErr : List Nat
  strm : Tab HStream
  /-- what decoding has given for a CODEC and the access units of a bitstream, newest first, up to one: the same again (R61) -/
  decoded : List (Nat × List (List Byte) × AuResult)
  sch : Sched
  ctxtbl : W64
  physwin : W64
  fqbase : W64
  fqsize : W64
  fqhead : W32
  fqtail : W32
  fqwait : List FaultRec
  ctxmap : Tab W64
  kcfg : Tab W64
  kcfgNew : Tab W64
  dsown : Tab W64
  xrtab : Tab W64
  svbase : Tab W64
  svcnt : W64
  killDrop : Bool
  kills : List Kill
  msix : List (Nat × Nat)
  /-- completions of BAR4 reads, by function; none is Unsupported Request (R46) -/
  replies : List (Nat × Option (List Byte))
  tasks : Tab Task
  jobs : List Job
  arms : List Arm
  events : List Event
  replays : List Replay
  parts : List Parts
  stages : List StageTab
  aborts : List (Nat × Nat × Nat × Nat)
  /-- gate arrivals that wait at a core for a task of their context and DOM.ID -/
  arrivals : List Arrival
  phases : List Phase
  shells : Vector Shell 12
  regions : Tab Region
  mem : List Host.Cell
  poison : List Nat
  /-- bits changed by soft errors and not yet read, by 4-byte word (R255) -/
  soft : Tab W32
  l2 : List L2Line
  hidden : List Hidden
  views : List View
  paths : List Entry
  tlb : List TlbEnt
  cmpState : Tab Nat
  /-- pages and the contexts whose tlbinv with ALL has completed since the page's state was set (R169) -/
  cmpDone : List (Nat × Nat)
  blkMeta : Tab (BitVec 8)
  books : Tab (List Byte)
  bookSt : Tab Nat
  faults : List FaultTag
  logs : List LogEnt
  invals : List Inval
  te : Tab Te
  /-- by die, the transform ring whose turn was last, plus one (R217) -/
  teLast : Tab Nat
  /-- by die, the fault tag number given last, plus one (R172) -/
  tagLast : Tab Nat
  wrote : List Nat
  dirty : List Nat
  slotCid : Tab Nat
  dOwner : Tab Nat
deriving DecidableEq, Repr, Inhabited

/-- Why a run stops. -/
inductive Fault where
  /-- An access reaches a physical address at or above the 48 GiB of a die's HBM (R11), where no memory exists. Raised by the
  memory access of any happening or instruction that is performed there. Safe: the spec gives no such memory. -/
  | physHole (die addr : Nat)
deriving DecidableEq, Repr, Inhabited

/-- Why a step has no meaning. -/
inductive Refusal where
  /-- The instruction has no meaning yet; raised by its arm of exec only. Safe: nothing can be proved of its effect. -/
  | notModelled (mnemonic : String)
deriving DecidableEq, Repr, Inhabited

def Loop.empty : Loop where
  n := Vector.replicate 6 0
  idx := Vector.replicate 6 0
  sn := Vector.replicate 6 0
  str := Vector.replicate 8 ⟨0, 0, 0⟩
  sstr := Vector.replicate 8 ⟨0, 0, 0⟩
  start := 0
  len := 0
  run := false

/-- A stream as a dispatch leaves it before its registers are set (R90, R137); `live` false is retired. -/
def EStream.empty : EStream where
  x := Vector.replicate 32 0
  p := Vector.replicate 24 0
  pc := 0
  live := false
  stopped := false
  blk := none
  loop := Loop.empty
  seg := none
  mon := none
  lm := 0xFFFFFFFF
  cq := []
  deferred := []
  hold := .none
  ibuf := []
  body := []
  fetched := none
  illegal := none
  fwait := none
  looked := false
  first := false
  waitH := 0

def Gate.empty : Gate := ⟨false, 0, Vector.replicate 8 0, false⟩

/-- An accumulator as mzero.f32 leaves it (R394, R409). -/
def Accu.empty : Accu := ⟨[], [], .f32, .f32, 0x3F800000, false⟩

/-- The control registers at dispatch (R291). -/
def Csrs.empty : Csrs where
  iter := 0
  nbv := 1
  fpmode := 0
  vstat := 0
  mstat := 0
  layer := 0
  dom := 0
  trapen := 0
  vlive := 0x2000
  acclive := 0xFF
  tl := 0
  cause1 := 0
  epc1 := 0
  eval1 := 0
  cause2 := 0
  epc2 := 0
  eval2 := 0
  tvec := 0
  tsave := 0
  rdv := 0
  snapctl := 0
  thr := []
  dmag := []

/-- An empty slot: every field as a dispatch would leave it for an all-zero record. -/
def Task.empty : Task where
  live := false
  tid := 0
  trec := 0
  cid := 0
  seq := 0
  pblk := 0
  fn := 0
  queued := false
  replay := 0
  part := 0
  grp := 0
  mtask := false
  hi := 0
  st := Vector.replicate 4 EStream.empty
  v := []
  s := Vector.replicate 16 0
  h := Vector.replicate 32 0
  hSince := []
  hPend := 0
  q := Vector.replicate 8 []
  g := []
  e := Vector.replicate 16 0
  tk := Vector.replicate 8 0
  acc := Vector.replicate 8 Accu.empty
  c := Csrs.empty
  sck := 0
  trap1 := .a
  trap2 := .a
  stg := ⟨[], [], false⟩
  succ := []
  preempt := false
  aborted := false
  line := false
  rdvArr := 0
  since := 0
  readyAt := 0
  saved := false
  yielded := false
  list := none
  unread := false
  entries := Vector.replicate 4 0

def Fn.empty : Fn where
  apbase := 0
  apctx := 0
  apstat := 0
  crbase := 0
  crsize := 0
  crhead := 0
  crtail := 0
  crstat := 0
  crirq := 1
  armbase := 0
  armsize := 0
  queue := []
  held := []
  unsig := 0
  unsigAt := 0

def Media.empty : Media where
  base := 0
  used := 0
  ctl := 0
  stat := 0
  engine := none
  since := 0
  stopping := false
  opening := false
  prod := 0
  cons := 0
  rel := 0
  n := 0
  fresh := true
  first := false
  skipping := false
  units := []
  history := []
  pending := []
  last := none
  cmu := none
  watch := none
  auDue := false
  relDue := false
  qlog := 0
  stalled := false

def HStream.empty : HStream where
  sqbase := 0
  sqsize := 0
  sqhead := 0
  kick := 0
  sqstat := 0
  spn := 0
  tmpl := []
  covers := []
  owner := 0
  stall := false
  qwait := none
  media := Media.empty

def LinkDir.empty : LinkDir := ⟨none, none, false, 0, 0, 0, 0, [], false, []⟩
def Link.empty : Link := ⟨false, Vector.replicate 2 LinkDir.empty⟩
/-- The die of a position as it is manufactured: fuses and ROM of the model's choice (notes/assumptions/93.md), nothing done yet. -/
def Die.fresh (d : Nat) : Die where
  st := .fused
  att := 0
  step := 0
  reqAt := 0
  digest := 0
  portions := 0
  leafKey := 0
  keys := 0
  rst := none
  scrub := false
  up := false
  idKey := 16 + d
  serial := 1 + d
  chainLen := 3072
  chain := [⟨1, 1, 0, 0, 1⟩, ⟨2, 1, 0, 0, 2⟩, ⟨16 + d, 2, 1 + d, 0x0960, 16 + d⟩]
def Die.empty : Die := Die.fresh 0

def Pkg.reset : Pkg where
  devid := 0xA1_0960
  ready := false
  capped := false
  throttle := false
  trip := false
  pwrlim := 600
  pwrnow := 0
  mhz := 2900
  capcnt := 0
  tempC := 0
  tempM := 0
  tempH := 0
  dieThr := 100
  hbmThr := 85
  dies := Vector.ofFn fun d : Fin 4 => Die.fresh d.val
  almstat := 0
  rollctl := 0x80
  almpol := 1
  eccCnt := 0
  eccUnc := 0
  eccAddr := 0
  scrubHours := 24
  fwOk := false
  bindList := [1, 2, 3, 4]
  rootHash := 1
  manifest := [1, 2, 3, 0]
  idKey := 20
  serial := 5
  alarm := none
  hold := false
  tripping := false
  holding := false
  selfRefresh := 0
  stackAt := []
  shellGated := 0
  low := 0

/-- The device right after reset: every register at the value its table gives, nothing resident, nothing queued, memory listing
nothing. Where the tables give no value the choice is that of notes/assumptions/2.md. -/
def State.reset : State where
  inputs := []
  cur := ⟨0, 0, .a⟩
  cycle := 0
  timebase := 0
  free := 0
  uid := 1
  pkg := Pkg.reset
  links := Vector.replicate 8 Link.empty
  snap := ⟨true, false, 0, 0, 0, 0, 0, none, []⟩
  fns := Vector.replicate 9 Fn.empty
  strmap := []
  peerwin := []
  peerErr := []
  strm := []
  decoded := []
  sch := ⟨0x4000_2000, 0x1000, [], 0x4000_2000, 0x1000, [], [], [], [], []⟩
  ctxtbl := 0
  physwin := 0
  fqbase := 0
  fqsize := 0
  fqhead := 0
  fqtail := 0
  fqwait := []
  ctxmap := []
  kcfg := []
  kcfgNew := []
  dsown := []
  xrtab := []
  svbase := []
  svcnt := 0
  killDrop := false
  kills := []
  msix := []
  replies := []
  tasks := []
  jobs := []
  arms := []
  events := []
  replays := []
  parts := []
  stages := []
  aborts := []
  arrivals := []
  phases := []
  shells := Vector.replicate 12 ⟨none, 0, 0, [], 0⟩
  regions := []
  mem := []
  poison := []
  soft := []
  l2 := []
  hidden := []
  views := []
  paths := []
  tlb := []
  cmpState := []
  cmpDone := []
  blkMeta := []
  books := []
  bookSt := []
  faults := []
  logs := []
  invals := []
  te := []
  teLast := []
  tagLast := []
  wrote := []
  dirty := []
  slotCid := []
  dOwner := []

end Sys2Proof.Machine
end

