-- ==== Sys2Proof/Machine/Ops.lean ====
section
/-! DEFINITION. The named operations every meaning is written with: tables, memory bytes, registers, control registers, the
issue of an instruction, the discard of a block, taking a trap and returning from one, killing a context. -/

namespace Sys2Proof.Machine

abbrev Out := Host.Outcome State Fault Refusal

/-! ## Tables -/

/-- The entry at a key, or the default. -/
def tget (d : α) : Tab α → Nat → α
  | [], _ => d
  | (k, v) :: t, i => if k = i then v else tget d t i

/-- Without the entries at a key. -/
def tdel (t : Tab α) (i : Nat) : Tab α := t.filter fun e => e.1 != i

/-- With an entry placed before the first larger key. -/
def tins (t : Tab α) (i : Nat) (a : α) : Tab α :=
  match t with
  | [] => [(i, a)]
  | (k, v) :: t' => if i < k then (i, a) :: (k, v) :: t' else (k, v) :: tins t' i a

/-- The table in which a key reads as a value; the default is listed nowhere. -/
def tput [DecidableEq α] (d : α) (t : Tab α) (i : Nat) (a : α) : Tab α :=
  if a = d then tdel t i else tins (tdel t i) i a

/-- Keys strictly rising and no entry equal to the default: the one canonical form. -/
def Tab.wf [DecidableEq α] (d : α) : Tab α → Bool
  | [] => true
  | [(_, v)] => decide (v ≠ d)
  | (k, v) :: (k', v') :: t => decide (k < k') && decide (v ≠ d) && Tab.wf d ((k', v') :: t)

/-! ## Bytes -/

/-- The value of little-endian bytes (R2). -/
def leNat : List Byte → Nat
  | [] => 0
  | b :: bs => b.toNat + 256 * leNat bs

/-- The n little-endian bytes of a value (R2). -/
def toBytes : Nat → Nat → List Byte
  | 0, _ => []
  | n + 1, v => BitVec.ofNat 8 v :: toBytes n (v / 256)

/-- Bits [lo + w − 1 : lo] of a number. -/
def bits (v lo w : Nat) : Nat := v / 2 ^ lo % 2 ^ w

def sx (w : Nat) (v : BitVec w) : W64 := v.signExtend 64
def zx (w : Nat) (v : BitVec w) : W64 := v.zeroExtend 64

/-- A natural number as a signed w-bit one. -/
def sInt (w v : Nat) : Int := if v % 2 ^ w < 2 ^ (w - 1) then (v % 2 ^ w : Nat) else (v % 2 ^ w : Nat) - (2 ^ w : Nat)

/-! ## Memory

Every byte has one key: HBM of die d at d × 2^40, die scratchpads at 4 × 2^40, core scratchpads at 5 × 2^40, register files at
6 × 2^40 and the host bus from 7 × 2^40 up (R155 to R158, R162). -/

def hbmKey (die p : Nat) : Nat := die * 2 ^ 40 + p
def dieKey (die off : Nat) : Nat := 4 * 2 ^ 40 + die * 2 ^ 25 + off
def coreKey (core off : Nat) : Nat := 5 * 2 ^ 40 + core * 2 ^ 22 + off
def rowKey (core row lane byte : Nat) : Nat := 6 * 2 ^ 40 + core * 2 ^ 21 + row * 256 + lane * 4 + byte
def busKey (a : Nat) : Nat := 7 * 2 ^ 40 + a

/-- HBM of a C-die in bytes: 48 GiB (R11). -/
def hbmBytes : Nat := 48 * 2 ^ 30

def State.byte (s : State) (k : Nat) : Byte := tget 0 s.mem k
def State.setByte (s : State) (k : Nat) (b : Byte) : State := { s with mem := tput 0 s.mem k b }

def readKeys (m : List Host.Cell) (k : Nat) : Nat → List Byte
  | 0 => []
  | n + 1 => tget 0 m k :: readKeys m (k + 1) n

def writeKeys (m : List Host.Cell) (k : Nat) : List Byte → List Host.Cell
  | [] => m
  | b :: bs => writeKeys (tput 0 m k b) (k + 1) bs

def State.read (s : State) (k n : Nat) : List Byte := readKeys s.mem k n
def State.readN (s : State) (k n : Nat) : Nat := leNat (s.read k n)
def State.write (s : State) (k : Nat) (bs : List Byte) : State := { s with mem := writeKeys s.mem k bs }

/-- The canonical form of memory. -/
def Memory.wf (s : State) : Bool := Tab.wf (0 : Byte) s.mem

/-! ## Tasks and streams -/

def slotKey (core slot : Nat) : Nat := core * 4 + slot
def State.task (s : State) (core slot : Nat) : Task := tget Task.empty s.tasks (slotKey core slot)
def State.setTask (s : State) (core slot : Nat) (t : Task) : State :=
  { s with tasks := tput Task.empty s.tasks (slotKey core slot) t }
def State.modTask (s : State) (core slot : Nat) (f : Task → Task) : State := s.setTask core slot (f (s.task core slot))

def Task.stm (t : Task) (e : Eng) : EStream := t.st.get e.idx
def Task.setStm (t : Task) (e : Eng) (x : EStream) : Task := { t with st := t.st.set e.idx x }
def Task.modStm (t : Task) (e : Eng) (f : EStream → EStream) : Task := t.setStm e (f (t.stm e))

/-- The task of the stream that moves. -/
def State.my (s : State) : Task := s.task s.cur.core s.cur.slot
def State.modMy (s : State) (f : Task → Task) : State := s.modTask s.cur.core s.cur.slot f
/-- The stream that moves. -/
def State.me (s : State) : EStream := s.my.stm s.cur.eng
def State.modMe (s : State) (f : EStream → EStream) : State := s.modMy fun t => t.modStm s.cur.eng f
def State.modSt (s : State) (r : Ref) (f : EStream → EStream) : State := s.modTask r.core r.slot fun t => t.modStm r.eng f
def State.stm (s : State) (r : Ref) : EStream := (s.task r.core r.slot).stm r.eng

/-- Fields of a task record (R86). -/
def Task.fld (t : Task) (lo w : Nat) : Nat := bits t.trec.toNat lo w
def Task.stream (t : Task) : Nat := t.fld 256 7
def Task.cls (t : Task) : Nat := t.fld 264 2
def Task.tenant (t : Task) : Nat := t.fld 266 3
def Task.range (t : Task) : Bool := t.trec.getLsbD 269
def Task.staged (t : Task) : Bool := t.trec.getLsbD 270
def Task.restart (t : Task) : Bool := t.trec.getLsbD 271
def Task.abgrp (t : Task) : Nat := t.fld 272 8
def Task.sfc (t : Task) : Nat := t.fld 280 4
def Task.node (t : Task) : Nat := t.fld 288 16
def Task.isNode (t : Task) : Bool := t.node != 0xFFFF
def Task.ilo (t : Task) : Nat := t.fld 128 32
def Task.final (t : Task) : Nat := t.fld 360 16
def Task.retry (t : Task) : Nat := t.fld 328 4

/-- Whether the task's global writes are still staged (R258, R259, R115). -/
def Task.staging (t : Task) : Bool := t.restart && !t.staged && !t.stg.ended

/-- An x register: x0 reads as zero (R280). -/
def EStream.rx (e : EStream) (a : R5) : W64 := if a = 0 then 0 else e.x.get a.toFin
/-- A write to x0 is discarded (R280). -/
def EStream.setX (e : EStream) (d : R5) (v : W64) : EStream := if d = 0 then e else { e with x := e.x.set d.toFin v }
def EStream.rp (e : EStream) (a : R5) : W64 := if h : a.toNat < 24 then e.p[a.toNat] else 0
def EStream.setP (e : EStream) (d : R5) (v : W64) : EStream := if h : d.toNat < 24 then { e with p := e.p.set d.toNat v } else e

/-- A register written by an access performed after its block's commit keeps its value when the block open by then is discarded
(R130, R353). -/
def EStream.lateX (e : EStream) (d : R5) (v : W64) : EStream :=
  { e.setX d v with blk := e.blk.map fun b => if d = 0 then b else { b with x0 := b.x0.set d.toFin v } }
def EStream.lateP (e : EStream) (d : R5) (v : W64) : EStream :=
  { e.setP d v with blk := e.blk.map fun b => if h : d.toNat < 24 then { b with p0 := b.p0.set d.toNat v } else b }

def State.x (s : State) (a : R5) : W64 := s.me.rx a
def State.setX (s : State) (d : R5) (v : W64) : State := s.modMe fun e => e.setX d v
def State.p (s : State) (a : R5) : W64 := s.me.rp a
def State.setP (s : State) (d : R5) (v : W64) : State := s.modMe fun e => e.setP d v

/-- A vector register of 64 lanes (R372). -/
def zeroRow : Vector W32 64 := Vector.replicate 64 0
def Task.row (t : Task) (v : Nat) : Vector W32 64 := tget zeroRow t.v v
def Task.setRow (t : Task) (v : Nat) (x : Vector W32 64) : Task := { t with v := tput zeroRow t.v v x }

/-- The same of a row that a queued command writes (R388). -/
def Task.lateRow (t : Task) (v : Nat) (x : Vector W32 64) : Task :=
  (t.setRow v x).modStm .v fun st => { st with blk := st.blk.map fun b => { b with v0 := tput zeroRow b.v0 v x } }

def State.v (s : State) (a : R6) : Vector W32 64 := s.my.row a.toNat
def State.putV (s : State) (d : R6) (x : Vector W32 64) : State := s.modMy fun t => t.setRow d.toNat x
/-- Lanes of a row that are written hold no error any more (R255). -/
def State.cleanRow (s : State) (r : Ref) (d : R6) (on : W64) : State :=
  let k := rowKey r.core (2048 * r.slot + d.toNat) 0 0 / 4
  if s.soft.isEmpty then s
  else { s with soft := s.soft.filter fun e => !(k ≤ e.1 && e.1 < k + 64 && on.getLsbD (e.1 - k)) }
def State.setV (s : State) (d : R6) (x : Vector W32 64) : State := (s.putV d x).cleanRow s.cur d (BitVec.allOnes 64)

/-- Core numbering (R104, R292): 24 × die + 8 × eight + core-in-eight. -/
def dieOf (core : Nat) : Nat := core / 24
def eightOf (core : Nat) : Nat := core / 8
def inEight (core : Nat) : Nat := core % 8

/-- The engines on a stream's ring (R131): the counters a stream takes from on WP and WN, and signals on SP and SN. -/
def wpTok : Eng → Nat | .a => 3 | .m => 0 | .v => 1 | .s => 2
def wnTok : Eng → Nat | .a => 4 | .m => 5 | .v => 6 | .s => 7
def spTok : Eng → Nat | .a => 7 | .m => 4 | .v => 5 | .s => 6
def snTok : Eng → Nat | .a => 0 | .m => 1 | .v => 2 | .s => 3
/-- The engine that signals a counter (R131). -/
def tokSender : Nat → Eng
  | 0 => .a | 1 => .m | 2 => .v | 3 => .s | 4 => .m | 5 => .v | 6 => .s | _ => .a

/-! ## Control registers -/

/-- The writable bits of a control register (R291, R229, R245, R142, R147, R138, R152). -/
def csrMask (n : Nat) : W64 :=
  if n = 0x004 then 0xFF
  else if n = 0x005 then 0x7
  else if n = 0x006 then 0x0000_FFFF_FFFF_003F
  else if n = 0x007 then 0x3F
  else if n = 0x008 then 0x3F
  else if n = 0x00A then 0x0000_00FF_FFFF_FFFF
  else if n = 0x00B then 0x3
  else if n = 0x00C then 0x3FFF
  else if n = 0x00D then 0xFF
  else if n = 0x011 ∨ n = 0x014 then 0x7FF
  else if n = 0x012 ∨ n = 0x015 then 0x0000_FFFF_FFFF_FFFF
  else if n = 0x013 ∨ n = 0x016 ∨ n = 0x018 then 0xFFFF_FFFF_FFFF_FFFF
  else if n = 0x017 then 0x0000_FFFF_FFFF_F001
  else if 0x020 ≤ n ∧ n ≤ 0x02B then 0xFFFF_FFFF
  else if n = 0x031 then 0x1F_FFFF
  else if n = 0x040 then 0xF
  else if 0x100 ≤ n ∧ n ≤ 0x13F then 0xFFFF_FFFF
  else if 0x140 ≤ n ∧ n ≤ 0x17F then 0xFFFF_FFFF_FFFF_FFFF
  else 0

def shellAt (s : State) (core : Nat) : Shell := (s.shells.toList)[eightOf core]?.getD ⟨none, 0, 0, [], 0⟩
def State.modShell (s : State) (core : Nat) (f : Shell → Shell) : State :=
  if h : eightOf core < 12 then { s with shells := s.shells.set (eightOf core) (f s.shells[eightOf core]) } else s
/-- The lease of a core ends (R119). -/
def Shell.free (cycle core : Nat) (sh : Shell) : Shell :=
  if sh.holder = some core then { sh with holder := none, cmds := 0, grantAt := cycle, last := core } else sh
/-- A core's M task leaves: its lease and its requests go (R119, R152). -/
def dropLease (s : State) (core : Nat) : State :=
  s.modShell core fun sh => { sh.free s.cycle core with reqs := sh.reqs.filter fun r => r != core && r != 96 + core }

/-- LEASE (R292). -/
def State.lease (s : State) (core : Nat) : W64 :=
  let sh := shellAt s core
  if sh.holder = some core then
    BitVec.ofNat 64 (1 + 2 * min sh.cmds 256 + 1024 * min (s.cycle - sh.grantAt) 4096)
  else 0

/-- A control register as the stream `r` of task `t` reads it (R291 to R293). -/
def csrGet (s : State) (t : Task) (r : Ref) (n : Nat) : W64 :=
  let l := (t.stm r.eng).loop
  if n = 0x000 then BitVec.ofNat 64 (t.stream + t.tenant * 2 ^ 8 + t.cid * 2 ^ 16 + r.eng.idx.val * 2 ^ 30)
  else if n = 0x001 then BitVec.ofNat 64 (r.core + r.slot * 2 ^ 7)
  else if n = 0x002 then BitVec.ofNat 64 (t.seq.toNat + t.node * 2 ^ 32 + t.fld 304 16 * 2 ^ 48)
  else if n = 0x003 then t.c.iter.zeroExtend 64
  else if n = 0x004 then t.c.nbv
  else if n = 0x005 then t.c.fpmode
  else if n = 0x006 then t.c.vstat
  else if n = 0x007 then t.c.mstat
  else if n = 0x008 then t.c.layer
  else if n = 0x009 then BitVec.ofNat 64 (2048 * r.slot + 2048 * 2 ^ 16)
  else if n = 0x00A then t.c.dom
  else if n = 0x00B then t.c.trapen
  else if n = 0x00C then t.c.vlive
  else if n = 0x00D then t.c.acclive
  else if n = 0x010 then BitVec.ofNat 64 t.c.tl
  else if n = 0x011 then t.c.cause1
  else if n = 0x012 then t.c.epc1
  else if n = 0x013 then t.c.eval1
  else if n = 0x014 then t.c.cause2
  else if n = 0x015 then t.c.epc2
  else if n = 0x016 then t.c.eval2
  else if n = 0x017 then t.c.tvec
  else if n = 0x018 then t.c.tsave
  else if h : 0x020 ≤ n ∧ n ≤ 0x025 then l.idx[n - 0x020] ++ l.n[n - 0x020]
  else if h : 0x026 ≤ n ∧ n ≤ 0x02B then (l.sn[n - 0x026]).zeroExtend 64
  else if n = 0x030 then s.lease r.core
  else if n = 0x031 then t.c.rdv
  else if n = 0x040 then t.c.snapctl
  else if 0x100 ≤ n ∧ n ≤ 0x13F then tget 0 t.c.thr (n - 0x100)
  else if 0x140 ≤ n ∧ n ≤ 0x17F then tget 0 t.c.dmag (n - 0x140)
  else 0

/-- A write of a loop count: the shadow, and the live count while RUN is 0 (R142). -/
def Loop.setCount (l : Loop) (k : Nat) (c : W32) : Loop :=
  if h : k < 6 then
    let l := { l with sn := l.sn.set k c }
    if l.run then l else { l with n := l.n.set k c }
  else l

/-- FIRED of a rendezvous follows from its mask and the engines that have arrived (R138). -/
def rdvFire (v : W64) (arr : BitVec 4) : W64 :=
  if v.getLsbD 20 && (v.extractLsb' 16 4 &&& ~~~arr) == 0 then v ||| 0x20_0000 else v

/-- A write of RDV: one that sets ARM starts a rendezvous, at which engines whose LM equals NUM have arrived (R138). -/
def Task.rdvWrite (t : Task) (w : W64) : Task :=
  if w.getLsbD 20 then
    let num : W32 := (w.extractLsb' 0 16).zeroExtend 32
    let arr : BitVec 4 := Eng.all.foldl (fun a e => if (t.stm e).lm == num then a ||| (1#4 <<< e.idx.val) else a) 0
    { t with rdvArr := arr, c := { t.c with rdv := rdvFire (w &&& 0x1F_FFFF) arr } }
  else { t with c := { t.c with rdv := w } }

/-- setc and clrc change only the bits of RDV that they name (R316): one that sets ARM starts a rendezvous, any other leaves the arrivals
and FIRED as they stand. -/
def Task.rdvOr (t : Task) (v : W64) : Task :=
  let w := t.c.rdv ||| (v &&& csrMask 0x031)
  if v.getLsbD 20 then t.rdvWrite w else { t with c := { t.c with rdv := rdvFire w t.rdvArr } }
def Task.rdvAnd (t : Task) (v : W64) : Task :=
  { t with c := { t.c with rdv := rdvFire (t.c.rdv &&& ~~~(v &&& csrMask 0x031)) t.rdvArr } }

/-- A control register with the writable bits of `v` (R316, R317); `old` bits outside the mask stay. -/
def csrPut (t : Task) (e : Eng) (n : Nat) (v : W64) : Task :=
  let m := csrMask n
  let mix (old : W64) : W64 := (v &&& m) ||| (old &&& ~~~m)
  let c := t.c
  if n = 0x004 then { t with c := { c with nbv := mix c.nbv } }
  else if n = 0x005 then { t with c := { c with fpmode := mix c.fpmode } }
  else if n = 0x006 then { t with c := { c with vstat := mix c.vstat } }
  else if n = 0x007 then { t with c := { c with mstat := mix c.mstat } }
  else if n = 0x008 then { t with c := { c with layer := mix c.layer } }
  else if n = 0x00A then { t with c := { c with dom := mix c.dom } }
  else if n = 0x00B then { t with c := { c with trapen := mix c.trapen } }
  else if n = 0x00C then { t with c := { c with vlive := mix c.vlive } }
  else if n = 0x00D then { t with c := { c with acclive := mix c.acclive } }
  else if n = 0x011 then { t with c := { c with cause1 := mix c.cause1 } }
  else if n = 0x012 then { t with c := { c with epc1 := mix c.epc1 } }
  else if n = 0x013 then { t with c := { c with eval1 := mix c.eval1 } }
  else if n = 0x014 then { t with c := { c with cause2 := mix c.cause2 } }
  else if n = 0x015 then { t with c := { c with epc2 := mix c.epc2 } }
  else if n = 0x016 then { t with c := { c with eval2 := mix c.eval2 } }
  else if n = 0x017 then { t with c := { c with tvec := mix c.tvec } }
  else if n = 0x018 then { t with c := { c with tsave := mix c.tsave } }
  else if 0x020 ≤ n ∧ n ≤ 0x025 then t.modStm e fun st => { st with loop := st.loop.setCount (n - 0x020) (v.extractLsb' 0 32) }
  else if h : 0x026 ≤ n ∧ n ≤ 0x02B then
    t.modStm e fun st => { st with loop := { st.loop with sn := st.loop.sn.set (n - 0x026) (v.extractLsb' 0 32) } }
  else if n = 0x031 then
    t.rdvWrite (mix c.rdv)
  else if n = 0x040 then { t with c := { c with snapctl := mix c.snapctl } }
  else if 0x100 ≤ n ∧ n ≤ 0x13F then { t with c := { c with thr := tput 0 c.thr (n - 0x100) (v &&& m) } }
  else if 0x140 ≤ n ∧ n ≤ 0x17F then { t with c := { c with dmag := tput 0 c.dmag (n - 0x140) v } }
  else t

/-- A saturating add to a status counter field of 16 bits. -/
def satField (v : W64) (lo k : Nat) : W64 :=
  let old := bits v.toNat lo 16
  v + BitVec.ofNat 64 ((min (old + k) 0xFFFF - old) * 2 ^ lo)

/-- DMAG accumulates with saturation (R239). -/
def dmagAdd (t : Task) (l n : Nat) : Task :=
  { t with c := { t.c with dmag := tput 0 t.c.dmag l (BitVec.ofNat 64 (min ((tget 0 t.c.dmag l).toNat + n) (2 ^ 64 - 1))) } }

/-! ## Effects of an open block -/

/-- The effects that later instructions of the block see (R127): those of the task's own registers and loop state. -/
def taskEff (e : Eng) (t : Task) : Eff → Task
  | .setS i v => { t with s := t.s.set i.toFin v }
  | .csr n v => if n = 0x004 then t else csrPut t e n v
  | .csrOr n v => if n = 0x004 then t else if n = 0x031 then t.rdvOr v else csrPut t e n (csrGet State.reset t ⟨0, 0, e⟩ n ||| v)
  | .csrAnd n v => if n = 0x004 then t else if n = 0x031 then t.rdvAnd v else csrPut t e n (csrGet State.reset t ⟨0, 0, e⟩ n &&& ~~~v)
  | .lc lvl cnt => t.modStm e fun st => { st with loop := st.loop.setCount (lvl - 1) cnt }
  | .stride k x => t.modStm e fun st =>
      if h : k < 8 then
        let l := { st.loop with sstr := st.loop.sstr.set k x }
        { st with loop := if l.run then l else { l with str := l.str.set k x } }
      else st
  | .loopgo len => t.modStm e fun st =>
      { st with loop := { st.loop with n := st.loop.sn, str := st.loop.sstr, idx := Vector.replicate 6 0, len := len, run := true } }
  | .loopbrk => t.modStm e fun st => { st with loop := { st.loop with run := false } }
  | .vcnt u sat => { t with c := { t.c with vstat := satField (satField t.c.vstat 16 u) 32 sat } }
  | .dmag l n => dmagAdd t l n
  | .entry _ | .cmd _ | .gexp _ _ _ | .ginit _ _ | .hset _ _ _ _ | .hfree _ | .drain _ | .mclr | .yield | .abort | .eret
  | .segb _ _ | .sege | .stage _ _ => t

/-- The same but for what loopgo and loopbrk do at the commit only (R143). -/
def viewEff (e : Eng) (t : Task) : Eff → Task
  | .loopgo _ | .loopbrk => t
  | x => taskEff e t x

/-- The block of the moving stream, if one is open. -/
def State.blk (s : State) : Option Block := s.me.blk
def State.effs (s : State) : List Eff := match s.blk with | some b => b.effs | none => []
def State.modBlk (s : State) (f : Block → Block) : State := s.modMe fun st => { st with blk := st.blk.map f }
def State.addEff (s : State) (e : Eff) : State := s.modBlk fun b => { b with effs := b.effs ++ [e] }
/-- The moving stream's task as the stream itself sees it (R127). -/
def State.view (s : State) : Task := s.effs.foldl (viewEff s.cur.eng) s.my
/-- The value a control register would have at the block's commit, NBV included. -/
def State.csr (s : State) (n : Nat) : W64 :=
  if n = 0x004 then
    s.effs.foldl (fun v e => match e with
      | .csr 0x004 w => (w &&& 0xFF) ||| (v &&& ~~~(0xFF : W64))
      | .csrOr 0x004 w => v ||| (w &&& 0xFF)
      | .csrAnd 0x004 w => v &&& ~~~(w &&& 0xFF)
      | _ => v) s.my.c.nbv
  else csrGet s s.view s.cur n
/-- Flags of a vector instruction enter VSTAT at commit (R230). -/
def State.flags (s : State) (f : W64) : State := if f = 0 then s else s.addEff (.csrOr 0x006 f)
def State.sreg (s : State) (i : BitVec 4) : BitVec 512 := s.view.s.get i.toFin
def State.hreg (s : State) (h : R5) : BitVec 128 := s.my.h.get h.toFin

/-- The head word of the instruction at issue, for EVAL (R251). -/
def State.headWord (s : State) : W32 := match s.blk with | some b => b.words.headD 0 | none => 0

/-! ## Snapshots, records and kills -/

/-- A trigger of the snapshot (R264): latched 256 ns later; one that comes while a snapshot is held or pending is counted. -/
def State.fireSnap (s : State) (src cid : Nat) : State :=
  if s.snap.held || s.snap.pend.isSome || !s.snap.armed then
    { s with snap := { s.snap with miss := min (s.snap.miss + 1) 0xFFFF } }
  else { s with snap := { s.snap with pend := some (s.timebase.toNat, src, cid) } }

/-- A message to the host (R58). -/
def State.signalVec (s : State) (f vec : Nat) : State := { s with msix := s.msix ++ [(f, vec)] }

/-- The place of an accumulator's word in the keys of errors (R255). -/
def accKey (core acc i : Nat) : Nat := 2 ^ 71 + core * 2 ^ 18 + acc * 2 ^ 15 + 4 * i
/-- The same of an x register of a stream. -/
def regKey (r : Ref) (i : Nat) : Nat := 2 ^ 71 + 2 ^ 34 + ((r.core * 4 + r.slot) * 4 + r.eng.idx.val) * 256 + 8 * i
/-- The same of a predicate register of a stream and of a stream register of a slot. -/
def predKey (r : Ref) (i : Nat) : Nat := 2 ^ 71 + 2 ^ 35 + ((r.core * 4 + r.slot) * 4 + r.eng.idx.val) * 256 + 8 * i
def sregKey (core slot i : Nat) : Nat := 2 ^ 71 + 2 ^ 36 + (core * 4 + slot) * 1024 + 64 * i
/-- The same of a line of a core's L1, of a word in a stream's instruction buffer, of an entry of a side log, and of the staged copy that a
task has of a word of HBM. -/
def viewKey (core cid line : Nat) : Nat := 2 ^ 80 + ((core * 4096 + cid) * 2 ^ 42 + line) * 64
def ibufKey (r : Ref) (a : Nat) : Nat := 2 ^ 81 + ((r.core * 4 + r.slot) * 4 + r.eng.idx.val) * 2 ^ 48 + a
def logKey (core uid : Nat) : Nat := 2 ^ 100 * (uid + 1) + core * 2 ^ 7
def stageKey (tid k : Nat) : Nat := 2 ^ 100 * (tid + 1) + 2 ^ 99 + k
/-- The same of the copy of an HBM word in its L2 slice, of a shell store of an eight, and of a store of the M-die. -/
def l2Key (k : Nat) : Nat := 2 ^ 72 + k
def shellKey (eight off : Nat) : Nat := 2 ^ 70 + eight * 2 ^ 32 + off
def mdieKey (store off : Nat) : Nat := 2 ^ 73 + store * 2 ^ 48 + off

/-- Where an error lies: the die, the store code and the address in that die's store (R257). -/
def errPlace (k : Nat) : Nat × Nat × Nat :=
  if k < 4 * 2 ^ 40 then (k / 2 ^ 40, 0, k % 2 ^ 40)
  else if k < 5 * 2 ^ 40 then ((k - 4 * 2 ^ 40) / 2 ^ 25, 2, k % 2 ^ 25)
  else if k < 6 * 2 ^ 40 then ((k - 5 * 2 ^ 40) / (24 * 2 ^ 22), 3, (k - 5 * 2 ^ 40) % (24 * 2 ^ 22))
  else if k < 7 * 2 ^ 40 then ((k - 6 * 2 ^ 40) / (24 * 2 ^ 21), 5, (k - 6 * 2 ^ 40) % (24 * 2 ^ 21))
  else if k < 2 ^ 71 then ((k - 2 ^ 70) / 2 ^ 32 / 3, 4, (k - 2 ^ 70) % (3 * 2 ^ 32))
  else if k < 2 ^ 71 + 2 ^ 34 then ((k - 2 ^ 71) / 2 ^ 18 / 24, 5, 2 ^ 35 + (k - 2 ^ 71) % (24 * 2 ^ 18))
  else if k < 2 ^ 71 + 2 ^ 35 then ((k - 2 ^ 71 - 2 ^ 34) / (24 * 2 ^ 12), 5, 2 ^ 35 + 2 ^ 34 + (k - 2 ^ 71 - 2 ^ 34) % (24 * 2 ^ 12))
  else if k < 2 ^ 71 + 2 ^ 36 then
    ((k - 2 ^ 71 - 2 ^ 35) / (24 * 2 ^ 12), 5, 2 ^ 35 + 2 ^ 34 + 2 ^ 33 + (k - 2 ^ 71 - 2 ^ 35) % (24 * 2 ^ 12))
  else if k < 2 ^ 72 then
    ((k - 2 ^ 71 - 2 ^ 36) / (24 * 2 ^ 12), 5, 2 ^ 35 + 2 ^ 34 + 2 ^ 33 + 2 ^ 32 + (k - 2 ^ 71 - 2 ^ 36) % (24 * 2 ^ 12))
  else if k < 2 ^ 73 then ((k - 2 ^ 72) / 2 ^ 40, 1, k % 2 ^ 40)
  else if k < 2 ^ 80 then (4, (k - 2 ^ 73) / 2 ^ 48, k % 2 ^ 48)
  else if k % 2 ^ 100 < 2 ^ 99 then (k % 2 ^ 100 / 2 ^ 7 / 24, 3, 2 ^ 35 + k % 2 ^ 100 % (24 * 2 ^ 7))
  else (k % 2 ^ 99 / 2 ^ 40, 1, k % 2 ^ 40)
/-- Stores protected over each 32 bits, without poison bits (R255). -/
def isRegFile (k : Nat) : Bool :=
  (6 * 2 ^ 40 ≤ k && k < 7 * 2 ^ 40) || (2 ^ 71 ≤ k && k < 2 ^ 72) || (2 ^ 80 ≤ k && (k < 2 ^ 82 || k % 2 ^ 100 < 2 ^ 99))
/-- A piece of what a task has staged becomes poisoned (R256, R258). -/
def poisonStaged (s : State) (tid piece : Nat) : State :=
  let add (t : Task) : Task :=
    if t.tid = tid && !t.stg.poison.contains piece then { t with stg := { t.stg with poison := t.stg.poison ++ [piece] } } else t
  { s with tasks := s.tasks.map fun e => (e.1, add e.2), jobs := s.jobs.map fun j => { j with t := add j.t } }

def flips (m : W32) : Nat := ((List.range 32).filter fun i => m.getLsbD i).length

/-- A read of one protected word (R255, R257): one changed bit is written back corrected and counted; more poison the piece, and
are counted, recorded and signalled. A register-file or accumulator word has no poison bit and stays uncorrectable. -/
def eccWord (s : State) (k : Nat) : State :=
  let w := if isRegFile k then k / 4 * 4 else k / 8 * 8
  let ks := if isRegFile k then [w / 4] else [w / 4, w / 4 + 1]
  let n := (ks.map fun i => flips (tget 0 s.soft i)).sum
  let clear (s : State) : State := { s with soft := ks.foldl tdel s.soft }
  if n = 0 then s
  else if n = 1 then { clear s with pkg := { s.pkg with eccCnt := min (s.pkg.eccCnt + 1) 0xFFFF_FFFF } }
  else
    let (d, st, a) := errPlace w
    let at_ : W64 := BitVec.ofNat 64 (a / 64 * 64 % 2 ^ 36 + d * 2 ^ 36 + st * 2 ^ 39)
    let s1 := if isRegFile k then s
      else if 2 ^ 82 ≤ w then poisonStaged (clear s) (w / 2 ^ 100 - 1) (w % 2 ^ 99 / 64)
      else
        let piece := (if 2 ^ 72 ≤ w && w < 2 ^ 73 then w - 2 ^ 72 else w) / 64
        { clear s with poison := if s.poison.contains piece then s.poison else s.poison ++ [piece] }
    { s1 with pkg := { s1.pkg with eccUnc := min (s1.pkg.eccUnc + 1) 0xFFFF_FFFF, eccAddr := at_ } }.signalVec 0 3

/-- A read of n bytes at a key. -/
def eccRead (s : State) (k n : Nat) : State :=
  if s.soft.isEmpty || n = 0 then s
  else
    let u := if isRegFile k then 4 else 8
    let ks := (s.soft.map (·.1)).filter fun i => k / u * u ≤ 4 * i && 4 * i < (k + n - 1) / u * u + u
    ks.foldl (fun s i => eccWord s (4 * i)) s

/-- A write of n bytes at a key: protected words written whole hold no error any more, words written in part are read first. -/
def eccWrite (s : State) (k n : Nat) : State :=
  if s.soft.isEmpty || n = 0 then s
  else
    let u := if isRegFile k then 4 else 8
    let s := { s with soft := s.soft.filter fun e => !(k ≤ 4 * e.1 / u * u && 4 * e.1 / u * u + u ≤ k + n) }
    eccRead s k n

/-- Words of n bytes at a key hold no error any more. -/
def eccClean (s : State) (k n : Nat) : State :=
  if s.soft.isEmpty then s else { s with soft := s.soft.filter fun e => !(k ≤ 4 * e.1 && 4 * e.1 < k + n) }
/-- A read of a copy that is fetched again where it holds an error: whether it does, each word counted as corrected (R255). -/
def cacheRead (s : State) (k n : Nat) : Bool × State :=
  let ws := s.soft.filter fun e => k ≤ 4 * e.1 && 4 * e.1 < k + n
  if ws.isEmpty then (false, s)
  else (true, eccClean { s with pkg := { s.pkg with eccCnt := min (s.pkg.eccCnt + ws.length) 0xFFFF_FFFF } } k n)

/-- Whether bytes hold an uncorrectable register-file or accumulator word. -/
def badWord (s : State) (k n : Nat) : Bool :=
  isRegFile k && s.soft.any fun e => k / 4 ≤ e.1 && 4 * e.1 < k + n && flips e.2 ≥ 2

def fnAt (s : State) (f : Nat) : Fn := if h : f < 9 then s.fns[f] else Fn.empty
def State.modFn (s : State) (f : Nat) (g : Fn → Fn) : State :=
  if h : f < 9 then { s with fns := s.fns.set f (g s.fns[f]) } else s
def hst (s : State) (i : Nat) : HStream := tget HStream.empty s.strm i
def State.modStrm (s : State) (i : Nat) (g : HStream → HStream) : State :=
  { s with strm := tput HStream.empty s.strm i (g (hst s i)) }

/-! ## Dies, contexts and their keys (R31, R92, R165) -/

/-- Whether a die takes part: TRUSTED with DIEUP set (R31). -/
def dieOk (s : State) (d : Nat) : Bool := if h : d < 4 then s.pkg.dies[d].st == .trusted && s.pkg.dies[d].up else false
/-- The die, or the next TRUSTED die counting upward modulo 4 (R92, R95, R105). -/
def nextDie (s : State) (d : Nat) : Nat := ([d % 4, (d + 1) % 4, (d + 2) % 4, (d + 3) % 4].find? (dieOk s)).getD (d % 4)
/-- The context table entry of a context on a die. -/
def ctxKey (s : State) (d cid : Nat) : Nat := hbmKey d (bits s.ctxtbl.toNat 18 18 * 2 ^ 18 + 64 * cid)
def ctxEntry (s : State) (d cid : Nat) : Nat := s.readN (ctxKey s d cid) 64
def ctxValid (s : State) (d cid : Nat) : Bool := (ctxEntry s d cid).testBit 0
def ctxTenant (s : State) (d cid : Nat) : Nat := bits (ctxEntry s d cid) 1 3
def ctxMgmt (s : State) (d cid : Nat) : Bool := (ctxEntry s d cid).testBit 4
/-- The tenant of a context, by its entry on the lowest die that takes part. -/
def tenantOf (s : State) (cid : Nat) : Nat := ctxTenant s (nextDie s 0) cid

/-- The DSOWN entry of a part of a die scratchpad (R164). -/
def dsOwn (s : State) (die part : Nat) : W64 := tget 0 s.dsown (die * 32 + part)
def dsOk (s : State) (cid die part : Nat) : Bool :=
  let e := (dsOwn s die part).toNat
  bits e 15 1 == 1 && bits e 0 12 == cid
/-- Whether a context owns every part that n bytes of .d reach (R158). -/
def dsOwned (s : State) (cid a n : Nat) : Bool :=
  dsOk s cid (a / 2 ^ 25) (a % 2 ^ 25 / 2 ^ 20) && dsOk s cid ((a + n - 1) / 2 ^ 25) ((a + n - 1) % 2 ^ 25 / 2 ^ 20)

/-- The HBM stack an access wakes (R16): two stacks of 24 GiB a die, in address order. -/
def stackOf (key : Nat) : Nat := 2 * (key / 2 ^ 40) + (if key % 2 ^ 40 < hbmBytes / 2 then 0 else 1)
def touchHbm (s : State) (key : Nat) : State :=
  if key < 4 * 2 ^ 40 then
    { s with pkg := { s.pkg with
      selfRefresh := s.pkg.selfRefresh &&& ~~~(1#8 <<< stackOf key)
      stackAt := tput 0 s.pkg.stackAt (stackOf key) s.timebase.toNat } }
  else s

/-- Stores of some streams are shown to the walker, and with them the older stores to the same bytes (R170). -/
def showAll (is : Hidden → Bool) : List Hidden → List Hidden
  | [] => []
  | h :: t => if is h || t.any (fun g => g.key == h.key && is g) then showAll is t else h :: showAll is t

/-! ## The task of an entry

An entry that stays in its path while its task is pre-empted acts on the task where it is saved (R197). -/

def State.ownTask (s : State) (r : Ref) (tid : Nat) : Task :=
  if (s.task r.core r.slot).tid = tid then s.task r.core r.slot
  else match s.jobs.find? fun j => j.t.tid == tid with | some j => j.t | none => Task.empty
def State.modOwn (s : State) (r : Ref) (tid : Nat) (f : Task → Task) : State :=
  if (s.task r.core r.slot).tid = tid then s.modTask r.core r.slot f
  else { s with jobs := s.jobs.map fun j => if j.t.tid == tid then { j with t := f j.t } else j }
def State.modOwnSt (s : State) (r : Ref) (tid : Nat) (f : EStream → EStream) : State := s.modOwn r tid fun t => t.modStm r.eng f

/-! ## Waits of the memory system (R171, R172) -/

/-- Wait codes beside fault tags: no tag free on a die, the side log of a core full. -/
def noTagWait (d : Nat) : Nat := 0xF000 + d
def logFullWait (core : Nat) : Nat := 0xF010 + core

def Entry.clear (w : Nat) (e : Entry) : Entry := if e.wait == some w then { e with wait := none } else e
def LogEnt.clear (w : Nat) (l : LogEnt) : LogEnt := { l with e := l.e.clear w }
def Task.clearFetch (w : Nat) (t : Task) : Task :=
  { t with st := t.st.map fun st => match st.fwait with
    | some (f, _) => if f == w then { st with fwait := none } else st
    | none => st }
/-- Waits on a code end: the accesses translate again. -/
def clearWait (s : State) (w : Nat) : State :=
  { s with
    paths := s.paths.map (Entry.clear w)
    logs := s.logs.map (LogEnt.clear w)
    tasks := s.tasks.map fun k => (k.1, k.2.clearFetch w)
    jobs := s.jobs.map fun j => { j with t := j.t.clearFetch w, paths := j.paths.map (Entry.clear w), logs := j.logs.map (LogEnt.clear w) }
    te := s.te.map fun k => (k.1, match k.2.wait with | some (t, _) => if t == w then { k.2 with wait := none } else k.2 | none => k.2)
    strm := s.strm.map fun k => (k.1, if k.2.qwait == some w then { k.2 with qwait := none } else k.2) }
def clearWaits (s : State) (ws : List Nat) : State := ws.foldl clearWait s
/-- Tags are free again, and accesses that found none translate again (R171). -/
def freeTags (s : State) (p : FaultTag → Bool) : State :=
  clearWaits { s with faults := s.faults.filter fun f => !p f } (((s.faults.filter p).map fun f => noTagWait (f.tag / 1024)).dedup)
def freeTag (s : State) (tag : Nat) : State := freeTags s fun f => f.tag == tag
/-- Side-log entries leave, and accesses that found a log full try again (R174). -/
def freeLogs (s : State) (p : LogEnt → Bool) : State :=
  clearWaits { s with logs := s.logs.filter fun l => !p l } (((s.logs.filter p).map fun l => logFullWait l.e.r.core).dedup)

/-- The function whose accepted KICK write covered record k of a stream (R58). -/
def coverOf (h : HStream) (k : W32) : Nat :=
  ((h.covers.find? fun c => let d := (BitVec.ofNat 32 c.1 - k).toNat; 0 < d && d < 2 ^ 31).map (·.2)).getD h.owner
/-- FETCHERR of a stream whose record cannot be read for good (R447, R58). -/
def fetchErr (s : State) (i : Nat) : State :=
  let f := coverOf (hst s i) (hst s i).sqhead
  let s := s.modStrm i fun h => { h with sqstat := h.sqstat ||| 0x4, qwait := none, stall := true }
  (if f = 0 then [0] else [f, 0]).foldl (fun s f => s.signalVec f 1) s
/-- The streams whose fetch of a record waits on a fault of some tags. -/
def fetchErrs (s : State) (tags : List Nat) : State :=
  (List.range 128).foldl (fun s i => match (hst s i).qwait with
    | some w => if tags.contains w then fetchErr s i else s
    | none => s) s

/-! ## Deficits (R108) -/

/-- The key of a die's list of a class, and of a stream's deficit in it. -/
def actKey (die cls : Nat) : Nat := die * 4 + cls
def defKey (die cls stream : Nat) : Nat := actKey die cls * 128 + stream
def defOf (s : State) (die cls stream : Nat) : Int := tget 0 s.sch.deficit (defKey die cls stream)
def addDef (s : State) (die cls stream : Nat) (v : Int) : State :=
  { s with sch := { s.sch with deficit := tput 0 s.sch.deficit (defKey die cls stream) (defOf s die cls stream + v) } }
/-- Streams with tasks of a class READY or resident on a die. -/
def classStreams (s : State) (die cls : Nat) : List Nat :=
  ((s.jobs.filter fun j => j.st == .ready && dieOf j.q == die && j.t.cls == cls).map fun j => j.t.stream) ++
  ((s.tasks.filter fun e => e.2.live && dieOf (e.1 / 4) == die && e.2.cls == cls).map fun e => e.2.stream)
/-- ACT[c] of a die as it stands: streams without such a task leave, with a deficit of at most 0; those with one that are absent join
the tail. -/
def actSync (s : State) (die cls : Nat) : State :=
  let have_ := classStreams s die cls
  let old := tget [] s.sch.act (actKey die cls)
  let gone := old.filter fun x => !have_.contains x
  let kept := old.filter fun x => have_.contains x
  let new := (have_.filter fun x => !kept.contains x).foldl (fun l x => if l.contains x then l else l ++ [x]) []
  let s := gone.foldl (fun s x => addDef s die cls x (-(max 0 (defOf s die cls x)))) s
  { s with sch := { s.sch with act := tput [] s.sch.act (actKey die cls) (kept ++ new) } }
def actSyncAll (s : State) : State := [0, 1, 2, 3].foldl (fun s d => [0, 1, 2, 3].foldl (fun s c => actSync s d c) s) s
/-- A task leaves residency: 1,024 is added back and the cycles it was resident are paid. -/
def payResidency (s : State) (core : Nat) (t : Task) : State :=
  addDef s (dieOf core) t.cls t.stream (1024 - ((s.cycle - t.since : Nat) : Int))

/-- A record for its function (R58, R59): queued for the ring; with the ring disabled, kill and CANCELLED records are held and
others dropped. -/
def State.report (s : State) (f : Nat) (r : Record) : State :=
  s.modFn f fun x => if bits x.crsize.toNat 0 5 = 0 then (if r.kill then { x with held := x.held ++ [r] } else x)
    else { x with queue := x.queue ++ [r] }

/-- The records that a task ending with a status posts, and the replay that it leaves (R53). Statuses are ranked by their numbers, BADREC
among them (notes/assumptions/100.md). -/
def taskRecords (s : State) (t : Task) (st : Nat) (kill : Bool) : State × List (Nat × Record) :=
  let mk (node : Nat) (st : Nat) : Record := ⟨t.seq, BitVec.ofNat 16 node, t.stream, st, kill⟩
  if t.isNode then
    match s.replays.find? (fun r => r.id == t.replay) with
    | none => (s, [(t.fn, mk t.node st)])
    | some r =>
      let w := max r.status st
      let s := { s with replays := s.replays.filterMap fun q =>
        if q.id == r.id then (if q.left ≤ 1 then none else some { q with left := q.left - 1, status := w }) else some q }
      if r.all then (s, [(t.fn, mk t.node st)]) else if r.left ≤ 1 then (s, [(t.fn, mk 0xFFFF w)]) else (s, [])
  else (s, [(t.fn, mk 0xFFFF st)])
/-- The end of a task, or of a part of one, for its record: that of a range task comes with its last part, and is none where the task
has been refused already (R89, R111). -/
def endRecords (s : State) (t : Task) (status : Nat) (kill : Bool) : State × List (Nat × Record) :=
  let part := s.parts.find? (fun p => p.key == t.grp)
  let last := match part with | some p => p.live ≤ 1 | none => true
  let st := match part with | some p => max p.status status | none => status
  let gone := match part with | some p => p.refused | none => false
  let s := { s with
    parts := s.parts.filterMap fun p =>
      if p.key == t.grp then (if p.live ≤ 1 then none else some { p with live := p.live - 1, status := max p.status status }) else some p
    stages := s.stages.filter fun x => !(last && x.grp == t.grp) }
  if !last || gone then (s, []) else taskRecords s t st kill

def endMany (status : Nat → Nat) : List (Task × Bool) → State → State × List (Nat × Record)
  | [], s => (s, [])
  | (t, res) :: ts, s =>
    let (s, a) := endRecords s t (status (if res then 1 else 0)) true
    let (s, b) := endMany status ts s
    (s, a ++ b)

def Te.empty : Te := ⟨none, 0, 0, none, none, false⟩
/-- The low word of a transform ring's registration (R216). -/
def ringReg (s : State) (ring : Nat) : Nat := (tget 0 s.xrtab (2 * ring)).toNat

/-- A media stream of a killed context stops at once (R81). -/
def HStream.stopMedia (h : HStream) : HStream :=
  { h with media := { h.media with ctl := h.media.ctl &&& ~~~(1 : W64), pending := [], cmu := none, stopping := false, opening := false, stalled := false } }

/-- EPOCH of a context entry on every die counts up (R253 step 1, R165). -/
def bumpEpoch (s : State) (cid : Nat) : State :=
  [0, 1, 2, 3].foldl (fun s d =>
    let k := ctxKey s d cid + 2
    (touchHbm s k).write k (toBytes 2 ((s.readN k 2 + 1) % 65536))) s

/-- Ready tasks beyond the 64 of their queues (R106), of some. -/
def queueOver (s : State) (p : Job → Bool) : Nat :=
  ((List.range 96).map fun c => (((s.jobs.filter fun j => j.st == .ready && j.q == c).drop 64).filter p).length).sum

/-- Steps 1 to 4 of the kill drain (R253): the epoch rises, every stream of the context stops, what it queued, staged, logged and waited
for is gone, and its pending faults are resolved FATAL. The records wait for the end of the drain. -/
def killNow (s : State) (cid status : Nat) (rest : List Kill) : State :=
  let res := (s.tasks.filter fun e => e.2.cid == cid && e.2.live)
  let jobs := s.jobs.filter fun j => j.t.cid == cid
  let onkill := res.any fun e => e.2.c.snapctl.getLsbD 3
  let s := if onkill then s.fireSnap 2 cid else s
  let here (g : Nat) : Nat := (res.filter fun e => e.2.grp == g).length + (jobs.filter fun j => j.t.grp == g).length
  let s := { s with parts := s.parts.map fun p => if here p.key = 0 then p else { p with live := here p.key } }
  let (s, recs) := endMany (fun r => if status = 0x11 && r = 0 then 0x02 else status)
    (res.map (fun e => (e.2, true)) ++ jobs.map (fun j => (j.t, j.st == .ending))) s
  let slots := queueOver s fun j => j.t.cid == cid
  let s := bumpEpoch s cid
  let s := (res.filter fun e => e.2.mtask).foldl (fun s e => dropLease s (e.1 / 4)) s
  let s := res.foldl (fun s e => payResidency s (e.1 / 4) e.2) s
  let s := fetchErrs s ((s.faults.filter fun f => f.cid == cid).map (·.tag))
  let s := freeLogs (freeTags s fun f => f.cid == cid) fun l => l.e.cid == cid
  actSyncAll { s with
    tasks := s.tasks.filter fun e => !(e.2.cid == cid && e.2.live)
    jobs := s.jobs.filter fun j => j.t.cid != cid
    paths := s.paths.filter fun e => e.cid != cid
    tlb := s.tlb.filter fun t => t.cid != cid
    views := s.views.filter fun v => v.cid != cid
    phases := s.phases.filter fun p => p.cid != cid
    aborts := s.aborts.filter fun a => a.1 != cid
    arrivals := s.arrivals.filter fun a => a.cid != cid
    replays := s.replays.filter fun r => r.cid != cid
    te := (List.range 64).foldl (fun te i => if bits (ringReg s i) 63 1 = 1 && bits (ringReg s i) 50 12 = cid then
      tput Te.empty te i { Te.empty with dead := true } else te) s.te
    strm := s.strm.map fun e => if (tget 0 s.ctxmap e.1).toNat % 2 ^ 12 = cid && (tget 0 s.ctxmap e.1).getLsbD 15 then (e.1, e.2.stopMedia) else e
    kills := ⟨cid, status, recs, slots⟩ :: rest }

/-- The drain of the kill that arose first begins (R253, R254). -/
def killStart (s : State) : State :=
  match s.kills with
  | k :: ks => killNow s k.cid k.status ks
  | [] => s

/-- The kill of a context (R252): the first fixes the status, later ones change nothing; drains run one at a time. -/
def kill (s : State) (cid status : Nat) : State :=
  if s.kills.any (fun k => k.cid == cid) then s
  else
    let s1 := { s with kills := s.kills ++ [⟨cid, status, [], 0⟩] }
    if s.kills.isEmpty then killStart s1 else s1

/-! ## Discarding a block, traps and returns -/

/-- PH of a level inverted (R147, R148). -/
def Task.flipPh (t : Task) (lvl : Nat) : Task :=
  if lvl ≥ 2 then { t with c := { t.c with dom := t.c.dom ^^^ ((1 : W64) <<< (38 + lvl)) } } else t
/-- A task with what a discarded block took given back (R130, R371, R407). -/
def giveBack (t : Task) : Taken → Task
  | .token k => if h : k < 8 then { t with tk := t.tk.set k (t.tk[k] + 1) } else t
  | .event e n => if h : e < 16 then { t with e := t.e.set e (t.e[e] + n) } else t
  | .queue q v => if h : q < 8 then { t with q := t.q.set q (v :: t.q[q]) } else t
  | .dsync p _ => t.flipPh p.lvl
  | .rel c => t.modStm .m fun st => { st with cq := (st.cq.takeWhile fun d => d.id < c.id) ++ c :: st.cq.dropWhile fun d => d.id < c.id }
  | .evwait _ | .passed => t

/-- A phase without the arrival of a task that has not passed it. -/
def Phase.without (tid : Nat) (p : Phase) : Phase :=
  { p with arrived := p.arrived.filter fun a => !(a.2.1 == tid && !p.passed.contains a.1) }
/-- A member that had passed a phase has not: it passes it when its dsync is issued again (R130, R148). -/
def unpass (p : Phase) (me : Nat) (ps : List Phase) : List Phase :=
  let is (q : Phase) : Bool := q.cid == p.cid && q.id == p.id && q.lvl == p.lvl && q.arrived == p.arrived && q.passed.contains me
  if ps.any is then ps.map fun q => if is q then { q with passed := q.passed.filter (· != me) } else q
  else { p with passed := (p.arrived.map (·.1)).filter (· != me) } :: ps

/-- The event list with the waiter of a stream withdrawn (R334). -/
def dropWaiter (es : List Event) (tid : Nat) (r : Ref) : List Event :=
  (es.map fun e => { e with hw := e.hw.filter (· != .stream r tid), ovf := e.ovf.filter (· != .stream r tid) }).filter
    fun e => e.count != 0 || !e.hw.isEmpty || !e.ovf.isEmpty

/-- The next waiter released by a signal, hardware waiters first (R94). -/
def popWaiter (e : Event) : Option (Waiter × Event) :=
  match e.hw, e.ovf with
  | w :: ws, _ => some (w, { e with hw := ws })
  | [], w :: ws => some (w, { e with ovf := ws })
  | [], [] => none

/-- The open block of a stream discarded (R130): registers as before it, tokens, counts and queue entries given back, its entries
out of their paths, its evwait waiter withdrawn, the monitor as before it. -/
def discard (s : State) (r : Ref) : State :=
  match (s.stm r).blk with
  | none => s
  | some b =>
    let t := s.task r.core r.slot
    let t := b.taken.reverse.foldl giveBack t
    let t := { t with v := if r.eng == Eng.v then b.v0 else t.v }
    let t := t.modStm r.eng fun st => { st with x := b.x0, p := b.p0, mon := if st.hold = .monitor then none else b.mon0, blk := none, hold := .none, fwait := none, pc := b.hdr }
    let s := if (s.stm r).hold = .lease then s.modShell r.core fun sh => { sh with reqs := sh.reqs.filter (· != r.core) } else s
    let s := s.setTask r.core r.slot t
    { s with
      paths := s.paths.filter fun e => !(e.tid == t.tid && e.r.eng == r.eng && e.inBlock)
      phases := b.taken.foldl (fun ps k => match k with | .dsync p me => unpass p me ps | _ => ps) s.phases
      events := dropWaiter s.events t.tid r }

/-- The names of the event counts a discarded block's evwait had taken; each is signalled again (R334). -/
def tookEvents (b : Block) : List Nat := b.taken.filterMap fun | .evwait n => some n | _ => none

/-- The home L2 slice of a global address (R161). -/
def homeSlice (a : Nat) : Nat := Nat.xor (Nat.xor (bits a 8 5) (bits a 13 5)) (bits a 18 3)

/-- Tasks in a core's ready queue. -/
def queueLen (s : State) (core : Nat) : Nat := (s.jobs.filter fun j => j.st == .ready && j.q == core).length
/-- The replay SEQ and stream that an arm entry of a node is keyed by (R92). -/
def repKey (stream : Nat) (seq : W32) : Nat := stream * 2 ^ 32 + seq.toNat
/-- The C-die an arm entry is homed on (R92), by the dies as they stand (DESIGN CHOICE, notes/assumptions/105.md). -/
def armHome (s : State) (key : W64) (rep : Option Nat) : Nat :=
  nextDie s (if key.getLsbD 63 then rep.getD 0 % 2 ^ 32 + bits key.toNat 0 16 else bits key.toNat 0 32 + bits key.toNat 32 7)
/-- Arm entries of a die, of its hardware and beyond it. -/
def armsOn (s : State) (d : Nat) : Nat := (s.arms.filter fun a => armHome s a.key a.replay == d).length
/-- Whether the event table that a new event of a name belongs to is full (R95). -/
def tableFull (s : State) (name : Nat) : Bool :=
  (s.events.filter fun e => !e.spilt && nextDie s e.name == nextDie s name).length ≥ 8192

/-- The function whose overflow area an operation of a context uses (R96): its tenant's (notes/assumptions/95.md). -/
def slotFn (s : State) (cid : Nat) : Nat := tenantOf s cid + 1
/-- Slots an event takes beyond its table entry: its overflow waiters, and one at least if it is held wholly in the overflow area. -/
def Event.slots (e : Event) : Nat := if e.spilt then max 1 e.ovf.length else e.ovf.length
/-- Slots of a function's overflow area in use (R96): its contexts' share of the arm entries beyond 4,096 a die, which are the latest
made, their waiters beyond four, and their ready tasks beyond 64 in a queue, those of a killed context until its drain ends (R102). -/
def overflowUsed (s : State) (f : Nat) : Nat :=
  let own (cid : Nat) : Bool := slotFn s cid == f
  (([0, 1, 2, 3].map fun d => (((s.arms.filter fun a => armHome s a.key a.replay == d).drop 4096).filter fun a => own a.cid).length).sum) +
  (((s.events.filter fun e => own e.cid).map Event.slots).sum) +
  queueOver s (fun j => own j.t.cid) + (((s.kills.filter fun k => own k.cid).map (·.slots)).sum)
/-- Whether an operation of a context finds a free slot of its function's overflow area (R96). -/
def slotFree (s : State) (cid : Nat) : Bool :=
  let f := slotFn s cid
  let l := bits (fnAt s f).armsize.toNat 0 5
  l ≠ 0 && overflowUsed s f < 2 ^ l
/-- Whether an arm entry of a key stands or finds room, in hardware or in the overflow area (R92, R96). -/
def armRoom (s : State) (cid : Nat) (key : W64) (rep : Option Nat) : Bool :=
  s.arms.any (fun a => a.cid == cid && a.key == key && a.replay == rep) || armsOn s (armHome s key rep) < 4096 || slotFree s cid
/-- An operation of a context waits for a free slot: FULL (R96). -/
def armFull (s : State) (cid : Nat) : State := s.modFn (slotFn s cid) fun x => { x with armsize := x.armsize ||| 0x100 }

/-- Abort lines fall once no task of their group is ARMED, READY or RESIDENT (R149). -/
def lowerLines (s : State) : State :=
  let used (c g : Nat) : Bool := (s.tasks.any fun e => e.2.live && e.2.cid == c && e.2.abgrp == g) ||
    s.jobs.any fun j => j.t.cid == c && j.t.abgrp == g
  { s with aborts := s.aborts.filter fun a => used a.1 a.2.1 }

/-- The core of a die with the fewest tasks in its queue, the lower on ties. -/
def lightest (s : State) (die : Nat) : Nat :=
  (List.range 24).foldl (fun best i => if queueLen s (24 * die + i) < queueLen s best then 24 * die + i else best) (24 * die)
/-- The ready queue a task is placed in (R105); a staged instance stays on its home die (R113). -/
def place (s : State) (t : Task) (home : Option Nat) : Nat :=
  let d := t.fld 237 3
  match home with
  | some h => if d = h && dieOk s h then 24 * d + 3 * homeSlice (t.fld 192 48) / 4 else lightest s (nextDie s h)
  | none => if d < 4 && dieOk s d then 24 * d + 3 * homeSlice (t.fld 192 48) / 4 else lightest s (nextDie s t.stream)

/-- A task enters a ready queue: its ageing begins, the cores of the queue's eight may ask again, and it takes a new ready time where it
is due one (R91, R99, R106, R110). A full queue with no free slot holds it before its entry (R96). -/
def enterQueue (s : State) (j : Job) (q : Nat) (held : JobState) : State :=
  if queueLen s q ≥ 64 && !slotFree s j.t.cid then armFull { s with jobs := s.jobs ++ [{ j with st := held, q := q }] } j.t.cid
  else
    let t := { j.t with since := s.cycle, readyAt := if j.t.yielded then s.timebase.toNat else j.t.readyAt, yielded := false }
    let s := { s with jobs := s.jobs ++ [{ j with st := .ready, q := q, aged := false, t := t }] }
    actSync { s with sch := { s.sch with asked := s.sch.asked.filter fun a => eightOf a.1 != eightOf q } } (dieOf q) j.t.cls
/-- A task enters the ready queue it is placed in (R105). -/
def enqueue (s : State) (j : Job) (home : Option Nat) : State :=
  enterQueue s { j with t := { j.t with yielded := true } } (place s j.t home) .placing

/-- The instances of a staged part that may be READY now (R112): iteration i when i − W has reached its final stage. -/
def stageReady (t : Task) : Nat → State → StageTab → State × StageTab
  | 0, s, x => (s, x)
  | n + 1, s, x =>
    let w := t.fld 352 6 + 1
    if x.next < x.hi && (x.next < x.lo + w || x.retired.contains (x.next - w)) then
      let j : Job := ⟨{ t with tid := s.uid, part := x.key, c := { t.c with iter := BitVec.ofNat 32 x.next } }, .placing, 0, false,
        [], [], [], none⟩
      stageReady t n (enqueue { s with uid := s.uid + 1 } j (some x.home)) { x with next := x.next + 1 }
    else (s, x)

/-- The key of a task (R330). -/
def Task.key (t : Task) : W64 :=
  if t.isNode then BitVec.ofNat 64 (2 ^ 63 + t.node) else BitVec.ofNat 64 (t.seq.toNat + t.stream * 2 ^ 32)
/-- The arm key of a task (R92): its own key, with the replay's SEQ and stream for a node. -/
def Task.armRep (t : Task) : Option Nat := if t.isNode then some (repKey t.stream t.seq) else none
def dropArm (s : State) (cid : Nat) (key : W64) (rep : Option Nat) : State :=
  { s with arms := s.arms.filter fun a => !(a.cid == cid && a.key == key && a.replay == rep) }

/-- A task whose join count and wait event are satisfied becomes READY, which frees its arm entry; a staged one becomes its stage table
and its first instances (R91, R92, R112, R113). -/
def becomeReady (s : State) (j : Job) : State :=
  let s := { s with jobs := s.jobs.filter fun k => k.t.tid != j.t.tid }
  let lo := j.t.ilo
  let hi := j.t.fld 160 32
  if j.t.staged && lo < hi then
    let s := dropArm s j.t.cid j.t.key j.t.armRep
    let key := s.uid
    let home := dieOf (place s j.t none)
    let t := { j.t with grp := key }
    let s := { s with uid := s.uid + 1, parts := s.parts ++ [⟨key, hi - lo, 0, [], false⟩] }
    let (s, x) := stageReady t (t.fld 352 6 + 1) s ⟨key, key, home, lo, hi, lo, [], []⟩
    { s with stages := s.stages ++ [x] }
  else
    let s := enqueue s j none
    if s.jobs.any fun k => k.t.tid == j.t.tid && k.st == .placing then s else dropArm s j.t.cid j.t.key j.t.armRep

/-- A released waiter: its task becomes READY, or its stream goes on (R94). -/
def releaseWaiter (s : State) (name : Nat) : Waiter → State
  | .job tid =>
    match s.jobs.find? (fun j => j.t.tid == tid && j.st == .waiting) with
    | some j => becomeReady s j
    | none => s
  | .stream r tid =>
    if (s.task r.core r.slot).tid == tid then
      s.modSt r fun st => { st with blk := st.blk.map fun b => { b with taken := b.taken ++ [.evwait name], evRel := true } }
    else s

/-- EVSAT: a signal at count 65,535 is dropped and told to the tenant's function and the PF (R94, R48). -/
def evSat (s : State) (cid : Nat) : State :=
  [tenantOf s cid + 1, 0].foldl (fun s f => (s.modFn f fun x => { x with crstat := x.crstat ||| 0x8 }).signalVec f 1) s

/-- Signal(name) in a context (R94). -/
def signalEvent (s : State) (cid name : Nat) : State :=
  match s.events.find? (fun e => e.cid == cid && e.name == name) with
  | none => { s with events := s.events ++ [⟨cid, name, 1, [], [], tableFull s name⟩] }
  | some e =>
    match popWaiter e with
    | some (w, e') =>
      let keep := e'.count != 0 || !e'.hw.isEmpty || !e'.ovf.isEmpty
      let s := { s with events := s.events.filterMap fun x =>
        if x.cid == cid && x.name == name then (if keep then some e' else none) else some x }
      releaseWaiter s name w
    | none =>
      if e.count ≥ 65535 then evSat s cid
      else { s with events := s.events.map fun x => if x.cid == cid && x.name == name then { x with count := x.count + 1 } else x }

/-- Discard, with the counts an evwait of the block had taken signalled again. -/
def discardBlock (s : State) (r : Ref) : State :=
  match (s.stm r).blk with
  | none => s
  | some b =>
    let cid := (s.task r.core r.slot).cid
    (tookEvents b).foldl (fun s n => signalEvent s cid n) (discard s r)

/-- The engine whose trap the current level serves. -/
def Task.trapEng (t : Task) : Eng := if t.c.tl = 2 then t.trap2 else t.trap1
/-- Whether a stream's loop sequencer and segment are suspended: it is the one in its handler (R247). -/
def Task.suspends (t : Task) (e : Eng) : Bool := t.c.tl != 0 && t.trapEng == e

/-- The blocks of a stream's siblings that have still to issue are discarded; one that has issued may commit
(notes/assumptions/96.md). -/
def discardOthers (s : State) (r : Ref) : State :=
  let t := s.task r.core r.slot
  Eng.all.foldl (fun s e =>
    if e ≠ r.eng && (match (t.stm e).blk with | some b => !b.words.isEmpty | none => false) then discardBlock s ⟨r.core, r.slot, e⟩ else s) s

/-- Trap entry in a stream whose block is gone (R247): at TL2 or with TVEC.EN 0 the context is killed (R246); otherwise the banked
registers are written, TL rises, the stream goes to its vector and the task's other streams stop, their unissued blocks discarded. -/
def trapEntry (s : State) (r : Ref) (code : Nat) (eval : W64) (deferred : Bool) : State :=
  let s := discardOthers s r
  let t := s.task r.core r.slot
  let epc := (t.stm r.eng).pc
  if t.c.tl ≥ 2 || !t.c.tvec.getLsbD 0 then kill s t.cid 0x11
  else
    let s := if t.c.snapctl.getLsbD 0 then s.fireSnap 2 t.cid else s
    let cause : W64 := BitVec.ofNat 64 (code + r.eng.idx.val * 2 ^ 8 + (if deferred then 2 ^ 10 else 0))
    let pc : W64 := (t.c.tvec &&& 0x0000_FFFF_FFFF_F000) + BitVec.ofNat 64 (64 * code)
    let c := if t.c.tl = 0 then { t.c with tl := 1, cause1 := cause, epc1 := epc &&& 0x0000_FFFF_FFFF_FFFF, eval1 := eval }
      else { t.c with tl := 2, cause2 := cause, epc2 := epc &&& 0x0000_FFFF_FFFF_FFFF, eval2 := eval }
    let t1 := if t.c.tl = 0 then { t with c := c, trap1 := r.eng } else { t with c := c, trap2 := r.eng }
    let t2 := Eng.all.foldl (fun t e => t.modStm e fun st =>
      if e = r.eng then { st with pc := pc, hold := .none, fetched := none, looked := false } else { st with stopped := true }) t1
    s.setTask r.core r.slot t2

/-- A stream before another in the order A, M, V, S that has a deferred trap due at its boundary as well (R250). -/
def dueBefore (t : Task) (e : Eng) : Option (Eng × Deferred) :=
  if t.c.tl ≠ 0 then none
  else Eng.all.findSome? fun f =>
    if f.idx < e.idx && (t.stm f).live && (t.stm f).blk.isNone then (t.stm f).deferred.head?.map fun d => (f, d) else none

/-- Taking a trap in a stream (R246 to R250): the block is discarded, and the stream enters its trap. A trap of an earlier stream that
is due as well is taken in its place; in a stream stopped by another's trap the block is discarded, to meet its fault again. -/
def trapAt (s : State) (r : Ref) (code : Nat) (eval : W64) (deferred : Bool) : State :=
  let s := discardBlock s r
  let t := s.task r.core r.slot
  match dueBefore t r.eng with
  | some (e, d) =>
    let o : Ref := ⟨r.core, r.slot, e⟩
    trapEntry (s.modSt o fun st => { st with deferred := st.deferred.tail }) o d.code d.eval true
  | none => if t.c.tl ≠ 0 && t.trapEng ≠ r.eng then s else trapEntry s r code eval deferred

/-- The return of eret at its block's commit (R249): the stream resumes at EPCn, TL falls by one, and at TL0 the others resume. -/
def trapReturn (t : Task) (e : Eng) : Task :=
  let epc := if t.c.tl = 2 then t.c.epc2 else t.c.epc1
  let t := { t with c := { t.c with tl := t.c.tl - 1 } }
  let t := t.modStm e fun st => { st with pc := epc }
  if t.c.tl = 0 then Eng.all.foldl (fun t e => t.modStm e fun st => { st with stopped := false }) t else t

/-- A trap to be taken at the stream's next block boundary (R248); in a retired stream it kills the context. -/
def State.defer (s : State) (r : Ref) (code : Nat) (eval : W64) : State :=
  let t := s.task r.core r.slot
  if !t.live then s
  else if !(t.stm r.eng).live then kill s t.cid 0x11
  else s.modSt r fun st => { st with deferred := st.deferred ++ [⟨code, eval⟩] }

/-- Rollback of a restartable task (R260, R101): everything it did is dropped, its open blocks are discarded, and it is READY again with
RETRY + 1. -/
def rollback (s : State) (core slot : Nat) : State :=
  let s := Eng.all.foldl (fun s e => discardBlock s ⟨core, slot, e⟩) s
  let t := s.task core slot
  let rec' := t.trec + (1#512 <<< 328)
  let fresh : Task := { Task.empty with
    live := true, tid := t.tid, trec := rec', cid := t.cid, seq := t.seq, pblk := t.pblk, fn := t.fn, queued := t.queued
    replay := t.replay, part := t.part, grp := t.grp, hi := t.hi, c := { Csrs.empty with iter := BitVec.ofNat 32 t.ilo }, yielded := true }
  let s := if t.mtask then dropLease s core else s
  let s := freeLogs s fun l => l.e.tid == t.tid
  let s := { s with
    paths := s.paths.filter fun e => e.tid != t.tid
    hidden := s.hidden.filter fun h => h.tid != t.tid
    phases := (s.phases.map (Phase.without t.tid)).filter fun p => !p.arrived.isEmpty
    soft := s.soft.filter fun e => 4 * e.1 / 2 ^ 100 ≠ t.tid + 1 }
  enterQueue (s.setTask core slot Task.empty) ⟨fresh, .ready, core, false, [], [], [], none⟩ core .returning

/-- POISON, SIGERR and CHKERR roll a restartable task back while RETRY is below 15, and trap otherwise (R256, R260). -/
def soften (s : State) (r : Ref) (code : Nat) (eval : W64) (deferred : Bool) : State :=
  let t := s.task r.core r.slot
  if t.staging && t.retry < 15 then rollback s r.core r.slot
  else if deferred then s.defer r code eval else trapAt s r code eval false

/-- A command that has just issued. -/
def newCmd (s : State) (op : CmdOp) : Cmd where
  id := 0
  op := op
  s1 := 0
  s2 := 0
  s3 := 0
  xs := []
  idx := []
  buf := []
  bad := []
  prod := none
  cons := []
  gate := 0
  gateCore := s.cur.core
  sgr := 0
  nbv := s.my.c.nbv.extractLsb' 0 2
  head := s.headWord
  ents := []
  phase := 0
  reach := 0

/-! ## Issue -/

/-- How an instruction's body ends: it issued; it is held; it traps; or it ended the block itself. -/
inductive Res where
  | go (s : State)
  | hold (h : Hold) (s : State)
  | trap (code : Nat) (eval : W64)
  | stop (s : State)

/-- Trap codes (R251). -/
def cILLOP : Nat := 0x01
def cPRIV : Nat := 0x02
def cDIVZ : Nat := 0x03
def cEXITERR : Nat := 0x04
def cALIGN : Nat := 0x05
def cXLATE : Nat := 0x06
def cPROT : Nat := 0x07
def cDIEQ : Nat := 0x08
def cEXALLOC : Nat := 0x09
def cGATEOVF : Nat := 0x0A
def cSIGERR : Nat := 0x0B
def cCHKERR : Nat := 0x0C
def cPOISON : Nat := 0x0D
def cHSTALL : Nat := 0x0E
def cTRAPI : Nat := 0x0F
def cRINGERR : Nat := 0x10
def cSTAGEERR : Nat := 0x11
def cLEASEERR : Nat := 0x12

/-- The LI condition (R144, R276): it holds with RUN 0 and at TL1 and TL2. -/
def liHolds (t : Task) (st : EStream) (li : BitVec 4) : Bool :=
  let k := (li &&& 7).toNat
  if li = 0 || !st.loop.run || t.c.tl ≠ 0 then true
  else if h : 1 ≤ k ∧ k ≤ 6 then
    if li.getLsbD 3 then st.loop.idx[k - 1] == (max st.loop.n[k - 1].toNat 1 - 1 : Nat) else st.loop.idx[k - 1] == 0
  else true

/-- The issue predicate of a scalar instruction (R274). -/
def predHolds (st : EStream) (p : R5) : Bool := p == 31 || (st.rp p).getLsbD 0

/-- Registers an instruction reads or writes, for the hold of R339, and the x registers it reads, which alone wait for an atomic or a
spawn performed after its commit (R332, R353). -/
structure Uses where
  xs : List R5
  ps : List R5
  vs : List R6
  rs : List R5

/-- An instruction's use of its own predicate. -/
def Uses.ofPred (p : R5) : Uses := ⟨[], if p = 31 then [] else [p], [], []⟩

/-- Whether an access still out writes one of the registers (R339, R353). -/
def LoadDst.hits (u : Uses) : LoadDst → Bool
  | .x d _ => d != 0 && u.xs.contains d
  | .ldx d c => (d != 0 && u.xs.contains d) || u.ps.contains c
  | .extest c => u.ps.contains c
  | .exmap d => d != 0 && u.xs.contains d
  | .tl _ d => d != 0 && u.xs.contains d
  | .vlane vd _ _ => u.vs.contains vd
  | .vrow vd _ => u.vs.contains vd
  | .spawn _ d _ => d != 0 && u.rs.contains d
  | .ring d => d != 0 && u.xs.contains d
  | .segb | .none => false

def Acc.hits (u : Uses) : Acc → Bool
  | .load dst => dst.hits u
  | .amo _ _ _ _ d => d != 0 && u.rs.contains d
  | .spawn _ _ d => d != 0 && u.rs.contains d
  | .store _ | .erase | .fence _ | .xfence _ _ | .acquire _ | .token _ | .post _ _ | .qpush _ _ | .evsig _ | .joindec _
  | .garr _ _ _ _ | .stage _ _ _ | .cread _ _ | .cwrite _ _ | .cadd _ _ _ => false

/-- A list command still in the queue holds readers and writers of its registers (R388). -/
def Cmd.hits (u : Uses) (c : Cmd) : Bool :=
  match c.op with
  | .list _ _ vd _ _ pc _ => u.vs.contains vd || u.ps.contains pc
  | _ => false

def State.mine (s : State) : List Entry := s.paths.filter fun e => e.tid == s.my.tid && e.r.eng == s.cur.eng

/-- An access of the open block that enters at its commit. -/
def Eff.hits (u : Uses) : Eff → Bool
  | .entry e => e.acc.hits u
  | _ => false
/-- Registers still awaited hold their reader or writer (R332, R353, R388). -/
def hazard (s : State) (u : Uses) : Bool :=
  (s.mine.any fun e => e.acc.hits u) || (s.me.cq.any fun c => c.hits u) || s.effs.any (Eff.hits u)
/-- A list command of the open block itself writes one of the registers (R388). -/
def listHits (s : State) (u : Uses) : Bool := s.effs.any fun | .cmd c => c.hits u | _ => false

/-- The counters a word's wait flags name (R131). -/
def waitToks (e : Eng) (f : Sync) : List Nat :=
  (if f.getLsbD 3 then [wpTok e] else []) ++ (if f.getLsbD 2 then [wnTok e] else [])
def sigToks (e : Eng) (f : Sync) : List Nat :=
  (if f.getLsbD 1 then [spTok e] else []) ++ (if f.getLsbD 0 then [snTok e] else [])

def Task.tok (t : Task) (k : Nat) : Nat := if h : k < 8 then t.tk[k] else 0
def Task.takeTok (t : Task) (k : Nat) : Task := if h : k < 8 then { t with tk := t.tk.set k (t.tk[k] - 1) } else t

/-- An entry of the moving stream, uid and block flag to be set when it enters its path. -/
def mkEntry (s : State) (path : Nat) (ord : Order) (sc : Scope) (sp : Space) (lane addr n : Nat) (acc : Acc) : Entry :=
  { uid := 0, r := s.cur, tid := s.my.tid, cid := s.my.cid, path := path, ord := ord, sc := sc, sp := sp, lane := lane
    addr := addr, n := n, acc := acc, ovl := [], inBlock := false, tl0 := s.my.c.tl == 0
    owned := sp != .d || dsOwned s s.my.cid addr n, wait := none, since := s.cycle }

/-- A synchronising effect of the stream: it is performed once what it releases is performed (R195). -/
def sigEntry (s : State) (acc : Acc) : Entry := mkEntry s 6 .weak .core .c 0 0 0 acc

/-- An acquire of a wait: entered at issue, it drops view copies and orders younger entries (R195, R190). -/
def State.enter (s : State) (e : Entry) (inBlock : Bool) : State :=
  { s with paths := s.paths ++ [{ e with uid := s.uid, inBlock := inBlock }], uid := s.uid + 1 }

/-- Copies of a core's view cache that an acquire of a scope drops (R190, R185): those whose home the scope contains. -/
def scopeDie (sc : Scope) (core die : Nat) : Bool :=
  match sc with
  | .core | .eight => false
  | .die => dieOf core == die
  | .package | .system => true
/-- A monitor that watches one of some global 256-byte lines triggers (R140). -/
def Mon.trigger (ls : List Nat) (m : Mon) : Mon := if m.sp == Space.g && ls.contains m.line then { m with trig := true } else m
/-- A trigger reaches the arm of a stream, and the one its open block would be discarded to unless that block has armed anew (R140). -/
def EStream.trig (f : Mon → Mon) (st : EStream) : EStream :=
  { st with mon := st.mon.map f, blk := st.blk.map fun b => if b.armed then b else { b with mon0 := b.mon0.map f } }
def EStream.trigger (ls : List Nat) (st : EStream) : EStream := st.trig (Mon.trigger ls)
/-- Lines leaving a core's view cache trigger the monitors of that core's tasks of the context (R140). -/
def trigLeave (ts : Tab Task) (core cid : Nat) (ls : List Nat) : Tab Task :=
  ts.map fun e => if e.1 / 4 == core && e.2.cid == cid then (e.1, { e.2 with st := e.2.st.map (EStream.trigger ls) }) else e
def State.dropViews (s : State) (core cid : Nat) (sc : Scope) : State :=
  let gone (v : View) : Bool := v.core == core && v.cid == cid && scopeDie sc core (v.line * 64 / 2 ^ 45)
  let lines := (s.views.filter gone).map fun v => v.line * 64 / 256
  { s with
    views := s.views.filter fun v => !gone v
    tasks := trigLeave s.tasks core cid lines }

/-- A passed wait acquires (R195): its acquire is performed at once, no younger entry having entered yet. -/
def State.acquire (s : State) (sc : Scope) : State := s.dropViews s.cur.core s.my.cid sc

/-- The head instruction of the block leaves it (R262 counts its head word). -/
def Block.advance (b : Block) : Block :=
  match b.words with
  | [] => b
  | w :: _ => { b with words := b.words.drop (wordsOf w), counted := b.counted ++ [w] }

def State.next (s : State) : State := s.modMe fun st => { st with blk := st.blk.map Block.advance, hold := .none, waitH := 0 }
def State.held (s : State) (h : Hold) : State := s.modMe fun st => { st with hold := h }

/-- The tokens an instruction takes, with the acquire that gives, and its signals, which stand for the commit (R131, R133, R134). -/
def State.tokens (s : State) (f : Sync) : State :=
  let e := s.cur.eng
  let ks := waitToks e f
  let s := ks.foldl (fun s k => (s.modMy fun t => t.takeTok k).modBlk fun b => { b with taken := b.taken ++ [.token k] }) s
  let s := if ks.isEmpty then s else s.acquire .core
  (sigToks e f).foldl (fun s k => s.addEff (.entry (sigEntry s (.token k)))) s

/-- How the counters that wait flags name stand: one is empty and its sender has retired with no token on its way (R135); one is
empty; all hold a token. -/
inductive Toks where
  | dead (k : Nat)
  | empty
  | there
def tokens? (s : State) (f : Sync) : Toks :=
  let none_ := (waitToks s.cur.eng f).filter fun k => s.my.tok k == 0
  match none_.find? fun k => !(s.my.stm (tokSender k)).live && !s.paths.any fun x => x.tid == s.my.tid && x.acc == .token k with
  | some k => .dead k
  | none => if none_.isEmpty then .there else .empty

/-- The x registers an instruction reads, corrected; those that it writes only hold no error any more (R255). -/
def readRegs (s : State) (u : Uses) : State :=
  if s.soft.isEmpty then s
  else
    let s := (u.rs.filter (· != 0)).foldl (fun s a => eccRead s (regKey s.cur a.toNat) 8) s
    let gone (k : Nat) : Bool := (u.xs.filter fun a => !u.rs.contains a).any fun d => k / 2 == regKey s.cur d.toNat / 8
    { s with soft := s.soft.filter fun e => !gone e.1 }
/-- Whether an instruction reads an uncorrectable x register (R256). -/
def regsBad (s : State) (u : Uses) : Bool := (u.rs.filter (· != 0)).any fun a => badWord s (regKey s.cur a.toNat) 8
/-- Predicate registers read (R255, R256): corrected, and whether a word of one is uncorrectable. -/
def readPs (s : State) (ps : List R5) : State := (ps.filter (· != 31)).foldl (fun s p => eccRead s (predKey s.cur p.toNat) 8) s
def predsBad (s : State) (ps : List R5) : Bool := (ps.filter (· != 31)).any fun p => badWord s (predKey s.cur p.toNat) 8
/-- POISON of a register that an instruction reads (R256). -/
def poisonedReg (s : State) : State := soften s s.cur cPOISON (BitVec.allOnes 64) false

/-- The issue of one instruction (R133, R144, R274, R290, R339): skipped when its LI condition fails, or its predicate, once that is
there; held for a register still awaited or for tokens; POISON of a register it reads; otherwise its body acts, its tokens are taken and
its signals stand for the commit. -/
def issue (s : State) (f : Sync) (pred : R5) (li : BitVec 4) (u : Uses) (body : State → Res) : Out :=
  match s.blk with
  | none => .next s
  | some _ =>
    let up := Uses.ofPred pred
    if !liHolds s.my s.me li then .next s.next
    else if listHits s up then .next (trapAt s s.cur cILLOP (s.headWord.zeroExtend 64) false)
    else if hazard s up then .next (s.held .memory)
    else
      let s := readPs s up.ps
      if predsBad s up.ps then .next (poisonedReg s)
      else if !predHolds s.me pred then .next s.next
      else if listHits s u then .next (trapAt s s.cur cILLOP (s.headWord.zeroExtend 64) false)
      else if hazard s u then .next (s.held .memory)
      else
        match tokens? s f with
        | .dead k => .next (trapAt s s.cur cHSTALL (BitVec.ofNat 64 (0x100 + k)) false)
        | .empty => .next (s.held .token)
        | .there =>
          let s := readRegs s u
          if regsBad s u then .next (poisonedReg s)
          else
            match body s with
            | .hold h s => .next (s.held h)
            | .trap c v => .next (trapAt s s.cur c v false)
            | .stop s => .next s
            | .go s => .next (s.tokens f).next

/-- A 32-bit instruction always issues (R274). -/
def issue32 (s : State) (f : Sync) (u : Uses) (body : State → Res) : Out := issue s f 31 0 u body
def issue64 (s : State) (g : Guard) (u : Uses) (body : State → Res) : Out := issue s g.sync g.pred g.li u body
/-- The rows an instruction reads (R255, R256): corrected, or POISON where a word is uncorrectable. -/
def readSources (s : State) (rd : List R6) (body : State → Res) : Res :=
  let key (v : R6) : Nat := rowKey s.cur.core (2048 * s.cur.slot + v.toNat) 0 0
  let s := rd.foldl (fun s v => eccRead s (key v) 256) s
  if rd.any fun v => badWord s (key v) 256 then .stop (poisonedReg s) else body s
/-- The same of the predicate registers it reads beside its own PRED; of those it writes, given second, no error is left. -/
def readPreds (s : State) (rd wr : List R5) (body : State → Res) : Res :=
  let s := readPs s rd
  if predsBad s rd then .stop (poisonedReg s) else body (wr.foldl (fun s p => eccClean s (predKey s.cur p.toNat) 8) s)
/-- The same of the stream registers it reads. -/
def readSregs (s : State) (rd : List (BitVec 4)) (body : State → Res) : Res :=
  let key (i : BitVec 4) : Nat := sregKey s.cur.core s.cur.slot i.toNat
  let s := rd.foldl (fun s i => eccRead s (key i) 64) s
  if rd.any fun i => badWord s (key i) 64 then .stop (poisonedReg s) else body s

/-- In a VV instruction PRED masks lanes and never stops the issue (R274). -/
def issueVV (s : State) (g : Guard) (u : Uses) (rd : List R6) (body : State → Res) : Out :=
  issue s g.sync 31 g.li { u with ps := if g.pred = 31 then u.ps else g.pred :: u.ps } fun s =>
    readPreds s [g.pred] [] fun s => readSources s rd body

end Sys2Proof.Machine
end

