-- ==== Sys2Proof/Machine/Commit.lean ====
section
/-! DEFINITION. Buffer handles, gates, the start and the commit of a block, the loop sequencer, segments, and the end of a task
by its abort line (R124 to R150, R201 to R206, R262). -/

namespace Sys2Proof.Machine

/-! ## Buffer handles (R201, R202) -/

def hState (h : BitVec 128) : Nat := bits h.toNat 0 2
def hSp (h : BitVec 128) : Nat := bits h.toNat 2 3
def hBase (h : BitVec 128) : Nat := bits h.toNat 8 27
def hLen (h : BitVec 128) : Nat := bits h.toNat 40 24
def hWith (h : BitVec 128) (st : BitVec 2) : BitVec 128 := (h &&& ~~~(3 : BitVec 128)) ||| st.zeroExtend 128

def Task.hst (t : Task) (h : R5) : Nat := hState (t.h.get h.toFin)
def Task.setH (t : Task) (h : R5) (v : BitVec 128) : Task := { t with h := t.h.set h.toFin v }
def Task.setHState (t : Task) (h : R5) (st : BitVec 2) : Task := t.setH h (hWith (t.h.get h.toFin) st)
/-- A handle becomes FREE at a cycle (R202, R203). -/
def Task.freeH (t : Task) (h : R5) (cycle : Nat) : Task :=
  { t.setHState h 0 with
    hSince := tput 0 t.hSince h.toNat (cycle + 1)
    hPend := t.hPend &&& ~~~(1#32 <<< h.toNat) }
/-- A handle becomes FULL, or FREE when an hfree waits for the end of its command (R202). -/
def Task.fillH (t : Task) (h : R5) (cycle : Nat) : Task :=
  if t.hPend.getLsbD h.toNat then t.freeH h cycle else t.setHState h 2

/-- The space of a handle's buffer; any but .c, .k and .d has none (R201). -/
def hSpace (h : BitVec 128) : Option Space :=
  match hSp h with
  | 1 => some .c
  | 2 => some .k
  | 3 => some .d
  | _ => none

/-- An out-of-range index counted in a handle (R201, R207). -/
def hOor (h : BitVec 128) (k : Nat) : BitVec 128 :=
  if k = 0 then h
  else
    let n := min (bits h.toNat 64 16 + k) 0xFFFF
    (h &&& ~~~((0xFFFF : BitVec 128) <<< 64)) ||| (BitVec.ofNat 128 n <<< 64) ||| 0x20

/-! ## Gates (R204 to R206) -/

def Task.gate (t : Task) (g : Nat) : Gate := tget Gate.empty t.g g
def Task.setGate (t : Task) (g : Nat) (x : Gate) : Task := { t with g := tput Gate.empty t.g g x }
def Gate.cnt (g : Gate) (p : Nat) : Int := if h : p < 8 then g.pend[p] else 0
def Gate.add (g : Gate) (p : Nat) (n : Int) : Gate := if h : p < 8 then { g with pend := g.pend.set p (g.pend[p] + n) } else g
/-- Check() of R205. -/
def Gate.check (g : Gate) : Gate :=
  if g.armd && ((List.range 8).all fun q => !g.mask.getLsbD q || g.cnt q == 0) then { g with ph := !g.ph, armd := false } else g
def Gate.expect (g : Gate) (p n : Nat) : Gate := ({ g.add p n with armd := true }).check
def Gate.init (g : Gate) (mask : BitVec 8) : Gate := { g with mask := mask, pend := Vector.replicate 8 0, armd := false }
/-- Arrive(g, p, n): none on overflow (R205). -/
def Gate.arrive (g : Gate) (p n : Nat) : Option Gate :=
  if g.cnt p - n < -65536 then none else some (g.add p (-(n : Int))).check

/-- The slot of a core that holds the task an arrival is meant for: same context, same DOM.ID (R206, R147). -/
def gateSlot (s : State) (core cid id : Nat) : Option Nat :=
  [0, 1, 2, 3].find? fun sl =>
    let t := s.task core sl
    t.live && t.cid == cid && bits t.c.dom.toNat 36 4 == id

/-- The slot of the gate that an arrival from a stream names: on its own core its task's own. -/
def gateOwner (s : State) (r : Ref) (core : Nat) : Option Nat :=
  let t := s.task r.core r.slot
  if core = r.core then some r.slot else gateSlot s core t.cid (bits t.c.dom.toNat 36 4)
/-- Arrivals that wait at a core reach the tasks now resident there; one that would overflow is dropped (R206). -/
def settle (s : State) (core : Nat) : State :=
  let here (a : Arrival) : Option Nat := if a.core = core then gateSlot s core a.cid a.dom else none
  let s1 := s.arrivals.foldl (fun s1 a => match here a with
    | some sl => s1.modTask core sl fun t => t.setGate a.gate (((t.gate a.gate).arrive a.prod a.n).getD (t.gate a.gate))
    | none => s1) s
  { s1 with arrivals := s.arrivals.filter fun a => (here a).isNone }

/-! ## Effects at commit -/

/-- The handle, gate and other effects that only the commit shows; `none` holds the commit (R202, R129). -/
def commitEff (r : Ref) (s : State) : Eff → Option State
  | .entry e => some (s.enter e false)
  | .cmd c =>
    let t := s.task r.core r.slot
    let okP := match c.prod with | some h => t.hst h == 0 | none => true
    let okC := c.cons.all fun h => t.hst h == 2
    if okP && okC then
      let t := match c.prod with | some h => t.setHState h 1 | none => t
      let t := c.cons.foldl (fun t h => t.setHState h 3) t
      let c := { c with id := s.uid }
      let s := (s.setTask r.core r.slot t).modSt r fun st => { st with cq := st.cq ++ [c] }
      let s := { s with uid := s.uid + 1 }
      some (c.ents.foldl (fun s e => s.enter { e with acc := match e.acc with
        | .cread _ p => .cread c.id p
        | .cwrite _ p => .cwrite c.id p
        | .cadd _ p ty => .cadd c.id p ty
        | a => a } false) s)
    else none
  | .gexp g p n => some (s.modTask r.core r.slot fun t => t.setGate g ((t.gate g).expect p n))
  | .ginit g m => some (s.modTask r.core r.slot fun t => t.setGate g ((t.gate g).init m))
  | .hset h base len sp =>
    let t := s.task r.core r.slot
    if t.hst h == 0 then
      some (s.setTask r.core r.slot (t.setH h (0#48 ++ 0#16 ++ len ++ 0#5 ++ base ++ 0#3 ++ sp ++ 0#2)))
    else none
  | .hfree h => some (s.modTask r.core r.slot fun t =>
      if t.hst h == 0 then t
      else if t.hst h == 2 then t.freeH h s.cycle
      else { t with hPend := t.hPend ||| (1#32 <<< h.toNat) })
  | .drain h =>
    let t := s.task r.core r.slot
    if t.hst h == 2 then some (s.setTask r.core r.slot (t.freeH h s.cycle)) else none
  | .mclr => some (s.modSt r fun st => { st with mon := none })
  | .yield =>
    let t := s.task r.core r.slot
    let waits := s.jobs.any fun j => j.st == .ready && j.q == r.core
    let frames := (s.jobs.filter fun j => j.frame == some (dieOf r.core)).length
    some (if waits && frames < bits s.svcnt.toNat 0 12 then s.setTask r.core r.slot { t with preempt := true, yielded := true } else s)
  | .abort =>
    let t := s.task r.core r.slot
    some { s with aborts := if s.aborts.any (fun a => a.1 == t.cid && a.2.1 == t.abgrp) then s.aborts
      else s.aborts ++ [(t.cid, t.abgrp, r.core, s.cycle)] }
  | .eret => some (s.modTask r.core r.slot fun t => trapReturn t r.eng)
  | .segb _ ent => some (s.modSt r fun st => { st with seg := some ⟨ent, 0, 0xFFFFFFFF⟩ })
  | .sege => some (s.modSt r fun st => { st with seg := none })
  | .csr n v =>
    if n = 0x004 then some (s.modTask r.core r.slot fun t => csrPut t r.eng n v)
    else some (settle (s.modTask r.core r.slot fun t => taskEff r.eng t (.csr n v)) r.core)
  | .csrOr n v =>
    if n = 0x004 then some (s.modTask r.core r.slot fun t => csrPut t r.eng n (t.c.nbv ||| v))
    else some (settle (s.modTask r.core r.slot fun t => taskEff r.eng t (.csrOr n v)) r.core)
  | .csrAnd n v =>
    if n = 0x004 then some (s.modTask r.core r.slot fun t => csrPut t r.eng n (t.c.nbv &&& ~~~v))
    else some (settle (s.modTask r.core r.slot fun t => taskEff r.eng t (.csrAnd n v)) r.core)
  | .stage op v =>
    let t := s.task r.core r.slot
    let e : Entry := { uid := 0, r := r, tid := t.tid, cid := t.cid, path := 6, ord := .weak, sc := .core, sp := .c, lane := 0
                       addr := 0, n := 0, acc := .stage op t.c.iter v, ovl := [], inBlock := false, tl0 := true, owned := true, wait := none, since := s.cycle }
    some (s.enter e false)
  | .setS i v => some ((eccClean s (sregKey r.core r.slot i.toNat) 64).modTask r.core r.slot fun t => taskEff r.eng t (.setS i v))
  | .lc k c => some (s.modTask r.core r.slot fun t => taskEff r.eng t (.lc k c))
  | .stride k x => some (s.modTask r.core r.slot fun t => taskEff r.eng t (.stride k x))
  | .loopgo l => some (s.modTask r.core r.slot fun t => taskEff r.eng t (.loopgo l))
  | .loopbrk => some (s.modTask r.core r.slot fun t => taskEff r.eng t .loopbrk)
  | .vcnt u x => some (s.modTask r.core r.slot fun t => taskEff r.eng t (.vcnt u x))
  | .dmag l n => some (s.modTask r.core r.slot fun t => taskEff r.eng t (.dmag l n))

def commitEffs (r : Ref) : List Eff → State → Option State
  | [], s => some s
  | e :: es, s => match commitEff r s e with | some s' => commitEffs r es s' | none => none

/-- The handle a consumer's commit waits for, plus one (R203). -/
def waitsFor (t : Task) (es : List Eff) : Nat :=
  (es.findSome? fun
    | .cmd c => (c.cons.find? fun h => t.hst h != 2).map fun h => h.toNat + 1
    | .drain h => if t.hst h != 2 then some (h.toNat + 1) else none
    | _ => none).getD 0

/-! ## Room at commit (R129, R133, R136, R370) -/

def isCmd : Eff → Bool | .cmd _ => true | _ => false
def effAcc : Eff → Option Acc | .entry e => some e.acc | _ => none

/-- Tokens, events and queue entries on their way: entered and not yet performed. -/
def inflight (s : State) (tid : Nat) (f : Acc → Nat) : Nat :=
  ((s.paths.filter fun e => e.tid == tid).map fun e => f e.acc).sum

def tokN (k : Nat) : Acc → Nat | .token j => if j = k then 1 else 0 | _ => 0
def postN (k : Nat) : Acc → Nat | .post j n => if j = k then n else 0 | _ => 0
def pushN (k : Nat) : Acc → Nat | .qpush j _ => if j = k then 1 else 0 | _ => 0

/-- What keeps the commit waiting, if anything. -/
def commitHold (s : State) (r : Ref) (b : Block) : Option Hold :=
  let t := s.task r.core r.slot
  let new := b.effs.filterMap effAcc
  let tot (f : Nat → Acc → Nat) (k : Nat) : Nat := inflight s t.tid (f k) + ((new.map (f k)).sum)
  if (t.stm r.eng).cq.length + (b.effs.filter isCmd).length > 16 then some .queueFull
  else if (List.range 8).any (fun k => (new.map (tokN k)).sum > 0 && t.tok k + tot tokN k > 16) then some .token
  else if (List.range 16).any (fun k => (new.map (postN k)).sum > 0 &&
      (if h : k < 16 then t.e[k] else 0) + tot postN k > 65535) then some .event
  else if (List.range 8).any (fun k => (new.map (pushN k)).sum > 0 &&
      (if h : k < 8 then t.q[k].length else 0) + tot pushN k > 16) then some .queueFull
  else none

/-! ## Segments (R262) -/

/-- One bit of CRC-32C, reflected polynomial 0x82F63B78. -/
def crcBit (c : W32) : W32 := if c.getLsbD 0 then (c >>> 1) ^^^ 0x82F63B78 else c >>> 1
def crcByte (c : W32) (b : Byte) : W32 :=
  let c := c ^^^ b.zeroExtend 32
  crcBit (crcBit (crcBit (crcBit (crcBit (crcBit (crcBit (crcBit c)))))))
/-- A counted word, taken as 4 little-endian bytes. -/
def crcWord (c w : W32) : W32 := (toBytes 4 w.toNat).foldl crcByte c

def Seg.count' (g : Seg) (ws : List W32) : Seg :=
  { g with count := g.count + BitVec.ofNat 32 ws.length, crc := ws.foldl crcWord g.crc }

/-- The mismatch bits of SIGERR's EVAL: bit 16 a count, bit 17 a CRC (R263). -/
def Seg.bad (g : Seg) : Nat :=
  (if g.count != g.ent.extractLsb' 0 32 then 2 ^ 16 else 0) + (if g.crc ^^^ 0xFFFFFFFF != g.ent.extractLsb' 32 32 then 2 ^ 17 else 0)

/-! ## Exits and the loop sequencer (R128, R143) -/

def wordsTo (a : W64) (n : Nat) : W64 := a + BitVec.ofNat 64 (4 * n)
/-- Whether an address lies in the L words of the running body. -/
def Loop.inBody (l : Loop) (a : W64) : Bool := (a - l.start).toNat < 4 * l.len

/-- x registers with the strides of a level added `k` times. -/
def strideBy (l : Loop) (lvl : Nat) (k : Int) (st : EStream) : EStream :=
  l.str.toList.foldl (fun st e => if e.lvl.toNat = lvl then st.setX e.reg (st.rx e.reg + BitVec.ofInt 64 (k * e.str.toInt)) else st) st

/-- The pass of R143 over levels `k` to 6: whether the body is replayed, and the stream after it. -/
def loopPass : Nat → Nat → EStream → Bool × EStream
  | 0, _, st => (false, { st with loop := { st.loop with run := false } })
  | fuel + 1, k, st =>
    if h : k < 6 then
      let n := max st.loop.n[k].toNat 1
      if st.loop.idx[k].toNat + 1 < n then
        let st := strideBy st.loop (k + 1) 1 st
        (true, { st with loop := { st.loop with idx := st.loop.idx.set k (st.loop.idx[k] + 1) } })
      else
        let st := strideBy st.loop (k + 1) (-((n : Int) - 1)) st
        loopPass fuel (k + 1) { st with loop := { st.loop with idx := st.loop.idx.set k 0 } }
    else (false, { st with loop := { st.loop with run := false } })

def hasEret (b : Block) : Bool := b.effs.any fun | .eret => true | _ => false

/-- The stream after a committed block's exit: pc, x31 of a call, retirement, and the loop sequencer, which acts when RUN stood
before the block's own effects and the stream is not in its handler (`acts`). The exit of a block with eret is ignored (R249). -/
def takeExit (acts wasRun eret : Bool) (b : Block) (kind : BitVec 2) (disp : BitVec 14) (st : EStream) : EStream :=
  let target := b.hdr + disp.signExtend 64 * 4
  let ret := st.rx 31
  let st := if kind = 1 && !eret then st.setX 31 (wordsTo b.hdr b.size) else st
  let st := { st with blk := none, hold := .none, first := st.first && !acts }
  let go : EStream := if kind = 3 then { st with live := false } else { st with pc := if kind = 2 then ret else target }
  let l := st.loop
  if acts && !eret && wasRun && l.run && l.inBody b.hdr then
    if kind = 2 || kind = 3 then { go with loop := { l with run := false } }
    else if wordsTo b.hdr b.size == wordsTo l.start l.len then
      let (again, st') := loopPass 7 0 st
      { st' with pc := if again then l.start else target }
    else if l.inBody target then go
    else { go with loop := { l with run := false } }
  else go

/-- The body of a loopgo begins at its block's exit target (R143). -/
def setBody (b : Block) (st : EStream) : EStream :=
  if b.effs.any (fun | .loopgo _ => true | _ => false) then { st with loop := { st.loop with start := st.pc } } else st

/-! ## The commit of a block (R129) -/

/-- The exits that are true, by their predicates as the block leaves them (R128). -/
def trueExits (st : EStream) (b : Block) : List (R5 × BitVec 2 × BitVec 14 × W32) := b.exits.filter fun e => predHolds st e.1

def hasSege (b : Block) : Bool := b.effs.any fun | .sege => true | _ => false

/-- The trap the exits of a block that has issued meet, if any: EXITERR, ILLOP of a segment left open, ALIGN of a return (R128, R262). -/
def exitTrap (t : Task) (e : Eng) (b : Block) : Option (Nat × W64) :=
  let st := t.stm e
  match trueExits st b with
  | [(_, kind, _, w)] =>
    if !t.suspends e && st.seg.isSome && !hasSege b && (kind == 2 || kind == 3) then some (cILLOP, w.zeroExtend 64)
    else if !hasEret b && kind == 2 && bits (st.rx 31).toNat 0 2 != 0 then some (cALIGN, st.rx 31)
    else none
  | es => some (cEXITERR, BitVec.ofNat 64 es.length)

/-- The predicates that a block's exits name, read as it commits: corrected, and whether a word of one is uncorrectable (R255, R256). -/
def readExits (s : State) (r : Ref) (b : Block) : State :=
  if s.soft.isEmpty then s else (b.exits.filter fun x => x.1 != 31).foldl (fun s x => eccRead s (predKey r x.1.toNat) 8) s
def exitsBad (s : State) (r : Ref) (b : Block) : Bool := b.exits.any fun x => x.1 != 31 && badWord s (predKey r x.1.toNat) 8

/-- Everything a block does at its commit, by the exit taken. Its commands run under the NBV that stands as it commits (R236, R237). -/
def commitNow (s : State) (r : Ref) (b : Block) (kind : BitVec 2) (disp : BitVec 14) : State :=
  let t := s.task r.core r.slot
  let st := t.stm r.eng
  let s0 := s.modSt r fun st =>
    { st with seg := st.seg.map fun g => if !t.suspends r.eng && !hasSege b then g.count' b.counted else g }
  let wasRun := st.loop.run
  let nbv := t.c.nbv.extractLsb' 0 2
  let body := (b.effs.filter fun | .eret => false | _ => true).map fun | .cmd c => .cmd { c with nbv := nbv } | e => e
  match commitEffs r body s0 with
  | none => s.modSt r fun st => { st with hold := .handle, waitH := waitsFor t b.effs }
  | some s1 =>
    let s2 := s1.modSt r fun st => setBody b (takeExit (!t.suspends r.eng) wasRun (hasEret b) b kind disp st)
    let s3 := if hasEret b then s2.modTask r.core r.slot fun t => (trapReturn t r.eng).modStm r.eng fun st => { st with live := true } else s2
    if !(s3.stm r).live && !(s3.stm r).deferred.isEmpty then kill s3 t.cid 0x11 else s3

/-- The commit: held for loads, room or handle states; a trap of its exits is taken; otherwise everything takes effect at once. -/
def commitBlock (s : State) (r : Ref) : State :=
  let t := s.task r.core r.slot
  let st := t.stm r.eng
  match st.blk with
  | none => s
  | some b =>
    if !b.words.isEmpty then s
    else if s.paths.any (fun e => e.tid == t.tid && e.r.eng == r.eng && e.inBlock) then s.modSt r fun st => { st with hold := .memory }
    else
      let s := readExits s r b
      if exitsBad s r b then soften s r cPOISON (BitVec.allOnes 64) false
      else
      match exitTrap t r.eng b, trueExits st b with
      | some (c, v), _ => trapAt s r c v false
      | none, [(_, kind, disp, _)] =>
        match commitHold s r b with
        | some h => s.modSt r fun st => { st with hold := h }
        | none => commitNow s r b kind disp
      | none, _ => s

/-! ## Opening a block (R125, R133, R150) -/

/-- Whether the line of the task's abort group has reached its core (R149). -/
def abortRaised (s : State) (core : Nat) (t : Task) : Bool :=
  t.abgrp != 0 && s.aborts.any fun a => a.1 == t.cid && a.2.1 == t.abgrp && (t.line ||
    s.cycle - a.2.2.2 ≥ (if eightOf a.2.2.1 = eightOf core then 8 else if dieOf a.2.2.1 = dieOf core then 40 else 200))

/-- A raised sample ends the task (R150): every open block is discarded and no stream goes on. -/
def abortTask (s : State) (core slot : Nat) : State :=
  let s := Eng.all.foldl (fun s e => discardBlock s ⟨core, slot, e⟩) s
  s.modTask core slot fun t =>
    { t with aborted := true, st := t.st.map fun st => { st with live := false, hold := .none } }

/-- The block opened at the stream's pc with the words fetched for it. -/
def openBlock (s : State) (f : Sync) (ws : List W32) : State :=
  let st := s.me
  let b : Block := { hdr := st.pc, size := ws.length, words := ws.tail, x0 := st.x, p0 := st.p, v0 := s.my.v, mon0 := st.mon, armed := false
                     counted := [ws.headD 0], taken := [], effs := [], exits := [], ringDone := false, evRel := false, began := none, timeout := false }
  (s.modMe fun st => { st with blk := some b, hold := .none, fetched := none, illegal := none, looked := false, first := st.first && s.my.c.tl != 0 }).tokens f

/-- A block that straddles the body's last word (R145). -/
def straddles (l : Loop) (pc : W64) (n : Nat) : Bool :=
  l.run && l.inBody pc && (pc - l.start).toNat + 4 * n > 4 * l.len

end Sys2Proof.Machine
end

