-- ==== Sys2Proof/Machine/Operands.lean ====
section
/-! DEFINITION. Every operand form that names memory: the checks of an address in each space, its place in the memory table, and
the forms of load, store and atomic operands (R155 to R158, R162, R31, R349, R352). -/

namespace Sys2Proof.Machine

def dieAt (s : State) (d : Nat) : Die := if h : d < 4 then s.pkg.dies[d] else Die.empty
/-- A die that software can reach: TRUSTED with its DIEUP bit set (R31). -/
def trusted (s : State) (d : Nat) : Bool := (dieAt s d).st == .trusted && (dieAt s d).up

/-! ## Peer windows (R49, R60) -/

/-- The host bus address of n bytes at a die-field-6 address, where its window allows the tenant and the length; a LOG2 other than R49
names is a window of 2^LOG2 bytes as well (notes/assumptions/100.md). -/
def peerAddr (s : State) (tenant a n : Nat) : Option Nat :=
  let i := bits a 41 4
  let base := (tget 0 s.peerwin (2 * i)).toNat
  let w := (tget 0 s.peerwin (2 * i + 1)).toNat
  let l := bits w 0 8
  if l ≠ 0 && bits w (8 + tenant) 1 == 1 && bits a 0 41 + n ≤ 2 ^ l then some (base + bits a 0 41) else none

/-! ## Addresses at issue -/

/-- KCFG of an eight as it is in effect (R164). -/
def kcfgOf (s : State) (eight : Nat) : W64 := tget 0 s.kcfg eight
def kexp (s : State) (eight : Nat) : Nat := bits (kcfgOf s eight).toNat 0 4
/-- Bytes exported by each core of an eight (R157). -/
def exportBytes (s : State) (eight : Nat) : Nat := 2 ^ 18 * kexp s eight
/-- CSPAN (R157). -/
def cspan (s : State) (core : Nat) : Nat := (2 ^ 22 - exportBytes s (eightOf core)) / 4

/-- The trap an access of n bytes meets at issue, if any (R155, R157, R158, R162, R31); die field 6 is allowed to copies only. -/
def checkAddr (s : State) (r : Ref) (cid : Nat) (sp : Space) (a n : Nat) (peer : Bool) : Option (Nat × W64) :=
  let ev := BitVec.ofNat 64 a
  match sp with
  | .g =>
    if a ≥ 2 ^ 48 then some (cPROT, ev)
    else
      let d := a / 2 ^ 45
      if d = 6 && peer then (match peerAddr s (tenantOf s cid) a n with | some _ => none | none => some (cPROT, ev))
      else if d ≥ 4 then some (cPROT, ev)
      else if !trusted s d then some (cDIEQ, ev)
      else none
  | .c => if a + n ≤ cspan s r.core then none else some (cPROT, ev)
  | .k =>
    let k := kcfgOf s (eightOf r.core)
    if a < 2 ^ 24 && a % 2 ^ 21 + n ≤ exportBytes s (eightOf r.core) && k.getLsbD 31 && bits k.toNat 16 12 == cid then none
    else some (cPROT, ev)
  | .d =>
    if a ≥ 2 ^ 27 || a + n > 2 ^ 27 then some (cPROT, ev)
    else if !trusted s (a / 2 ^ 25) then some (cDIEQ, ev)
    else if dsOwned s cid a n then none
    else some (cPROT, ev)
  | .l => if a + n ≤ 7936 then none else some (cPROT, ev)

/-- The memory key of a local address (R155 to R158). -/
def localKey (s : State) (r : Ref) (sp : Space) (lane a : Nat) : Nat :=
  match sp with
  | .c => coreKey r.core (r.slot * cspan s r.core + a)
  | .k => coreKey (8 * eightOf r.core + a / 2 ^ 21 % 8) (2 ^ 22 - exportBytes s (eightOf r.core) + a % 2 ^ 21)
  | .d => dieKey (a / 2 ^ 25 % 4) (a % 2 ^ 25)
  | .l => rowKey r.core (2048 * r.slot + 64 + a / 4) lane (a % 4)
  | .g => 0

/-- A die scratchpad part's or a window's bytes read zero, and hold no error or poison any more. -/
def zeroKeys (s : State) (k n : Nat) : State :=
  let here (i : Nat) : Bool := k ≤ i && i < k + n
  { s with
    mem := s.mem.filter fun c => !here c.1
    poison := s.poison.filter fun p => !here (64 * p)
    soft := s.soft.filter fun e => !here (4 * e.1) }
/-- A part of a die scratchpad reads zero before the first access of a new owner (R158). An access of an earlier owner, issued when it
owned the part, claims nothing. -/
def claimOne (s : State) (cid part : Nat) : State :=
  if tget 0 s.dOwner part = cid + 1 || !dsOk s cid (part / 32) (part % 32) then s
  else { zeroKeys s (4 * 2 ^ 40 + part * 2 ^ 20) (2 ^ 20) with dOwner := tput 0 s.dOwner part (cid + 1) }
/-- The same of the parts that n bytes of .d reach, at most 1 MiB. -/
def claimPart (s : State) (sp : Space) (cid a n : Nat) : State :=
  match sp with
  | .d => claimOne (claimOne s cid (a / 2 ^ 20)) cid ((a + max n 1 - 1) / 2 ^ 20)
  | .g | .c | .k | .l => s

/-- Width in bytes of an LD or ST width code (R285). -/
def widthOf (w : BitVec 3) : Nat := 2 ^ (w.toNat / 2)

/-- The value an LD of a width code writes (R350): sign-extended for the s widths, zero-extended for n and 64. -/
def extendLoad (w : BitVec 3) (bs : List Byte) : W64 :=
  let v := leNat bs
  if w = 0 then (BitVec.ofNat 8 v).signExtend 64
  else if w = 2 then (BitVec.ofNat 16 v).signExtend 64
  else if w = 4 then (BitVec.ofNat 32 v).signExtend 64
  else BitVec.ofNat 64 v

/-- The new value and whether it is written (R352), over operands of one width. -/
def amoNew {w : Nat} (op : AmoOp) (old v e : BitVec w) : BitVec w × Bool :=
  match op with
  | .add => (old + v, true)
  | .and => (old &&& v, true)
  | .or => (old ||| v, true)
  | .xor => (old ^^^ v, true)
  | .minS => (if v.slt old then v else old, true)
  | .minN => (if v.ult old then v else old, true)
  | .maxS => (if old.slt v then v else old, true)
  | .maxN => (if old.ult v then v else old, true)
  | .swap => (v, true)
  | .cas => if old = e then (v, true) else (old, false)

/-- The atomic on the bytes at its home: the bytes to write, if any, and the value for x[d] (R352). -/
def amoBytes (op : AmoOp) (w64 : Bool) (bs : List Byte) (v e : W64) : Option (List Byte) × W64 :=
  if w64 then
    let old := BitVec.ofNat 64 (leNat bs)
    let (n, wr) := amoNew op old v e
    (if wr then some (toBytes 8 n.toNat) else none, old)
  else
    let old := BitVec.ofNat 32 (leNat bs)
    let (n, wr) := amoNew op old (v.extractLsb' 0 32) (e.extractLsb' 0 32)
    (if wr then some (toBytes 4 n.toNat) else none, old.signExtend 64)

/-- The side-log OP of an atomic (R174): its AMO OP plus one. -/
def AmoOp.code : AmoOp → Nat
  | .add => 1 | .and => 2 | .or => 3 | .xor => 4 | .minS => 5 | .minN => 6 | .maxS => 7 | .maxN => 8 | .swap => 9 | .cas => 10

/-- Home of an ordered access inside its scope (R185): a local home, or a global die. -/
def scopeHas (r : Ref) (sp : Space) (a : Nat) (sc : Scope) : Bool :=
  match sp with
  | .l | .c => true
  | .k => if 8 * eightOf r.core + a / 2 ^ 21 % 8 = r.core then true else sc != .core
  | .d => scopeDie sc r.core (a / 2 ^ 25 % 4)
  | .g => if a / 2 ^ 45 < 4 then scopeDie sc r.core (a / 2 ^ 45) else sc == .system

/-- Bytes an earlier store of the open block wrote at an address of the stream (R127), newest first, by offset. -/
def overlay (s : State) (sp : Space) (lane a n : Nat) : List (Nat × Byte) :=
  (s.effs.reverse.filterMap fun
    | .entry e => match e.acc with
      | .store bs => if e.sp = sp && e.lane = lane then
          some ((List.range bs.length).filterMap fun i =>
            if a ≤ e.addr + i && e.addr + i < a + n then some (e.addr + i - a, bs.getD i 0) else none) else none
      | _ => none
    | _ => none).flatten

def patch (bs : List Byte) (ov : List (Nat × Byte)) : List Byte :=
  (List.range bs.length).map fun i => match ov.find? (fun o => o.1 == i) with | some o => o.2 | none => bs.getD i 0

/-- A load entered at issue (R183 step 1). -/
def State.load (s : State) (path : Nat) (ord : Order) (sc : Scope) (sp : Space) (lane a n : Nat) (dst : LoadDst) : State :=
  s.enter { mkEntry s path ord sc sp lane a n (.load dst) with ovl := overlay s sp lane a n } true

end Sys2Proof.Machine
end

