-- ==== Sys2Proof/Machine/Links.lean ====
section
/-! DEFINITION. The die-to-die links: their ends, keys and flits, the route of a request between dies, and what a request sends over it
(R8 to R10, R32 to R37). -/

namespace Sys2Proof.Machine

/-! ## Links (R8, R33) -/

/-- The dies at the ends of a link; 4 is the M-die. -/
def linkEnds (l : Nat) : Nat × Nat := if l < 4 then (4, l) else (l - 4, (l - 3) % 4)
def linkAt (s : State) (l : Nat) : Link := if h : l < 8 then s.links[l] else Link.empty
def State.modLink (s : State) (l : Nat) (f : Link → Link) : State :=
  if h : l < 8 then { s with links := s.links.set l (f s.links[l]) } else s
def Link.dir (k : Link) (d : Nat) : LinkDir := if h : d < 2 then k.dirs[d] else LinkDir.empty
def Link.setDir (k : Link) (d : Nat) (x : LinkDir) : Link := if h : d < 2 then { k with dirs := k.dirs.set d x } else k
def Link.keyed (k : Link) : Bool := (k.dir 0).key.isSome && (k.dir 1).key.isSome
/-- Whether an end is trusted: the M-die once its firmware has verified. -/
def endTrusted (s : State) (d : Nat) : Bool := if d = 4 then s.pkg.fwOk else (dieAt s d).st == .trusted
def linkReady (s : State) (l : Nat) : Bool :=
  (linkAt s l).keyed && endTrusted s (linkEnds l).1 && endTrusted s (linkEnds l).2
def linksOf (d : Nat) : List Nat := (List.range 8).filter fun l => (linkEnds l).1 == d || (linkEnds l).2 == d
/-- A die's links carry no data any more and their keys are erased at both ends (R38 step 2, R37). -/
def dropLinks (s : State) (d : Nat) : State := (linksOf d).foldl (fun s l => s.modLink l fun _ => Link.empty) s

/-! ## Flits and rollover (R34 to R37) -/

/-- The 32-bit identifier of a direction of a link (notes/assumptions/65.md). -/
def linkDirId (l dir : Nat) : BitVec 32 := BitVec.ofNat 32 (2 * l + dir)
/-- The nonce of the flit of a count (R34). -/
def nonceOf (l dir count : Nat) : BitVec 96 := linkDirId l dir ++ BitVec.ofNat 64 count
/-- A flit sealed under a key, and its tag (R34). -/
def sealFlit (key l dir count : Nat) (header : BitVec 128) (plain : BitVec 1792) : Flit × BitVec 128 :=
  let c := Config.gcmSeal key (nonceOf l dir count) plain
  (⟨header, c⟩, Config.gcmTag key (nonceOf l dir count) header c)
/-- Whether a flit's tag verifies under a key. -/
def tagHolds (key l dir count : Nat) (f : Flit) (tag : BitVec 128) : Bool :=
  Config.gcmTag key (nonceOf l dir count) f.header f.payload == tag

/-- The key a KEYSEQ names at the receiver, which holds both during a rollover (R36 step 3). -/
def LinkDir.keyFor (d : LinkDir) (ks : Bool) : Option Nat :=
  if ks == d.keyseq then (if d.rolling then d.nextKey else d.key) else if d.rolling then d.key else none
/-- Steps 1 and 2 of a rollover: the next key is installed, and every flit sent from now on is sealed with it. -/
def LinkDir.roll (d : LinkDir) (key : Nat) : LinkDir :=
  { d with nextKey := some key, keyseq := !d.keyseq, flits := 0, accepted := 0, rolling := true }
/-- Steps 3 and 4: 1,024 flits under the next key have been accepted. -/
def LinkDir.rollEnd (d : LinkDir) : LinkDir :=
  if d.rolling && d.accepted ≥ 1024 then { d with key := d.nextKey, nextKey := none, rolling := false, accepted := 0 } else d
/-- The oldest request that waited begins; without one the root starts a rollover at ROLLCTL.FLITS × 2^32 flits (R37). -/
def LinkDir.rollNext (d : LinkDir) (lim key : Nat) : LinkDir :=
  if d.rolling then d
  else
    match d.waiting with
    | k :: ks => { d.roll k with waiting := ks }
    | [] => if d.key.isSome && d.flits ≥ lim * 2 ^ 32 then d.roll key else d
/-- A flit has been sent and accepted. -/
def LinkDir.sent (d : LinkDir) : LinkDir :=
  LinkDir.rollEnd { d with fails := 0, flits := d.flits + 1, accepted := if d.rolling then d.accepted + 1 else 0 }
/-- The rollover that is due in a direction begins, the root's next key drawn for it. -/
def State.rollDue (s : State) (l dir : Nat) : State :=
  let d := (linkAt s l).dir dir
  let d' := d.rollNext s.pkg.rollctl (Config.drbgKey s.free)
  { s.modLink l fun k => k.setDir dir d' with free := if d'.rolling && !d.rolling then s.free + 1 else s.free }
/-- The rollovers due in all directions, as after a write of ROLLCTL (R37). -/
def State.rollsDue (s : State) : State := (List.range 16).foldl (fun s i => s.rollDue (i / 2) (i % 2)) s
/-- A flit is sent in a direction. -/
def State.sendFlit (s : State) (l dir : Nat) (f : LinkDir → LinkDir) : State :=
  (s.modLink l fun k => k.setDir dir (f (k.dir dir).sent)).rollDue l dir
/-- A number of flits is sent, each acknowledged. -/
def State.sendFlits (s : State) (l dir : Nat) : Nat → State
  | 0 => s
  | n + 1 => (s.sendFlit l dir id).sendFlits l dir n

/-! ## Routes (R9, R32) -/

/-- The directions a request takes around the ring toward higher and toward lower die numbers. -/
def ringUp (a : Nat) : Nat → List (Nat × Nat)
  | 0 => []
  | n + 1 => (4 + a % 4, 0) :: ringUp (a + 1) n
def ringDown (a : Nat) : Nat → List (Nat × Nat)
  | 0 => []
  | n + 1 => (4 + (a + 3) % 4, 1) :: ringDown (a + 3) n
def carries (s : State) (p : List (Nat × Nat)) : Bool := p.all fun h => (linkAt s h.1).up

/-- The hops of a request from die a to die b, 4 the M-die: the shared link of neighbours, the higher way to the die opposite; the other
way around, and then the M-die, where those do not carry data. -/
def route (s : State) (a b : Nat) : Option (List (Nat × Nat)) :=
  if a = b then some []
  else if a ≥ 4 then some [(b, 0)]
  else if b ≥ 4 then some [(a, 1)]
  else
    let n := (b + 4 - a) % 4
    let ways := if n ≤ 2 then [ringUp a n, ringDown a (4 - n)] else [ringDown a (4 - n), ringUp a n]
    (ways ++ [[(a, 1), (b, 0)]]).find? (carries s)

/-- The way of the answer, hop by hop. -/
def backHop (h : Nat × Nat) : Nat × Nat := (h.1, 1 - h.2)
/-- Flits of 224 bytes of payload that n bytes take, at least one (notes/assumptions/65.md). -/
def flitsFor (n : Nat) : Nat := max 1 ((n + 223) / 224)
/-- Whether every sender of a route can send: its replay buffer has room and its count stays below 2^40 (R10, R37). -/
def canSend (s : State) (p : List (Nat × Nat)) (k : Nat) : Bool :=
  p.all fun h =>
    let d := (linkAt s h.1).dir h.2
    d.replay.length < 64 && d.flits + k < 2 ^ 40
/-- A request and its answer cross a route, each hop of each acknowledged. -/
def cross (s : State) (p : List (Nat × Nat)) (k : Nat) : State :=
  (p ++ p.map backHop).foldl (fun s h => s.sendFlits h.1 h.2 k) s

/-- Whether an access of n bytes by die a can reach die b and be answered. -/
def reaches (s : State) (a b n : Nat) : Bool :=
  match route s a b with
  | none => false
  | some p => p.isEmpty || (carries s p && canSend s (p ++ p.map backHop) (flitsFor n))
/-- The access crosses its route, if it is one that carries data. -/
def travel (s : State) (a b n : Nat) : State :=
  match route s a b with
  | none => s
  | some p => if p.isEmpty || !carries s p then s else cross s p (flitsFor n)

end Sys2Proof.Machine
end

