-- ==== Sys2Proof/Machine/Arms.lean ====
section
/-! DEFINITION. Arm entries, wait events and the stage counters: what makes a task READY (R92 to R96, R112, R330 to R333). -/

namespace Sys2Proof.Machine

/-- Whether one more waiter of an event needs a slot of the overflow area (R95, R96). -/
def eventFull (s : State) (cid name : Nat) : Bool :=
  match s.events.find? (fun e => e.cid == cid && e.name == name) with
  | none => tableFull s name
  | some e => e.count == 0 && (e.spilt || e.hw.length ≥ 4)

/-- A waiter arrives at an event (R94, R95): it takes a count at once, or a place among the waiters, in the overflow list when the event
has no hardware slot for it. -/
def arriveWaiter (s : State) (cid name : Nat) (w : Waiter) : Bool × State :=
  match s.events.find? (fun e => e.cid == cid && e.name == name) with
  | none =>
    let full := tableFull s name
    (false, { s with events := s.events ++ [⟨cid, name, 0, if full then [] else [w], if full then [w] else [], full⟩] })
  | some e =>
    let upd (e' : Event) : State := { s with events := s.events.filterMap fun x =>
      if x.cid == cid && x.name == name then (if e'.count = 0 && e'.hw.isEmpty && e'.ovf.isEmpty then none else some e') else some x }
    if e.count > 0 then (true, upd { e with count := e.count - 1 })
    else if !e.spilt && e.hw.length < 4 then (false, upd { e with hw := e.hw ++ [w] })
    else (false, upd { e with ovf := e.ovf ++ [w] })

def State.setJobSt (s : State) (tid : Nat) (st : JobState) : State :=
  { s with jobs := s.jobs.map fun k => if k.t.tid == tid then { k with st := st } else k }

/-- TakeWaitEvent of R92: at once without WAITEV, with a count of it, or as a waiter, which may wait for a slot (R96). -/
def takeWait (s : State) (j : Job) : State :=
  let name := j.t.fld 112 16
  if name = 0 then becomeReady s j
  else if eventFull s j.t.cid name && !slotFree s j.t.cid then armFull (s.setJobSt j.t.tid .arriving) j.t.cid
  else
    match arriveWaiter s j.t.cid name (.job j.t.tid) with
    | (true, s) => becomeReady s j
    | (false, s) => s.setJobSt j.t.tid .waiting

def armOf (s : State) (cid : Nat) (key : W64) (rep : Option Nat) : Option Arm :=
  s.arms.find? fun a => a.cid == cid && a.key == key && a.replay == rep
/-- An arm entry that stands keeps its place; a new one takes the last. -/
def putArm (s : State) (a : Arm) : State :=
  let is (b : Arm) : Bool := b.cid == a.cid && b.key == a.key && b.replay == a.replay
  { s with arms := if s.arms.any is then s.arms.map fun b => if is b then a else b else s.arms ++ [a] }
/-- An entry whose task is fetched and whose count is zero goes on to its wait event (R92). -/
def armZero (s : State) (a : Arm) : State :=
  if a.fetched && a.cnt == 0 then
    match s.jobs.find? (fun j => j.t.tid == a.tid && j.st == .armed) with
    | some j => takeWait s j
    | none => s
  else s

/-- JoinDec(key) of R92. The entry stands until its task is READY. -/
def joinDec (s : State) (cid : Nat) (key : W64) (rep : Option Nat) : State :=
  let a := (armOf s cid key rep).getD ⟨cid, key, rep, 0, false, 0⟩
  let a := { a with cnt := a.cnt - 1 }
  armZero (putArm s a) a

/-- Fetch(record) of R92: the job stands ARMED and its arm entry gains JOIN. -/
def armFetch (s : State) (t : Task) : State :=
  let j : Job := ⟨t, .armed, 0, false, [], [], [], none⟩
  let s := { s with jobs := s.jobs ++ [j] }
  let a := (armOf s t.cid t.key t.armRep).getD ⟨t.cid, t.key, t.armRep, 0, false, 0⟩
  let a := { a with cnt := a.cnt + (t.fld 48 16 : Int), fetched := true, tid := t.tid }
  armZero (putArm s a) a

/-- A task held for a slot tries again (R96): its arrival at its event, its place in a ready queue, or its return to its queue. -/
def retryJob (s : State) (j : Job) : State :=
  match j.st with
  | .arriving => takeWait s j
  | .placing =>
    match s.stages.find? fun x => x.key == j.t.part with
    | some x => enqueue { s with jobs := s.jobs.filter fun k => k.t.tid != j.t.tid } j (some x.home)
    | none => becomeReady s j
  | .returning => enterQueue { s with jobs := s.jobs.filter fun k => k.t.tid != j.t.tid } j j.q .returning
  | .armed | .waiting | .ready | .ending => s
/-- Every task that waits for a slot tries again, the longest waiting first (notes/assumptions/95.md). -/
def unstick (s : State) : State := (s.jobs.filter fun j => j.st == .arriving || j.st == .placing || j.st == .returning).foldl retryJob s

/-- A successor's key as an entry or joindec names it (R88, R330): node SEQ[15:0] of the same replay, or a plain task. -/
def succKey (k : W64) : W64 := if k.getLsbD 63 then k &&& 0x8000_0000_0000_FFFF else k &&& 0x7F_FFFF_FFFF
def succRep (t : Task) (k : W64) : Option Nat := if k.getLsbD 63 then some (repKey t.stream t.seq) else none
def joinSucc (s : State) (t : Task) (k : W64) : State := joinDec s t.cid (succKey k) (succRep t k)

/-- The checks of R89 made at fetch, by the fields of a record. -/
def badRecord (rec : BitVec 512) : Bool :=
  let f (lo w : Nat) : Nat := bits rec.toNat lo w
  f 0 5 ≠ 0 || (f 270 1 = 1 && (f 269 1 = 0 || f 360 16 = 0)) || (f 271 1 = 1 && f 280 4 = 0) || f 280 4 > 10 ||
  f 263 1 ≠ 0 || f 284 4 ≠ 0 || f 332 4 ≠ 0 || f 358 2 ≠ 0 || f 376 8 ≠ 0 || f 448 62 ≠ 0

/-- A new task from a record: the fields the device keeps beside it. -/
def taskOf (s : State) (rec : BitVec 512) (cid : Nat) (seq : W32) (fn : Nat) (queued : Bool) : Task :=
  { Task.empty with
    live := true, tid := s.uid, trec := rec, cid := cid, seq := seq, fn := fn, queued := queued
    hi := BitVec.ofNat 32 (bits rec.toNat 160 32)
    c := { Csrs.empty with iter := BitVec.ofNat 32 (bits rec.toNat 128 32) } }

/-- Refused(rec) of R332. -/
def spawnRefused (t : Task) (r : Bool) (rec : BitVec 512) : Bool :=
  let f (lo w : Nat) : Nat := bits rec.toNat lo w
  badRecord rec || f 256 7 ≠ t.stream || f 266 3 ≠ t.tenant || f 288 16 ≠ 0xFFFF || f 510 2 ≠ 0 || f 264 2 < t.cls ||
  (r && f 48 16 ≥ 65535)

/-- An implicit successor of a task: it stands with the range task where the task is a part of one (R333). -/
def addSucc (s : State) (r : Ref) (tid : Nat) (key : W64) : State :=
  let g := (s.ownTask r tid).grp
  if s.parts.any fun p => p.key == g then { s with parts := s.parts.map fun p => if p.key == g then { p with succ := p.succ ++ [key] } else p }
  else s.modOwn r tid fun t => { t with succ := t.succ ++ [key] }
/-- The implicit successors of a task that are known. -/
def partSucc (s : State) (t : Task) : List W64 := match s.parts.find? (fun p => p.key == t.grp) with | some p => p.succ | none => []

/-- The spawn's effect (R332): a key from SPN, the record fetched under it, an implicit successor for spawnr, x[d]. -/
def spawnNow (s : State) (r : Ref) (tid : Nat) (isR : Bool) (rec : BitVec 512) (d : R5) : State :=
  let t := s.ownTask r tid
  let spn := (hst s t.stream).spn
  let seq : W32 := BitVec.ofNat 32 (0x8000_0000 + spn % 2 ^ 31)
  let key : W64 := BitVec.ofNat 64 (seq.toNat + t.stream * 2 ^ 32)
  let s := s.modStrm t.stream fun h => { h with spn := (spn + 1) % 2 ^ 32 }
  let rec' := if isR then rec + (1#512 <<< 48) else rec
  let nt := taskOf s rec' t.cid seq t.fn false
  let s := { s with uid := s.uid + 1 }
  let s := (if isR then addSucc s r tid key else s).modOwnSt r tid fun st => st.lateX d key
  armFetch s nt

/-! ## Stage counters (R112, R117) -/

def stageTab (s : State) (key : Nat) : Option StageTab := s.stages.find? fun x => x.key == key

/-- An iteration that has reached its final stage leaves the window, and the next instances become READY (R112). -/
def stageRetire (s : State) (key i : Nat) (t : Task) : State :=
  match stageTab s key with
  | none => s
  | some x =>
    if x.retired.contains i then s
    else
      let x := { x with retired := i :: x.retired, counts := tput 0 x.counts i 0 }
      let (s, x) := stageReady { Task.empty with
        live := true, trec := t.trec, cid := t.cid, seq := t.seq, pblk := t.pblk, fn := t.fn, queued := t.queued
        replay := t.replay, grp := t.grp, hi := t.hi } (t.fld 352 6 + 1) s x
      { s with stages := s.stages.map fun y => if y.key == key then x else y }

/-- stgadv and stgjmp after their commit (R117): the count becomes the value they took at issue; nothing once retired. -/
def stageUpdate (s : State) (t : Task) (iter : W32) (v : Nat) : State :=
  match stageTab s t.part with
  | none => s
  | some x =>
    let i := iter.toNat
    if x.retired.contains i then s
    else
      let c := min v t.final
      let s := { s with stages := s.stages.map fun y => if y.key == x.key then { y with counts := tput 0 y.counts i c } else y }
      if c ≥ t.final then stageRetire s x.key i t else s

end Sys2Proof.Machine
end

