-- ==== Sys2Proof/Machine/Translate.lean ====
section
/-! DEFINITION. Global addresses: contexts, the L2 and the coding of its evicted blocks, the two-level walk and the memory-side TLB,
sparse-existence tiles, remote parts and peer windows, and the reading and writing of bytes at their home, with staging, poison and
monitors (R60, R140, R160, R162 to R180, R212, R213, R256, R258, R259). -/

namespace Sys2Proof.Machine

/-- What met a translation fault: the access itself, a structure of a region, or a read of an engine's work; and its KIND, that of the
access where nothing else gives it (R171, R220). -/
inductive FaultOf where
  | access | region | read
deriving DecidableEq, Repr
def FaultOf.kind (k : Nat) : FaultOf → Nat | .access => k | .region => 9 | .read => 3

/-- Why an access is not performed: Protect, a link on its way that cannot take it now, a translation fault, an exhausted pool with the
line of its descriptor, or a physical address that has no memory. -/
inductive Miss where
  | prot
  | link
  | fault (addr reason : Nat) (of : FaultOf)
  | exhausted (line : Nat)
  | hole (die addr : Nat)
deriving DecidableEq, Repr

/-- What an access is for the permission bits of R167. -/
inductive Want where
  | rd | wr | rw | ex
deriving DecidableEq, Repr

def Want.reads : Want → Bool | .rd | .rw => true | .wr | .ex => false
def Want.writes : Want → Bool | .wr | .rw => true | .rd | .ex => false

/-- On whose behalf memory is reached: a context, the stream and task whose staged lines it sees, and the die it comes from, 4 for the
M-die. -/
structure Who where
  cid : Nat
  owner : Option (Ref × Nat)
  die : Nat
deriving DecidableEq, Repr
/-- An agent of the M-die: the host's bridge, the scheduler or a codec engine. -/
def hostWho (cid : Nat) : Who := ⟨cid, none, 4⟩

/-- Where a byte is: a place of the memory table, or the default pattern of a tile without storage. -/
inductive Place where
  | at (k : Nat)
  | dflt (v : W32)
deriving DecidableEq, Repr

abbrev TM := EStateM Miss State

/-! ## The L2 (R160, R212, R213)

The bytes of memory are those that stand at their home; a line says which of them the L2 holds and which HBM does not have yet. -/

def linesIn (k n : Nat) : List Nat := if n = 0 then [] else (List.range ((k + n - 1) / 256 - k / 256 + 1)).map (k / 256 + ·)
/-- The die, slice and set of a line, 16 ways each (notes/assumptions/97.md). -/
def l2Set (line : Nat) : Nat × Nat × Nat := (256 * line / 2 ^ 40, homeSlice (256 * line), line / 32 % 512)
def l2Line (s : State) (line : Nat) : L2Line := (s.l2.find? fun l => l.line == line).getD ⟨line, 0, 0⟩
def inL2 (s : State) (line : Nat) : Bool := s.l2.any fun l => l.line == line
/-- The bits of a line that n bytes at a key cover. -/
def lineMask (line k n : Nat) : BitVec 256 :=
  let lo := max k (256 * line)
  let hi := min (k + n) (256 * line + 256)
  (BitVec.allOnes 256 >>> (256 - (hi - lo))) <<< (lo - 256 * line)

/-- The compression state of the page of an HBM key (R169): 0 unset, 1 plain, 2 + c compressed by context c. -/
def cmpOf (s : State) (k : Nat) : Nat := tget 0 s.cmpState (k / 2 ^ 40 * 2 ^ 15 + k % 2 ^ 40 / 2 ^ 21)
/-- Whether the coded block of an HBM key, in a compressed page, decodes as poison: SEL 7, or a dictionary slot whose parity has changed
(R212, R213). -/
def blockBad (s : State) (k : Nat) : Bool :=
  cmpOf s k ≥ 2 &&
  let m := (tget 0 s.blkMeta (k / 512)).toNat
  let sel := m % 8
  let slot := k / 2 ^ 40 * 8192 + 2 * (cmpOf s k - 2) + (sel - 5)
  sel == 7 || ((sel == 5 || sel == 6) && bits (tget 0 s.bookSt slot) 1 1 != m / 128)

/-- The coders that run on a block of a context on a die, with the sectors each needs: SEL 2 to 4, and 5 and 6 for loaded slots. -/
def coders (s : State) (die cid : Nat) (bs : List Byte) : List (Nat × Nat) :=
  [(2, Config.coderSectors 2 bs), (3, Config.coderSectors 3 bs), (4, Config.coderSectors 4 bs)] ++
  (([0, 1] : List Nat).filter fun k => cid < 1024 && (tget 0 s.bookSt (die * 8192 + 2 * cid + k)).testBit 0).map fun k =>
    (5 + k, Config.coderSectors (5 + k) (tget [] s.books (die * 8192 + 2 * cid + k) ++ bs))
/-- The metadata byte of a block that is coded now (R213). -/
def codeBlock (s : State) (die cid : Nat) (bs : List Byte) : BitVec 8 :=
  if bs.all (· == 0) then 1
  else
    let best := (coders s die cid bs).foldl (fun (b : Nat × Nat) c => if c.2 < b.2 then c else b) (0, 16)
    if best.2 ≥ 16 then 0
    else
      let gp := if best.1 ≥ 5 then bits (tget 0 s.bookSt (die * 8192 + 2 * cid + (best.1 - 5))) 1 1 else 0
      BitVec.ofNat 8 (best.1 + 8 * best.2 + 128 * gp)

/-- The bytes of a line that are not valid in the L2 come from HBM (R160): their words corrected, their pieces poison where their block
does not decode. -/
def readHbm (s : State) (line : Nat) : State :=
  let v := (l2Line s line).valid
  if v == BitVec.allOnes 256 then s
  else
    let s := eccRead (touchHbm s (256 * line)) (256 * line) 256
    if blockBad s (256 * line) then
      let ps := ([0, 1, 2, 3].filter fun i => v.extractLsb' (64 * i) 64 != BitVec.allOnes 64).map (4 * line + ·)
      { s with poison := s.poison ++ ps.filter fun p => !s.poison.contains p }
    else s
/-- A line that the L2 holds is fetched and merged under its valid mask. -/
def fetchLine (s : State) (line : Nat) : State :=
  let s := readHbm s line
  { s with l2 := s.l2.map fun l => if l.line == line then { l with valid := BitVec.allOnes 256 } else l }

/-- The dirty bytes of a line go to HBM (R160): words written whole hold no error there any more. -/
def writeBack (s : State) (line : Nat) : State :=
  if s.soft.isEmpty then s
  else
    let d := (l2Line s line).dirty
    let s := if d == 0 then s else eccRead s (l2Key (256 * line)) 256
    let s := (List.range 32).foldl (fun s i =>
      let m := d.extractLsb' (8 * i) 8
      if m == 0 then s else if m == 0xFF#8 then eccWrite s (256 * line + 8 * i) 8 else eccRead s (256 * line + 8 * i) 8) s
    { s with soft := s.soft.filter fun e => !(l2Key (256 * line) ≤ 4 * e.1 && 4 * e.1 < l2Key (256 * line) + 256) }

/-- A line leaves the L2, in a compressed page with the other line of its block, which is fetched where it is not valid and coded. -/
def evictLine (s : State) (line : Nat) : State :=
  let st := cmpOf s (256 * line)
  let gone := if st ≥ 2 then [line / 2 * 2, line / 2 * 2 + 1] else [line]
  let s := if st ≥ 2 then
      let s := gone.foldl readHbm s
      { s with blkMeta := tput 0 s.blkMeta (line / 2) (codeBlock s (256 * line / 2 ^ 40) (st - 2) (s.read (line / 2 * 512) 512)) }
    else s
  let s := if gone.any fun l => (l2Line s l).dirty != 0 then touchHbm s (256 * line) else s
  let s := gone.foldl writeBack s
  { s with l2 := s.l2.filter fun l => !gone.contains l.line }

/-- A line has a place in its set and is the most recently used of it; the least recently used of 16 leaves. -/
def l2Alloc (s : State) (line : Nat) : State :=
  match s.l2.find? fun l => l.line == line with
  | some l => { s with l2 := l :: s.l2.filter fun x => x.line != line }
  | none =>
    let s := match (s.l2.filter fun x => l2Set x.line == l2Set line)[15]? with | some x => evictLine s x.line | none => s
    { s with l2 := ⟨line, 0, 0⟩ :: s.l2 }

/-- A read of n bytes at their home: through the L2 in HBM, which fetches a line that lacks one of them (R160). -/
def homeFetch (s : State) (k n : Nat) : State :=
  if k < 4 * 2 ^ 40 then
    let s := (linesIn k n).foldl (fun s l =>
      let s := l2Alloc s l
      if (l2Line s l).valid &&& lineMask l k n == lineMask l k n then s else fetchLine s l) (touchHbm s k)
    eccRead s (l2Key k) n
  else eccRead s k n
/-- A write of n bytes at their home: the L2 allocates their lines without a fetch. -/
def homeAlloc (s : State) (k n : Nat) : State :=
  if k < 4 * 2 ^ 40 then
    let s := (linesIn k n).foldl (fun s l =>
      let s := l2Alloc s l
      { s with l2 := s.l2.map fun x => if x.line == l then
          { x with valid := x.valid ||| lineMask l k n, dirty := x.dirty ||| lineMask l k n } else x }) (touchHbm s k)
    eccWrite s (l2Key k) n
  else eccWrite s k n

/-! ## Leaf entries and the TLB (R166 to R169) -/

def leafEx (e : Nat) : Bool := e.testBit 3
def leafOrd (e : Nat) : Nat := bits e 4 2
def leafCmp (e : Nat) : Bool := e.testBit 6
def leafExi (e : Nat) : Bool := e.testBit 7
def leafRemote (e : Nat) : Bool := e.testBit 8
def leafReg (e : Nat) : Nat := bits e 56 8
def leafRes (e a : Nat) : Bool := e.testBit (64 + bits a 16 5)
def leafPhys (e a : Nat) : Nat := bits e 21 15 * 2 ^ 21 + a % 2 ^ 21
def leafRem (e a : Nat) : Nat := bits e 96 27 * 2 ^ 21 + a % 2 ^ 21
def leafAllows (e : Nat) : Want → Bool
  | .rd => e.testBit 1
  | .wr => e.testBit 2
  | .rw => e.testBit 1 && e.testBit 2
  | .ex => leafEx e
/-- An entry that shows the part absent is never trusted (R168). -/
def leafAbsent (e a : Nat) : Bool := !leafExi e && !leafRes e a && !leafRemote e

/-- The compression state of a physical page (R169): 0 unset, 1 plain, 2 + c compressed by context c. -/
def cmpKey (d e : Nat) : Nat := d * 2 ^ 15 + bits e 21 15
def cmpConflict (s : State) (d e : Nat) : Bool :=
  let st := tget 0 s.cmpState (cmpKey d e)
  !leafExi e && st != 0 && (leafCmp e != (st ≥ 2))
/-- A leaf that R167 sends to Protect. -/
def leafBad (s : State) (d e : Nat) : Bool :=
  leafOrd e == 3 || bits e 9 12 != 0 || bits e 36 20 != 0 || bits e 123 5 != 0 || (leafExi e && leafCmp e) ||
  (!leafExi e && leafRemote e && bits e 120 3 != 6) || cmpConflict s d e

/-- Sets of 8 entries of a slice's TLB: 512, by the low bits of the page number (notes/assumptions/8.md). -/
def tlbSet (page : Nat) : Nat := page % 512
def TlbEnt.is (t : TlbEnt) (d sl cid page : Nat) : Bool := t.die == d && t.slice == sl && t.cid == cid && t.page == page
def tlbFind (s : State) (d sl cid page : Nat) : Option Nat := (s.tlb.find? fun t => t.is d sl cid page).map fun t => t.leaf.toNat
/-- An entry becomes the most recently used of its set; the ninth of a set leaves. -/
def tlbInstall (s : State) (d sl cid page e : Nat) : State :=
  let rest := s.tlb.filter fun t => !t.is d sl cid page
  let mates := rest.filter fun t => t.die == d && t.slice == sl && tlbSet t.page == tlbSet page
  let rest := match mates[7]? with
    | some l => rest.filter fun t => !t.is l.die l.slice l.cid l.page
    | none => rest
  { s with tlb := ⟨d, sl, cid, page, BitVec.ofNat 128 e⟩ :: rest }

/-- A physical address of HBM, or the hole above its 48 GiB (R11). -/
def physAt (d p : Nat) : TM Nat := if p < hbmBytes then pure (hbmKey d p) else throw (.hole d p)

/-- Bytes as the walker sees them (R170): a byte reads as it was before the first store to it that no ptfence has shown. -/
def walkRead (s : State) (k n : Nat) : Nat :=
  leNat ((List.range n).map fun i => match s.hidden.find? fun h => h.key == k + i with | some h => h.old | none => s.byte (k + i))

/-- The walk of R167: the two table reads, the checks of the leaf, and its installation, which sets the state of an unset page. -/
def tableWalk (cid a : Nat) : TM Nat := do
  let d := a / 2 ^ 45
  modify fun s => homeFetch s (ctxKey s d cid) 64
  let s ← get
  let k1 ← physAt d (bits (ctxEntry s d cid) 64 36 + 8 * bits a 33 12)
  modify fun s => homeFetch s k1 8
  let s ← get
  let l1 := walkRead s k1 8
  if !l1.testBit 0 then throw (.fault a 0 .access)
  let k2 ← physAt d (bits l1 16 20 * 2 ^ 16 + 16 * bits a 21 12)
  modify fun s => homeFetch s k2 16
  let s ← get
  let e := walkRead s k2 16
  if !e.testBit 0 then throw (.fault a 1 .access)
  if leafBad s d e then throw .prot
  let s := if leafExi e || tget 0 s.cmpState (cmpKey d e) != 0 then s
    else { s with
      cmpState := tput 0 s.cmpState (cmpKey d e) (if leafCmp e then 2 + cid else 1)
      cmpDone := s.cmpDone.filter fun p => p.1 != cmpKey d e }
  set (tlbInstall s d (homeSlice a) cid (a / 2 ^ 21) e)
  pure e

/-- The leaf that translates a global address of die 0 to 3 for an access (R167), its permission checked. -/
def leafOf (cid a : Nat) (w : Want) : TM Nat := do
  let s ← get
  let d := a / 2 ^ 45
  if !ctxValid s d cid then throw .prot
  let e ← match tlbFind s d (homeSlice a) cid (a / 2 ^ 21) with
    | some e => if leafAbsent e a then tableWalk cid a else do set (tlbInstall s d (homeSlice a) cid (a / 2 ^ 21) e); pure e
    | none => tableWalk cid a
  if !leafAllows e w then throw .prot
  pure e

/-- The class of a page as its translation stands, without effect: 0 SO, 1 RC, 2 UO; RC where nothing translates (R166, R189). -/
def peekLeaf (s : State) (cid a : Nat) : Option Nat :=
  match leafOf cid a .rd s with
  | .ok e _ => some e
  | .error _ _ => match leafOf cid a .wr s with | .ok e _ => some e | .error _ _ => none

/-! ## Staged lines, poison, monitors and watches -/

def Who.stager (s : State) (w : Who) : Option Task :=
  match w.owner with
  | some (r, tid) => let t := s.ownTask r tid; if t.live && t.cid == w.cid && t.staging then some t else none
  | none => none

/-- The distinct 256-byte lines of a list of bytes. -/
def linesOf (cs : List Host.Cell) : List Nat := ((cs.map fun c => c.1 / 256)).dedup
/-- Staged lines of all tasks on a die (R258). -/
def stagedOn (s : State) (d : Nat) : Nat :=
  let on (t : Task) : Nat := ((linesOf t.stg.bytes).filter fun l => l * 256 / 2 ^ 40 == d).length
  (s.tasks.map fun e => on e.2).sum + (s.jobs.map fun j => on j.t).sum
/-- Bytes 2^(SFC + 15) a task may stage (R258, R259). -/
def Task.stageLimit (t : Task) : Nat := 2 ^ (t.sfc + 15)

/-- A cell list as a map: the last byte written at a key. -/
def cellPut (m : List Host.Cell) (k : Nat) (b : Byte) : List Host.Cell := tins (tdel m k) k b
def cellsPut (m : List Host.Cell) (k : Nat) : List Byte → List Host.Cell
  | [] => m
  | b :: bs => cellsPut (cellPut m k b) (k + 1) bs
def cellAt (m : List Host.Cell) (k : Nat) : Option Byte := (m.find? fun c => c.1 == k).map (·.2)

/-- A region's descriptor as it stands, with its address. -/
structure Rgn where
  addr : Nat
  d : Nat
/-- The die of a region. -/
def Rgn.die (r : Rgn) : Nat := r.addr / 2 ^ 45
def Rgn.dflt (r : Rgn) : Nat := bits r.d 0 32
def Rgn.vbase (r : Rgn) : Nat := bits r.d 64 48
def Rgn.ntile (r : Rgn) : Nat := bits r.d 128 32
def Rgn.emap (r : Rgn) : Nat := bits r.d 192 48
def Rgn.tmap (r : Rgn) : Nat := bits r.d 256 48
def Rgn.pool (r : Rgn) : Nat := bits r.d 320 48
def Rgn.plim (r : Rgn) : Nat := bits r.d 384 24
def Rgn.ptop (r : Rgn) : Nat := bits r.d 416 24
def Rgn.pfree (r : Rgn) : Nat := bits r.d 448 24
def Rgn.pused (r : Rgn) : Nat := bits r.d 480 24

/-- The memory key of an address in an ordinary page of a die, without effect. -/
def peekPlain (s : State) (cid d a : Nat) : Option Nat :=
  if a / 2 ^ 45 ≠ d then none
  else
    match peekLeaf s cid a with
    | some e => if leafExi e || !leafRes e a then none else some (hbmKey d (leafPhys e a))
    | none => none
/-- The same of the storage of an existing tile of a region (R178). -/
def peekTile (s : State) (cid a reg : Nat) : Option Nat := do
  let d := a / 2 ^ 45
  let ra := d * 2 ^ 45 + bits (ctxEntry s d cid) 128 45 + 64 * reg
  let k ← peekPlain s cid d ra
  let r : Rgn := ⟨ra, s.readN k 64⟩
  if !r.d.testBit 32 || a < r.vbase || a ≥ r.vbase + 4096 * r.ntile then none
  else
    let t := (a - r.vbase) / 4096
    let ek ← peekPlain s cid d (r.emap + t / 8)
    let tk ← peekPlain s cid d (r.tmap + 4 * t)
    if (s.readN ek 1).testBit (t % 8) then peekPlain s cid d (r.pool + 4096 * (s.readN tk 4 % 2 ^ 24) + a % 4096) else none
/-- The memory key a global address of a context reaches now, without effect: what a monitor watches. -/
def peekKey (s : State) (cid a : Nat) : Option Nat :=
  match peekLeaf s cid a with
  | some e => if leafExi e then peekTile s cid a (leafReg e) else if leafRes e a then some (hbmKey (a / 2 ^ 45) (leafPhys e a)) else none
  | none => none
/-- Whether an access at a global address is sent on over the host link (R168). -/
def remoteAt (s : State) (cid a : Nat) : Bool :=
  match peekLeaf s cid a with | some e => !leafExi e && !leafRes e a && leafRemote e | none => false

/-- A write of some lines from one at a key, and from a context's virtual line when they have one, triggers a monitor on one of them
(R140). -/
def Mon.wrote (s : State) (cid : Nat) (key : Option Nat) (virt : Option (Nat × Nat)) (cnt : Nat) (m : Mon) : Mon :=
  let among (l0 l : Nat) : Bool := l0 ≤ l && l < l0 + cnt
  let hit : Bool := match m.sp with
    | .g => virt.any (fun v => v.1 == cid && among v.2 m.line) ||
        (peekKey s cid (m.line * 256)).any fun k => key.any fun l0 => among l0 (k / 256)
    | .c | .k | .d | .l => key.any fun l0 => among l0 m.line
  if hit then { m with trig := true } else m
/-- Tasks after such a write is performed at its home; `only` limits it to one task. -/
def wroteAt (s : State) (key : Option Nat) (virt : Option (Nat × Nat)) (cnt : Nat) (only : Option Nat) : State :=
  if s.tasks.any fun e => e.2.st.toList.any fun st => st.mon.isSome || st.blk.any fun b => b.mon0.isSome then
    { s with tasks := s.tasks.map fun e =>
      if only.isNone || only == some e.2.tid then
        (e.1, { e.2 with st := e.2.st.map (EStream.trig (Mon.wrote s e.2.cid key virt cnt)) })
      else e }
  else s

/-- Code of a wait for a line of an exhausted region, beside the tags of R171. -/
def lineWait (l : Nat) : Nat := 0x10000 + l
/-- The lines some access waits on as its region's descriptor (R180). -/
def waitedLines (s : State) : List Nat :=
  (s.paths.filterMap (·.wait)) ++ (s.logs.filterMap fun l => l.e.wait) ++ (s.te.filterMap fun r => r.2.wait.map (·.1)) ++
  s.jobs.flatMap fun j => (j.paths.filterMap (·.wait)) ++ j.logs.filterMap fun l => l.e.wait
/-- A performed write marks the descriptor lines it touches. -/
def watch (s : State) (lines : List Nat) : State :=
  let ws := waitedLines s
  { s with dirty := (lines.filter fun l => ws.contains (lineWait l) && !s.dirty.contains l) ++ s.dirty }

/-- A performed write to the line of a stream's AUPROD and RELCNT has both read again (R67, R68). -/
def mediaWrote (s : State) (k n : Nat) : State :=
  let hit (m : Media) : Bool := m.watch.any fun p => decide (64 * p < k + n) && decide (k < 64 * p + 64)
  if s.strm.any fun e => hit e.2.media then
    { s with strm := s.strm.map fun e => if hit e.2.media then
        (e.1, { e.2 with media := { e.2.media with auDue := true, relDue := true } }) else e }
  else s

/-- Pieces of 64 bytes wholly covered by n bytes at a key. -/
def wholePieces (k n : Nat) : List Nat := (List.range ((k + n) / 64 - k / 64 + 1)).filterMap fun i =>
  let p := k / 64 + i
  if k ≤ 64 * p && 64 * p + 64 ≤ k + n then some p else none
def piecesOf (k n : Nat) : List Nat := if n = 0 then [] else (List.range ((k + n - 1) / 64 - k / 64 + 1)).map (k / 64 + ·)

/-- Bytes at their home, as the accessing task sees them: its own staged bytes first. -/
def homeRead (s : State) (w : Who) (k n : Nat) : List Byte :=
  match w.stager s with
  | some t => (List.range n).map fun i => (cellAt t.stg.bytes (k + i)).getD (s.byte (k + i))
  | none => s.read k n

/-- Whether bytes that have been fetched are poisoned (R256). -/
def homePoison (s : State) (k n : Nat) : Bool := (piecesOf k n).any (fun p => s.poison.contains p) || badWord s k n

/-- Of n bytes, the offsets of those in a poisoned piece. -/
def poisonedOf (s : State) (k n : Nat) : List Nat := if homePoison s k n then (List.range n).filter fun i => homePoison s (k + i) 1 else []

/-- Pieces whose 64 bytes are all staged. -/
def Task.wholeStaged (t : Task) : List Nat :=
  (t.stg.bytes.map fun c => c.1 / 64).dedup.filter fun p => (t.stg.bytes.filter fun c => c.1 / 64 == p).length == 64
/-- Of n bytes at their home, the offsets of those poisoned as the accessing task sees them (R256, R258). -/
def seenPoison (s : State) (w : Who) (k n : Nat) : List Nat :=
  match w.stager s with
  | some t =>
    let ps := (piecesOf k n).filter fun p => t.stg.poison.contains p || (s.poison.contains p && !t.wholeStaged.contains p)
    if ps.isEmpty then [] else (List.range n).filter fun i => ps.contains ((k + i) / 64)
  | none => poisonedOf s k n

/-- Bytes written to memory at their home: whole pieces lose their poison, monitors trigger, descriptor lines are marked. -/
def plainWrite (s : State) (virt : Option (Nat × Nat)) (k : Nat) (bs : List Byte) : State :=
  let s := (homeAlloc s k bs.length).write k bs
  let s := { s with poison := s.poison.filter fun p => !(wholePieces k bs.length).contains p }
  mediaWrote (watch (wroteAt s (some (k / 256)) virt (linesIn k bs.length).length none) (linesIn k bs.length)) k bs.length

/-- What the walker still reads of bytes that a stream is about to store (R170); a write of no stream is seen once performed. -/
def hide (s : State) (w : Who) (k n : Nat) : State :=
  match w.owner with
  | some (r, tid) => { s with hidden := s.hidden ++ ((List.range n).map (k + ·)).map fun i => ⟨i, s.byte i, tid, r.eng⟩ }
  | none => { s with hidden := s.hidden.filter fun h => !(k ≤ h.key && h.key < k + n) }

/-- The staged copies that a task reads are corrected, or the pieces of them poisoned (R255). -/
def stageCheck (s : State) (w : Who) (k n : Nat) : State :=
  match w.stager s, w.owner with
  | some _, some (_, tid) => eccRead s (stageKey tid k) n
  | _, _ => s
/-- Errors in what a task has staged are met, all of them. -/
def stageCheckAll (s : State) (tid : Nat) : State :=
  ((s.soft.map (·.1)).filter fun i => 4 * i / 2 ^ 100 == tid + 1 && 2 ^ 99 ≤ 4 * i % 2 ^ 100).foldl (fun s i => eccWord s (4 * i)) s

/-- The staged bytes of a task become ordinary in one step, and it stages no more (R93, R258, R259). -/
def flushStage (s : State) (r : Ref) (tid : Nat) : State :=
  let s := stageCheckAll s tid
  let t := s.ownTask r tid
  let lines := linesOf t.stg.bytes
  let full := t.wholeStaged
  let runs := (t.stg.bytes.map fun c => c.1 / 8).dedup
  let s := runs.foldl (fun s w =>
    let own := t.stg.bytes.filter fun c => c.1 / 8 == w
    if own.length == 8 then homeAlloc s (8 * w) 8
    else own.foldl (fun s c => homeAlloc s c.1 1) s) s
  let s := if t.staging then
      { s with mem := t.stg.bytes.foldl (fun m (c : Host.Cell) => tput 0 m c.1 c.2) s.mem }.modOwn r tid fun t =>
        { t with stg := ⟨[], [], true⟩ }
    else s
  let kept := s.poison.filter fun p => !full.contains p
  let s := { s with poison := kept ++ t.stg.poison.filter fun p => !kept.contains p }
  let s := runs.foldl (fun s w => mediaWrote s (8 * w) 8) s
  lines.foldl (fun s l => watch (wroteAt s (some l) none 1 none) [l]) s

/-- A task becomes non-restartable at once (R259). -/
def Who.harden (w : Who) (s : State) : State :=
  match w.owner with
  | some (r, tid) => if (w.stager s).isSome then flushStage s r tid else s
  | none => s

/-- Whether a peer completes an access of n bytes at a key with an error (R60). -/
def peerFails (s : State) (k n : Nat) : Bool :=
  busKey 0 ≤ k && s.peerErr.any fun p => p * 4096 < k - busKey 0 + n && k - busKey 0 < p * 4096 + 4096

/-- A write that a peer completes with an error: it is lost, and APERR is set in the function of the context's tenant (R60). -/
def peerLost (s : State) (w : Who) : State :=
  let f := tenantOf s w.cid + 1
  (s.modFn f fun x => { x with crstat := x.crstat ||| 0x2 }).signalVec f 1

/-- A write at its home (R258, R259): staged for a restartable task while it has room, else ordinary. -/
def homeWrite (s : State) (w : Who) (virt : Option (Nat × Nat)) (k : Nat) (bs : List Byte) : State :=
  if peerFails s k bs.length then peerLost s w
  else
    match w.stager s, w.owner with
    | some t, some (r, tid) =>
      let have_ := linesOf t.stg.bytes
      let add := (linesIn k bs.length).filter fun l => !have_.contains l
      if k < 4 * 2 ^ 40 && (have_.length + add.length) * 256 ≤ t.stageLimit && (stagedOn s (k / 2 ^ 40) + add.length) * 256 ≤ 2 ^ 25 then
        let whole := wholePieces k bs.length
        let s := (eccWrite (touchHbm s k) (stageKey tid k) bs.length).modOwn r tid fun t => { t with stg := { t.stg with
          bytes := cellsPut t.stg.bytes k bs, poison := t.stg.poison.filter fun p => !whole.contains p } }
        wroteAt s (some (k / 256)) virt (linesIn k bs.length).length (some tid)
      else plainWrite (hide (w.harden s) w k bs.length) virt k bs
    | _, _ => plainWrite (hide s w k bs.length) virt k bs

/-- Pieces written from poisoned bytes become poisoned (R256); a peer that answers with an error took nothing. -/
def poisonAt (s : State) (k : Nat) (offs : List Nat) : State :=
  if peerFails s k 1 then s else
  { s with poison := s.poison ++ ((offs.map fun i => (k + i) / 64).dedup.filter fun p => !s.poison.contains p) }
/-- The same of bytes just written at their home: a staged copy of them is what becomes poisoned. -/
def homePoisonAt (s : State) (w : Who) (k : Nat) (offs : List Nat) : State :=
  match w.stager s, w.owner with
  | some t, some (r, tid) =>
    if (cellAt t.stg.bytes k).isSome then
      let ps := (offs.map fun i => (k + i) / 64).dedup.filter fun p => !t.stg.poison.contains p
      s.modOwn r tid fun t => { t with stg := { t.stg with poison := t.stg.poison ++ ps } }
    else poisonAt s k offs
  | _, _ => poisonAt s k offs

/-! ## Sparse-existence tiles (R177, R178) -/

/-- The key of a byte of a region's structures, through the context's own ordinary pages of the region's die (R177); its faults are of
KIND 9. A structure that lies on another die is not reached (notes/assumptions/98.md). -/
def structKey (cid d a : Nat) (w : Want) : TM Nat := do
  if a / 2 ^ 45 ≠ d then throw .prot
  let s ← get
  match leafOf cid a w s with
  | .error (.fault b r _) s => do set s; throw (.fault b r .region)
  | .error m s => do set s; throw m
  | .ok e s => do
    set s
    if leafExi e || (!leafRes e a && leafRemote e) then throw .prot
    else if !leafRes e a then throw (.fault a 2 .region)
    else physAt d (leafPhys e a)

def structRead (w : Who) (d a n : Nat) : TM Nat := do
  let k ← structKey w.cid d a .rd
  modify fun s => homeFetch (stageCheck s w k n) k n
  let s ← get
  pure (leNat (homeRead s w k n))
def structWrite (w : Who) (d a n v : Nat) : TM Unit := do
  let k ← structKey w.cid d a .wr
  modify fun s => homeWrite s w (some (w.cid, a / 256)) k (toBytes n v)

/-- The region of an address in an EXI page with its checks (R178). -/
def regionOf (w : Who) (a reg : Nat) : TM Rgn := do
  let s ← get
  let d := a / 2 ^ 45
  let c := ctxEntry s d w.cid
  if reg ≥ bits c 176 8 then throw .prot
  let ra := d * 2 ^ 45 + bits c 128 45 + 64 * reg
  let v ← structRead w d ra 64
  let r : Rgn := ⟨ra, v⟩
  if !v.testBit 32 || a < r.vbase || a ≥ r.vbase + 4096 * r.ntile then throw .prot
  pure r

def tileOf (r : Rgn) (a : Nat) : Nat := (a - r.vbase) / 4096
def tileExists (w : Who) (r : Rgn) (t : Nat) : TM Bool := do
  let b ← structRead w r.die (r.emap + t / 8) 1
  pure (b.testBit (t % 8))
/-- A pool tile by its index. An index that no region set up as R177 asks holds names some tile of the pool, which one is open:
memory outside the pool is never reached. -/
def poolTile (r : Rgn) (k : Nat) : TM Nat := do
  let n := max r.plim r.ptop
  if k < n then pure k
  else if n = 0 then throw .prot
  else
    let s ← get
    set { s with free := s.free + 1 }
    pure ((Config.freeWord s.free).toNat % n)
/-- The pool byte of an address whose tile has storage. -/
def tileKey (w : Who) (r : Rgn) (a : Nat) (want : Want) : TM Nat := do
  let k ← structRead w r.die (r.tmap + 4 * tileOf r a) 4
  let k ← poolTile r (k % 2 ^ 24)
  structKey w.cid r.die (r.pool + 4096 * k + a % 4096) want

/-- The 4,096 bytes of a tile filled with the default pattern. -/
def dfltBytes (v : Nat) (a n : Nat) : List Byte := (List.range n).map fun i => BitVec.ofNat 8 (v / 2 ^ (8 * ((a + i) % 4)))

/-- A birth or an erase is one store to the whole tile: monitors on its lines trigger (R178, R140). -/
def tileWrote (w : Who) (r : Rgn) (a : Nat) (s : State) : State :=
  wroteAt s none (some (w.cid, (r.vbase + 4096 * tileOf r a) / 256)) 16 none

/-- Birth (R178): a pool tile is taken, filled and entered in the maps; a restartable task stops staging first (R259). -/
def tileBirth (w : Who) (r : Rgn) (a : Nat) : TM Unit := do
  let t := tileOf r a
  if r.pfree = 0xFFFFFF && r.ptop ≥ r.plim then
    let k ← structKey w.cid r.die r.addr .rd
    throw (.exhausted (k / 256))
  let k ← if r.pfree ≠ 0xFFFFFF then poolTile r r.pfree else pure r.ptop
  let nxt ← if r.pfree ≠ 0xFFFFFF then structRead w r.die (r.pool + 4096 * k) 4 else pure 0
  let eb ← structRead w r.die (r.emap + t / 8) 1
  let dk ← structKey w.cid r.die (r.pool + 4096 * k) .wr
  let _ ← structKey w.cid r.die (r.tmap + 4 * t) .wr
  let _ ← structKey w.cid r.die (r.emap + t / 8) .wr
  let _ ← structKey w.cid r.die r.addr .wr
  modify w.harden
  modify fun s => homeWrite s w (some (w.cid, (r.pool + 4096 * k) / 256)) dk (dfltBytes r.dflt 0 4096)
  structWrite w r.die (r.tmap + 4 * t) 4 k
  structWrite w r.die (r.emap + t / 8) 1 (eb ||| 2 ^ (t % 8))
  if r.pfree ≠ 0xFFFFFF then structWrite w r.die (r.addr + 56) 3 nxt else structWrite w r.die (r.addr + 52) 3 (r.ptop + 1)
  structWrite w r.die (r.addr + 60) 3 (r.pused + 1)
  modify (tileWrote w r a)

/-- Erase (R178) of the tile that holds an address; a tile without storage stays. -/
def tileErase (w : Who) (r : Rgn) (a : Nat) : TM Unit := do
  let t := tileOf r a
  let eb ← structRead w r.die (r.emap + t / 8) 1
  if eb.testBit (t % 8) then
    let k ← structRead w r.die (r.tmap + 4 * t) 4
    let k ← poolTile r (k % 2 ^ 24)
    let _ ← structKey w.cid r.die (r.pool + 4096 * k) .wr
    let _ ← structKey w.cid r.die r.addr .wr
    structWrite w r.die (r.emap + t / 8) 1 (eb - 2 ^ (t % 8))
    structWrite w r.die (r.pool + 4096 * k) 4 r.pfree
    structWrite w r.die (r.addr + 56) 3 k
    structWrite w r.die (r.addr + 60) 3 ((r.pused + 2 ^ 24 - 1) % 2 ^ 24)
    modify (tileWrote w r a)

/-! ## One access in global space -/

/-- n bytes go from a die to another, 4 the M-die, and the answer comes back, once the links between them can take it (R9, R10). -/
def sendOver (a b n : Nat) : TM Unit := do
  if reaches (← get) a b n then modify fun s => travel s a b n else throw .link

/-- Where n bytes at a global address are for an access, births made (R167, R168, R178); and whether the tile exists. The request
crosses the links to the die of its home (R9), and from there those to the M-die where the part is REMOTE. -/
def locate (w : Who) (a n : Nat) (want : Want) : TM (Place × Bool) := do
  sendOver w.die (if a / 2 ^ 45 < 4 then a / 2 ^ 45 else 4) n
  let s ← get
  let d := a / 2 ^ 45
  if d = 6 then
    match peerAddr s (tenantOf s w.cid) a n with
    | some b => do
      if want.writes then modify fun s => { w.harden s with wrote := if s.wrote.contains w.cid then s.wrote else w.cid :: s.wrote }
      pure (.at (busKey b), true)
    | none => throw .prot
  else if d > 3 then throw .prot
  else do
    let e ← leafOf w.cid a want
    if leafExi e then
      let r ← regionOf w a (leafReg e)
      if want = .ex then throw .prot
      let ex ← tileExists w r (tileOf r a)
      if ex then pure (.at (← tileKey w r a want), true)
      else if want.writes then
        tileBirth w r a
        let r ← regionOf w a (leafReg e)
        pure (.at (← tileKey w r a want), false)
      else pure (.dflt (BitVec.ofNat 32 r.dflt), false)
    else if leafRes e a then pure (.at (← physAt d (leafPhys e a)), true)
    else if leafRemote e then
      if want = .rw then throw .prot
      sendOver d 4 n
      match peerAddr s (tenantOf s w.cid) (leafRem e a) n with
      | some b => do
        if want.writes then modify fun s => { w.harden s with wrote := if s.wrote.contains w.cid then s.wrote else w.cid :: s.wrote }
        pure (.at (busKey b), true)
      | none => throw .prot
    else throw (.fault a 2 .access)

/-- A read of n bytes that stay in one 4 KiB span: the bytes, whether the tile exists, the offsets of those that are poisoned. -/
def gReadP (w : Who) (a n : Nat) (want : Want) : TM (List Byte × Bool × List Nat) := do
  let (p, ex) ← locate w a n want
  match p with
  | .dflt v => pure (dfltBytes v.toNat a n, ex, [])
  | .at k => do
    modify fun s => homeFetch (stageCheck s w k n) k n
    let s ← get
    pure (homeRead s w k n, ex, if peerFails s k n then List.range n else seenPoison s w k n)
/-- The same, telling only whether any is poisoned. -/
def gRead (w : Who) (a n : Nat) (want : Want) : TM (List Byte × Bool × Bool) := do
  let (bs, ex, bad) ← gReadP w a n want
  pure (bs, ex, !bad.isEmpty)

/-- A write of bytes that stay in one 4 KiB span. -/
def gWrite (w : Who) (a : Nat) (bs : List Byte) : TM Unit := do
  let (p, _) ← locate w a bs.length .wr
  match p with
  | .dflt _ => throw .prot
  | .at k => modify fun s => homeWrite s w (some (w.cid, a / 256)) k bs

/-- A read, modify and write in one step (R183, R352): the bytes before, and whether they were poisoned, in which case nothing is
written. -/
def gAmo (w : Who) (a n : Nat) (f : List Byte → Option (List Byte)) : TM (List Byte × Bool) := do
  modify w.harden
  let (p, _) ← locate w a n .rw
  match p with
  | .dflt _ => throw .prot
  | .at k => do
    modify fun s => homeFetch (stageCheck s w k n) k n
    let s ← get
    let old := homeRead s w k n
    let bad := !(seenPoison s w k n).isEmpty
    if !bad then
      match f old with
      | some bs => modify fun s => homeWrite s w (some (w.cid, a / 256)) k bs
      | none => pure ()
    pure (old, bad)

/-- What an access that names a tile needs: the region of an EXI page, or Protect (R356). -/
def tileAt (w : Who) (a : Nat) (want : Want) : TM Rgn := do
  let e ← leafOf w.cid a want
  if leafExi e then regionOf w a (leafReg e) else throw .prot

/-- A range cut at multiples of a span: (address, length) in ascending order. -/
def cuts (span : Nat) : Nat → Nat → Nat → List (Nat × Nat)
  | 0, _, _ => []
  | f + 1, a, n =>
    if n = 0 then []
    else
      let k := min n (span - a % span)
      (a, k) :: cuts span f (a + k) (n - k)
def cutPages (a n : Nat) : List (Nat × Nat) := cuts 4096 (n / 4096 + 2) a n

end Sys2Proof.Machine
end

