-- ==== Sys2Proof/Machine/Perform.lean ====
section
/-! DEFINITION. The performing of path-queue entries: when an entry is eligible, what it does at its home, faults and their tags, the
side logs, and the view caches (R171 to R176, R180, R182 to R195). -/

namespace Sys2Proof.Machine

/-! ## Entries -/

def Entry.atRef (e : Entry) (r : Ref) : Entry := { e with r := r }
def Entry.same (e f : Entry) : Bool := e.tid == f.tid && e.r.eng == f.r.eng
def Acc.isMem : Acc → Bool
  | .load _ | .store _ | .amo _ _ _ _ _ | .erase | .cread _ _ | .cwrite _ _ | .cadd _ _ _ => true
  | .fence _ | .xfence _ _ | .acquire _ | .token _ | .post _ _ | .qpush _ _ | .evsig _ | .joindec _ | .spawn _ _ _ | .garr _ _ _ _
  | .stage _ _ _ => false
def Acc.isLoad : Acc → Bool | .load _ => true | _ => false
def Acc.isWrite : Acc → Bool
  | .store _ | .amo _ _ _ _ _ | .erase | .cwrite _ _ | .cadd _ _ _ => true
  | _ => false
/-- Kinds of sync entries that keep their order among themselves. -/
def Acc.kind : Acc → Nat
  | .token k => 1 + k
  | .post e _ => 100 + e
  | .qpush q _ => 200 + q
  | .evsig _ => 300
  | .joindec _ => 301
  | .spawn _ _ _ => 302
  | .garr _ _ _ _ => 303
  | .stage _ _ _ => 304
  | _ => 0
def Acc.cmd : Acc → Option Nat
  | .cread c _ | .cwrite c _ | .cadd c _ _ => some c
  | _ => none
def Entry.isLsu (e : Entry) : Bool := e.path ≤ 1 && e.acc.isMem
def Entry.isGlobal (e : Entry) : Bool := e.sp == .g

/-- The class of the page of a global address (R166). -/
def pageClass (s : State) (cid a : Nat) : Nat := match peekLeaf s cid a with | some l => leafOrd l | none => 1
/-- The class an entry obeys (R166, R189): 0 SO, 1 RC, 2 UO; local spaces and peer windows as RC. An element that is added in one step
across two pages obeys the stricter of their classes (notes/assumptions/20.md). -/
def entryClass (s : State) (e : Entry) : Nat :=
  if e.sp = .g && e.addr / 2 ^ 45 < 4 then
    min (pageClass s e.cid e.addr) (if e.addr / 2 ^ 21 = (e.addr + e.n - 1) / 2 ^ 21 then 2 else pageClass s e.cid (e.addr + e.n - 1))
  else 1

/-- Whether the home of an entry lies in the scope it names (R185, R193). -/
def homeIn (s : State) (e : Entry) : Bool :=
  if e.sp = .g && e.addr / 2 ^ 45 < 4 then
    match peekLeaf s e.cid e.addr with
    | some l => if !leafExi l && !leafRes l e.addr && leafRemote l then e.sc == .system else scopeHas e.r e.sp e.addr e.sc
    | none => scopeHas e.r e.sp e.addr e.sc
  else scopeHas e.r e.sp e.addr e.sc

/-- The bytes of an entry as a range of one numbering: virtual for .g, memory keys for local spaces. -/
def entrySpan (s : State) (e : Entry) : Nat × Nat :=
  if e.acc == .erase then (e.addr / 4096 * 4096, e.addr / 4096 * 4096 + 4096)
  else if e.sp = .g then (e.addr, e.addr + e.n)
  else
    let k := localKey s e.r e.sp e.lane e.addr
    (2 ^ 50 + k, 2 ^ 50 + k + e.n)
def overlaps (s : State) (e f : Entry) : Bool :=
  let a := entrySpan s e
  let b := entrySpan s f
  (e.sp == .g) == (f.sp == .g) && a.1 < b.2 && b.1 < a.2

def Entry.isAcq (e : Entry) : Bool := e.ord == .acquire && e.acc.isMem && e.path ≤ 1
def Entry.isRel (e : Entry) : Bool := e.ord == .release && e.acc.isMem && e.path ≤ 1

/-- The task an entry belongs to. -/
def Entry.task (s : State) (e : Entry) : Task := s.ownTask e.r e.tid

/-- What a saved task holds with it. -/
def savedPaths (s : State) (tid : Nat) : List Entry := match s.jobs.find? fun j => j.t.tid == tid with | some j => j.paths | none => []
def savedLogs (s : State) (tid : Nat) : List LogEnt := match s.jobs.find? fun j => j.t.tid == tid with | some j => j.logs | none => []
/-- The entries of a stream older than one of its own, by the numbers they entered with (R182). -/
def olderOf (s : State) (e : Entry) : List Entry := (s.paths ++ savedPaths s e.tid).filter fun f => f.uid < e.uid && f.same e

/-! ## Side logs (R174, R175) -/

/-- The logged accesses of a stream older than an entry of it. -/
def logsOf (s : State) (e : Entry) : List LogEnt := (s.logs ++ savedLogs s e.tid).filter fun l => l.age < e.uid && l.e.same e
/-- Pieces of 64 bytes an entry touches. -/
def entryPieces (e : Entry) : List Nat := piecesOf e.addr e.n
/-- An older logged access to a piece that an entry touches, or in the tile it erases. -/
def logHits (s : State) (e : Entry) (l : LogEnt) : Bool :=
  (e.isGlobal && (entryPieces e).contains (l.e.addr / 64)) || (e.acc == .erase && overlaps s l.e e)
/-- A load or returning atomic stays behind older logged accesses of its pieces, and of SO pages if it is to one. -/
def logHolds (s : State) (e : Entry) : Bool :=
  (logsOf s e).any fun l => logHits s e l || (e.isGlobal && entryClass s e == 0 && entryClass s l.e == 0)
/-- A store or reduction is logged behind older logged accesses: of its pieces, or any at all if it is to an SO page. -/
def logBlocks (s : State) (e : Entry) : Bool :=
  (logsOf s e).any fun l => logHits s e l || (e.isGlobal && entryClass s e == 0)
def logCount (s : State) (core : Nat) : Nat := (s.logs.filter fun l => l.e.r.core == core).length
def Acc.isReduction : Acc → Bool | .amo _ _ _ _ d => d == 0 | _ => false
def Acc.loggable : Acc → Bool | .store _ => true | a => a.isReduction

/-! ## Eligibility (R186 to R193, R175, R176) -/

/-- What an xfence older than an entry still waits for (R192). -/
def xfenceHolds (older : List Entry) (e : Entry) (isSignal : Bool) : Bool :=
  older.any fun x => match x.acc with
    | .xfence src dst => src != 0 && dst != 0 && (isSignal || e.isRel || (e.path < 6 && dst.getLsbD e.path))
    | _ => false
/-- An xfence older than a command whose completion releases (R192). -/
def cmdFenced (s : State) (r : Ref) (c : Cmd) : Bool :=
  let t := s.task r.core r.slot
  s.paths.any fun e => e.tid == t.tid && e.r.eng == r.eng && e.uid < c.id &&
    (match e.acc with | .xfence a b => a != 0 && b != 0 | _ => false)

/-- Commands that write what they read, each byte once its own reads are performed (R184, R200). -/
def CmdOp.moves : CmdOp → Bool
  | .copy | .swb | .mma _ _ _ _ _ | .mldb _ _ _ => true
  | .mark _ | .scan _ _ _ | .list _ _ _ _ _ _ _ | .mrel | .mzero _ _ | .maccd _ _ | .mrd _ | .mwr _ _ | .epi _ _ _ _ _
  | .swbAcc _ _ _ => false

/-- Whether a shell command takes its operand through its handle (R200). -/
def Cmd.viaHandle (c : Cmd) : Bool :=
  (match c.op with | .mma _ _ _ _ n => decide (0 < n) | .mldb _ _ _ => true | _ => false) &&
  (c.s1.extractLsb' 48 3 == 0 || c.s1.extractLsb' 48 3 == 3)
/-- The K-step that a position of a command's bytes belongs to. -/
def stepOf (pos : Nat) : Nat := pos / 2 ^ 15
/-- The operand fetch of a K-step moves bytes while its handle is FILLING for it (R200, R396). -/
def Cmd.fetchTurn (c : Cmd) (pos : Nat) : Bool := !c.viaHandle || (c.prod.isSome && stepOf pos == c.phase)

/-- Commands whose data an entry needs, or that stand behind a faulted one (R176, R184). -/
def cmdReady (s : State) (older : List Entry) (e : Entry) : Bool :=
  match e.acc.cmd with
  | none => true
  | some c =>
    let faulted := older.any fun f => f.wait.isSome && (match f.acc.cmd with | some d => d != c | none => false)
    let fed (pos : Nat) : Bool := !(older.any fun f => match f.acc with
      | .cread d q => d == c && decide (q < pos + e.n) && decide (pos < q + f.n)
      | _ => false)
    let ready := match e.acc, (s.stm e.r).cq.find? (fun k => k.id == c) with
      | .cwrite _ pos, some k | .cadd _ pos _, some k => (if k.op.moves then fed pos else decide (k.phase ≥ 1)) && k.fetchTurn pos
      | .cwrite _ _, none | .cadd _ _ _, none => false
      | .cread _ pos, some k => k.fetchTurn pos
      | _, _ => true
    !faulted && ready

/-- Whether a command may be split (R151): of the shell commands only mmak has more than one K-step (R401). -/
def Cmd.splits (c : Cmd) : Bool := c.sgr != 0 && (match c.op with | .mma fn _ _ _ _ => fn == 3 | _ => true)
/-- The first boundary a command reaches from where it stands (R151, notes/assumptions/99.md): the end of the K-steps that it has run, or
the next 16 KiB of its bytes. -/
def Cmd.stopAt (c : Cmd) : Nat :=
  match c.op with
  | .mma _ _ _ _ _ => c.phase * 2 ^ 15
  | _ => (c.reach + 2 ^ 14 - 1) / 2 ^ 14 * 2 ^ 14
/-- Whether a command of a queue stands behind one that may be split, and waits with it. -/
def behindSplit (cq : List Cmd) (c : Cmd) : Bool := (cq.takeWhile fun d => d.id != c.id).any Cmd.splits
/-- Whether a pre-emption request stops a command from a position on (R151). -/
def cmdStopped (t : Task) (cq : List Cmd) (c : Cmd) (pos : Nat) : Bool :=
  t.preempt && (behindSplit cq c || (c.splits && decide (c.stopAt ≤ pos)))
def entryStopped (s : State) (e : Entry) : Bool :=
  match e.acc with
  | .cread id pos | .cwrite id pos | .cadd id pos _ =>
    let cq := (s.stm e.r).cq
    match cq.find? fun c => c.id == id with
    | some c => cmdStopped (s.task e.r.core e.r.slot) cq c pos
    | none => false
  | _ => false

/-- Whether a join or spawn waits for a slot of the overflow area (R96). -/
def slotWait (s : State) (e : Entry) : Bool :=
  let t := e.task s
  match e.acc with
  | .joindec k => !armRoom s e.cid (succKey k) (succRep t k)
  | .spawn _ _ _ =>
    !armRoom s e.cid (BitVec.ofNat 64 (0x8000_0000 + (hst s t.stream).spn % 2 ^ 31 + t.stream * 2 ^ 32)) none
  | _ => false

/-- The die a request of an entry goes to: that of its home, and the M-die for a peer (R9). -/
def Entry.homeDie (e : Entry) : Nat :=
  match e.sp with
  | .g => if e.addr / 2 ^ 45 < 4 then e.addr / 2 ^ 45 else 4
  | .d => e.addr / 2 ^ 25 % 4
  | .c | .k | .l => dieOf e.r.core
/-- Whether the links carry the request of an entry to its home and the answer back (R9, R32, R37), and one to a REMOTE part on over its
home's link to the M-die (R168). -/
def linked (s : State) (e : Entry) : Bool :=
  !e.acc.isMem || (reaches s (dieOf e.r.core) e.homeDie e.n &&
    (!(e.isGlobal && e.homeDie < 4 && remoteAt s e.cid e.addr) || reaches s e.homeDie 4 e.n))

/-- Whether no rule of order holds an entry back (R186). -/
def unheld (s : State) (e : Entry) : Bool :=
  let older := olderOf s e
  let lsuOld := older.any (·.isLsu)
  let logged := !(logsOf s e).isEmpty
  if e.wait.isSome then false
  else if !e.acc.isMem then
    match e.acc with
    | .fence _ => !lsuOld && !logged
    | .xfence src dst => !logged && (src == 0 || dst == 0 || !(older.any fun f => f.acc.isMem && src.getLsbD f.path))
    | .stage _ _ _ => !(older.any (·.acc.isMem)) && !logged && !xfenceHolds older e true &&
      !(s.paths.any fun f => f.tid == e.tid && f.uid < e.uid && f.acc.kind == e.acc.kind)
    | _ => !lsuOld && !logged && !xfenceHolds older e true && !(older.any fun f => f.acc.kind == e.acc.kind)
  else
    let cls := entryClass s e
    let same := older.any fun f => f.acc.isMem && overlaps s f e && (f.path == e.path || (f.path ≤ 1 && e.path ≤ 1 && cls != 2))
    let so := e.isGlobal && cls == 0 && (older.any (fun f => f.acc.isMem && f.isGlobal && entryClass s f == 0) ||
      (!e.acc.loggable && (logsOf s e).any fun l => entryClass s l.e == 0))
    let strong := e.path == 1 && cls == 1 && older.any fun f => f.path == 1 && f.acc.isMem && entryClass s f != 2
    let acq := e.isLsu && (older.any (fun f => f.isAcq && homeIn s f) || (logsOf s e).any fun l => l.e.isAcq && homeIn s l.e)
    let fen := e.isLsu && older.any fun f => match f.acc with | .fence _ => true | _ => false
    let rel := e.isRel && homeIn s e && (lsuOld || logged)
    let log := (e.acc.isLoad || (match e.acc with | .amo _ _ _ _ d => d != 0 | .erase => true | _ => false)) && logHolds s e
    !same && !so && !strong && !acq && !fen && !rel && !log && !xfenceHolds older e false && cmdReady s older e

/-- Whether an entry may be performed at its home now, but for a slot it may need. -/
def inTurn (s : State) (e : Entry) : Bool := unheld s e && linked s e && !entryStopped s e

/-- Whether an entry may be performed now. -/
def eligible (s : State) (e : Entry) : Bool := inTurn s e && !slotWait s e

/-- Whether an entry first meets a full overflow area (R96). -/
def meetsFull (s : State) (e : Entry) : Bool :=
  slotWait s e && !(fnAt s (slotFn s e.cid)).armsize.getLsbD 8 && inTurn s e

/-! ## Fault records (R171, R172) -/

def fqSize (s : State) : Nat := let l := bits s.fqsize.toNat 0 5; if 8 ≤ l ∧ l ≤ 16 then 2 ^ l else 0

/-- Records are written while the queue has room; each is signalled on vector 2 of the PF (R164, R171). -/
def postFaults : Nat → State → State
  | 0, s => s
  | f + 1, s =>
    match s.fqwait with
    | [] => s
    | r :: rs =>
      let n := fqSize s
      if n = 0 || (s.fqtail - s.fqhead).toNat ≥ n then s
      else
        let t := s.fqtail.toNat
        let ph : BitVec 256 := if t / n % 2 = 0 then 1#256 <<< 95 else 0
        let v := r.data ||| ph ||| (s.timebase.zeroExtend 256 <<< 128)
        let s := s.write (busKey (bits s.fqbase.toNat 12 52 * 4096 + 32 * (t % n))) (toBytes 32 v.toNat)
        postFaults f ({ s with fqwait := rs, fqtail := s.fqtail + 1 }.signalVec 0 2)

/-- What a translation fault leads to: a wait code, or fatal at once. A tag is the next free one of its die, so that a record posted after
a resolution carries a new one (R172). -/
def raiseFault (s : State) (cid a reason kind : Nat) : Option Nat × State :=
  if fqSize s = 0 then (none, s)
  else
    let d := a / 2 ^ 45
    let part := a / 2 ^ 16
    match s.faults.find? (fun f => f.die == d && f.cid == cid && f.part == part) with
    | some f => (some f.tag, s)
    | none =>
      match (List.range 1024).find? (fun i => !s.faults.any fun f => f.tag == d * 1024 + (tget 0 s.tagLast d + i) % 1024) with
      | none => (some (noTagWait d), s)
      | some i =>
        let i := (tget 0 s.tagLast d + i) % 1024
        let s := { s with tagLast := tput 0 s.tagLast d (i + 1) }
        let tag := d * 1024 + i
        let rec_ : BitVec 256 := BitVec.ofNat 256 (a % 2 ^ 48 + cid * 2 ^ 48 + kind * 2 ^ 60 + tag * 2 ^ 64 + reason * 2 ^ 80)
        let s := { s with faults := s.faults ++ [⟨tag, d, cid, part⟩], fqwait := s.fqwait ++ [⟨rec_⟩] }
        (some tag, postFaults (s.fqwait.length + 1) s)

/-- KIND of an entry's access (R171). -/
def Entry.faultKind (e : Entry) : Nat :=
  match e.acc with
  | .load _ => 0
  | .store _ => if e.tl0 then 1 else 8
  | .amo _ _ _ _ d => if d = 0 then (if e.tl0 then 1 else 8) else 2
  | .erase => 2
  | .cread _ _ => if e.path = 2 then 3 else if e.path = 3 then 5 else 6
  | .cwrite _ _ | .cadd _ _ _ => if e.path = 3 then 5 else 4
  | _ => 0

/-! ## Removing entries -/

def State.dropEntry (s : State) (e : Entry) : State := { s with paths := s.paths.filter fun f => f.uid != e.uid }
def State.waitOn (s : State) (e : Entry) (w : Nat) : State :=
  { s with paths := s.paths.map fun f => if f.uid == e.uid then { f with wait := some w } else f }

/-- A command ended by a failure: its entries leave, its handles become FREE (R202). -/
def endCmd (s : State) (r : Ref) (id : Nat) : State :=
  let t := s.task r.core r.slot
  match (t.stm r.eng).cq.find? (fun c => c.id == id) with
  | none => s
  | some c =>
    let hs := c.cons ++ (match c.prod with | some h => [h] | none => [])
    let t := hs.foldl (fun t h => t.freeH h s.cycle) t
    let t := t.modStm r.eng fun st => { st with cq := st.cq.filter fun c => c.id != id }
    let s := s.setTask r.core r.slot t
    { s with paths := s.paths.filter fun e => e.acc.cmd != some id }

/-- A trap at the next block boundary of a stream, resident or saved (R248); in a retired stream it kills the context. -/
def State.deferOwn (s : State) (e : Entry) (code : Nat) (eval : W64) : State :=
  let t := e.task s
  if !t.live then s
  else if !(t.stm e.r.eng).live then kill s t.cid 0x11
  else s.modOwnSt e.r e.tid fun st => { st with deferred := st.deferred ++ [⟨code, eval⟩] }

/-- How an access that is not performed ends for its stream (R167, R173 to R176): a load traps precisely; other accesses trap at the
next block boundary, and a command ends. -/
def failEntry (s : State) (e : Entry) (code : Nat) (eval : W64) : State :=
  let s := s.dropEntry e
  match e.acc with
  | .load _ => trapAt s e.r code eval false
  | _ =>
    match e.acc.cmd with
    | some id => endCmd (s.deferOwn e code eval) e.r id
    | none => s.deferOwn e code eval

/-! ## Logging (R174, R180) -/

/-- The entry cut to a span, with its bytes. -/
def Entry.cut (e : Entry) (a n uid : Nat) : Entry :=
  { e with uid := uid, addr := a, n := n, acc := match e.acc with
    | .store bs => .store ((bs.drop (a - e.addr)).take n)
    | x => x }

/-- Whether the task of an entry is saved. -/
def Entry.away (s : State) (e : Entry) : Bool := s.jobs.any fun j => j.t.tid == e.tid
/-- An entry joins the side log of its core, or, its task being saved, the log entries in its save frame, behind them (R174, R176). -/
def State.logAdd (s : State) (l : LogEnt) : State :=
  if l.e.away s then { s with jobs := s.jobs.map fun j => if j.t.tid == l.e.tid then { j with logs := j.logs ++ [l] } else j }
  else { s with logs := s.logs ++ [l] }
/-- A store or reduction at TL0 is retired into its core's side log, one entry for each 64-byte piece. -/
def logEntry (s : State) (e : Entry) (w : Option Nat) (exh : Option Nat) : State :=
  let parts := cuts 64 (e.n / 64 + 2) e.addr e.n
  let count := if e.away s then (savedLogs s e.tid).length else logCount s e.r.core
  if count + parts.length > 64 then s.waitOn e (logFullWait e.r.core)
  else
    parts.foldl (fun s p => { s with uid := s.uid + 1 }.logAdd ⟨{ e.cut p.1 p.2 s.uid with wait := w }, e.uid, exh⟩) (s.dropEntry e)

/-- A translation fault met by an entry (R171 to R176). -/
def faultEntry (s : State) (e : Entry) (a reason kind : Nat) : State :=
  match raiseFault s e.cid a reason kind with
  | (none, s) => failEntry s e cXLATE (BitVec.ofNat 64 e.addr)
  | (some w, s) => if e.tl0 && e.acc.loggable then logEntry s e (some w) none else s.waitOn e w

/-- A birth that the pool cannot serve (R180). -/
def exhaustEntry (s : State) (e : Entry) (line : Nat) : State :=
  let s := if e.tl0 && e.acc.loggable then logEntry s e (some (lineWait line)) (some line)
    else if e.acc.cmd.isSome then s.waitOn e (lineWait line)
    else s.dropEntry e
  s.deferOwn e cEXALLOC (BitVec.ofNat 64 e.addr)

/-! ## View caches (R182, R188, R258) -/

def viewLine (a : Nat) : Nat := a / 64
/-- A write on an LSU path updates the copies of its lines in the issuing core's view cache; a staged one drops them. -/
def viewWrite (s : State) (core cid a : Nat) (bs : List Byte) (staged : Bool) : State :=
  let mine (v : View) : Bool := v.core == core && v.cid == cid && a < 64 * v.line + 64 && 64 * v.line < a + bs.length
  if staged then
    let lines := (s.views.filter mine).map fun v => v.line * 64 / 256
    { s with views := s.views.filter fun v => !mine v, tasks := trigLeave s.tasks core cid lines }
  else { s with views := s.views.map fun v => if mine v then
      { v with data := (List.range v.data.length).map fun i =>
          let b := 64 * v.line + i
          if a ≤ b && b < a + bs.length then bs.getD (b - a) 0 else v.data.getD i 0 }
    else v }

/-- A page whose lines may be held in a view cache (R188). -/
def viewable (s : State) (cid a : Nat) : Bool :=
  a / 2 ^ 45 < 4 && (match peekLeaf s cid a with
    | some l => leafOrd l != 0 && !leafExi l && leafRes l a && leafAllows l .rd
    | none => false)

/-! ## Delivering data -/

def Entry.isSpawnr (e : Entry) : Bool := match e.acc with | .spawn true _ _ => true | _ => false
/-- The implicit successors a task has, with all parts of a range task, once every spawnr older than the one whose record e reads has taken
effect (R332, R333). -/
def successorsBefore (s : State) (e : Entry) : Nat :=
  let t := s.task e.r.core e.r.slot
  let kin (f : Entry) : Bool := f.tid == e.tid || (t.grp ≠ 0 && (f.task s).grp == t.grp)
  t.succ.length + (partSucc s t).length + (s.paths.filter fun f => f.isSpawnr && kin f).length +
  (match (s.stm e.r).blk with
    | some b => (b.effs.filter fun | .entry f => f.isSpawnr && f.uid < e.uid | _ => false).length
    | none => 0)

/-- What an access that returns data does with its bytes. -/
def deliver (s : State) (e : Entry) (dst : LoadDst) (bs : List Byte) (exist : Bool) : State :=
  let v := BitVec.ofNat 64 (leNat bs)
  let s := s.dropEntry e
  match dst with
  | .x d w => s.modSt e.r fun st => st.setX d (extendLoad w bs)
  | .ldx d c => s.modSt e.r fun st => (st.setX d v).setP c (if exist then BitVec.allOnes 64 else 0)
  | .extest c => s.modSt e.r fun st => st.setP c (if exist then BitVec.allOnes 64 else 0)
  | .exmap d => s.modSt e.r fun st => st.setX d v
  | .tl k d =>
    let h := leNat bs
    let x : W64 := if k = 0 then v
      else if k = 1 then BitVec.ofNat 64 (bits h 64 64)
      else BitVec.ofNat 64 (bits h 0 32 + bits h 232 4 * 2 ^ 32 + bits h 224 6 * 2 ^ 40)
    s.modSt e.r fun st => st.setX d x
  | .vlane vd lane ty =>
    (s.cleanRow e.r vd ((1 : W64) <<< lane)).modTask e.r.core e.r.slot fun t =>
      let w : W32 := if ty == .s8 then (BitVec.ofNat 8 (leNat bs)).signExtend 32
        else if ty == .s16 then (BitVec.ofNat 16 (leNat bs)).signExtend 32
        else BitVec.ofNat 32 (leNat bs)
      if h : lane < 64 then t.setRow vd.toNat ((t.row vd.toNat).set lane w) else t
  | .vrow vd mask =>
    (s.cleanRow e.r vd mask).modTask e.r.core e.r.slot fun t =>
      t.setRow vd.toNat (Vector.ofFn fun i : Fin 64 =>
        if mask.getLsbD i.val then BitVec.ofNat 32 (leNat ((bs.drop (4 * i.val)).take 4)) else (t.row vd.toNat)[i])
  | .segb =>
    s.modSt e.r fun st => { st with blk := st.blk.map fun b =>
      { b with effs := b.effs.map fun f => match f with
        | .segb u _ => if u = e.uid then .segb u (BitVec.ofNat 128 (leNat bs)) else f
        | f => f } }
  | .spawn r d a =>
    let rec_ := BitVec.ofNat 512 (leNat bs)
    if spawnRefused (s.task e.r.core e.r.slot) r rec_ then trapAt s e.r cILLOP a false
    else if r && successorsBefore s e ≥ 16 then trapAt s e.r cILLOP 17 false
    else s.modSt e.r fun st => { st with blk := st.blk.map fun b => { b with effs := b.effs.map fun f =>
      match f with
      | .entry x => if x.uid == e.uid then .entry { x with acc := .spawn r rec_ d } else f
      | f => f } }
  | .ring d =>
    if bits (leNat bs) 97 4 ≥ 13 then trapAt s e.r cRINGERR 0 false
    else s.modSt e.r fun st => st.setX d (BitVec.ofNat 64 (leNat bs))
  | .none => s

def markMiss (s : State) (e : Entry) : State :=
  if (e.ord == .acquire || e.ord == .release) && !homeIn s e then
    s.modOwn e.r e.tid fun t => { t with c := { t.c with mstat := t.c.mstat ||| 1 } }
  else s

/-- The side effects of an ordered access in the step that performs it (R190, R193). -/
def ordered (s : State) (e : Entry) : State :=
  let s := markMiss s e
  if e.ord == .acquire && homeIn s e then s.dropViews e.r.core e.cid e.sc else s

/-! ## One access at its home -/

def Entry.who (e : Entry) : Who := ⟨e.cid, some (e.r, e.tid), dieOf e.r.core⟩

/-- A miss of an entry (R167, R171, R180). -/
def missEntry (s : State) (e : Entry) : Miss → Out
  | .prot => .next (failEntry s e cPROT (BitVec.ofNat 64 e.addr))
  | .fault a r rg => .next (faultEntry s e a r (rg.kind e.faultKind))
  | .exhausted l => .next (exhaustEntry s e l)
  | .link => .next s
  | .hole d p => .fault (.physHole d p)

/-- A request to a bank: one for a die scratchpad crosses the links to its die (R9), and finds a new owner's part at zero (R158). -/
def atBank (s : State) (e : Entry) : State :=
  claimPart (if e.sp = .d then travel s (dieOf e.r.core) e.homeDie e.n else s) e.sp e.cid e.addr e.n

/-- A row of the window that VLIVE names (R152). -/
def liveRow (t : Task) (row : Nat) : Bool := row < min t.c.vlive.toNat 2048
/-- A committed store to its windows of a task that is saved (R197): in .l it reaches the rows that the frame holds; in .c the bank, while
no other context has taken the slot. None is one that reaches its bank. -/
def awayStore (s : State) (e : Entry) (bs : List Byte) : Option State :=
  if !e.away s then none
  else if e.sp = .l then
    let at_ := localKey s e.r e.sp e.lane e.addr - rowKey e.r.core (2048 * e.r.slot) 0 0
    some { s with jobs := s.jobs.map fun j =>
      if j.t.tid == e.tid && liveRow j.t (at_ / 256) then { j with rows := writeKeys j.rows at_ bs } else j }
  else if e.sp = .c && tget 0 s.slotCid (slotKey e.r.core e.r.slot) ≠ e.cid + 1 then some s
  else none
/-- A write in a local space at its bank; writes to .k and .d end staging (R259). -/
def localWrite (s : State) (e : Entry) (bs : List Byte) : State :=
  let s := atBank s e
  let s := if e.sp = .k || e.sp = .d then e.who.harden s else s
  plainWrite s none (localKey s e.r e.sp e.lane e.addr) bs

/-- A load that reached its home. -/
def doLoad (s : State) (e : Entry) (dst : LoadDst) : Out :=
  if !e.isGlobal then
    let s := atBank s e
    let k := localKey s e.r e.sp e.lane e.addr
    let s := eccRead s k e.n
    if homePoison s k e.n then .next (soften (s.dropEntry e) e.r cPOISON (BitVec.ofNat 64 e.addr) false)
    else .next (deliver (ordered s e) e dst (patch (s.read k e.n) e.ovl) true)
  else
    match dst with
    | .extest _ =>
      match (do let r ← tileAt e.who e.addr .rd; tileExists e.who r (tileOf r e.addr) : TM Bool) s with
      | .ok ex s => .next (deliver s e dst [] ex)
      | .error m s => missEntry s e m
    | .exmap _ =>
      match (do
        let r ← tileAt e.who e.addr .rd
        let t0 := tileOf r e.addr / 64 * 64
        let m ← structRead e.who r.die (r.emap + t0 / 8) 8
        pure (m % 2 ^ (min 64 (r.ntile - t0))) : TM Nat) s with
      | .ok m s => .next (deliver s e dst (toBytes 8 m) true)
      | .error m s => missEntry s e m
    | _ =>
      match gRead e.who e.addr e.n .rd s with
      | .error m s => missEntry s e m
      | .ok (bs, ex, bad) s =>
        if bad then .next (soften (s.dropEntry e) e.r cPOISON (BitVec.ofNat 64 e.addr) false)
        else .next (deliver (ordered s e) e dst (patch bs e.ovl) ex)

/-- A store at its home. -/
def doStore (s : State) (e : Entry) (bs : List Byte) : Out :=
  if !e.isGlobal then .next (((awayStore (ordered s e) e bs).getD (localWrite (ordered s e) e bs)).dropEntry e)
  else if logBlocks s e then .next (logEntry s e none none)
  else
    let staged := (e.who.stager s).isSome
    match gWrite e.who e.addr bs s with
    | .ok _ s => .next (viewWrite (ordered s e) e.r.core e.cid e.addr bs (staged && (e.who.stager s).isSome) |>.dropEntry e)
    | .error m s => missEntry s e m

/-- An atomic at its home (R352, R353). -/
def doAmo (s : State) (e : Entry) (op : AmoOp) (w64 : Bool) (v ev : W64) (d : R5) : Out :=
  let f (old : List Byte) : Option (List Byte) := (amoBytes op w64 old v ev).1
  let fin (s : State) (old : List Byte) : State :=
    let s := match f old with | some bs => if e.isGlobal then viewWrite s e.r.core e.cid e.addr bs false else s | none => s
    (s.dropEntry e).modOwnSt e.r e.tid fun st => st.lateX d (amoBytes op w64 old v ev).2
  if !e.isGlobal && (awayStore s e []).isSome then .next (s.dropEntry e)
  else if !e.isGlobal then
    let s := e.who.harden (atBank s e)
    let k := localKey s e.r e.sp e.lane e.addr
    let s := eccRead s k e.n
    let old := s.read k e.n
    if homePoison s k e.n then .next ((s.dropEntry e).deferOwn e cPOISON (BitVec.ofNat 64 e.addr))
    else .next (fin (ordered (match f old with | some bs => plainWrite s none k bs | none => s) e) old)
  else if d = 0 && logBlocks s e then .next (logEntry s e none none)
  else
    match gAmo e.who e.addr e.n f s with
    | .ok (old, bad) s =>
      if bad then .next ((s.dropEntry e).deferOwn e cPOISON (BitVec.ofNat 64 e.addr))
      else .next (fin (ordered s e) old)
    | .error m s => missEntry s e m

/-- An erase at its tile home (R356, R178). -/
def doErase (s : State) (e : Entry) : Out :=
  let s := e.who.harden s
  match (do let r ← tileAt e.who e.addr .wr; tileErase e.who r e.addr : TM Unit) s with
  | .ok _ s => .next (s.dropEntry e)
  | .error m s => missEntry s e m

/-! ## Accesses of commands -/

def State.modCmd (s : State) (r : Ref) (id : Nat) (f : Cmd → Cmd) : State :=
  s.modSt r fun st => { st with cq := st.cq.map fun c => if c.id == id then f c else c }
def cmdOf (s : State) (r : Ref) (id : Nat) : Option Cmd := (s.stm r).cq.find? fun c => c.id == id

/-- Copies, gathers, scatters and the store engine's buffer writes carry poison; other commands consume it (R256). -/
def carriesPoison (s : State) (e : Entry) (id : Nat) : Bool :=
  match cmdOf s e.r id with
  | some c => c.op == .copy || c.op == .swb
  | none => false

/-- An address of a command that its issue did not check (R361, R396); a part of a die scratchpad is judged by its owner at the issue
(R164). -/
def localMiss (s : State) (e : Entry) : Option (Nat × W64) :=
  let ev := BitVec.ofNat 64 e.addr
  match e.sp with
  | .d =>
    if e.addr + e.n > 2 ^ 27 then some (cPROT, ev)
    else if !trusted s (e.addr / 2 ^ 25) then some (cDIEQ, ev)
    else if e.owned then none
    else some (cPROT, ev)
  | .g | .c | .k | .l => checkAddr s e.r e.cid e.sp e.addr e.n (e.path == 2 || e.path == 5)

/-- A command has come as far as the end of an access of it. -/
def State.reached (s : State) (e : Entry) (id pos : Nat) : State := s.modCmd e.r id fun c => { c with reach := max c.reach (pos + e.n) }

/-- A read of a command. -/
def doCread (s : State) (e : Entry) (id pos : Nat) : Out :=
  let got (s : State) (bs : List Byte) (bad : List Nat) : Out :=
    let s := s.dropEntry e
    if !bad.isEmpty && !carriesPoison s e id then .next (soften (endCmd s e.r id) e.r cPOISON (BitVec.ofNat 64 e.addr) true)
    else .next ((s.reached e id pos).modCmd e.r id fun c => { c with
      buf := cellsPut c.buf pos bs
      bad := c.bad ++ bad.map (pos + ·) })
  match localMiss s e with
  | some (c, v) => .next (failEntry s e c v)
  | none =>
  if !e.isGlobal then
    let s := atBank s e
    let k := localKey s e.r e.sp e.lane e.addr
    let s := eccRead s k e.n
    got s (s.read k e.n) (poisonedOf s k e.n)
  else
    match gReadP e.who e.addr e.n .rd s with
    | .ok (bs, _, bad) s => got s bs bad
    | .error m s => missEntry s e m

/-- The bytes of a command's output at a position. -/
def Cmd.out (c : Cmd) (pos n : Nat) : List Byte := (List.range n).map fun i => (cellAt c.buf (pos + i)).getD 0
/-- Of n bytes of it, the offsets of those that came poisoned. -/
def Cmd.badOf (c : Cmd) (pos n : Nat) : List Nat := (c.bad.filter fun i => pos ≤ i && i < pos + n).map fun i => i - pos


def doCwrite (s : State) (e : Entry) (id pos : Nat) : Out :=
  match cmdOf s e.r id with
  | none => .next (s.dropEntry e)
  | some c =>
    let bs := c.out pos e.n
    let bad := c.badOf pos e.n
    match localMiss s e with
    | some (code, v) => .next (failEntry s e code v)
    | none =>
    if !e.isGlobal then
      let s := localWrite s e bs
      .next (((poisonAt s (localKey s e.r e.sp e.lane e.addr) bad).dropEntry e).reached e id pos)
    else
      match (do
        let (p, _) ← locate e.who e.addr e.n .wr
        match p with
        | .dflt _ => throw .prot
        | .at k =>
          modify fun s => homePoisonAt (homeWrite s e.who (some (e.cid, e.addr / 256)) k bs) e.who k bad : TM Unit) s with
      | .ok _ s => .next ((s.dropEntry e).reached e id pos)
      | .error m s => missEntry s e m

/-! ## Room in the side log at commit (R174) -/

/-- Whether an access that is about to enter would be logged: its translation faults as it stands, or it comes behind a logged one. -/
def wouldLog (s : State) (e : Entry) : Bool :=
  e.isGlobal && e.acc.loggable &&
  (logBlocks s { e with uid := s.uid } || (e.tl0 &&
    (match locate e.who e.addr e.n (if e.acc.isReduction then .rw else .wr) s with
    | .error (.fault _ _ _) _ | .error (.exhausted _) _ => true
    | .ok _ _ | .error _ _ => false)))
/-- The log entries that the accesses of a block need. -/
def logNeed (s : State) (effs : List Eff) : Nat :=
  (effs.map fun
    | .entry e => if wouldLog s e then (cuts 64 (e.n / 64 + 2) e.addr e.n).length else 0
    | _ => 0).sum
/-- Whether the side log of a core has room for what a block of it would log. -/
def logRoom (s : State) (core : Nat) (effs : List Eff) : Bool := logNeed s effs == 0 || logCount s core + logNeed s effs ≤ 64

end Sys2Proof.Machine
end

