-- ==== Sys2Proof/Machine/Boot.lean ====
section
/-! DEFINITION. The package: bring-up, attestation, link keys and their rollover, die resets, alarms, power and thermal limits
(R8 to R42). -/

namespace Sys2Proof.Machine

/-! ## Dies -/

def State.modDie (s : State) (d : Nat) (f : Die → Die) : State :=
  if h : d < 4 then { s with pkg := { s.pkg with dies := s.pkg.dies.set d (f s.pkg.dies[d]) } } else s

/-- Whether the package stands in a hold, or a trip or an alarm has begun one: only a full bring-up ends it (R20, R40). -/
def pkgHeld (s : State) : Bool := s.pkg.hold || s.pkg.trip || s.pkg.tripping || s.pkg.holding

/-- Keys of memory that belong to a C-die: its HBM, its scratchpad, and the scratchpads and register files of its cores. -/
def dieKeys (d k : Nat) : Bool :=
  (hbmKey d 0 ≤ k && k < hbmKey (d + 1) 0) || (dieKey d 0 ≤ k && k < dieKey (d + 1) 0 && d < 4) ||
  (coreKey (24 * d) 0 ≤ k && k < coreKey (24 * d + 24) 0) || (rowKey (24 * d) 0 0 0 ≤ k && k < rowKey (24 * d + 24) 0 0 0)

/-- A C-die's HBM and SRAMs are zero (R38 step 3, R23 step 4). -/
def scrubDie (s : State) (d : Nat) : State :=
  let here (k : Nat) : Bool := k / 2 ^ 15 == d
  { s with
    mem := s.mem.filter fun c => !dieKeys d c.1
    poison := s.poison.filter fun p => !dieKeys d (64 * p)
    soft := s.soft.filter fun e => (errPlace (4 * e.1)).1 != d
    blkMeta := s.blkMeta.filter fun b => !dieKeys d (512 * b.1)
    books := s.books.filter fun b => b.1 / 8192 != d
    bookSt := s.bookSt.filter fun b => b.1 / 8192 != d
    cmpState := s.cmpState.filter fun c => !here c.1
    cmpDone := s.cmpDone.filter fun c => !here c.1
    l2 := s.l2.filter fun l => l.line / 2 ^ 32 != d
    hidden := s.hidden.filter fun h => !dieKeys d h.key
    tlb := s.tlb.filter fun t => t.die != d
    views := s.views.filter fun v => !(dieOf v.core == d || v.line * 64 / 2 ^ 45 == d)
    regions := s.regions.filter fun r => r.1 / 4096 / 3 != d
    dOwner := s.dOwner.filter fun o => o.1 / 32 != d
    slotCid := s.slotCid.filter fun c => c.1 / 4 / 24 != d }

/-! ## Who is killed with a die (R38, R102) -/

/-- Whether a context has a valid page on a die. -/
def mapsDie (s : State) (d cid : Nat) : Bool :=
  let e := ctxEntry s d cid
  e.testBit 0 && (List.range 4096).any fun i =>
    let l1 := s.readN (hbmKey d (bits e 64 36 + 8 * i)) 8
    l1.testBit 0 && (List.range 4096).any fun j => (s.readN (hbmKey d (bits l1 16 20 * 2 ^ 16 + 16 * j)) 16).testBit 0
/-- Whether a task is queued on a die, or waits for its place there. -/
def Job.onDie (j : Job) (d : Nat) : Bool :=
  (match j.st with | .ready | .placing | .returning | .ending => true | .armed | .arriving | .waiting => false) && dieOf j.q == d
/-- Contexts that a die's reset kills. -/
def dieContexts (s : State) (d : Nat) : List Nat :=
  let used := (s.tasks.filter fun t => t.2.live && dieOf (t.1 / 4) == d).map (·.2.cid) ++
    (s.jobs.filter fun j => j.onDie d).map (·.t.cid) ++
    (s.arms.filter fun a => armHome s a.key a.replay == d).map (·.cid) ++ (s.events.filter fun e => nextDie s e.name == d).map (·.cid)
  (List.range 4096).filter fun c => used.contains c || mapsDie s d c
/-- Contexts that exist: with a valid entry on some die, a codec stream, or anything of theirs in the device. -/
def allContexts (s : State) : List Nat :=
  let used := (s.tasks.filter fun t => t.2.live).map (·.2.cid) ++ s.jobs.map (·.t.cid) ++ s.arms.map (·.cid) ++
    s.events.map (·.cid) ++ s.replays.map (·.cid) ++ s.kills.map (·.cid) ++
    (s.ctxmap.filter fun e => e.2.getLsbD 15).map fun e => e.2.toNat % 4096
  (List.range 4096).filter fun c => used.contains c || [0, 1, 2, 3].any fun d => ctxValid s d c
def killAll (s : State) (cs : List Nat) (status : Nat) : State := cs.foldl (fun s c => kill s c status) s

/-! ## READY (R23 step 5, R25) -/

/-- READY once every die is up or quarantined: the timebase is cleared, and the times by it, and the clock is 2.9 GHz. -/
def checkReady (s : State) : State :=
  if !s.pkg.ready && s.pkg.fwOk && !pkgHeld s && s.pkg.dies.toList.all fun d => d.up || d.st == .quarantined then
    { s with timebase := 0, pkg := { s.pkg with ready := true, mhz := 2900, capped := false, stackAt := [] } }
  else s

/-! ## Resets and holds (R20, R38, R40)

Each begins with kills. What follows the kills waits until the last drain has ended. -/

/-- Step 2 of R38, the links of a die whose reset has drained its kills, and the beginning of step 3. -/
def beginScrub (s : State) (d : Nat) : State := (dropLinks s d).modDie d fun x => { x with scrub := true }
/-- Every C-die that is not quarantined is held in RESET with its links down, and nothing is left on its cores. -/
def holdDies (s : State) : State :=
  [0, 1, 2, 3].foldl (fun s d => (dropLinks s d).modDie d fun x => { x with
    st := if x.st == .quarantined || (x.scrub && x.rst == some .quarantined) then .quarantined else .reset, step := 0, rst := none, scrub := false, up := false })
    { s with tasks := [], jobs := [], paths := [], logs := [] }
/-- What the drains that have all ended let go on: the hold of a trip or an alarm, else the resets of dies. A trip clears READY as well
(DEDUCED, notes/assumptions/66.md). -/
def afterDrains (s : State) : State :=
  if !s.kills.isEmpty then s
  else if s.pkg.tripping || s.pkg.holding then
    let s := holdDies s
    { s with pkg := { s.pkg with
      trip := s.pkg.trip || s.pkg.tripping, hold := s.pkg.hold || s.pkg.holding, tripping := false, holding := false, ready := false } }
  else [0, 1, 2, 3].foldl (fun s d => if (dieAt s d).rst.isSome && !(dieAt s d).scrub then beginScrub s d else s) s

/-- The reset of a die that ends in a state (R38): step 1, after which software sees the die as R31 gives, and what it lets go on. -/
def resetDie (s : State) (d status : Nat) (st : DieState) : State :=
  let s := killAll s (dieContexts s d) status
  afterDrains (s.modDie d fun x => { x with rst := some st, step := 0, up := false })

/-! ## Alarms (R39, R40) -/

/-- A quarantine that an alarm of this same moment began is not taken beside a stronger action (R40): its kills are those of that
action, and its die is held with the others. -/
def withdrawQuarantine (s : State) : State :=
  match s.pkg.alarm with
  | some (at_, d, cs) =>
    if at_ = s.cycle then
      let up (n : Nat) : Nat := if n = 0x12 then 0x14 else n
      { s.modDie d fun x => { x with rst := none, scrub := false } with
        kills := s.kills.map fun k => if cs.contains k.cid then
          { k with status := up k.status, recs := k.recs.map fun r => (r.1, { r.2 with status := up r.2.status }) } else k }
    else s
  | none => s
/-- Every key of the package is zeroised, every context is killed, and the package is held (R40). The quarantine of an alarm whose
kills still drain is not taken beside it: of alarms that arrive together, at one cycle, the strongest action is taken once. -/
def eraseAndHold (s : State) : State :=
  let s := withdrawQuarantine s
  let s := killAll s (allContexts s) 0x14
  let s := [0, 1, 2, 3].foldl (fun s d => (dropLinks s d).modDie d fun x => { x with keys := 0, rst := if x.scrub then x.rst else none }) s
  afterDrains { s with pkg := { s.pkg with holding := true } }

/-- An alarm of a source that blames a die: it is logged, then the policy applies. A die in RESET or ATTESTING is quarantined too, one in
FUSED is not (DEDUCED, notes/assumptions/94.md). -/
def raiseAlarm (s : State) (bit die : Nat) : State :=
  let pol := s.pkg.almpol
  let log : BitVec 7 := (s.pkg.almstat &&& 0xF) ||| (1#7 <<< bit) ||| (BitVec.ofNat 7 die <<< 4)
  let s := { s with pkg := { s.pkg with almstat := log } }
  if pol = 0 || pkgHeld s then s
  else if pol = 1 && die < 4 then
    if (dieAt s die).st == .quarantined || (dieAt s die).st == .fused || (dieAt s die).rst == some .quarantined then s
    else resetDie { s with pkg := { s.pkg with alarm := some (s.cycle, die, dieContexts s die) } } die 0x12 .quarantined
  else eraseAndHold s

/-- R39: a glitch sensor of a die fires. -/
def execGlitchAlarm (die : Nat) (s : State) : Out := .next (if die ≤ 4 then raiseAlarm s 0 die else s)
/-- R39: a die's mesh breaks. -/
def execMeshBreach (die : Nat) (s : State) : Out := .next (if die ≤ 4 then raiseAlarm s 1 die else s)

/-! ## Bring-up (R23 to R25) -/

/-- A full bring-up: everything but the fuses, the dies' ROM, the signed manifest and the host's own memory is as after reset; the dies
leave FUSED when the firmware verifies. What is listed to happen still happens. -/
def bringUp (s : State) (fwOk : Bool) : State :=
  let p := s.pkg
  let die (d : Die) : Die := { Die.empty with
    st := if fwOk then .reset else .fused, idKey := d.idKey, serial := d.serial, chain := d.chain, chainLen := d.chainLen }
  { State.reset with
    inputs := s.inputs, cur := s.cur, cycle := s.cycle, free := s.free, uid := s.uid, msix := s.msix, peerErr := s.peerErr, decoded := s.decoded
    mem := s.mem.filter fun c => c.1 ≥ 7 * 2 ^ 40
    pkg := { Pkg.reset with
      devid := p.devid, almpol := p.almpol, bindList := p.bindList, rootHash := p.rootHash, manifest := p.manifest
      idKey := p.idKey, serial := p.serial
      fwOk := fwOk, dies := p.dies.map die } }

/-- R23: power-good. -/
def execPowerGood (fwOk : Bool) (s : State) : Out := .next (bringUp s fwOk)
/-- R24: a fundamental PCIe reset. -/
def execPcieFundamentalReset (fwOk : Bool) (s : State) : Out := .next (bringUp s fwOk)
/-- R24: a management write that resets the package. -/
def execPackageReset (fwOk : Bool) (s : State) : Out := .next (bringUp s fwOk)

/-! ## Attestation (R26 to R30) -/

/-- R30: fuse sensing and self-test are done, and the die's own scrub with them; the first request goes out. -/
def execDieSelfTestDone (die : Nat) (s : State) : Out :=
  if (dieAt s die).st == .reset && !(dieAt s die).scrub && (dieAt s die).rst.isNone && !pkgHeld s && s.pkg.fwOk then
    .next (s.modDie die fun x => { x with st := .attesting, step := 0, portions := 0, reqAt := s.timebase.toNat })
  else .next s

/-- A failed attempt (R28, R30): the third quarantines the die and raises the alarm. -/
def attestFail (s : State) (d : Nat) : State :=
  let n := (dieAt s d).att + 1
  if n ≥ 3 then
    let s := (dropLinks s d).modDie d fun x => { x with st := .quarantined, att := 3, step := 0 }
    checkReady (raiseAlarm s 2 d)
  else (dropLinks s d).modDie d fun x => { x with st := .reset, att := n, step := 0 }

/-- The response deadline of R28: 50 ms after the request went out. -/
def respLate (s : State) (d : Nat) : Bool := s.timebase.toNat - (dieAt s d).reqAt > 50000000

/-- Step k of R28 with its check: passed in time, the next request goes out; a response out of order changes nothing. -/
def attestStep (s : State) (d k : Nat) (ok : Bool) (f : Die → Die) : Out :=
  if (dieAt s d).st == .attesting && (dieAt s d).step == k - 1 && (dieAt s d).rst.isNone && d < 4 then
    .next (if ok && !respLate s d then s.modDie d fun x => f { x with step := k, reqAt := s.timebase.toNat } else attestFail s d)
  else .next s

/-- The checks of R27 of the chain a die sends, with the part number its leaf binds (R26): three certificates, each signed by the one
before it, the first a root of the fused hash, the leaf's serial number that of the binding list. -/
def chainOk (s : State) (d : Nat) : Bool :=
  match (dieAt s d).chain with
  | [r, i, l] => r.signer == r.key && i.signer == r.key && l.signer == i.key && r.digest == s.pkg.rootHash && l.part == 0x0960 &&
      s.pkg.bindList[d]? == some l.serial
  | _ => false
/-- The key of the leaf that a die's chain ends in. -/
def Die.leaf (x : Die) : Nat := (x.chain.getLast?.map (·.key)).getD 0
/-- Whether what a die signs with its identity key verifies under the leaf key it sent (R27). -/
def signs (s : State) (d : Nat) : Bool := (dieAt s d).idKey == (dieAt s d).leafKey

/-- R28 step 1: 1.3 is the SPDM version byte 0x13. -/
def execGetVersion (die : Nat) (versions : List Nat) (s : State) : Out := attestStep s die 1 (versions.contains 0x13) id
/-- R28 step 2: CERT, CHAL, MEAS, KEY_EX, ENCRYPT and MAC. -/
def execGetCapabilities (die : Nat) (flags : BitVec 6) (s : State) : Out := attestStep s die 2 (flags == 0x3F) id
/-- R28 step 3: the five selections that equal the offers. -/
def execNegotiateAlgorithms (die : Nat) (selected : BitVec 5) (s : State) : Out := attestStep s die 3 (selected == 0x1F) id
/-- R28 step 4. -/
def execGetDigests (die : Nat) (slot0 : Option Nat) (s : State) : Out :=
  attestStep s die 4 slot0.isSome fun x => { x with digest := slot0.getD 0 }
/-- The portions of 1,024 bytes that a die's chain takes, each of them a request of its own. -/
def Die.allPortions (x : Die) : Nat := max 1 ((x.chainLen + 1023) / 1024)
/-- R28 step 5: the response to one of its requests. With the last portion, the three certificates as received, which are those of the
die's ROM, and their bytes' digest; the first two checks of R27. -/
def execGetCertificate (die digest : Nat) (root inter leaf : Cert) (s : State) : Out :=
  let x := dieAt s die
  if x.portions + 1 < x.allPortions then attestStep s die 5 true fun x => { x with step := 4, portions := x.portions + 1 }
  else
    attestStep s die 5 (digest == x.digest && x.chain == [root, inter, leaf] && chainOk s die)
      fun x => { x with leafKey := x.leaf, portions := 0 }
/-- R28 step 6, the third check of R27. -/
def execChallenge (die : Nat) (sigOk : Bool) (s : State) : Out := attestStep s die 6 (sigOk && signs s die) id
/-- R28 step 7, R29: four measurements that equal the manifest's, the debug state 0x00. -/
def execGetMeasurements (die : Nat) (sigOk : Bool) (ms : List Nat) (s : State) : Out :=
  attestStep s die 7 (sigOk && signs s die && ms == s.pkg.manifest && ms.length == 4 && ms[3]? == some 0) id
/-- R28 step 8. -/
def execKeyExchange (die : Nat) (sigOk : Bool) (s : State) : Out := attestStep s die 8 (sigOk && signs s die) id
/-- R28 step 9. -/
def execFinish (die : Nat) (verifyOk : Bool) (s : State) : Out := attestStep s die 9 verifyOk id
/-- R28: a response deadline passes, which ends the attempt. -/
def execSpdmResponseTimeout (die : Nat) (s : State) : Out :=
  .next (if (dieAt s die).st == .attesting && (dieAt s die).step < 9 && (dieAt s die).rst.isNone && respLate s die then attestFail s die else s)

/-! ## Link keys (R33, R36, R37) -/

/-- An end that may take keys: the M-die, or a C-die whose secured session is open. -/
def sessionOpen (s : State) (d : Nat) : Bool :=
  if d = 4 then s.pkg.fwOk
  else (dieAt s d).rst.isNone && ((dieAt s d).st == .trusted || ((dieAt s d).st == .attesting && (dieAt s d).step == 9))

/-- Whether the ring links of a die have every key they can have by now. -/
def ringKeyed (s : State) (d : Nat) : Bool :=
  ((linksOf d).filter (· ≥ 4)).all fun l =>
    !(sessionOpen s (linkEnds l).1 && sessionOpen s (linkEnds l).2) || (linkAt s l).keyed

/-- R33: a direction takes its first key; a link's last key to the M-die makes its die TRUSTED, and a ring link between dies that are up
carries data. -/
def execKeyinstall (link dir key : Nat) (s : State) : Out :=
  let e := linkEnds link
  let d := (linkAt s link).dir dir
  if link ≥ 8 || dir ≥ 2 || pkgHeld s || d.key.isSome || !sessionOpen s e.1 || !sessionOpen s e.2 || (link < 4 && !ringKeyed s link) then .next s
  else
    let s := s.modLink link fun k => k.setDir dir { LinkDir.empty with key := some key }
    if !(linkAt s link).keyed then .next s
    else if link < 4 then
      if (dieAt s link).st == .attesting then .next (s.modDie link fun x => { x with st := .trusted, att := 0, keys := 1 }) else .next s
    else .next (s.modLink link fun k => { k with up := linkReady s link && (dieAt s e.1).up && (dieAt s e.2).up })

/-- R23 step 4: a TRUSTED die's HBM is trained and zero, its links that can carry data are up, DIEUP is set. -/
def execDieBringupDone (die : Nat) (s : State) : Out :=
  if die < 4 && (dieAt s die).st == .trusted && (dieAt s die).rst.isNone && !(dieAt s die).up && !pkgHeld s then
    let s := { s with mem := s.mem.filter fun c => !(hbmKey die 0 ≤ c.1 && c.1 < hbmKey (die + 1) 0) }
    let s := s.modDie die fun x => { x with up := true }
    let s := (linksOf die).foldl (fun s l => s.modLink l fun k => { k with up := linkReady s l && (l < 4 || ((dieAt s (linkEnds l).1).up && (dieAt s (linkEnds l).2).up)) }) s
    .next (checkReady s)
  else .next s

/-- The C-die an alarm of a link blames (R39). -/
def linkBlame (l : Nat) : Nat := if l < 4 then l else max (linkEnds l).1 (linkEnds l).2

/-- R10, R34 to R36: a flit, sealed with a count, at a receiver. One out of sequence or not intact is replayed; one whose tag fails four
times in a row takes the link down; an accepted one stands in the sender's replay buffer until it is acknowledged, and 1,024 under the
next key end a rollover. -/
def execFlitReceive (link dir count : Nat) (intact : Bool) (flit : Flit) (tag : BitVec 128) (s : State) : Out :=
  let k := linkAt s link
  let d := k.dir dir
  let opens := match d.keyFor flit.keyseq with | some key => tagHolds key link dir count flit tag | none => false
  if link ≥ 8 || dir ≥ 2 || !k.up || !intact then .next s
  else if !opens then
    let n := if d.failed = count then d.fails + 1 else 1
    if n ≥ 4 then
      .next (raiseAlarm (s.modLink link fun k => { k.setDir dir { d with fails := 0 } with up := false }) 3 (linkBlame link))
    else .next (s.modLink link fun k => k.setDir dir { d with fails := n, failed := count })
  else if d.rolling && flit.keyseq != d.keyseq then .next (s.modLink link fun k => k.setDir dir { d with fails := 0 })
  else if count ≠ d.flits || d.replay.length ≥ 64 || d.flits + 1 ≥ 2 ^ 40 then .next s
  else .next (s.sendFlit link dir fun d => { d with replay := d.replay ++ [s.cycle] })
/-- R10: the oldest flit of the replay buffer is acknowledged. -/
def execFlitAck (link dir : Nat) (s : State) : Out :=
  .next (s.modLink link fun k => k.setDir dir { k.dir dir with replay := (k.dir dir).replay.tail })
/-- R36, R37: a rollover starts, or waits for the one under way; from its start on the sender seals under the next key. -/
def execRolloverStart (link dir key : Nat) (s : State) : Out :=
  let d := (linkAt s link).dir dir
  if link < 8 && dir < 2 && (linkAt s link).up then
    .next (s.modLink link fun k => k.setDir dir (if d.rolling then { d with waiting := d.waiting ++ [key] } else d.roll key))
  else .next s

/-! ## Single-die reset (R38) -/

/-- R38: a DIERST write. One that names a die whose reset is under way is ignored, as one of a die in RESET is (DEDUCED,
notes/assumptions/105.md). -/
def execDierstWrite (fn : Nat) (v : W64) (s : State) : Out :=
  let d := bits v.toNat 0 3
  if fn = 0 && d < 4 && !pkgHeld s && (dieAt s d).st == .trusted && (dieAt s d).rst.isNone then .next (resetDie s d 0x12 .reset)
  else .next s
/-- R38 steps 3 and 4: the scrub of a die ends, and the die enters RESET, or QUARANTINED as an alarm has it (R40). -/
def execDieResetScrubDone (die : Nat) (s : State) : Out :=
  if die < 4 && (dieAt s die).scrub then
    .next (checkReady ((scrubDie s die).modDie die fun x => { x with st := x.rst.getD x.st, rst := none, scrub := false }))
  else .next s

/-! ## Power and heat (R15 to R20) -/

/-- R17 to R19: the end of a 100 µs window. -/
def execPowerWindow (watts cdie mdie hbm : Nat) (s : State) : Out :=
  let p := s.pkg
  let cap : Bool := watts > p.pwrlim
  let hot : Bool := cdie ≥ p.dieThr || hbm ≥ p.hbmThr
  let step : Bool := (cap || hot) && p.mhz > 1450
  .next { s with pkg := { p with
    pwrnow := min watts 0xFFFF, tempC := min cdie 0xFF, tempM := min mdie 0xFF, tempH := min hbm 0xFF
    mhz := if step then p.mhz - 145 else p.mhz
    capcnt := if step && cap then min (p.capcnt + 1) 0xFFFF_FFFF else p.capcnt
    capped := p.capped || (step && cap)
    throttle := hot || mdie ≥ p.dieThr
    low := if 100 * watts ≤ 95 * p.pwrlim then p.low + 1 else 0 } }
/-- R17, R18: ten windows at or below 95 % of the limit, and no throttle, raise the clock one step. -/
def execClockRaise (s : State) : Out :=
  let p := s.pkg
  if p.low ≥ 10 && p.mhz < 2900 && !(p.tempC ≥ p.dieThr || p.tempH ≥ p.hbmThr) then
    .next { s with pkg := { p with low := 0, mhz := p.mhz + 145, capped := p.capped && p.mhz + 145 < 2900 } }
  else .next s
/-- R20: a sensor at its trip point. The kills come first; TRIP and the hold follow their drains. -/
def execThermalTrip (cdie mdie hbm : Nat) (s : State) : Out :=
  if cdie ≥ 110 || mdie ≥ 110 || hbm ≥ 95 then
    let s := { s with pkg := { s.pkg with tempC := min cdie 0xFF, tempM := min mdie 0xFF, tempH := min hbm 0xFF } }
    let s := killAll s (allContexts s) 0x13
    .next (afterDrains { s with pkg := { s.pkg with tripping := true } })
  else .next s
/-- R16: a stack with no access for 10 ms enters self-refresh. -/
def execHbmSelfRefresh (stack : Nat) (s : State) : Out :=
  if stack < 8 && s.timebase.toNat - tget 0 s.pkg.stackAt stack ≥ 10000000 then
    .next { s with pkg := { s.pkg with selfRefresh := s.pkg.selfRefresh ||| (1#8 <<< stack) } }
  else .next s
/-- R16: a shell with no lease held for 256 cycles is gated. -/
def execShellGate (eight : Nat) (s : State) : Out :=
  if h : eight < 12 then
    if s.shells[eight].holder.isNone && s.shells[eight].reqs.isEmpty && s.cycle - s.shells[eight].grantAt ≥ 256 then
      .next { s with pkg := { s.pkg with shellGated := s.pkg.shellGated ||| (1#12 <<< eight) } }
    else .next s
  else .next s

end Sys2Proof.Machine
end

