-- ==== Sys2Proof/Machine/Flags.lean ====
section
/-! DEFINITION. Number formats and arithmetic: exact values of elements, the rounding of R227 with the overflow of R228, the flags of
every operation, the transcendentals, the quantiser, and what counts as zero (R222 to R239). -/

namespace Sys2Proof

/-- Exponent and significand field widths and the bias (R222, R225). -/
def Ty.ebits : Ty → Nat
  | .f32 | .bf16 => 8
  | .f16 | .e5m2 => 5
  | .e4m3 => 4
  | .e2m1 => 2
  | .e3m5 => 3
  | .s8 | .n8 | .s16 | .n16 | .s32 | .n32 | .s64 | .n64 => 0
def Ty.mbits : Ty → Nat
  | .f32 => 23
  | .f16 => 10
  | .bf16 => 7
  | .e4m3 => 3
  | .e5m2 => 2
  | .e2m1 => 1
  | .e3m5 => 5
  | .s8 | .n8 | .s16 | .n16 | .s32 | .n32 | .s64 | .n64 => 0
def Ty.bias : Ty → Int
  | .f32 | .bf16 => 127
  | .f16 | .e5m2 => 15
  | .e4m3 => 7
  | .e2m1 => 1
  | .e3m5 => 3
  | .s8 | .n8 | .s16 | .n16 | .s32 | .n32 | .s64 | .n64 => 0
/-- P(t) and EMIN(t) of R227. -/
def Ty.prec (t : Ty) : Nat := t.mbits + 1
def Ty.emin (t : Ty) : Int := 1 - t.bias
/-- MAX(t) as (significand, exponent). -/
def Ty.max (t : Ty) : Nat × Int :=
  match t with
  | .f32 => (2 ^ 24 - 1, 104)
  | .f16 => (2 ^ 11 - 1, 5)
  | .bf16 => (2 ^ 8 - 1, 120)
  | .e5m2 => (7, 13)
  | .e4m3 => (14, 5)
  | .e2m1 => (3, 1)
  | .e3m5 => (63, -1)
  | .s8 | .n8 | .s16 | .n16 | .s32 | .n32 | .s64 | .n64 => (0, 0)
def Ty.isFloat (t : Ty) : Bool := t.ebits != 0
def Ty.isSigned : Ty → Bool
  | .s8 | .s16 | .s32 | .s64 => true
  | _ => false
/-- Infinities and NaNs as in IEEE (R223). -/
def Ty.isIeee : Ty → Bool
  | .f32 | .f16 | .bf16 | .e5m2 => true
  | _ => false

/-- The default NaN of a type (R223). -/
def Ty.nanBits : Ty → Nat
  | .f32 => 0x7FC00000
  | .f16 => 0x7E00
  | .bf16 => 0x7FC0
  | .e5m2 => 0x7E
  | .e4m3 => 0x7F
  | _ => 0
def Ty.signBit (t : Ty) : Nat := if t == .e3m5 then 0 else 2 ^ (t.ebits + t.mbits)
def Ty.infBits (t : Ty) (neg : Bool) : Nat := (2 ^ t.ebits - 1) * 2 ^ t.mbits + if neg then t.signBit else 0

/-- The least and greatest values of an integer type. -/
def Ty.iMin (t : Ty) : Int := if t.isSigned then -(2 ^ (t.bits - 1) : Nat) else 0
def Ty.iMax (t : Ty) : Int := if t.isSigned then (2 ^ (t.bits - 1) : Nat) - 1 else (2 ^ t.bits : Nat) - 1

end Sys2Proof

namespace Sys2Proof.Machine

/-! ## Flags (R229) -/

abbrev Fl := W64
def fNV : Fl := 1
def fDZ : Fl := 2
def fOF : Fl := 4
def fUF : Fl := 8
def fNX : Fl := 16
def fORDERR : Fl := 32

/-! ## Exact values -/

/-- A value of an element: a NaN, an infinity, or (−1)^neg × m × 2^e; a zero keeps its sign. -/
inductive Fp where
  | nan
  | inf (neg : Bool)
  | fin (neg : Bool) (m : Nat) (e : Int)
deriving DecidableEq, Repr

/-- The value of an element's bits (R222 to R226). -/
def fpOf (t : Ty) (v : Nat) : Fp :=
  if t.isFloat then
    let m := v % 2 ^ t.mbits
    let e := v / 2 ^ t.mbits % 2 ^ t.ebits
    let neg := t != .e3m5 && v / 2 ^ (t.ebits + t.mbits) % 2 == 1
    if t.isIeee && e == 2 ^ t.ebits - 1 then (if m = 0 then .inf neg else .nan)
    else if t == .e4m3 && v % 128 == 127 then .nan
    else if e = 0 then .fin neg m (t.emin - t.mbits)
    else .fin neg (2 ^ t.mbits + m) (e - t.bias - t.mbits)
  else if t.isSigned then
    let i : Int := if v % 2 ^ t.bits < 2 ^ (t.bits - 1) then (v % 2 ^ t.bits : Nat) else (v % 2 ^ t.bits : Nat) - (2 ^ t.bits : Nat)
    .fin (decide (i < 0)) i.natAbs 0
  else .fin false (v % 2 ^ t.bits) 0

/-- The bits of k × 2^e, which the type holds exactly. -/
def finBits (t : Ty) (neg : Bool) (k : Nat) (e : Int) : Nat :=
  let s := if neg then t.signBit else 0
  let (k, e) := if k = 2 ^ t.prec then (2 ^ t.mbits, e + 1) else (k, e)
  if k < 2 ^ t.mbits then s + k else s + (e + t.mbits + t.bias).toNat * 2 ^ t.mbits + (k - 2 ^ t.mbits)

/-! ## Rounding (R227, R228) -/

/-- n / d × 2^−e as a fraction. -/
def scaleQ (n d : Nat) (e : Int) : Nat × Nat := if 0 ≤ e then (n, d * 2 ^ e.toNat) else (n * 2 ^ (-e).toNat, d)

/-- ⌊log2 (n / d)⌋ of a positive fraction. -/
def log2Q (n d : Nat) : Int :=
  let l : Int := (Nat.log2 n : Int) - Nat.log2 d
  let (a, b) := scaleQ n d l
  if b ≤ a then l else l - 1

/-- The quotient rounded to an integer by mode (0 RNE, 1 RTZ, 2 RUP, 3 RDN), and whether it was inexact. -/
def roundDiv (rm : Nat) (neg : Bool) (n d : Nat) : Nat × Bool :=
  let k := n / d
  let r := n % d
  let up := if r = 0 then false
    else if rm = 0 then decide (d < 2 * r) || (decide (2 * r = d) && k % 2 == 1)
    else if rm = 1 then false
    else if rm = 2 then !neg
    else neg
  (if up then k + 1 else k, r != 0)

/-- Overflow of a finite value (R228): the result and its flags. -/
def overflow (t : Ty) (rm : Nat) (sat neg : Bool) : Nat × Fl :=
  let mx := finBits t neg t.max.1 t.max.2
  match t with
  | .e2m1 | .e3m5 => (mx, fNX)
  | .e4m3 => if sat then (mx, fNX) else (t.nanBits + if neg then 128 else 0, fOF ||| fNX)
  | _ =>
    if t == .e5m2 && sat then (mx, fNX)
    else
      let toInf := if rm = 0 then true else if rm = 1 then false else if rm = 2 then !neg else neg
      (if toInf then t.infBits neg else mx, fOF ||| fNX)

/-- Round(v, t, mode) of v = (−1)^neg × n / d. -/
def roundQ (t : Ty) (rm : Nat) (sat neg : Bool) (n d : Nat) : Nat × Fl :=
  if n = 0 then (if neg then t.signBit else 0, 0)
  else if t == .e3m5 && neg then (0, fNV)
  else
    let l := log2Q n d
    let q := max l t.emin - t.prec + 1
    let (a, b) := scaleQ n d q
    let (k, inx) := roundDiv rm neg a b
    let (m, e) := t.max
    let past : Bool := k * 2 ^ (q - min q e).toNat > m * 2 ^ (e - min q e).toNat
    if past then overflow t rm sat neg
    else
      let qu := l - t.prec + 1
      let (a', b') := scaleQ n d qu
      let (ku, _) := roundDiv rm neg a' b'
      let tiny := decide (l < t.emin) && !(decide (l = t.emin - 1) && decide (ku = 2 ^ t.prec))
      (finBits t neg k q, (if inx then fNX else 0) ||| (if inx && tiny then fUF else 0))

/-- Round of a dyadic value. -/
def roundD (t : Ty) (rm : Nat) (sat neg : Bool) (m : Nat) (e : Int) : Nat × Fl :=
  if 0 ≤ e then roundQ t rm sat neg (m * 2 ^ e.toNat) 1 else roundQ t rm sat neg m (2 ^ (-e).toNat)

/-- An infinite result or source in a type (R228). -/
def infTo (t : Ty) (sat neg : Bool) : Nat × Fl :=
  match t with
  | .e2m1 => (finBits t neg t.max.1 t.max.2, fNX)
  | .e3m5 => if neg then (0, fNV) else (0xFF, fNX)
  | .e4m3 => if sat then (finBits t neg t.max.1 t.max.2, fNX) else (t.nanBits + if neg then 128 else 0, fNV)
  | .e5m2 => if sat then (finBits t neg t.max.1 t.max.2, fNX) else (t.infBits neg, 0)
  | _ => (t.infBits neg, 0)

def intBits (t : Ty) (i : Int) : Nat := (i % (2 ^ t.bits : Nat)).toNat

/-- Conversion of an integer value with Sat(): NV when it clamps, NX when it was inexact and did not. -/
def satInt (t : Ty) (i : Int) (inx : Bool) : Nat × Fl :=
  if i < t.iMin then (intBits t t.iMin, fNV)
  else if t.iMax < i then (intBits t t.iMax, fNV)
  else (intBits t i, if inx then fNX else 0)

/-- Conv(v) to a type by a mode (R228, R378). -/
def convTo (t : Ty) (rm : Nat) (sat : Bool) (x : Fp) : Nat × Fl :=
  if t.isFloat then
    match x with
    | .nan => (t.nanBits, if t == .e2m1 || t == .e3m5 then fNV else 0)
    | .inf neg => infTo t sat neg
    | .fin neg m e => roundD t rm sat neg m e
  else
    match x with
    | .nan => (0, fNV)
    | .inf neg => (intBits t (if neg then t.iMin else t.iMax), fNV)
    | .fin neg m e =>
      let (n, d) := scaleQ m 1 (-e)
      let (k, inx) := roundDiv rm neg n d
      satInt t (if neg then -(k : Int) else k) inx

/-! ## Arithmetic (R231, R374) -/

def sgn (neg : Bool) (m : Nat) : Int := if neg then -(m : Int) else m
/-- An exact sum of two finite values, over the smaller exponent. -/
def addI (na : Bool) (ma : Nat) (ea : Int) (nb : Bool) (mb : Nat) (eb : Int) : Int × Int :=
  let e := min ea eb
  (sgn na ma * 2 ^ (ea - e).toNat + sgn nb mb * 2 ^ (eb - e).toNat, e)

def fpNeg : Fp → Fp
  | .nan => .nan
  | .inf n => .inf !n
  | .fin n m e => .fin (!n) m e
def Fp.isNan : Fp → Bool | .nan => true | _ => false
def Fp.isZero : Fp → Bool | .fin _ 0 _ => true | _ => false
def Fp.neg : Fp → Bool | .nan => false | .inf n => n | .fin n _ _ => n

/-- An infinite result of arithmetic: e4m3, which has none, takes the overflow's result (notes/assumptions/9.md). -/
def infAr (t : Ty) (sat neg : Bool) : Nat × Fl :=
  if t == .e4m3 then (if sat then finBits t neg t.max.1 t.max.2 else t.nanBits + if neg then 128 else 0, 0) else (t.infBits neg, 0)

/-- An invalid operation. -/
def invalid (t : Ty) : Nat × Fl := (t.nanBits, fNV)

/-- A sum (R374): zeros of one sign keep it, other exact zeros are +0, or −0 under RDN. -/
def fAdd (t : Ty) (rm : Nat) (sat : Bool) (a b : Fp) : Nat × Fl :=
  match a, b with
  | .nan, _ | _, .nan => invalid t
  | .inf x, .inf y => if x == y then infAr t sat x else invalid t
  | .inf x, .fin _ _ _ => infAr t sat x
  | .fin _ _ _, .inf y => infAr t sat y
  | .fin na ma ea, .fin nb mb eb =>
    let (i, e) := addI na ma ea nb mb eb
    if i = 0 then
      let z := if ma = 0 && mb = 0 && na == nb then na else rm == 3
      (if z then t.signBit else 0, 0)
    else roundD t rm sat (decide (i < 0)) i.natAbs e

def fMul (t : Ty) (rm : Nat) (sat : Bool) (a b : Fp) : Nat × Fl :=
  match a, b with
  | .nan, _ | _, .nan => invalid t
  | .inf x, .inf y => infAr t sat (x != y)
  | .inf x, .fin y m _ => if m = 0 then invalid t else infAr t sat (x != y)
  | .fin x m _, .inf y => if m = 0 then invalid t else infAr t sat (x != y)
  | .fin na ma ea, .fin nb mb eb => roundD t rm sat (na != nb) (ma * mb) (ea + eb)

/-- a × b + c with one rounding. -/
def fFma (t : Ty) (rm : Nat) (sat : Bool) (a b c : Fp) : Nat × Fl :=
  match a, b, c with
  | .nan, _, _ | _, .nan, _ | _, _, .nan => invalid t
  | .fin na ma ea, .fin nb mb eb, c => fAdd t rm sat (.fin (na != nb) (ma * mb) (ea + eb)) c
  | .inf x, .fin y m _, c => if m = 0 then invalid t else fAdd t rm sat (.inf (x != y)) c
  | .fin x m _, .inf y, c => if m = 0 then invalid t else fAdd t rm sat (.inf (x != y)) c
  | .inf x, .inf y, c => fAdd t rm sat (.inf (x != y)) c

def fDiv (t : Ty) (rm : Nat) (sat : Bool) (a b : Fp) : Nat × Fl :=
  match a, b with
  | .nan, _ | _, .nan => invalid t
  | .inf _, .inf _ => invalid t
  | .inf x, .fin y m _ => ((infAr t sat (x != y)).1, (infAr t sat (x != y)).2 ||| (if m = 0 then fDZ else 0))
  | .fin x _ _, .inf y => (if x != y then t.signBit else 0, 0)
  | .fin na ma ea, .fin nb mb eb =>
    if mb = 0 then (if ma = 0 then invalid t else ((infAr t sat (na != nb)).1, (infAr t sat (na != nb)).2 ||| fDZ))
    else
      let (n, d) := scaleQ ma mb (eb - ea)
      roundQ t rm sat (na != nb) n d

/-- The integer square root, bit by bit from 2^k down. -/
def isqrtGo (n : Nat) : Nat → Nat → Nat
  | 0, r => r
  | k + 1, r => let c := r + 2 ^ k; isqrtGo n k (if c * c ≤ n then c else r)
def isqrt (n : Nat) : Nat := isqrtGo n (Nat.log2 n / 2 + 1) 0

/-- The square root of n / d rounded: a root of 2^(2K) n / d, with a sticky bit when it is not exact. -/
def roundSqrt (t : Ty) (rm : Nat) (sat : Bool) (n d : Nat) : Nat × Fl :=
  let k := 400
  let w := n * 2 ^ (2 * k)
  let q := w / d
  let r := isqrt q
  if r * r = q && w % d = 0 then roundQ t rm sat false r (2 ^ k) else roundQ t rm sat false (2 * r + 1) (2 ^ (k + 1))

def fSqrt (t : Ty) (rm : Nat) (sat : Bool) (a : Fp) : Nat × Fl :=
  match a with
  | .nan => invalid t
  | .inf n => if n then invalid t else infAr t sat false
  | .fin n m e =>
    if m = 0 then (if n then t.signBit else 0, 0)
    else if n then invalid t
    else let (a, b) := scaleQ m 1 (-e); roundSqrt t rm sat a b

/-- Order of values with −0 below +0; NaNs are not compared. -/
def fpLt (a b : Fp) (zeros : Bool) : Bool :=
  match a, b with
  | .nan, _ | _, .nan => false
  | .inf x, .inf y => x && !y
  | .inf x, .fin _ _ _ => x
  | .fin _ _ _, .inf y => !y
  | .fin na ma ea, .fin nb mb eb =>
    let (i, _) := addI na ma ea (!nb) mb eb
    if ma = 0 && mb = 0 then zeros && na && !nb else decide (i < 0)
def fpEq (a b : Fp) : Bool :=
  match a, b with
  | .nan, _ | _, .nan => false
  | .inf x, .inf y => x == y
  | .fin na ma ea, .fin nb mb eb => (addI na ma ea (!nb) mb eb).1 == 0
  | _, _ => false

/-- vmin and vmax on element bits (R231). -/
def fMinMax (t : Ty) (big : Bool) (va vb : Nat) : Nat × Fl :=
  let a := fpOf t va
  let b := fpOf t vb
  if a.isNan && b.isNan then (t.nanBits, fNV)
  else if a.isNan then (vb, fNV)
  else if b.isNan then (va, fNV)
  else if big then (if fpLt a b true then vb else va, 0)
  else (if fpLt b a true then vb else va, 0)

/-! ## Transcendentals (R232)

Each value is formed in fixed point with far more bits than separate it from any point where a rounding changes
(notes/assumptions/9.md), then rounded once. -/

/-- Fraction bits of the fixed-point forms. -/
def fixW : Nat := 704
/-- Σ 2^W × 9^−k / (2k + 1). -/
def ln2Go : Nat → Nat → Nat → Nat → Nat
  | 0, _, _, acc => acc
  | f + 1, k, p, acc => ln2Go f (k + 1) (p / 9) (acc + p / (2 * k + 1))
/-- ln 2 × 2^W = 2 artanh(1/3). -/
def ln2Fix : Nat := ln2Go 240 0 (2 * 2 ^ fixW / 3) 0
/-- Σ t^k / k! in fixed point. -/
def expGo (t : Nat) : Nat → Nat → Nat → Nat → Nat
  | 0, _, _, acc => acc
  | f + 1, k, p, acc => if p = 0 then acc else expGo t f (k + 1) (p * t / 2 ^ fixW / (k + 1)) (acc + p)
/-- e^t for 0 ≤ t < 1 in fixed point. -/
def expFix (t : Nat) : Nat := expGo t 200 0 (2 ^ fixW) 0
/-- Σ z^(2k+1) / (2k + 1) in fixed point. -/
def atanhGo (z2 : Nat) : Nat → Nat → Nat → Nat → Nat
  | 0, _, _, acc => acc
  | f + 1, k, p, acc => if p = 0 then acc else atanhGo z2 f (k + 1) (p * z2 / 2 ^ fixW) (acc + p / (2 * k + 1))
/-- ln y for 1 ≤ y < 2, y = n / d, in fixed point. -/
def lnFix (n d : Nat) : Nat :=
  let z := (n - d) * 2 ^ fixW / (n + d)
  2 * atanhGo (z * z / 2 ^ fixW) 240 0 z 0

/-- A magnitude m × 2^e in fixed point, cut at a bound beyond which the function no longer changes. -/
def fixMag (m : Nat) (e : Int) (bound : Nat) : Nat :=
  let (n, d) := scaleQ m 1 (-e)
  min (n * 2 ^ fixW / d) (bound * 2 ^ fixW)

/-- 2^x. -/
def fExp2 (t : Ty) (rm : Nat) (sat : Bool) (a : Fp) : Nat × Fl :=
  match a with
  | .nan => (t.nanBits, 0)
  | .inf n => if n then (0, 0) else infAr t sat false
  | .fin neg m e =>
    let x : Int := sgn neg (fixMag m e 1024)
    let n := x / (2 ^ fixW : Nat)
    let f := (x % (2 ^ fixW : Nat)).toNat
    let y := if f = 0 then 2 ^ fixW else expFix (f * ln2Fix / 2 ^ fixW)
    roundD t rm sat false y (n - fixW)

/-- log2 x. -/
def fLog2 (t : Ty) (rm : Nat) (sat : Bool) (a : Fp) : Nat × Fl :=
  match a with
  | .nan => (t.nanBits, 0)
  | .inf n => if n then invalid t else infAr t sat false
  | .fin neg m e =>
    if m = 0 then ((infAr t sat true).1, (infAr t sat true).2 ||| fDZ)
    else if neg then invalid t
    else
      let l := Nat.log2 m
      let k : Int := l + e
      let r : Int := k * (2 ^ fixW : Nat) + (if m = 2 ^ l then 0 else (lnFix m (2 ^ l) * 2 ^ fixW / ln2Fix : Nat))
      roundD t rm sat (decide (r < 0)) r.natAbs (-(fixW : Int))

/-- 1/x. -/
def fRcp (t : Ty) (rm : Nat) (sat : Bool) (a : Fp) : Nat × Fl :=
  match a with
  | .nan => (t.nanBits, 0)
  | .inf n => (if n then t.signBit else 0, 0)
  | .fin n m e =>
    if m = 0 then ((infAr t sat n).1, (infAr t sat n).2 ||| fDZ)
    else let (a, b) := scaleQ 1 m e; roundQ t rm sat n a b

/-- 1/√x. -/
def fRsqrt (t : Ty) (rm : Nat) (sat : Bool) (a : Fp) : Nat × Fl :=
  match a with
  | .nan => (t.nanBits, 0)
  | .inf n => if n then invalid t else (0, 0)
  | .fin n m e =>
    if m = 0 then ((infAr t sat n).1, (infAr t sat n).2 ||| fDZ)
    else if n then invalid t
    else let (a, b) := scaleQ 1 m e; roundSqrt t rm sat a b

/-- e^|x| as (n, Y): 2^n × Y / 2^W, for |x| up to 200. -/
def expMag (x : Nat) : Nat × Nat := (x / ln2Fix, expFix (x % ln2Fix))

/-- 1 / (1 + e^−x); beyond 200 in magnitude the value stands within 2^−280 of its limit. -/
def fSig (t : Ty) (rm : Nat) (sat : Bool) (a : Fp) : Nat × Fl :=
  match a with
  | .nan => (t.nanBits, 0)
  | .inf n => if n then (0, 0) else roundQ t rm sat false 1 1
  | .fin neg m e =>
    let x := fixMag m e 200
    if m = 0 then roundQ t rm sat false 1 2
    else if x = 200 * 2 ^ fixW then (if neg then roundQ t rm sat false 1 (2 ^ 280) else roundQ t rm sat false (2 ^ 280 - 1) (2 ^ 280))
    else
      let (n, y) := expMag x
      let g := 2 ^ n * y
      if neg then roundQ t rm sat false (2 ^ fixW) (2 ^ fixW + g) else roundQ t rm sat false g (2 ^ fixW + g)

/-- tanh x; below 2^−60 it lies just under x, beyond 100 just under 1. -/
def fTanh (t : Ty) (rm : Nat) (sat : Bool) (a : Fp) : Nat × Fl :=
  match a with
  | .nan => (t.nanBits, 0)
  | .inf n => roundQ t rm sat n 1 1
  | .fin neg m e =>
    if m = 0 then (if neg then t.signBit else 0, 0)
    else
      let x := fixMag m e 100
      if x = 100 * 2 ^ fixW then roundQ t rm sat neg (2 ^ 280 - 1) (2 ^ 280)
      else if x < 2 ^ (fixW - 60) then
        let (n, d) := scaleQ (m * (2 ^ 100 - 1)) (2 ^ 100) (-e)
        roundQ t rm sat neg n d
      else
        let (n, y) := expMag (2 * x)
        let g := 2 ^ n * y
        roundQ t rm sat neg (g - 2 ^ fixW) (g + 2 ^ fixW)

/-- x / (1 + e^−x): −∞ gives −0 (R413); beyond 200 below zero it stands within 2^−270 of 0. -/
def fSilu (t : Ty) (rm : Nat) (sat : Bool) (a : Fp) : Nat × Fl :=
  match a with
  | .nan => (t.nanBits, 0)
  | .inf n => if n then (t.signBit, 0) else infAr t sat false
  | .fin neg m e =>
    let x := fixMag m e 200
    let (p, q) := scaleQ m 1 (-e)
    if m = 0 then (if neg then t.signBit else 0, 0)
    else if x = 200 * 2 ^ fixW then (if neg then roundQ t rm sat true 1 (2 ^ 270) else roundQ t rm sat false (p * (2 ^ 280 - 1)) (q * 2 ^ 280))
    else
      let (n, y) := expMag x
      let g := 2 ^ n * y
      if neg then roundQ t rm sat true (p * 2 ^ fixW) (q * (2 ^ fixW + g)) else roundQ t rm sat false (p * g) (q * (2 ^ fixW + g))

/-! ## Integer elements (R375) -/

def iVal (t : Ty) (v : Nat) : Int :=
  if t.isSigned && v % 2 ^ t.bits ≥ 2 ^ (t.bits - 1) then (v % 2 ^ t.bits : Nat) - (2 ^ t.bits : Nat) else (v % 2 ^ t.bits : Nat)
def iAdd (t : Ty) (a b : Nat) : Nat := (a + b) % 2 ^ t.bits
def iSub (t : Ty) (a b : Nat) : Nat := (a + 2 ^ t.bits - b % 2 ^ t.bits) % 2 ^ t.bits
def iMul (t : Ty) (a b : Nat) : Nat := a * b % 2 ^ t.bits
def iMulh (t : Ty) (a b : Nat) : Nat := intBits t (iVal t a * iVal t b / (2 ^ t.bits : Nat))
def iSll (t : Ty) (a b : Nat) : Nat := a * 2 ^ (b % t.bits) % 2 ^ t.bits
def iSrl (t : Ty) (a b : Nat) : Nat := a % 2 ^ t.bits / 2 ^ (b % t.bits)
def iSra (t : Ty) (a b : Nat) : Nat := intBits t (iVal t a / (2 ^ (b % t.bits) : Nat))
def iMin (t : Ty) (a b : Nat) : Nat := if iVal t b < iVal t a then b else a
def iMax (t : Ty) (a b : Nat) : Nat := if iVal t a < iVal t b then b else a
def iAbs (t : Ty) (a : Nat) : Nat := intBits t (iVal t a).natAbs

/-! ## Zeros (R239) -/

/-- Whether an element counts as zero under a threshold, and what it adds to DMAG. -/
def countsZero (t : Ty) (thr : W32) (v : Nat) : Bool × Nat :=
  let x := fpOf t v
  match x with
  | .nan => (false, 0)
  | .inf _ => if fpOf .f32 thr.toNat = .inf false then (true, 2 ^ 64 - 1) else (false, 0)
  | .fin _ m e =>
    if m = 0 then (true, 0)
    else
      let le := match fpOf .f32 thr.toNat with
        | .nan => false
        | .inf n => !n
        | th => !fpLt th (.fin false m e) false
      if le then
        let (n, d) := scaleQ m 1 (-(e + 24))
        (true, n / d)
      else (false, 0)

/-! ## The quantiser (R235) -/

/-- A magnitude as a fraction, none for +∞. -/
def magQ : Fp → Option (Nat × Nat)
  | .nan => some (0, 1)
  | .inf _ => none
  | .fin _ m e => some (scaleQ m 1 (-e))
def maxQ (a b : Option (Nat × Nat)) : Option (Nat × Nat) :=
  match a, b with
  | none, _ | _, none => none
  | some (n, d), some (n', d') => if n * d' < n' * d then some (n', d') else some (n, d)
/-- The value of an e3m5 code times 128. -/
def e3m5x128 (s : Nat) : Nat := let e := s / 32; if e = 0 then s % 32 else 2 ^ (e - 1) * (32 + s % 32)
/-- The least e3m5 code whose value times six is at least n / d. -/
def leastScale (n d : Nat) : Nat := ((List.range 256).find? fun s => 6 * e3m5x128 s * d ≥ n * 128).getD 255
/-- A scale code for a maximum: with whether it took the smallest scale and whether it saturated. -/
def scaleFor (a : Option (Nat × Nat)) : Nat × Bool × Bool :=
  match a with
  | none => (0xFF, false, true)
  | some (n, d) =>
    if n = 0 then (0, false, false)
    else if n * 128 < 6 * d then (1, true, false)
    else if n * 2 > 63 * 6 * d then (0xFF, false, true)
    else (leastScale n d, false, false)
/-- A block's amax and whether a NaN was met. -/
def amaxOf (xs : List Fp) : Option (Nat × Nat) × Bool := (xs.foldl (fun m x => maxQ m (magQ x)) (some (0, 1)), xs.any (·.isNan))
/-- Quant8: scale, codes, NV, UFL, SAT. -/
def quant8 (xs : List Fp) : Nat × List Nat × Bool × Bool × Bool :=
  let (a, nv) := amaxOf xs
  let (sc, ufl, sat) := scaleFor a
  if sc = 0 then (0, xs.map fun _ => 0, nv, false, false)
  else
    let code (x : Fp) : Nat :=
      let c := match x with
        | .nan => 0
        | .inf n => if n then 0xF else 7
        | .fin n m e => let (p, q) := scaleQ (m * 128) (e3m5x128 sc) (-e); (roundQ .e2m1 0 true n p q).1
      if c = 8 then 0 else c
    (sc, xs.map code, nv, ufl, sat)

/-! ## Trees (R233) -/

/-- One level of the pairwise tree. -/
def pairUp (op : Nat → Nat → Nat × Fl) : List Nat → List Nat × Fl
  | a :: b :: t => let (r, f) := op a b; let (rs, fs) := pairUp op t; (r :: rs, f ||| fs)
  | [a] => ([a], 0)
  | [] => ([], 0)
/-- Reduce over 2^k values. -/
def reduceTree (op : Nat → Nat → Nat × Fl) : Nat → List Nat → Nat × Fl
  | 0, xs => (xs.headD 0, 0)
  | k + 1, xs => let (ys, f) := pairUp op xs; let (r, g) := reduceTree op k ys; (r, f ||| g)
/-- The running sum. -/
def scanSum (op : Nat → Nat → Nat × Fl) : Nat → List Nat → List Nat × Fl
  | _, [] => ([], 0)
  | acc, x :: xs => let (r, f) := op acc x; let (rs, g) := scanSum op r xs; (r :: rs, f ||| g)

/-! ## Elements of lanes (R226, R372) -/

def elem (t : Ty) (w : W32) (j : Nat) : Nat := w.toNat / 2 ^ (t.bits * j) % 2 ^ t.bits
def setElem (t : Ty) (w : W32) (j v : Nat) : W32 :=
  let lo := 2 ^ (t.bits * j)
  BitVec.ofNat 32 (w.toNat % lo + v % 2 ^ t.bits * lo + w.toNat / (lo * 2 ^ t.bits) * (lo * 2 ^ t.bits))
/-- A lane of elements, element 0 lowest. -/
def packLane (t : Ty) (vs : List Nat) : W32 := BitVec.ofNat 32 (vs.foldr (fun v acc => v % 2 ^ t.bits + 2 ^ t.bits * acc) 0)
def laneElems (t : Ty) (w : W32) : List Nat := (List.range t.epl).map (elem t w)

end Sys2Proof.Machine
end

