-- ==== Sys2Proof/Machine/Memory.lean ====
section
/-! DEFINITION. Loads, stores, atomics, fences, sparse-existence accesses, and the happenings of the memory system: entries performed,
view caches, faults resolved, logs replayed, invalidations, layouts, kills (R170 to R195, R349 to R356). -/

namespace Sys2Proof.Machine

/-! ## Issue of single accesses (R349) -/

/-- The address of an access with its checks at issue, steps 1 and 2 of R349. -/
def formAddr (s : State) (sp : Space) (base off : W64) (n : Nat) : Except (Nat × W64) Nat :=
  let ad := base + off
  match checkAddr s s.cur s.my.cid sp ad.toNat n false with
  | some t => .error t
  | none => if ad.toNat % n ≠ 0 then .error (cALIGN, ad) else .ok ad.toNat

/-- The moving stream as it reaches memory. -/
def State.who (s : State) : Who := ⟨s.my.cid, some (s.cur, s.my.tid), dieOf s.cur.core⟩

/-- At TL1 and TL2 a store or reduction is translated at its issue: a miss traps precisely (R167, R176, R180). -/
def syncMiss (s : State) (sp : Space) (a n : Nat) (want : Want) : Option State :=
  if s.my.c.tl = 0 || sp != .g then none
  else
    let ev := BitVec.ofNat 64 a
    match locate s.who a n want s with
    | .ok _ _ => none
    | .error .prot _ => some (trapAt s s.cur cPROT ev false)
    | .error (.fault b r rg) _ => some (trapAt (raiseFault s s.my.cid b r (rg.kind 8)).2 s.cur cXLATE ev false)
    | .error (.exhausted _) _ => some (trapAt s s.cur cEXALLOC ev false)
    | .error (.hole _ _) _ | .error .link _ => none

/-- R350 ld. -/
def execLd (g : Guard) (sp : Space) (w : BitVec 3) (o : Order) (sc : Scope) (d a : R5) (off : BitVec 14) (s : State) : Out :=
  issue64 s g ⟨[d, a], [], [], [a]⟩ fun s =>
    match formAddr s sp (s.x a) (off.signExtend 64) (widthOf w) with
    | .error (c, v) => .trap c v
    | .ok ad => .go (s.load (if o == .weak then 0 else 1) o sc sp 0 ad (widthOf w) (.x d w))

/-- R351 st. -/
def execSt (g : Guard) (sp : Space) (w : BitVec 3) (o : Order) (sc : Scope) (a b : R5) (off : BitVec 14) (s : State) : Out :=
  issue64 s g ⟨[a, b], [], [], [a, b]⟩ fun s =>
    match formAddr s sp (s.x a) (off.signExtend 64) (widthOf w) with
    | .error (c, v) => .trap c v
    | .ok ad =>
      match syncMiss s sp ad (widthOf w) .wr with
      | some t => .stop t
      | none => .go (s.addEff (.entry (mkEntry s (if o == .weak then 0 else 1) o sc sp 0 ad (widthOf w)
          (.store (toBytes (widthOf w) (s.x b).toNat)))))

/-- R352, R353: an atomic enters its queue at its block's commit. -/
def amo (op : AmoOp) (g : Guard) (w64 : Bool) (sp : Space) (o : Order) (sc : Scope) (d a b : R5) (off : BitVec 11) (s : State) : Out :=
  issue64 s g ⟨[d, a, b], [], [], if op = .cas then [d, a, b] else [a, b]⟩ fun s =>
    let n := if w64 then 8 else 4
    match formAddr s sp (s.x a) (off.signExtend 64) n with
    | .error (c, v) => .trap c v
    | .ok ad =>
      match (if d = 0 then syncMiss s sp ad n .rw else none) with
      | some t => .stop t
      | none => .go (s.addEff (.entry (mkEntry s 1 o sc sp 0 ad n (.amo op w64 (s.x b) (s.x d) d))))

/-- R352 amo.add. -/
def execAmoAdd (g : Guard) (w64 : Bool) (sp : Space) (o : Order) (sc : Scope) (d a b : R5) (off : BitVec 11) (s : State) : Out :=
  amo .add g w64 sp o sc d a b off s
/-- R352 amo.and. -/
def execAmoAnd (g : Guard) (w64 : Bool) (sp : Space) (o : Order) (sc : Scope) (d a b : R5) (off : BitVec 11) (s : State) : Out :=
  amo .and g w64 sp o sc d a b off s
/-- R352 amo.or. -/
def execAmoOr (g : Guard) (w64 : Bool) (sp : Space) (o : Order) (sc : Scope) (d a b : R5) (off : BitVec 11) (s : State) : Out :=
  amo .or g w64 sp o sc d a b off s
/-- R352 amo.xor. -/
def execAmoXor (g : Guard) (w64 : Bool) (sp : Space) (o : Order) (sc : Scope) (d a b : R5) (off : BitVec 11) (s : State) : Out :=
  amo .xor g w64 sp o sc d a b off s
/-- R352 amo.min.s. -/
def execAmoMinS (g : Guard) (w64 : Bool) (sp : Space) (o : Order) (sc : Scope) (d a b : R5) (off : BitVec 11) (s : State) : Out :=
  amo .minS g w64 sp o sc d a b off s
/-- R352 amo.min.n. -/
def execAmoMinN (g : Guard) (w64 : Bool) (sp : Space) (o : Order) (sc : Scope) (d a b : R5) (off : BitVec 11) (s : State) : Out :=
  amo .minN g w64 sp o sc d a b off s
/-- R352 amo.max.s. -/
def execAmoMaxS (g : Guard) (w64 : Bool) (sp : Space) (o : Order) (sc : Scope) (d a b : R5) (off : BitVec 11) (s : State) : Out :=
  amo .maxS g w64 sp o sc d a b off s
/-- R352 amo.max.n. -/
def execAmoMaxN (g : Guard) (w64 : Bool) (sp : Space) (o : Order) (sc : Scope) (d a b : R5) (off : BitVec 11) (s : State) : Out :=
  amo .maxN g w64 sp o sc d a b off s
/-- R352 amo.swap. -/
def execAmoSwap (g : Guard) (w64 : Bool) (sp : Space) (o : Order) (sc : Scope) (d a b : R5) (off : BitVec 11) (s : State) : Out :=
  amo .swap g w64 sp o sc d a b off s
/-- R352 amo.cas. -/
def execAmoCas (g : Guard) (w64 : Bool) (sp : Space) (o : Order) (sc : Scope) (d a b : R5) (off : BitVec 11) (s : State) : Out :=
  amo .cas g w64 sp o sc d a b off s

/-! ## Fences (R192, R354, R355) -/

/-- R192 fence. -/
def execFence (g : Guard) (sc : Scope) (s : State) : Out :=
  issue64 s g ⟨[], [], [], []⟩ fun s => .go (s.addEff (.entry (sigEntry s (.fence sc))))
/-- R192 xfence. -/
def execXfence (g : Guard) (src dst : BitVec 6) (s : State) : Out :=
  issue64 s g ⟨[], [], [], []⟩ fun s => .go (s.addEff (.entry (sigEntry s (.xfence src dst))))

/-- ptfence and tlbinv trap PRIV outside an MGMT context (R170, R287). -/
def unprivileged (s : State) : Bool := !ctxMgmt s (dieOf s.cur.core) s.my.cid

/-- Stores of the stream entered and not yet performed, logged ones included. -/
def storesOut (s : State) : Bool :=
  (s.mine.any fun e => e.acc.isWrite) || s.logs.any fun l => l.e.tid == s.my.tid && l.e.r.eng == s.cur.eng

/-- The walkers of the dies in a scope, its own die's at least, read what a stream has stored (R170, R355). -/
def State.showStores (s : State) (sc : Scope) : State :=
  { s with hidden := showAll (fun h => h.tid == s.my.tid && h.eng == s.cur.eng &&
      (scopeDie sc s.cur.core (h.key / 2 ^ 40) || h.key / 2 ^ 40 == dieOf s.cur.core)) s.hidden }

/-- R355 ptfence: held until the stream's committed stores are performed, from when walkers read them. -/
def execPtfence (g : Guard) (sc : Scope) (s : State) : Out :=
  issue64 s g ⟨[], [], [], []⟩ fun s =>
    if unprivileged s then .trap cPRIV (s.headWord.zeroExtend 64)
    else if storesOut s then .hold .memory s
    else .go (s.showStores sc)

/-- Whether a context maps a physical page of a die (R169): a valid leaf of its names the page. -/
def mapsPage (s : State) (d cid page : Nat) : Bool :=
  let e := ctxEntry s d cid
  e.testBit 0 && (List.range 4096).any fun i =>
    let l1 := s.readN (hbmKey d (bits e 64 36 + 8 * i)) 8
    l1.testBit 0 && (List.range 4096).any fun j =>
      let l := s.readN (hbmKey d (bits l1 16 20 * 2 ^ 16 + 16 * j)) 16
      l.testBit 0 && !leafExi l && bits l 21 15 == page
/-- A tlbinv with ALL has completed for a context on a die: a page for which one has for every context that maps it is unset (R169). -/
def unsetPages (s : State) (d cid : Nat) : State :=
  let ks := (s.cmpState.map (·.1)).filter fun k => k / 2 ^ 15 == d
  let done := s.cmpDone ++ (ks.filter fun k => !s.cmpDone.contains (k, cid)).map fun k => (k, cid)
  let free := ks.filter fun k => (List.range 4096).all fun c => done.contains (k, c) || !mapsPage s d c (k % 2 ^ 15)
  { s with
    cmpState := s.cmpState.filter fun c => !free.contains c.1
    cmpDone := done.filter fun p => !free.contains p.1
    blkMeta := s.blkMeta.filter fun b => !free.contains (b.1 / 2 ^ 31 * 2 ^ 15 + b.1 % 2 ^ 31 / 2 ^ 12) }

/-- The lines of a context's page, or of all its pages on a die, leave every L1, and its entries leave the slices of the die (R170). -/
def invalidate (s : State) (d cid : Nat) (page : Option Nat) : State :=
  let hit (die c pg : Nat) : Bool := die == d && c == cid && (match page with | some p => p == pg | none => true)
  let gone (v : View) : Bool := hit (v.line * 64 / 2 ^ 45) v.cid (v.line * 64 / 2 ^ 21)
  let ts := (List.range 96).foldl (fun ts core =>
    trigLeave ts core cid ((s.views.filter fun v => v.core == core && gone v).map fun v => v.line * 64 / 256)) s.tasks
  let s := { s with
    tlb := s.tlb.filter fun t => !hit t.die t.cid t.page
    views := s.views.filter fun v => !gone v
    tasks := ts }
  if page.isSome then s else unsetPages s d cid

/-- R355 tlbinv: the invalidation stands even when the block is discarded. -/
def execTlbinv (g : Guard) (a b : R5) (all : BitVec 1) (s : State) : Out :=
  issue64 s g ⟨[a, b], [], [], [a, b]⟩ fun s =>
    let pa := (s.x a).toNat
    if unprivileged s then .trap cPRIV (s.headWord.zeroExtend 64)
    else if bits pa 45 3 > 3 then .trap cPROT (s.x a)
    else .go (invalidate s (bits pa 45 3) (bits (s.x b).toNat 0 12) (if all = 1 then none else some (bits pa 21 27)))

/-! ## Sparse-existence access (R356) -/

/-- The address of an EXIST instruction with step 1 of R349. -/
def existAddr (s : State) (a : R5) (off : BitVec 14) : Except (Nat × W64) Nat :=
  formAddr s .g (s.x a) (off.signExtend 64) 1

/-- R356 ldx. -/
def execLdx (g : Guard) (d a c : R5) (off : BitVec 14) (s : State) : Out :=
  issue64 s g ⟨[d, a], [c], [], [a]⟩ fun s =>
    match formAddr s .g (s.x a) (off.signExtend 64) 8 with
    | .error (c, v) => .trap c v
    | .ok ad => readPreds s [] [c] fun s => .go (s.load 1 .strong .core .g 0 ad 8 (.ldx d c))
/-- R356 erase: at commit. -/
def execErase (g : Guard) (a : R5) (off : BitVec 14) (s : State) : Out :=
  issue64 s g ⟨[a], [], [], [a]⟩ fun s =>
    match existAddr s a off with
    | .error (c, v) => .trap c v
    | .ok ad => .go (s.addEff (.entry (mkEntry s 1 .strong .core .g 0 ad 1 .erase)))
/-- R356 extest. -/
def execExtest (g : Guard) (a c : R5) (off : BitVec 14) (s : State) : Out :=
  issue64 s g ⟨[a], [c], [], [a]⟩ fun s =>
    match existAddr s a off with
    | .error (c, v) => .trap c v
    | .ok ad => readPreds s [] [c] fun s => .go (s.load 1 .strong .core .g 0 ad 1 (.extest c))
/-- R356 exmap. -/
def execExmap (g : Guard) (d a : R5) (off : BitVec 14) (s : State) : Out :=
  issue64 s g ⟨[d, a], [], [], [a]⟩ fun s =>
    match existAddr s a off with
    | .error (c, v) => .trap c v
    | .ok ad => .go (s.load 1 .strong .core .g 0 ad 1 (.exmap d))

/-! ## An entry is performed (R183) -/

/-- scatadd at home (R208): each element of TY is added in one step. -/
def addBytes (ty : Ty) (old new : List Byte) : List Byte :=
  let one (i : Nat) : List Byte :=
    let a := leNat ((old.drop (4 * i)).take 4)
    let b := leNat ((new.drop (4 * i)).take 4)
    toBytes 4 (if ty == .f32 then (fAdd .f32 0 false (fpOf .f32 a) (fpOf .f32 b)).1 else iAdd ty a b)
  ((List.range (old.length / 4)).map one).flatten

/-- Element-wise adds at home, each element added in one step where it lies, on whichever pages (R208). -/
def doCadd (s : State) (e : Entry) (id pos : Nat) (ty : Ty) : Out :=
  match cmdOf s e.r id with
  | none => .next (s.dropEntry e)
  | some c =>
    match (do
      let ks ← (cutPages e.addr e.n).mapM (fun p => do
        let (pl, _) ← locate e.who p.1 p.2 .wr
        match pl with
        | .dflt _ => throw .prot
        | .at k => modify fun s => homeFetch (stageCheck s e.who k p.2) k p.2; pure (k, p.1, p.2) : Nat × Nat → TM (Nat × Nat × Nat))
      let s ← get
      let bs := addBytes ty (ks.flatMap fun k => homeRead s e.who k.1 k.2.2) (c.out pos e.n)
      let bad := ((ks.flatMap fun k => (seenPoison s e.who k.1 k.2.2).map (k.2.1 - e.addr + ·)) ++ c.badOf pos e.n).flatMap fun i =>
        (List.range 4).map (i / 4 * 4 + ·)
      ks.forM fun k => do
        let o := k.2.1 - e.addr
        let lost := (bad.filter fun i => o ≤ i && i < o + k.2.2).map (· - o)
        modify fun s => homePoisonAt (homeWrite s e.who (some (e.cid, k.2.1 / 256)) k.1 ((bs.drop o).take k.2.2)) e.who k.1 lost : TM Unit) s with
    | .ok _ s => .next ((s.dropEntry e).reached e id pos)
    | .error m s => missEntry s e m

/-- A synchronising effect takes place (R195); a signal outside its task ends staging first (R259). -/
def doSync (s : State) (e : Entry) : State :=
  let s := s.dropEntry e
  match e.acc with
  | .token k => s.modOwn e.r e.tid fun t => if h : k < 8 then { t with tk := t.tk.set k (t.tk[k] + 1) } else t
  | .post ev n => s.modOwn e.r e.tid fun t => if h : ev < 16 then { t with e := t.e.set ev (t.e[ev] + n) } else t
  | .qpush q v => s.modOwn e.r e.tid fun t => if h : q < 8 then { t with q := t.q.set q (t.q[q] ++ [v]) } else t
  | .evsig name => signalEvent (e.who.harden s) e.cid name
  | .joindec k => joinSucc (e.who.harden s) (e.task s) k
  | .spawn r rec_ d => spawnNow (e.who.harden s) e.r e.tid r rec_ d
  | .garr core gate prod n =>
    let add (t : Task) : Task := t.setGate gate (((t.gate gate).arrive prod n).getD (t.gate gate))
    if core = e.r.core then s.modOwn e.r e.tid add
    else
      let s := e.who.harden s
      let dom := bits (e.task s).c.dom.toNat 36 4
      match gateSlot s core e.cid dom with
      | some sl => s.modTask core sl add
      | none => { s with arrivals := s.arrivals ++ [⟨core, e.cid, dom, gate, prod, n⟩] }
  | .stage _ it v => stageUpdate s (e.task s) it v
  | .fence sc => s.dropViews e.r.core e.cid sc
  | .xfence _ dst => if dst.getLsbD 0 then s.dropViews e.r.core e.cid .system else s
  | .acquire sc => s.dropViews e.r.core e.cid sc
  | .load _ | .store _ | .amo _ _ _ _ _ | .erase | .cread _ _ | .cwrite _ _ | .cadd _ _ _ => s

/-- One entry, its turn come. -/
def performEntry (s : State) (e : Entry) : Out :=
  match e.acc with
  | .load dst => doLoad s e dst
  | .store bs => doStore s e bs
  | .amo op w64 v ev d => doAmo s e op w64 v ev d
  | .erase => doErase s e
  | .cread c pos => doCread s e c pos
  | .cwrite c pos => doCwrite s e c pos
  | .cadd c pos ty => doCadd s e c pos ty
  | .token _ | .post _ _ | .qpush _ _ | .evsig _ | .joindec _ | .spawn _ _ _ | .garr _ _ _ _ | .stage _ _ _ | .fence _ | .xfence _ _
  | .acquire _ => .next (doSync s e)

def entryOf (s : State) (uid : Nat) : Option Entry := s.paths.find? fun e => e.uid == uid

/-- R183: an eligible entry is performed; any other number changes nothing. -/
def execMemPerform (uid : Nat) (s : State) : Out :=
  match entryOf s uid with
  | some e =>
    if eligible s e then performEntry s e
    else if meetsFull s e then .next (armFull s e.cid)
    else .next s
  | none => .next s

/-! ## View caches (R183, R188, R159) -/

def viewOf (s : State) (core cid line : Nat) : Option View := s.views.find? fun v => v.core == core && v.cid == cid && v.line == line

/-- A copy leaves a core's view cache: monitors on its 256-byte line trigger (R140). -/
def dropView (s : State) (core cid line : Nat) : State :=
  if (viewOf s core cid line).isSome then
    { s with
      views := s.views.filter fun v => !(v.core == core && v.cid == cid && v.line == line)
      tasks := trigLeave s.tasks core cid [line / 4] }
  else s

/-- R188: a weak load of a line the issuing core's view cache holds is answered from the copy; a copy with an error leaves, to be fetched
again (R255). -/
def execViewServe (uid : Nat) (s : State) : Out :=
  match entryOf s uid with
  | none => .next s
  | some e =>
    match e.acc with
    | .load dst =>
      let l := viewLine e.addr
      match viewOf s e.r.core e.cid l with
      | some v =>
        if unheld s e && e.path == 0 && e.ord == .weak && e.isGlobal && viewLine (e.addr + e.n - 1) == l && viewable s e.cid e.addr &&
            (e.who.stager s).isNone then
          let (bad, s) := cacheRead s (viewKey e.r.core e.cid l + e.addr % 64 / 4 * 4) (e.addr % 4 + e.n)
          if bad then .next (dropView s e.r.core e.cid l)
          else .next (deliver s e dst (patch ((v.data.drop (e.addr % 64)).take e.n) e.ovl) true)
        else .next s
      | none => .next s
    | _ => .next s

/-- The lines of a core's L1 that share a set with a line (R159): of eight the oldest leaves. -/
def viewRoom (s : State) (core line : Nat) : State :=
  let mates := s.views.filter fun v => v.core == core && v.line % 256 == line % 256
  if mates.length ≥ 8 then (match mates.head? with | some v => dropView s core v.cid v.line | none => s) else s
/-- R183 Fill: the line's current home bytes, carried to the core. -/
def execViewFill (core cid addr : Nat) (s : State) : Out :=
  let l := viewLine addr
  let d := addr / 2 ^ 45
  if core < 96 && viewable s cid addr && ctxValid s d cid && reaches s (dieOf core) d 64 then
    match peekKey s cid (64 * l) with
    | some k =>
      if k % 2 ^ 40 ≥ hbmBytes then .next s
      else
        let s := homeFetch (travel s (dieOf core) d 64) k 64
        if homePoison s k 64 then .next s
        else
          let s := viewRoom { s with views := s.views.filter fun v => !(v.core == core && v.cid == cid && v.line == l) } core l
          let s := eccClean s (viewKey core cid l) 64
          .next { s with views := s.views ++ [⟨core, cid, l, s.read k 64⟩] }
    | none => .next s
  else .next s

/-- R183 Drop. -/
def execViewDrop (core cid addr : Nat) (s : State) : Out := .next (dropView s core cid (viewLine addr))

/-! ## Faults resolved (R172, R173 to R176) -/

/-- R172 retry. -/
def execFqresRetry (fn tag : Nat) (s : State) : Out :=
  if fn = 0 && s.faults.any (fun f => f.tag == tag) then .next (clearWait (freeTag s tag) tag) else .next s

/-- Fatal for entries of the paths. -/
def fatalPaths (tag : Nat) : List Entry → State → State
  | [], s => s
  | e :: es, s =>
    let s := if e.wait == some tag && s.paths.any (fun f => f.uid == e.uid) then failEntry s e cXLATE (BitVec.ofNat 64 e.addr) else s
    fatalPaths tag es s

/-- Fatal for logged entries (R176): the stream traps at its next boundary and its entries for the page are discarded. -/
def fatalLogs (tag : Nat) : List LogEnt → State → State
  | [], s => s
  | l :: ls, s =>
    let s := if l.e.wait == some tag && s.logs.any (fun m => m.e.uid == l.e.uid) then
        (freeLogs s fun m => m.e.same l.e && m.e.addr / 2 ^ 21 == l.e.addr / 2 ^ 21).deferOwn l.e cXLATE (BitVec.ofNat 64 l.e.addr)
      else s
    fatalLogs tag ls s

/-- A saved task without the commands of some numbers, their handles FREE, and with traps to be taken at its streams' boundaries. -/
def Task.fatal (t : Task) (ids : List Nat) (evs : List (Eng × Nat)) (cycle : Nat) : Task :=
  let cs := (t.st.toList.flatMap (·.cq)).filter fun c => ids.contains c.id
  let t := (cs.flatMap fun c => c.cons ++ c.prod.toList).foldl (fun t h => t.freeH h cycle) t
  let t := evs.foldl (fun t v => t.modStm v.1 fun st => { st with deferred := st.deferred ++ [⟨cXLATE, BitVec.ofNat 64 v.2⟩] }) t
  { t with st := t.st.map fun st => { st with cq := st.cq.filter fun c => !ids.contains c.id } }
/-- Fatal for what a saved task holds with it: its split commands' accesses, its logged entries, the frame its end waits for. -/
def fatalJob (tag : Nat) (s : State) (j : Job) : State :=
  let on (e : Entry) : Bool := e.wait == some tag
  let ps := j.paths.filter on
  let ls := j.logs.filter fun l => on l.e
  let evs := (ps ++ ls.map (·.e)).map fun e => (e.r.eng, e.addr)
  if (evs.any fun v => !(j.t.stm v.1).live) || (j.t.st.toList.any fun st => st.fwait.any fun f => f.1 == tag) then kill s j.t.cid 0x11
  else if evs.isEmpty then s
  else
    let ids := ps.filterMap (·.acc.cmd)
    { s with jobs := s.jobs.map fun k => if k.t.tid == j.t.tid then { k with
        t := k.t.fatal ids evs s.cycle
        paths := k.paths.filter fun e => !(e.acc.cmd.any ids.contains)
        logs := k.logs.filter fun m => !(ls.any fun l => m.e.same l.e && m.e.addr / 2 ^ 21 == l.e.addr / 2 ^ 21) } else k }

/-- Fatal for instruction fetches (R173), and for the frame of a task that ends (R88). -/
def fatalFetch (tag : Nat) (s : State) : State :=
  (List.range 384).foldl (fun s k => Eng.all.foldl (fun s e =>
    let r : Ref := ⟨k / 4, k % 4, e⟩
    match (s.stm r).fwait with
    | some (t, a) =>
      if t != tag then s
      else if (s.stm r).live then trapAt (s.modSt r fun st => { st with fwait := none }) r cXLATE (BitVec.ofNat 64 a) false
      else kill s (s.task r.core r.slot).cid 0x11
    | none => s) s) s

/-- Fatal for transform rings: the request that met the fault ends with FAULT (R220). -/
def fatalRings (tag : Nat) (s : State) : State :=
  { s with te := s.te.map fun k => (k.1, match k.2.wait with
    | some (t, req) => if t == tag then { k.2 with wait := none, done := match req with | some g => some (1, g) | none => k.2.done } else k.2
    | none => k.2) }

/-- R172 fatal. -/
def execFqresFatal (fn tag : Nat) (s : State) : Out :=
  if fn = 0 && s.faults.any (fun f => f.tag == tag) then
    let s := freeTag s tag
    let s := fatalRings tag (fetchErrs (fatalFetch tag (fatalLogs tag s.logs (fatalPaths tag s.paths s))) [tag])
    .next (s.jobs.foldl (fatalJob tag) s)
  else .next s

/-! ## Side logs (R176) -/

/-- The log entries ahead of one. -/
def logsAhead (s : State) (l : LogEnt) : List LogEnt := s.logs.takeWhile fun m => m.e.uid != l.e.uid
/-- Whether a logged entry is free to be replayed: its fault is resolved, and it is the oldest of its stream for its page, and for any
SO page if it is to one. -/
def logFree (s : State) (l : LogEnt) : Bool :=
  l.e.wait.isNone &&
  !((logsAhead s l).any fun m => m.e.same l.e && (m.e.addr / 2 ^ 21 == l.e.addr / 2 ^ 21 || (entryClass s m.e == 0 && entryClass s l.e == 0)))
/-- Whether a logged entry may be replayed now; births of one region are retried in log order (R176, R180). -/
def replayable (s : State) (l : LogEnt) : Bool :=
  logFree s l && !(l.exhausted.isSome && (logsAhead s l).any fun m => m.exhausted == l.exhausted && logFree s m && linked s m.e)

def State.logWait (s : State) (l : LogEnt) (w : Nat) (exh : Option Nat) : State :=
  { s with logs := s.logs.map fun m => if m.e.uid == l.e.uid then { m with e := { m.e with wait := some w }, exhausted := exh } else m }
def freeLog (s : State) (l : LogEnt) : State := freeLogs s fun m => m.e.uid == l.e.uid
/-- A replay that fails for good ends as R176 gives. -/
def logFail (s : State) (l : LogEnt) (code : Nat) : State :=
  (freeLogs s fun m => m.e.same l.e && m.e.addr / 2 ^ 21 == l.e.addr / 2 ^ 21).deferOwn l.e code (BitVec.ofNat 64 l.e.addr)

/-- A replay from an entry with an uncorrectable word leaves its bytes poisoned (R255, notes/assumptions/69.md). -/
def logTaint (lost : Bool) (s : State) (l : LogEnt) : State :=
  let s := eccClean s (logKey l.e.r.core l.e.uid) 80
  match (if lost then peekKey s l.e.cid l.e.addr else none) with
  | some k => homePoisonAt s l.e.who k (List.range l.e.n)
  | none => s
/-- R176: the replay of a logged entry at its home. -/
def execSideLogReplay (core uid : Nat) (s : State) : Out :=
  match s.logs.find? (fun l => l.e.uid == uid && l.e.r.core == core) with
  | none => .next s
  | some l =>
    if !replayable s l || !linked s l.e then .next s
    else
      let e := l.e
      let miss (m : Miss) (s : State) : Out :=
        match m with
        | .prot => .next (logFail s l cPROT)
        | .link => .next s
        | .fault a r rg =>
          match raiseFault s e.cid a r (rg.kind 1) with
          | (some w, s) => .next (s.logWait l w none)
          | (none, s) => .next (logFail s l cXLATE)
        | .exhausted ln => .next ((s.logWait l (lineWait ln) (some ln)).deferOwn e cEXALLOC (BitVec.ofNat 64 e.addr))
        | .hole d p => .fault (.physHole d p)
      let s := eccRead s (logKey core uid) 80
      let lost := badWord s (logKey core uid) 80
      match e.acc with
      | .store bs =>
        match gWrite e.who e.addr bs s with
        | .ok _ s => .next (logTaint lost (freeLog (viewWrite (ordered s e) e.r.core e.cid e.addr bs (e.who.stager s).isSome) l) l)
        | .error m s => miss m s
      | .amo op w64 v ev _ =>
        let new (old : List Byte) : Option (List Byte) := (amoBytes op w64 old v ev).1
        match gAmo e.who e.addr e.n new s with
        | .ok (old, bad) s =>
          if bad then .next ((freeLog s l).deferOwn e cPOISON (BitVec.ofNat 64 e.addr))
          else
            let s := match new old with | some bs => viewWrite s e.r.core e.cid e.addr bs false | none => s
            .next (logTaint lost (freeLog (ordered s e) l) l)
        | .error m s => miss m s
      | _ => .next (freeLog s l)

/-- R180: a write to the line of a region's descriptor retries the births that wait on it. -/
def execBirthRetry (cid die reg : Nat) (s : State) : Out :=
  let c := ctxEntry s die cid
  match structKey cid die (die * 2 ^ 45 + bits c 128 45 + 64 * reg) .rd s with
  | .ok k _ =>
    if s.dirty.contains (k / 256) then
      .next (clearWait { s with dirty := s.dirty.filter (· != k / 256) } (lineWait (k / 256)))
    else .next s
  | .error _ _ => .next s

/-! ## Invalidations (R164, R170) -/

/-- R170: a TLBCMD write of the PF starts an invalidation; of a VF it is ignored. -/
def execTlbcmdWrite (fn : Nat) (v : W64) (s : State) : Out :=
  let n := v.toNat
  if fn = 0 && bits n 45 3 < 4 then
    .next { s with invals := s.invals ++ [⟨bits n 45 3, bits n 48 12, if v.getLsbD 63 then none else some (bits n 21 27)⟩] }
  else .next s

/-- R170: the oldest invalidation completes. -/
def execTlbInvalidateDone (s : State) : Out :=
  match s.invals with
  | i :: is => .next (invalidate { s with invals := is } i.die i.cid i.page)
  | [] => .next s

/-! ## Layouts and kills (R157, R164, R252 to R254) -/

/-- R164: a pending KCFG value takes effect once no task is resident on the eight; an export reads zero when KCID changes. -/
def execKcfgApply (eight : Nat) (s : State) : Out :=
  let v := tget 0 s.kcfgNew eight
  let busy := s.tasks.any fun e => e.1 / 4 / 8 == eight && e.2.live
  if v = 0 || busy then .next s
  else
    let v' := v &&& 0x8FFF_000F
    let old := kcfgOf s eight
    let s := { s with kcfg := tput 0 s.kcfg eight v', kcfgNew := tput 0 s.kcfgNew eight 0 }
    if bits old.toNat 16 12 = bits v'.toNat 16 12 then .next s
    else .next ((List.range 8).foldl (fun s i => zeroKeys s (coreKey (8 * eight + i) (2 ^ 22 - exportBytes s eight)) (exportBytes s eight)) s)

/-- R254: a CTXKILL write of the PF with GO set kills the context with KILLHOST. -/
def execCtxkillWrite (fn : Nat) (v : W64) (s : State) : Out :=
  let cid := bits v.toNat 0 12
  if fn ≠ 0 || !v.getLsbD 15 || !([0, 1, 2, 3].any fun d => ctxValid s d cid) then .next s
  else if s.kills.length > 16 then .next { s with killDrop := true }
  else .next (kill s cid 0x10)

/-- Whether a task is resident or waits. -/
def State.hasTask (s : State) (tid : Nat) : Bool := (s.tasks.any fun e => e.2.tid == tid) || s.jobs.any fun j => j.t.tid == tid

/-- R253 steps 5 and 6: the drain ends, its records are reported, its CID keeps nothing in the device, and the next drain begins, or what
waited for the last one goes on (R20, R38, R40). -/
def execKillDrainEnd (s : State) : Out :=
  match s.kills with
  | [] => .next s
  | k :: ks =>
    let s := k.recs.foldl (fun s r => s.report r.1 r.2) s
    let s := { s with
      kills := ks
      arms := s.arms.filter fun a => a.cid != k.cid
      events := s.events.filter fun e => e.cid != k.cid
      wrote := s.wrote.filter (· != k.cid)
      hidden := s.hidden.filter fun h => s.hasTask h.tid
      books := s.books.filter fun b => b.1 % 8192 / 2 != k.cid
      bookSt := s.bookSt.filter fun b => b.1 % 8192 / 2 != k.cid }
    .next (afterDrains (killStart s))

end Sys2Proof.Machine
end

