-- ==== Sys2Proof/Machine/Access.lean ====
section
/-! DEFINITION. The access engine: stream registers, copies, gathers and scatters, gates and handles, scans, thresholds, change-mask
lists, reorder rings and queues (R198 to R211, R357 to R371). -/

namespace Sys2Proof.Machine

/-! ## Stream registers (R198) -/

def sField (v : BitVec 512) (lo w : Nat) : Nat := (v.extractLsb' lo w).toNat
def sPut {w : Nat} (v : BitVec 512) (lo : Nat) (x : BitVec w) : BitVec 512 :=
  (v &&& ~~~((BitVec.allOnes w).zeroExtend 512 <<< lo)) ||| (x.zeroExtend 512 <<< lo)
def sBase (v : BitVec 512) : Nat := sField v 0 48
def sSp (v : BitVec 512) : Nat := sField v 48 3
def sHdl (v : BitVec 512) : R5 := v.extractLsb' 58 5
/-- Row length in bytes; BLEN 0 counts as 256 units. -/
def sBlen (v : BitVec 512) : Nat := let b := sField v 72 8; 8 * (if b = 0 then 256 else b)
def sSize (v : BitVec 512) (k : Nat) : Nat := sField v (144 + 64 * k) 16
/-- A dimension's size, unused dimensions counting 1 (R361). -/
def sDim (v : BitVec 512) (k : Nat) : Nat := max (sSize v k) 1
def sStride (v : BitVec 512) (k : Nat) : Int := (v.extractLsb' (160 + 64 * k) 48).toInt

/-- The space a code names (R277); 5 to 7 name none. -/
def codeSpace (n : Nat) : Option Space :=
  match n with
  | 0 => some .g
  | 1 => some .c
  | 2 => some .k
  | 3 => some .d
  | 4 => some .l
  | _ => none

/-- An address formed from a base and a signed displacement, modulo 2^64. -/
def at64 (base : Nat) (d : Int) : Nat := (BitVec.ofInt 64 (base + d)).toNat

/-- A set of a stream register (R357): its other fields are read and stay (R255), but for a set of all of them. -/
def setS (g : Guard) (us : List R5) (i : BitVec 4) (bad : State → Option W64) (f : State → BitVec 512 → BitVec 512) (s : State)
    (rd : List (BitVec 4) := [i]) : Out :=
  issue64 s g ⟨us, [], [], us⟩ fun s => readSregs s rd fun s =>
    match bad s with
    | some v => .trap cILLOP v
    | none => .go (s.addEff (.setS i (f s (s.sreg i))))

/-- R357 sets.base. -/
def execSetsBase (g : Guard) (i : BitVec 4) (a b : R5) (s : State) : Out :=
  setS g [a, b] i
    (fun s => if (s.x a).extractLsb' 48 16 ≠ 0 then some (s.x a) else if (s.x b).extractLsb' 3 61 ≠ 0 then some (s.x b) else none)
    (fun s v => sPut (sPut v 0 ((s.x a).extractLsb' 0 48)) 48 ((s.x b).extractLsb' 0 3)) s
/-- R357 sets.dim. -/
def execSetsDim (g : Guard) (i : BitVec 4) (a b : R5) (s : State) : Out :=
  setS g [a, b] i
    (fun s => if (s.x a).extractLsb' 18 46 ≠ 0 then some (s.x a)
      else if s.x b ≠ ((s.x b).extractLsb' 0 48).signExtend 64 then some (s.x b) else none)
    (fun s v =>
      let k := bits (s.x a).toNat 16 2
      sPut (sPut v (144 + 64 * k) ((s.x a).extractLsb' 0 16)) (160 + 64 * k) ((s.x b).extractLsb' 0 48)) s
/-- R357 sets.fmt. -/
def execSetsFmt (g : Guard) (ty : Ty) (i : BitVec 4) (a : R5) (s : State) : Out :=
  setS g [a] i
    (fun s => if bits (s.x a).toNat 0 7 > 64 || (s.x a).getLsbD 7 || (s.x a).extractLsb' 16 48 != 0 then some (s.x a) else none)
    (fun s v => sPut (sPut (sPut v 51 ty.code) 64 ((s.x a).extractLsb' 0 7)) 72 ((s.x a).extractLsb' 8 8)) s
/-- R357 sets.scl. -/
def execSetsScl (g : Guard) (i : BitVec 4) (a b : R5) (s : State) : Out :=
  setS g [a, b] i (fun _ => none) (fun s v => sPut (sPut v 80 ((s.x a).extractLsb' 0 48)) 128 ((s.x b).extractLsb' 0 16)) s
/-- R357 sets.xp. -/
def execSetsXp (g : Guard) (i : BitVec 4) (xp : BitVec 2) (s : State) : Out :=
  setS g [] i (fun _ => none) (fun _ v => sPut v 56 xp) s
/-- R357 sets.mc. -/
def execSetsMc (g : Guard) (i : BitVec 4) (a : R5) (s : State) : Out :=
  setS g [a] i
    (fun s =>
      let ts := bits (s.x a).toNat 0 4
      if (s.x a).getLsbD 11 && (ts = 0 || ts > 8 || bits (s.x a).toNat 4 3 > 6) then some (s.x a) else none)
    (fun s v => sPut (sPut (sPut (sPut v 401 ((s.x a).extractLsb' 0 4)) 405 ((s.x a).extractLsb' 4 3)) 408 ((s.x a).extractLsb' 8 3))
      400 ((s.x a).extractLsb' 11 1)) s
/-- R357 sets.hdl. -/
def execSetsHdl (g : Guard) (i : BitVec 4) (h : R5) (s : State) : Out :=
  setS g [] i (fun _ => none) (fun _ v => sPut (sPut v 58 h) 63 (1#1)) s
/-- R357 sets.clr. -/
def execSetsClr (g : Guard) (i : BitVec 4) (s : State) : Out := setS g [] i (fun _ => none) (fun _ _ => 0) s []

/-- R358 gets: the word is chosen by x[b][3:0] alone (DEDUCED, LOG 92). -/
def execGets (g : Guard) (a : R5) (i : BitVec 4) (h b : R5) (s : State) : Out :=
  issue64 s g ⟨[a, b], [], [], [b]⟩ fun s => readSregs s (if bits (s.x b).toNat 0 4 < 8 then [i] else []) fun s =>
    let w := bits (s.x b).toNat 0 4
    if w < 8 then .go (s.setX a ((s.sreg i).extractLsb' (64 * w) 64))
    else if w < 10 then .go (s.setX a ((s.hreg h).extractLsb' (64 * (w - 8)) 64))
    else .trap cILLOP (s.x b)

/-! ## Commands and their handles (R201, R202) -/

/-- Pieces of a command's range, as address, length and position: cut at 4 KiB of the address, and at the boundaries of 16 KiB of the
copy, where it may be split (R359). -/
def spanPieces (a n pos : Nat) : List (Nat × Nat × Nat) :=
  (cutPages a n).flatMap fun p =>
    let q := pos + (p.1 - a)
    let k := 2 ^ 14 - q % 2 ^ 14
    if k < p.2 then [(p.1, k, q), (p.1 + k, p.2 - k, q + k)] else [(p.1, p.2, q)]
/-- Accesses of a command over a range: its bytes from a position on. -/
def spanEntries (s : State) (path : Nat) (sp : Space) (a n pos : Nat) (acc : Nat → Acc) : List Entry :=
  (spanPieces a n pos).map fun p => mkEntry s path .weak .core sp 0 p.1 p.2.1 (acc p.2.2)
/-- Reads or writes of the first n bytes of a handle's buffer. -/
def bufEntries (s : State) (path : Nat) (h : R5) (n : Nat) (acc : Nat → Acc) : List Entry :=
  match hSpace (s.hreg h) with
  | some sp => spanEntries s path sp (hBase (s.hreg h)) n 0 acc
  | none => []

/-- The trap of a handle whose buffer is too short, has no space, or lies outside it (R201, R202, R349). -/
def handleTrap (s : State) (h : R5) (n : Nat) : Option (Nat × W64) :=
  match hSpace (s.hreg h) with
  | none => some (cPROT, h.zeroExtend 64)
  | some sp => if n > hLen (s.hreg h) then some (cPROT, h.zeroExtend 64) else checkAddr s s.cur s.my.cid sp (hBase (s.hreg h)) n false

/-- A producer issues when its handle is FREE. -/
def produce (s : State) (h : R5) (c : Cmd) : Res :=
  if s.my.hst h = 0 then .go (s.addEff (.cmd { c with prod := some h })) else .hold .handle (s.modMe fun st => { st with waitH := 0 })
/-- A consumer issues when its handle is FULL, which acquires (R195). -/
def consume (s : State) (h : R5) (c : Cmd) : Res :=
  if s.my.hst h = 2 then .go ((s.acquire .package).addEff (.cmd { c with cons := [h] }))
  else .hold .handle (s.modMe fun st => { st with waitH := h.toNat + 1 })

/-- The core a command's gate stands on: the named core for a destination in .k, else the issuing core (R206). -/
def gateHome (s : State) (sp : Space) (a : Nat) : Nat :=
  match sp with
  | .k => 8 * eightOf s.cur.core + a / 2 ^ 21 % 8
  | .g | .c | .d | .l => s.cur.core
def bufHome (s : State) (h : R5) : Nat :=
  match hSpace (s.hreg h) with | some sp => gateHome s sp (hBase (s.hreg h)) | none => s.cur.core

/-! ## Copies (R359 to R361) -/

/-- Elements of a layout. -/
def layoutN (v : BitVec 512) : Nat := sDim v 0 * sDim v 1 * sDim v 2 * sDim v 3
/-- The displacement of the element at a buffer position. -/
def layoutOff (v : BitVec 512) (p : Nat) : Int :=
  let z0 := sDim v 0
  let z1 := sDim v 1
  let z2 := sDim v 2
  (p % z0 : Nat) * sStride v 0 + (p / z0 % z1 : Nat) * sStride v 1 + (p / (z0 * z1) % z2 : Nat) * sStride v 2 +
    (p / (z0 * z1 * z2) : Nat) * sStride v 3
/-- The least and greatest byte addresses of a layout. -/
def layoutEnds (v : BitVec 512) : Nat × Nat :=
  let lo := ([0, 1, 2, 3].map fun k => min 0 ((sDim v k - 1 : Nat) * sStride v k)).sum
  let hi := ([0, 1, 2, 3].map fun k => max 0 ((sDim v k - 1 : Nat) * sStride v k)).sum
  (at64 (sBase v) lo, at64 (sBase v) (hi + sBlen v - 1))

/-- The die field of an address in a space. -/
def dieField (sp : Space) (a : Nat) : Nat :=
  match sp with
  | .g => a / 2 ^ 45
  | .d => a / 2 ^ 25
  | .c | .k | .l => 0

/-- Step 2 of R361: the lowest, then the highest address; ends on different dies. Each end is judged by the peer window it lies in
(notes/assumptions/100.md). -/
def endsTrap (s : State) (sp : Space) (lo hi : Nat) (peer : Bool) : Option (Nat × W64) :=
  match checkAddr s s.cur s.my.cid sp lo 1 peer with
  | some t => some t
  | none =>
    match checkAddr s s.cur s.my.cid sp hi 1 peer with
    | some t => some t
    | none => if dieField sp lo ≠ dieField sp hi then some (cPROT, BitVec.ofNat 64 hi) else none

/-- Accesses of every element of a layout. -/
def layoutEntries (s : State) (path : Nat) (sp : Space) (v : BitVec 512) (acc : Nat → Acc) : List Entry :=
  (List.range (layoutN v)).flatMap fun p => spanEntries s path sp (at64 (sBase v) (layoutOff v p)) (sBlen v) (p * sBlen v) acc

/-- A copy between a stream register's layout and a handle. -/
def copyLayout (inward : Bool) (g : Guard) (i : BitVec 4) (h : R5) (sgr : BitVec 2) (gate : BitVec 6) (s : State) : Out :=
  issue64 s g ⟨[], [], [], []⟩ fun s => readSregs s [i] fun s =>
    let v := s.sreg i
    let ends := layoutEnds v
    let n := layoutN v * sBlen v
    if sgr = 1 then .trap cILLOP (s.headWord.zeroExtend 64)
    else
      match (if sSp v ≥ 4 then none else codeSpace (sSp v)) with
      | none => .trap cILLOP (i.zeroExtend 64)
      | some sp =>
        match (endsTrap s sp ends.1 ends.2 true).orElse fun _ => handleTrap s h n with
        | some (c, e) => .trap c e
        | none =>
          let c := { newCmd s .copy with s1 := v, sgr := sgr, gate := gate.toNat }
          if inward then
            produce s h { c with
              gateCore := bufHome s h
              ents := layoutEntries s 2 sp v (.cread 0) ++ bufEntries s 2 h n (.cwrite 0) }
          else
            consume s h { c with
              gateCore := gateHome s sp (sBase v)
              ents := bufEntries s 2 h n (.cread 0) ++ layoutEntries s 2 sp v (.cwrite 0) }

/-- R360 copyin. -/
def execCopyin (g : Guard) (i : BitVec 4) (h : R5) (sgr : BitVec 2) (gate : BitVec 6) (_xp : BitVec 2) (s : State) : Out :=
  copyLayout true g i h sgr gate s
/-- R360 copyout. -/
def execCopyout (g : Guard) (i : BitVec 4) (h : R5) (sgr : BitVec 2) (gate : BitVec 6) (s : State) : Out :=
  copyLayout false g i h sgr gate s

/-- A copy between x[b] bytes at x[a] and a handle. -/
def copyLin (inward : Bool) (sp : Space) (g : Guard) (a h b : R5) (sgr : BitVec 2) (gate : BitVec 6) (s : State) : Out :=
  issue64 s g ⟨[a, b], [], [], [a, b]⟩ fun s =>
    let n := (s.x b).toNat
    let ad := (s.x a).toNat
    if sgr = 1 then .trap cILLOP (s.headWord.zeroExtend 64)
    else if n = 0 || n % 64 ≠ 0 then .trap cALIGN (s.x b)
    else if ad % 64 ≠ 0 then .trap cALIGN (s.x a)
    else
      match (endsTrap s sp ad (s.x a + s.x b - 1).toNat true).orElse fun _ => handleTrap s h n with
      | some (c, e) => .trap c e
      | none =>
        let c := { newCmd s .copy with xs := [], sgr := sgr, gate := gate.toNat }
        if inward then
          produce s h { c with gateCore := bufHome s h, ents := spanEntries s 2 sp ad n 0 (.cread 0) ++ bufEntries s 2 h n (.cwrite 0) }
        else
          consume s h { c with
            gateCore := gateHome s sp ad
            ents := bufEntries s 2 h n (.cread 0) ++ spanEntries s 2 sp ad n 0 (.cwrite 0) }

/-- R360 copyk. -/
def execCopyk (g : Guard) (a h b : R5) (sgr : BitVec 2) (gate : BitVec 6) (s : State) : Out := copyLin false .k g a h b sgr gate s
/-- R360 copyd. -/
def execCopyd (g : Guard) (a h b : R5) (sgr : BitVec 2) (gate : BitVec 6) (s : State) : Out := copyLin false .d g a h b sgr gate s
/-- R360 copylin. -/
def execCopylin (g : Guard) (a h b : R5) (sgr : BitVec 2) (gate : BitVec 6) (_xp : BitVec 2) (s : State) : Out :=
  copyLin true .g g a h b sgr gate s

/-! ## Gathers and scatters (R207 to R209, R362) -/

/-- The space check of a table register: ILLOP for 5 to 7, PROT for any but .g. -/
def tableTrap (v : BitVec 512) (i : BitVec 4) : Option (Nat × W64) :=
  if sSp v ≥ 5 then some (cILLOP, i.zeroExtend 64) else if sSp v ≠ 0 then some (cPROT, i.zeroExtend 64) else none

/-- A store of the stream not yet performed that touches local bytes an instruction reads at issue. -/
def pendingStore (s : State) (sp : Space) (a n : Nat) : Bool :=
  let k := localKey s s.cur sp 0 a
  s.mine.any fun e => e.acc.isWrite && e.sp != .g && (let f := localKey s e.r e.sp e.lane e.addr; f < k + n && k < f + e.n)

/-- Local bytes read at issue, with the block's own stores (R127). -/
def readLocal (s : State) (sp : Space) (a n : Nat) : List Byte := patch (s.read (localKey s s.cur sp 0 a) n) (overlay s sp 0 a n)

/-- The index list as 32-bit numbers. -/
def indexList (s : State) (sp : Space) (a n : Nat) : List Nat :=
  (List.range n).map fun i => leNat (((readLocal s sp a (4 * n)).drop (4 * i)).take 4)

/-- The address of a table row. -/
def rowAddr (v : BitVec 512) (idx : Nat) : Nat := at64 (sBase v) (idx * sStride v 1)

/-- Element-wise adds: a read-modify-write of its own for every element (R208, R362). -/
def addEntries (s : State) (a n pos : Nat) (ty : Ty) : List Entry :=
  (List.range (n / 4)).map fun i => mkEntry s 3 .weak .core .g 0 (a + 4 * i) 4 (.cadd 0 (pos + 4 * i) ty)

/-- What a table command does with each row. -/
inductive RowOp where
  | fetch
  | send
  | add (ty : Ty)

/-- gath, scat and scatadd. -/
def tableCmd (op : RowOp) (g : Guard) (a : R5) (i : BitVec 4) (h b : R5) (gate : BitVec 6) (s : State) : Out :=
  issue64 s g ⟨[a, b], [], [], [a, b]⟩ fun s => readSregs s [i] fun s =>
    let v := s.sreg i
    let rowB := sSize v 0
    let n := (s.x b).toNat
    let la := (s.x a).toNat
    match tableTrap v i with
    | some (c, e) => .trap c e
    | none =>
      if rowB % 4 ≠ 0 || rowB < 4 || rowB > 4096 then .trap cPROT (i.zeroExtend 64)
      else if n = 0 || n > 256 then .trap cPROT (s.x b)
      else if la % 4 ≠ 0 then .trap cALIGN (s.x a)
      else
        match checkAddr s s.cur s.my.cid .c la (4 * n) false with
        | some (c, e) => .trap c e
        | none =>
          if pendingStore s .c la (4 * n) then .hold .memory s
          else
          let s := eccRead s (localKey s s.cur .c 0 la) (4 * n)
          if homePoison s (localKey s s.cur .c 0 la) (4 * n) then .stop (soften s s.cur cPOISON (s.x a) false)
          else
            let idx := indexList s .c la n
            let good := (List.range n).filter fun k => idx.getD k 0 < sSize v 1
            let rows := good.map fun k => (k, rowAddr v (idx.getD k 0))
            match (rows.findSome? fun r => checkAddr s s.cur s.my.cid .g r.2 rowB false).orElse fun _ => handleTrap s h (n * rowB) with
            | some (c, e) => .trap c e
            | none =>
              let c := { newCmd s .copy with
                s1 := v, idx := idx.map (BitVec.ofNat 32), gate := gate.toNat
                xs := [BitVec.ofNat 64 (n - good.length), h.zeroExtend 64] }
              match op with
              | .fetch =>
                produce s h { c with
                  gateCore := bufHome s h
                  ents := (rows.flatMap fun r => spanEntries s 3 .g r.2 rowB (r.1 * rowB) (.cread 0)) ++
                    bufEntries s 3 h (n * rowB) (.cwrite 0) }
              | .send =>
                consume s h { c with ents := bufEntries s 3 h (n * rowB) (.cread 0) ++
                  (rows.flatMap fun r => spanEntries s 3 .g r.2 rowB (r.1 * rowB) (.cwrite 0)) }
              | .add ty =>
                consume s h { c with ents := bufEntries s 3 h (n * rowB) (.cread 0) ++
                  (rows.flatMap fun r => addEntries s r.2 rowB (r.1 * rowB) ty) }

/-- R207 gath. -/
def execGath (g : Guard) (a : R5) (i : BitVec 4) (h b : R5) (gate : BitVec 6) (_xp : BitVec 2) (s : State) : Out :=
  tableCmd .fetch g a i h b gate s
/-- R208 scat. -/
def execScat (g : Guard) (a : R5) (i : BitVec 4) (h b : R5) (gate : BitVec 6) (_xp : BitVec 2) (s : State) : Out :=
  tableCmd .send g a i h b gate s
/-- R208 scatadd; a TY that has no adds traps ILLOP. -/
def execScatadd (g : Guard) (ty : Ty) (a : R5) (i : BitVec 4) (h b : R5) (gate : BitVec 6) (_xp : BitVec 2) (s : State) : Out :=
  if ty == .f32 || ty == .s32 || ty == .n32 then tableCmd (.add ty) g a i h b gate s
  else issue64 s g ⟨[a, b], [], [], [a, b]⟩ fun s => .trap cILLOP (s.headWord.zeroExtend 64)

/-- The activation row and column of each element of a tile with its halo (R209). -/
def tileCoords (v : BitVec 512) (e : W64) : List (Int × Int) :=
  let te := (16 * sField v 401 4) / 2 ^ sField v 405 3
  let hal : Int := sField v 408 3
  let n := te + 2 * sField v 408 3
  let moved := bits e.toNat 16 2 ≠ 0
  let oy : Int := if moved then (e.extractLsb' 48 16).toInt else 0
  let ox : Int := if moved then (e.extractLsb' 32 16).toInt else 0
  (List.range (n * n)).map fun p =>
    ((bits e.toNat 0 8 * te : Nat) - hal + (p / n : Nat) + oy, (bits e.toNat 8 8 * te : Nat) - hal + (p % n : Nat) + ox)

/-- R209 gathmc. -/
def execGathmc (g : Guard) (i : BitVec 4) (h b : R5) (gate : BitVec 6) (_xp : BitVec 2) (s : State) : Out :=
  issue64 s g ⟨[b], [], [], [b]⟩ fun s => readSregs s [i] fun s =>
    let v := s.sreg i
    let e := s.x b
    let act := bits e.toNat 16 2
    if sSp v ≥ 5 || !v.getLsbD 400 then .trap cILLOP (i.zeroExtend 64)
    else
      match tableTrap v i with
      | some (c, w) => .trap c w
      | none =>
        if (act ≠ 0 && act ≠ 2) || bits e.toNat 22 2 ≠ 0 then .trap cILLOP e
        else
          let sz := sBlen v
          let cs := tileCoords v e
          let inside (c : Int × Int) : Bool := decide (0 ≤ c.1 ∧ c.1 < sSize v 1 ∧ 0 ≤ c.2 ∧ c.2 < sSize v 0)
          let good := (List.range cs.length).filterMap fun p =>
            let c := cs.getD p (0, 0)
            if inside c then some (p, at64 (sBase v) (c.1 * sStride v 1 + c.2 * sStride v 0)) else none
          match (good.findSome? fun r => checkAddr s s.cur s.my.cid .g r.2 sz false).orElse fun _ => handleTrap s h (cs.length * sz) with
          | some (c, w) => .trap c w
          | none =>
            produce s h { newCmd s .copy with
              s1 := v, gate := gate.toNat, gateCore := bufHome s h
              ents := (good.flatMap fun r => spanEntries s 3 .g r.2 sz (r.1 * sz) (.cread 0)) ++
                bufEntries s 3 h (cs.length * sz) (.cwrite 0) }

/-! ## Gates and handles (R363, R364) -/

/-- A gate as the stream's block will leave it. -/
def gateView (s : State) (k : Nat) : Gate :=
  s.effs.foldl (fun x e => match e with
    | .gexp j p n => if j = k then x.expect p n else x
    | .ginit j m => if j = k then x.init m else x
    | _ => x) (s.my.gate k)

/-- R363, R205 gexp. -/
def execGexp (g : Guard) (a b : R5) (gate : BitVec 6) (s : State) : Out :=
  issue64 s g ⟨[a, b], [], [], [a, b]⟩ fun s =>
    let p := (s.x a).toNat
    let n := (s.x b).toNat
    if p > 7 then .trap cILLOP (s.x a)
    else if n > 65535 then .trap cILLOP (s.x b)
    else if (gateView s gate.toNat).cnt p + n > 65535 then .trap cGATEOVF (gate.zeroExtend 64)
    else .go (s.addEff (.gexp gate.toNat p n))
/-- The count of a producer at a gate of a slot, less what garrs before this one are about to arrive there. -/
def gateDue (s : State) (core slot gate p : Nat) : Int :=
  let own := if core = s.cur.core && slot = s.cur.slot then gateView s gate else (s.task core slot).gate gate
  let n : Acc → Nat
    | .garr c g q n => if c = core && g = gate && q = p then n else 0
    | _ => 0
  let out := ((s.paths.filter fun e => e.r.core == s.cur.core && gateOwner s e.r core == some slot).map fun e => n e.acc).sum
  own.cnt p - (out + (s.effs.map fun | .entry e => n e.acc | _ => 0).sum : Nat)
/-- R363, R206 garr. -/
def execGarr (g : Guard) (a b : R5) (gate : BitVec 6) (s : State) : Out :=
  issue64 s g ⟨[a, b], [], [], [a, b]⟩ fun s =>
    let c := (s.x a).toNat
    let n := (s.x b).toNat
    let core := 8 * eightOf s.cur.core + c
    let p := inEight s.cur.core
    if c > 7 then .trap cILLOP (s.x a)
    else if n = 0 || n > 65535 then .trap cILLOP (s.x b)
    else
      let low := match (if core = s.cur.core then some s.cur.slot else gateSlot s core s.my.cid (bits s.view.c.dom.toNat 36 4)) with
        | some sl => decide (gateDue s core sl gate.toNat p - n < -65536)
        | none => false
      if low then .trap cGATEOVF (gate.zeroExtend 64)
      else .go (s.addEff (.entry (sigEntry s (.garr core gate.toNat p n))))
/-- A gate or handle wait of the open block has passed (R118, R151). -/
def State.passed (s : State) : State := s.modBlk fun b => { b with taken := b.taken ++ [.passed] }

/-- R363, R205 gwait. -/
def execGwait (g : Guard) (a : R5) (gate : BitVec 6) (s : State) : Out :=
  issue64 s g ⟨[a], [], [], [a]⟩ fun s =>
    if (s.my.gate gate.toNat).ph == (s.x a).getLsbD 0 then .hold .gate s else .go (s.acquire .package).passed
/-- R363, R205 ginit. -/
def execGinit (g : Guard) (a : R5) (gate : BitVec 6) (s : State) : Out :=
  issue64 s g ⟨[a], [], [], [a]⟩ fun s =>
    if (s.x a).toNat > 255 then .trap cILLOP (s.x a) else .go (s.addEff (.ginit gate.toNat ((s.x a).extractLsb' 0 8)))
/-- R363, R202 hwait. -/
def execHwait (g : Guard) (h a : R5) (s : State) : Out :=
  issue64 s g ⟨[a], [], [], [a]⟩ fun s =>
    let v := (s.x a).toNat
    if v > 3 then .trap cILLOP (s.x a)
    else if s.my.hst h = v then .go (if v = 2 then s.acquire .package else s).passed
    else .hold .handle (s.modMe fun st => { st with waitH := if v = 2 then h.toNat + 1 else 0 })
/-- R364 hset. -/
def execHset (g : Guard) (h a b : R5) (s : State) : Out :=
  issue64 s g ⟨[a, b], [], [], [a, b]⟩ fun s =>
    if bits (s.x a).toNat 0 6 ≠ 0 then .trap cALIGN (s.x a)
    else if (s.x a).extractLsb' 27 37 ≠ 0 then .trap cILLOP (s.x a)
    else if bits (s.x b).toNat 0 6 ≠ 0 || bits (s.x b).toNat 24 8 ≠ 0 || bits (s.x b).toNat 35 29 ≠ 0 then .trap cILLOP (s.x b)
    else if s.my.hst h ≠ 0 then .hold .handle (s.modMe fun st => { st with waitH := 0 })
    else .go (s.addEff (.hset h ((s.x a).extractLsb' 0 27) ((s.x b).extractLsb' 0 24) ((s.x b).extractLsb' 32 3)))
/-- R363, R202 hfree. -/
def execHfree (g : Guard) (h : R5) (s : State) : Out := issue64 s g ⟨[], [], [], []⟩ fun s => .go (s.addEff (.hfree h))

/-! ## Scans, thresholds and dropped magnitude (R365, R366) -/

/-- Element types a scan accepts. -/
def scanTy (t : Ty) : Bool := t != .e2m1 && t != .e3m5 && t != .s64 && t != .n64

/-- Positions of a scan's output: its reads stand below them. -/
def scanPos : Nat := 2 ^ 24

/-- R365 nzscan; its type is the stream register's TY, a code above 14 naming none. -/
def execNzscan (g : Guard) (i : BitVec 4) (h b : R5) (s : State) : Out :=
  issue64 s g ⟨[b], [], [], [b]⟩ fun s => readSregs s [i] fun s =>
    let v := s.sreg i
    let n := (s.x b).toNat
    let bad : Res := .trap cILLOP (i.zeroExtend 64)
    match (if sSp v = 1 || sSp v = 2 then codeSpace (sSp v) else none), typeOf (v.extractLsb' 51 5) with
    | some sp, .ok ty =>
      if !scanTy ty then bad
      else if n > 65536 then .trap cILLOP (s.x b)
      else
        let sz := ty.bits / 8
        let st : Int := if sStride v 0 = 0 then sz else sStride v 0
        let lo := at64 (sBase v) (min 0 ((n - 1 : Nat) * st))
        let hi := at64 (sBase v) (max 0 ((n - 1 : Nat) * st) + sz - 1)
        match (if n = 0 then none else endsTrap s sp lo hi false).orElse fun _ => handleTrap s h (4 * (n + 1)) with
        | some (c, e) => .trap c e
        | none =>
          produce s h { newCmd s (.scan ty n (bits (s.csr 0x008).toNat 0 6)) with
            s1 := v
            ents := ((List.range n).flatMap fun k : Nat => spanEntries s 2 sp (at64 (sBase v) ((k : Nat) * st)) sz (k * sz) (.cread 0)) ++
              bufEntries s 2 h (4 * (n + 1)) (fun p => .cwrite 0 (scanPos + p)) }
    | _, _ => bad

/-- R366 thrset. -/
def execThrset (g : Guard) (a b : R5) (s : State) : Out :=
  issue64 s g ⟨[a, b], [], [], [a, b]⟩ fun s =>
    if (s.x a).toNat > 63 then .trap cILLOP (s.x a)
    else if (s.x b).extractLsb' 32 32 ≠ 0 then .trap cILLOP (s.x b)
    else .go ((s.addEff (.csr (0x100 + (s.x a).toNat) (s.x b))).addEff (.csr 0x008 (s.x a)))
/-- R366 dmrd. -/
def execDmrd (g : Guard) (a b : R5) (s : State) : Out :=
  issue64 s g ⟨[a, b], [], [], [b]⟩ fun s => .go (s.setX a (s.csr (0x140 + bits (s.x b).toNat 0 6)))

/-- The scan itself: the indices kept, and what was dropped. -/
def scanRun (ty : Ty) (thr : W32) (get : Nat → Nat) (n : Nat) : List Nat × Nat :=
  (List.range n).foldl (fun acc i =>
    let (z, d) := countsZero ty thr (get i)
    if z then (acc.1, min (acc.2 + d) (2 ^ 64 - 1)) else (acc.1 ++ [i], acc.2)) ([], 0)

/-! ## Change-mask lists (R367) -/

/-- A read on the copy path that returns before commit. -/
def listRead (k : BitVec 2) (n : Nat) (g : Guard) (a b : R5) (s : State) : Out :=
  issue64 s g ⟨[a, b], [], [], [b]⟩ fun s =>
    match formAddr s .g (s.x b) 0 n with
    | .error (c, v) => .trap c v
    | .ok ad => .go (s.load 2 .weak .core .g 0 ad n (.tl k a))

/-- R367 tlget. -/
def execTlget (g : Guard) (a b : R5) (s : State) : Out := listRead 0 8 g a b s
/-- R367 tlstat. -/
def execTlstat (g : Guard) (a b : R5) (s : State) : Out := listRead 1 64 g a b s
/-- R367 tlack. -/
def execTlack (g : Guard) (a b : R5) (s : State) : Out := listRead 2 64 g a b s

/-! ## Reorder rings (R210, R211, R368, R369) -/

/-- What a ring operation gives. -/
inductive RingOut where
  | ok (v : W64) (s : State)
  | err
  | wait

/-- A ring's header and the place of its slots. -/
structure Ring where
  r : Ref
  sp : Space
  rb : Nat
  h : Nat
def Ring.ns (g : Ring) : Nat := 2 ^ bits g.h 97 4
def Ring.mapB (g : Ring) : Nat := 64 * ((g.ns + 511) / 512)
def Ring.tkt (g : Ring) : Nat := bits g.h 0 32
def Ring.head (g : Ring) : Nat := bits g.h 32 32
def Ring.close (g : Ring) : Nat := bits g.h 64 32
def Ring.cl (g : Ring) : Bool := g.h.testBit 96
def Ring.disc (g : Ring) : Nat := bits g.h 128 32
def Ring.slot (g : Ring) (k : Nat) : Nat := g.rb + 64 + g.mapB + 64 * k
def Ring.bytes (g : Ring) : Nat := if bits g.h 97 4 ≥ 13 then 64 else 64 + g.mapB + 64 * g.ns
def Ring.key (g : Ring) (s : State) (a : Nat) : Nat := localKey s g.r g.sp 0 a
def Ring.full (g : Ring) (s : State) (k : Nat) : Bool := (s.readN (g.key s (g.rb + 64 + k / 8)) 1).testBit (k % 8)
def Ring.put (g : Ring) (s : State) (a : Nat) (bs : List Byte) : State := plainWrite s none (g.key s a) bs
def Ring.mark (g : Ring) (s : State) (k : Nat) (on : Bool) : State :=
  let b := s.readN (g.key s (g.rb + 64 + k / 8)) 1
  let b' := if b.testBit (k % 8) == on then b else if on then b + 2 ^ (k % 8) else b - 2 ^ (k % 8)
  g.put s (g.rb + 64 + k / 8) (toBytes 1 b')
def ringAt (s : State) (r : Ref) (sp : Space) (rb : Nat) : Ring := ⟨r, sp, rb, s.readN (localKey s r sp 0 rb) 64⟩
/-- "t ≥ u" of tickets. -/
def tktGe (t u : Nat) : Bool := (t + 2 ^ 32 - u) % 2 ^ 32 < 2 ^ 31

/-- rngtk of R211. -/
def ringTake (g : Ring) (s : State) : RingOut := .ok (BitVec.ofNat 64 g.tkt) (g.put s g.rb (toBytes 4 (g.tkt + 1)))
/-- rngput of R211. -/
def ringPut (g : Ring) (t : Nat) (data : List Byte) (s : State) : RingOut :=
  let k := t % g.ns
  if g.cl && tktGe t g.close then .ok 1 (g.put s (g.rb + 16) (toBytes 4 (min (g.disc + 1) 0xFFFF_FFFF)))
  else if !tktGe t g.head then .err
  else if (t + 2 ^ 32 - g.head) % 2 ^ 32 ≥ g.ns then .wait
  else if g.full s k then .err
  else .ok 0 (g.mark (g.put s (g.slot k) data) k true)
/-- rngget of R211; the slot's bytes go to a place of .c. -/
def ringGet (g : Ring) (c : Nat) (s : State) : RingOut :=
  let k := g.head % g.ns
  if g.cl && g.head == g.close then .ok (BitVec.ofNat 64 (2 ^ 63 + g.close)) s
  else if !g.full s k then .wait
  else
    let d := s.read (g.key s (g.slot k)) 64
    let s := g.put (g.mark s k false) (g.rb + 4) (toBytes 4 (g.head + 1))
    .ok (BitVec.ofNat 64 g.head) (plainWrite s none (localKey s g.r .c 0 c) d)
/-- rngeos of R211. -/
def ringEos (g : Ring) (t : Nat) (s : State) : RingOut :=
  if g.cl || !tktGe t g.head then .err
  else
    let out := (List.range g.ns).filter fun i => g.full s ((g.head + i) % g.ns) && tktGe (g.head + i) t
    let s := out.foldl (fun s i => g.mark s ((g.head + i) % g.ns) false) s
    let s := g.put s (g.rb + 16) (toBytes 4 (min (g.disc + out.length) 0xFFFF_FFFF))
    .ok 0 (g.put s (g.rb + 8) (toBytes 5 (t + 2 ^ 32 * (bits g.h 96 8 / 2 * 2 + 1))))

/-- A block that holds a ring instruction and exits without waits only (R369). -/
def ringAlone (s : State) : Bool :=
  match s.blk with
  | some b =>
    b.counted.length == 1 && ((b.words.drop 2).all fun w => w.extractLsb' 21 6 == 2 && !w.getLsbD 31 && !w.getLsbD 30)
  | none => false

/-- The fields of an exit word: predicate, kind, displacement, and the word itself (R272). -/
def exitOf (w : W32) : R5 × BitVec 2 × BitVec 14 × W32 := (w.extractLsb' 16 5, w.extractLsb' 14 2, w.extractLsb' 0 14, w)
/-- How many exits of a ring instruction's block are true as it is about to perform (R369). -/
def ringExits (s : State) : Nat :=
  match s.blk with
  | some b => (trueExits s.me { b with exits := (b.words.drop 2).map exitOf }).length
  | none => 0

/-- The exits that end a block, issued in order. -/
def runExits : Nat → State → State
  | 0, s => s
  | n + 1, s =>
    let w := s.headWord
    let s := s.modBlk fun b => { b with exits := b.exits ++ [exitOf w] }
    runExits n (s.tokens (w.extractLsb' 28 4)).next

/-- The space of a ring (R368). -/
def ringSpace (c : BitVec 3) : Option Space := if c = 2 then some .k else if c = 3 then some .d else none

/-- The places of a ring, and their lengths, that rngput, rngget and rngeos read beside its header: those that the steps of R211 come to. -/
def Ring.mapAt (g : Ring) (k : Nat) : Nat × Nat := (g.rb + 64 + k / 8, 1)
def putReads (t : Nat) (g : Ring) (_ : State) : List (Nat × Nat) :=
  if (g.cl && tktGe t g.close) || !tktGe t g.head || (t + 2 ^ 32 - g.head) % 2 ^ 32 ≥ g.ns then [] else [g.mapAt (t % g.ns)]
def getReads (g : Ring) (s : State) : List (Nat × Nat) :=
  let k := g.head % g.ns
  if g.cl && g.head == g.close then [] else g.mapAt k :: if g.full s k then [(g.slot k, 64)] else []
def eosReads (t : Nat) (g : Ring) (_ : State) : List (Nat × Nat) :=
  if g.cl || !tktGe t g.head then [] else [(g.rb + 64, (g.ns + 7) / 8)]

/-- A ring operation: its checks, its exits, its wait for older entries, then one step in which it is performed and its block commits (R369). -/
def ringIns (g : Guard) (us : List R5) (sp3 : BitVec 3) (d a : R5) (t : State → Nat) (slot : Option Nat) (rel acq : Bool)
    (reads : Ring → State → List (Nat × Nat)) (op : Ring → State → RingOut) (s : State) : Out :=
  issue64 s g ⟨d :: us, [], [], us⟩ fun s =>
    let rb := (s.x a).toNat
    if !ringAlone s then .trap cILLOP (s.headWord.zeroExtend 64)
    else
      match ringSpace sp3 with
      | none => .trap cPROT (s.x a)
      | some sp =>
        if rb % 64 ≠ 0 then .trap cALIGN (s.x a)
        else
          match checkAddr s s.cur s.my.cid sp rb 64 false with
          | some (c, v) => .trap c v
          | none =>
            let r := ringAt (claimPart s sp s.my.cid rb 64) s.cur sp rb
            let c := slot.getD 0
            match (if slot.isSome then checkAddr s s.cur s.my.cid .c c 64 false else none).orElse fun _ =>
                checkAddr s s.cur s.my.cid sp (rb + r.bytes - 1) 1 false with
            | some (c, v) => .trap c v
            | none =>
              let sc : Scope := if sp = .k then .eight else if rb / 2 ^ 25 = dieOf s.cur.core then .die else .package
              let ord : Order := if rel then .release else if acq then .acquire else .strong
              let e := { mkEntry s 1 ord sc sp 0 rb r.bytes (.amo .add true 0 0 0) with uid := s.uid }
              let exits : Block → Block := fun b => { b with exits := (b.words.drop 2).map exitOf }
              let s := match s.blk with | some b => readExits s s.cur (exits b) | none => s
              if s.blk.any fun b => exitsBad s s.cur (exits b) then .stop (poisonedReg s)
              else if ringExits s ≠ 1 then .trap cEXITERR (BitVec.ofNat 64 (ringExits s))
              else if !eligible { s with paths := s.paths ++ [e] } e then .hold .memory s
              else
              let s := atBank s e
              let src := (r.key s rb, 64) :: ((if bits r.h 97 4 ≥ 13 then [] else reads r s).map fun x => (r.key s x.1, x.2)) ++
                (if slot.isSome && rel then [(localKey s s.cur .c 0 c, 64)] else [])
              let s := src.foldl (fun s x => eccRead s x.1 x.2) s
              if src.any fun x => homePoison s x.1 x.2 then
                .stop (soften s s.cur cPOISON (s.x a) false)
              else if bits r.h 97 4 ≥ 13 then .trap cRINGERR (BitVec.ofNat 64 (t s))
              else
                let s' := e.who.harden s
                match op r s' with
                | .err => .trap cRINGERR (BitVec.ofNat 64 (t s))
                | .wait => .hold .token s
                | .ok v s' =>
                  let s' := if acq then s'.acquire sc else s'
                  let n := match s.blk with | some b => b.words.length - 2 | none => 0
                  let s' := runExits n ((s'.setX d v).tokens g.sync).next
                  match s'.blk with
                  | none => .hold .memory s
                  | some b =>
                    match exitTrap s'.my s.cur.eng b with
                    | some (c, v) => .trap c v
                    | none =>
                      let z := commitBlock s' s.cur
                      match z.blk with
                      | some _ => .hold z.me.hold s
                      | none => .stop z

/-- R369 rngtk. -/
def execRngtk (g : Guard) (sp3 : BitVec 3) (d a : R5) (s : State) : Out :=
  ringIns g [a] sp3 d a (fun _ => 0) none false false (fun _ _ => []) ringTake s
/-- R369 rngput: a release. -/
def execRngput (g : Guard) (sp3 : BitVec 3) (d a b : R5) (n : BitVec 14) (s : State) : Out :=
  ringIns g [a, b] sp3 d a (fun s => bits (s.x b).toNat 0 32) (some (64 * n.toNat)) true false
    (putReads (bits (s.x b).toNat 0 32)) (fun r s' => ringPut r (bits (s'.x b).toNat 0 32) (s'.read (localKey s' s'.cur .c 0 (64 * n.toNat)) 64) s') s
/-- R369 rngget: an acquire. -/
def execRngget (g : Guard) (sp3 : BitVec 3) (d a : R5) (n : BitVec 14) (s : State) : Out :=
  ringIns g [a] sp3 d a (fun _ => 0) (some (64 * n.toNat)) false true getReads (fun r s' => ringGet r (64 * n.toNat) s') s
/-- R369 rngeos. -/
def execRngeos (g : Guard) (sp3 : BitVec 3) (a b : R5) (s : State) : Out :=
  ringIns g [a, b] sp3 0 a (fun s => bits (s.x b).toNat 0 32) none false false (eosReads (bits (s.x b).toNat 0 32))
    (fun r s' => ringEos r (bits (s'.x b).toNat 0 32) s') s
/-- R368, R369 rngstat: a strong load at the ring's home. -/
def execRngstat (g : Guard) (sp3 : BitVec 3) (d a : R5) (s : State) : Out :=
  issue64 s g ⟨[d, a], [], [], [a]⟩ fun s =>
    match ringSpace sp3 with
    | none => .trap cPROT (s.x a)
    | some sp =>
      match formAddr s sp (s.x a) 0 64 with
      | .error (c, v) => .trap c v
      | .ok ad => .go (s.load 1 .strong .core sp 0 ad 16 (.ring d))

/-! ## Queues between engines (R370, R371) -/

def queueAt (t : Task) (q : R5) : List W64 := if h : q.toNat < 8 then t.q[q.toNat] else []

/-- R370 qpush. -/
def execQpush (g : Guard) (a q : R5) (s : State) : Out :=
  issue64 s g ⟨[a], [], [], [a]⟩ fun s => .go (s.addEff (.entry (sigEntry s (.qpush q.toNat (s.x a)))))

/-- The head entry of a queue is taken, to be given back by a discard; an acquire (R371). -/
def State.popQueue (s : State) (q : R5) (v : W64) : State :=
  ((s.modMy fun t => if h : q.toNat < 8 then { t with q := t.q.set q.toNat (t.q[q.toNat].tail) } else t).modBlk fun b =>
    { b with taken := b.taken ++ [.queue q.toNat v] }).acquire .core

/-- R370 qpop. -/
def execQpop (g : Guard) (d q : R5) (s : State) : Out :=
  issue64 s g ⟨[d], [], [], []⟩ fun s =>
    match queueAt s.my q with
    | [] => .hold .token s
    | v :: _ => .go ((s.popQueue q v).setX d v)
/-- R370 qpeek. -/
def execQpeek (g : Guard) (d q : R5) (s : State) : Out :=
  issue64 s g ⟨[d], [], [], []⟩ fun s =>
    match queueAt s.my q with
    | [] => .hold .token s
    | v :: _ => .go (s.setX d v)
/-- R370 qpopp. -/
def execQpopp (g : Guard) (d q : R5) (s : State) : Out :=
  issue64 s g ⟨[], [d], [], []⟩ fun s =>
    match queueAt s.my q with
    | [] => .hold .token s
    | v :: _ => readPreds s [] [d] fun s => .go ((s.popQueue q v).setP d v)

end Sys2Proof.Machine
end

