-- ==== Sys2Proof/Machine/Matrix.lean ====
section
/-! DEFINITION. Shell commands, the lease, B regions, accumulators and the epilogue: what M's instructions check at issue and what their
commands do when they run (R234 to R242, R394 to R414). -/

namespace Sys2Proof.Machine

/-! ## Accumulators as the stream sees them (R394, R399) -/

def Task.accu (t : Task) (a : BitVec 3) : Accu := t.acc.get a.toFin
def Task.setAccu (t : Task) (a : BitVec 3) (x : Accu) : Task := { t with acc := t.acc.set a.toFin x }

/-- The accumulators a command names. -/
def CmdOp.accs : CmdOp → List (BitVec 3)
  | .mma _ _ a _ _ | .mzero a _ | .mrd a | .mwr a _ => [a]
  | .maccd a b => [a, b]
  | .epi fn a b _ _ => if fn = 5 || fn = 6 then [a, b] else [a]
  | .mark _ | .copy | .scan _ _ _ | .list _ _ _ _ _ _ _ | .mldb _ _ _ | .mrel | .swb | .swbAcc _ _ _ => []

/-- ATY and OTY of the accumulators after a queued command. -/
def accStep (vs : List (Ty × Ty)) : CmdOp → List (Ty × Ty)
  | .mzero a ty | .mwr a ty => vs.set a.toNat (ty, ty)
  | .maccd a b => vs.set a.toNat (vs.getD b.toNat (.f32, .f32))
  | .epi fn a _ ty _ =>
    if fn = 7 then vs.set a.toNat (if ty == .f32 then (.f32, .f32) else ((vs.getD a.toNat (.f32, .f32)).1, ty)) else vs
  | .mark _ | .copy | .scan _ _ _ | .list _ _ _ _ _ _ _ | .mma _ _ _ _ _ | .mldb _ _ _ | .mrel | .mrd _ | .swb | .swbAcc _ _ _ => vs

/-- Commands of the stream's queue and of its open block, in order. -/
def State.cmds (s : State) : List CmdOp := s.me.cq.map (·.op) ++ s.effs.filterMap fun | .cmd c => some c.op | _ => none

/-- ATY and OTY as the M stream sees them at issue. -/
def accView (s : State) (a : BitVec 3) : Ty × Ty :=
  (s.cmds.foldl accStep (s.my.acc.toList.map fun x => (x.aty, x.oty))).getD a.toNat (.f32, .f32)

/-! ## Checks at issue (R399) -/

/-- Check 1: the space, the bound handle, the type and MCV of a stream register. -/
def regTrap (s : State) (i : BitVec 4) (inPlace : Bool) (ty : Option Ty) : Option (Nat × W64) :=
  let v := s.sreg i
  let sp := sSp v
  if sp > 3 || (inPlace && sp != 1 && sp != 2) || ((sp == 0 || sp == 3) && !v.getLsbD 63) || v.getLsbD 400 ||
    (match ty with | some t => v.extractLsb' 51 5 != t.code | none => false) then some (cILLOP, i.zeroExtend 64)
  else none

/-- Check 2 failing. -/
def accTrap (bad : Bool) (a : BitVec 3) : Option (Nat × W64) := if bad then some (cILLOP, a.zeroExtend 64) else none

def sStrideN (v : BitVec 512) (k : Nat) : Nat := sField v (160 + 64 * k) 48
def sScb (v : BitVec 512) : Nat := sField v 80 48
def sScs (v : BitVec 512) : Nat := sField v 128 16

/-- Block scales of a line of one operand block: K / 8 for e2m1, none for other types. -/
def scalesOf (ty : Ty) : Nat := if ty == .e2m1 then 32 else 0
/-- Bytes of n scales a line with the band scale. -/
def scaleBytes (n : Nat) : Nat := if n = 0 then 0 else (64 * n + 2 + 63) / 64 * 64

/-- Check 3 for an operand: BASE and the strides that must be multiples of 64, and the scales of e2m1 (R234). -/
def operandTrap (s : State) (i : BitVec 4) (st2 : Bool) (nsc : Nat) : Option (Nat × W64) :=
  let v := s.sreg i
  if sBase v % 64 ≠ 0 || sStrideN v 1 % 64 ≠ 0 || (st2 && sStrideN v 2 % 64 ≠ 0) ||
    (nsc ≠ 0 && (sScb v % 2 ≠ 0 || sScs v < 64 * nsc + 2)) then some (cALIGN, i.zeroExtend 64)
  else none

/-- Whether an operand is fetched through its handle (R200). -/
def fetched (v : BitVec 512) : Bool := sSp v == 0 || sSp v == 3

/-- Check 4: the handle of a fetched operand. -/
def imageTrap (s : State) (i : BitVec 4) (n : Nat) : Option (Nat × W64) :=
  if fetched (s.sreg i) then handleTrap s (sHdl (s.sreg i)) n else none

/-- Check 5 (R119, R400): the lease is held; lost at a cap, the command waits; otherwise LEASEERR. -/
def leaseCheck (s : State) : Option Res :=
  let sh := shellAt s s.cur.core
  if sh.holder = some s.cur.core then none
  else if sh.reqs.contains s.cur.core || sh.reqs.contains (96 + s.cur.core) then some (.hold .lease s)
  else some (.trap cLEASEERR 0)

/-- The first failing check of a list. -/
def firstTrap (cs : List (Option (Nat × W64))) : Option (Nat × W64) := cs.findSome? id

/-- The checks of R155 and R31 on the bytes of memory that a command names, after all those of R399 (notes/assumptions/103.md). -/
def entsTrap (s : State) (es : List Entry) : Option (Nat × W64) :=
  es.findSome? fun e => checkAddr s s.cur s.my.cid e.sp e.addr e.n false

/-- The body of an M command: its checks in order, then its command, through the handle of a fetched operand. -/
def issueM (cs : List (Option (Nat × W64))) (lease : Bool) (v : Option (BitVec 512)) (c : Cmd) (s : State) : Res :=
  match firstTrap cs with
  | some (code, ev) => .trap code ev
  | none =>
    match (if lease then leaseCheck s else none) with
    | some r => r
    | none =>
      match entsTrap s c.ents with
      | some (code, ev) => .trap code ev
      | none =>
        match v with
        | some v => if fetched v then produce s (sHdl v) c else .go (s.addEff (.cmd c))
        | none => .go (s.addEff (.cmd c))

/-! ## Operand entries (R396, R397, R405) -/

/-- Places in a command's bytes: operand block j stands from j × 2^14, two blocks to a K-step; its scales follow its 8 KiB. -/
def blockPos (j : Nat) : Nat := j * 2 ^ 14
def operandSpace (v : BitVec 512) : Space := (codeSpace (sSp v)).getD .c

/-- Rows of a block that are not zero. -/
def sRows (v : BitVec 512) : Nat := let b := sField v 64 7; if b = 0 then 64 else min b 64

/-- Reads of rows of block k, each row m at place i of its block, with the scales of line i. -/
def rowReads (s : State) (v : BitVec 512) (ty : Ty) (k j : Nat) (rows : List (Nat × Nat)) : List Entry :=
  let sp := operandSpace v
  let n := scalesOf ty
  let scb := (sScb v : Int) + k * sScs v
  (rows.flatMap fun r =>
    spanEntries s 4 sp (at64 (sBase v) (r.2 * sStride v 1 + k * sStride v 2)) 128 (blockPos j + r.1 * 128) (.cread 0)) ++
  (if n = 0 then [] else
    (rows.flatMap fun r => spanEntries s 4 sp (at64 0 (scb + r.2 * n)) n (blockPos j + 8192 + r.1 * n) (.cread 0)) ++
    spanEntries s 4 sp (at64 0 (scb + 64 * n)) 2 (blockPos j + 8192 + 64 * n) (.cread 0))

/-- Writes of operand images into a handle's buffer, one after another, from block j0 of the command's bytes on. -/
def imageWrites (s : State) (v : BitVec 512) (len j0 blocks : Nat) : List Entry :=
  if fetched v then
    match hSpace (s.hreg (sHdl v)) with
    | some sp => (List.range blocks).flatMap fun j => spanEntries s 4 sp (hBase (s.hreg (sHdl v)) + j * len) len (blockPos (j0 + j)) (.cwrite 0)
    | none => []
  else []

def imageLen (ty : Ty) : Nat := 8192 + scaleBytes (scalesOf ty)

/-- The entries of step k of a shell command (R402 to R405). -/
def stepEntries (s : State) (fn : BitVec 2) (ty : Ty) (v : BitVec 512) (idx : List W32) (k : Nat) : List Entry :=
  let rows := (List.range (sRows v)).map fun m => (m, m)
  if fn = 1 then rowReads s v ty 0 0 rows ++ rowReads s v ty 1 1 rows ++ imageWrites s v (imageLen ty) 0 2
  else if fn = 2 then
    let na := if sSize v 1 = 0 then 64 else sSize v 1
    rowReads s v ty 0 0 ((List.range 64).filterMap fun m =>
      let i := (idx.getD m 0).toNat
      if i < na then some (m, i) else none)
  else rowReads s v ty k (2 * k) rows ++ imageWrites s v (imageLen ty) (2 * k) 1

/-! ## MMA at issue (R401 to R405) -/

/-- The accumulator types a shell command accepts (R401). -/
def mmaAccTrap (s : State) (ty : Ty) (acc : BitVec 3) : Option (Nat × W64) :=
  let a := accView s acc
  accTrap (a.1 != a.2 || (a.1 == .s32) != (ty == .s8 || ty == .n8)) acc

/-- A shell command of n steps. -/
def mmaCmd (s : State) (fn : BitVec 2) (ty : Ty) (acc : BitVec 3) (sa : BitVec 4) (breg : BitVec 12) (sgr : BitVec 2) (n : Nat)
    (idx : List W32) : Cmd :=
  { newCmd s (.mma fn ty acc breg.toNat n) with
    s1 := s.sreg sa, idx := idx, sgr := sgr
    ents := (List.range n).flatMap (stepEntries s fn ty (s.sreg sa) idx) }

/-- R402 mma. -/
def execMma (g : Guard) (ty : Ty) (acc : BitVec 3) (sa : BitVec 4) (breg : BitVec 12) (sgr : BitVec 2) (s : State) : Out :=
  issue64 s g ⟨[], [], [], []⟩ fun s => readSregs s [sa] fun s =>
    issueM [regTrap s sa false (some ty), mmaAccTrap s ty acc, operandTrap s sa true (scalesOf ty), imageTrap s sa (imageLen ty)]
      true (some (s.sreg sa)) (mmaCmd s 0 ty acc sa breg sgr 1 []) s
/-- R403 mmas. -/
def execMmas (g : Guard) (ty : Ty) (acc : BitVec 3) (sa : BitVec 4) (breg : BitVec 12) (sgr : BitVec 2) (s : State) : Out :=
  issue64 s g ⟨[], [], [], []⟩ fun s => readSregs s [sa] fun s =>
    issueM [regTrap s sa false (some ty), mmaAccTrap s ty acc, operandTrap s sa true (scalesOf ty), imageTrap s sa (2 * imageLen ty)]
      true (some (s.sreg sa)) (mmaCmd s 1 ty acc sa breg sgr 1 []) s
/-- A row list's alignment (R405). -/
def listAlign (s : State) (i : BitVec 4) : Option (Nat × W64) :=
  if sBase (s.sreg i) % 4 ≠ 0 then some (cALIGN, i.zeroExtend 64) else none
/-- The 256 bytes of a row list, checked as a read of its space. -/
def listTrap64 (s : State) (i : BitVec 4) : Option (Nat × W64) :=
  checkAddr s s.cur s.my.cid (operandSpace (s.sreg i)) (sBase (s.sreg i)) 256 false
def rowList (s : State) (i : BitVec 4) : List W32 :=
  (indexList s (operandSpace (s.sreg i)) (sBase (s.sreg i)) 64).map (BitVec.ofNat 32)
/-- R405 mmag: both lists are read at issue. -/
def execMmag (g : Guard) (ty : Ty) (acc : BitVec 3) (sa : BitVec 4) (breg : BitVec 12) (sgr : BitVec 2) (si so : BitVec 4) (s : State) : Out :=
  issue64 s g ⟨[], [], [], []⟩ fun s => readSregs s [sa, si, so] fun s =>
    let busy (i : BitVec 4) : Bool := pendingStore s (operandSpace (s.sreg i)) (sBase (s.sreg i)) 256
    let bad (s : State) (i : BitVec 4) : Bool := homePoison s (localKey s s.cur (operandSpace (s.sreg i)) 0 (sBase (s.sreg i))) 256
    match firstTrap [regTrap s sa true (some ty), regTrap s si true none, regTrap s so true none, mmaAccTrap s ty acc,
        operandTrap s sa true (scalesOf ty), listAlign s si, listAlign s so] with
    | some (c, e) => .trap c e
    | none =>
      match leaseCheck s with
      | some r => r
      | none =>
        match firstTrap [listTrap64 s si, listTrap64 s so] with
        | some (c, e) => .trap c e
        | none =>
          if busy si || busy so then .hold .memory s
          else
            let s := [si, so].foldl (fun s i => eccRead s (localKey s s.cur (operandSpace (s.sreg i)) 0 (sBase (s.sreg i))) 256) s
            if bad s si || bad s so then
              .stop (soften s s.cur cPOISON (BitVec.ofNat 64 (if bad s si then sBase (s.sreg si) else sBase (s.sreg so))) false)
            else
              let c := mmaCmd s 2 ty acc sa breg sgr 1 (rowList s si ++ rowList s so)
              match entsTrap s c.ents with
              | some (c, e) => .trap c e
              | none => .go (s.addEff (.cmd c))
/-- R404 mmak: si holds the number of the count register. -/
def execMmak (g : Guard) (ty : Ty) (acc : BitVec 3) (sa : BitVec 4) (breg : BitVec 12) (sgr : BitVec 2) (si : BitVec 4) (s : State) : Out :=
  issue64 s g ⟨[si.zeroExtend 5], [], [], [si.zeroExtend 5]⟩ fun s => readSregs s [sa] fun s =>
    let c := s.x (si.zeroExtend 5)
    let n := c.toNat
    let range : Option (Nat × W64) := if n ≠ 0 && breg.toNat + n > 4096 then some (cILLOP, c) else none
    let cap (r : Res) : Res :=
      match leaseCheck s with
      | some (.trap a b) => .trap a b
      | _ => if sgr = 0 && n > 256 then .trap cLEASEERR c else r
    match firstTrap [range, regTrap s sa false (some ty), mmaAccTrap s ty acc, operandTrap s sa true (scalesOf ty),
        imageTrap s sa (imageLen ty)] with
    | some (c, e) => .trap c e
    | none => cap (issueM [] true (if n = 0 then none else some (s.sreg sa)) (mmaCmd s 3 ty acc sa breg sgr n []) s)

/-! ## MCTL at issue (R406 to R411) -/

def isMrel (op : CmdOp) : Bool := match op with | .mrel => true | _ => false
/-- Pending releases of the stream, queued or in its open block, are cancelled (R407); those of the queue stand again if the block is
discarded (R130). -/
def cancelRel (s : State) : State :=
  s.modMe fun st => { st with
    cq := st.cq.filter fun c => !isMrel c.op
    blk := st.blk.map fun b => { b with
      taken := b.taken ++ (st.cq.filter fun c => isMrel c.op).map .rel
      effs := b.effs.filter fun e => match e with | .cmd c => !isMrel c.op | _ => true } }

/-- R407 mlease: at once with the lease held; otherwise the request stands and the instruction holds. -/
def execMlease (g : Guard) (s : State) : Out :=
  issue64 s g ⟨[], [], [], []⟩ fun s =>
    let sh := shellAt s s.cur.core
    if sh.holder = some s.cur.core then .go (cancelRel s)
    else if sh.reqs.contains s.cur.core || sh.reqs.contains (96 + s.cur.core) then .hold .lease s
    else
      let s := { s with pkg := { s.pkg with shellGated := s.pkg.shellGated &&& ~~~(1#12 <<< eightOf s.cur.core) } }
      .hold .lease (s.modShell s.cur.core fun sh => { sh with reqs := sh.reqs ++ [s.cur.core] })
/-- R407 mrel. -/
def execMrel (g : Guard) (s : State) : Out := issue64 s g ⟨[], [], [], []⟩ fun s => .go (s.addEff (.cmd (newCmd s .mrel)))

/-- Metadata bytes of a column (R397). -/
def metaBytes (ty : Ty) (form : Nat) : Nat :=
  let k := 1024 / ty.bits
  if form = 1 then k / 4 else if form = 2 then 3 * k / 8 else 0
/-- Block scales of a column of a B load: twice as many in a sparse form. -/
def loadScales (ty : Ty) (form : Nat) : Nat := if form = 0 then scalesOf ty else 2 * scalesOf ty
/-- The image of a B load: values, metadata, scales. -/
def loadLen (ty : Ty) (form : Nat) : Nat := 64 * (128 + metaBytes ty form) + scaleBytes (loadScales ty form)
/-- Places of the parts of a B load. -/
def scalePos (ty : Ty) (form : Nat) : Nat := 64 * (128 + metaBytes ty form)
def loadEntries (s : State) (v : BitVec 512) (ty : Ty) (form : Nat) : List Entry :=
  let sp := operandSpace v
  let mb := metaBytes ty form
  let n := loadScales ty form
  let cols := List.range 64
  (cols.flatMap fun c : Nat => spanEntries s 4 sp (at64 (sBase v) (c * sStride v 1)) 128 (c * 128) (.cread 0)) ++
  (if mb = 0 then [] else
    cols.flatMap fun c : Nat => spanEntries s 4 sp (at64 (sBase v) (sStride v 2 + c * sStride v 3)) mb (8192 + c * mb) (.cread 0)) ++
  (if n = 0 then [] else spanEntries s 4 sp (sScb v) (64 * n + 2) (scalePos ty form) (.cread 0)) ++
  imageWrites s v (loadLen ty form) 0 1
/-- R408 mldb. -/
def execMldb (g : Guard) (ty : Ty) (sa : BitVec 4) (breg : BitVec 12) (form : BitVec 4) (s : State) : Out :=
  issue64 s g ⟨[], [], [], []⟩ fun s => readSregs s [sa] fun s =>
    let f := form.toNat
    let v := s.sreg sa
    let last : Option (Nat × W64) := if f ≠ 0 && breg = 4095 then some (cILLOP, 4095) else none
    let st3 : Option (Nat × W64) := if sStrideN v 3 % 8 ≠ 0 then some (cALIGN, sa.zeroExtend 64) else none
    issueM [last, regTrap s sa false (some ty), operandTrap s sa true (scalesOf ty), st3, imageTrap s sa (loadLen ty f)] true
      (some v) { newCmd s (.mldb ty breg.toNat f) with s1 := v, ents := loadEntries s v ty f } s
/-- R409 mzero. -/
def execMzero (g : Guard) (ty : Ty) (acc : BitVec 3) (s : State) : Out :=
  issue64 s g ⟨[], [], [], []⟩ fun s => .go (s.addEff (.cmd (newCmd s (.mzero acc ty))))
/-- R409 maccd. -/
def execMaccd (g : Guard) (acc : BitVec 3) (src : BitVec 4) (s : State) : Out :=
  issue64 s g ⟨[], [], [], []⟩ fun s => .go (s.addEff (.cmd (newCmd s (.maccd acc (src.extractLsb' 0 3)))))
/-- The 65 rows of an accumulator in memory (R410). -/
def accEntries (s : State) (v : BitVec 512) (acc : Nat → Acc) : List Entry :=
  (List.range 65).flatMap fun r : Nat => spanEntries s 4 (operandSpace v) (at64 (sBase v) (r * sStride v 1)) 256 (r * 256) acc
/-- R410 mrd. -/
def execMrd (g : Guard) (acc : BitVec 3) (sa : BitVec 4) (s : State) : Out :=
  issue64 s g ⟨[], [], [], []⟩ fun s => readSregs s [sa] fun s =>
    issueM [regTrap s sa true none, operandTrap s sa false 0] false none
      { newCmd s (.mrd acc) with s1 := s.sreg sa, ents := accEntries s (s.sreg sa) (.cwrite 0) } s
/-- R410 mwr. -/
def execMwr (g : Guard) (ty : Ty) (acc : BitVec 3) (sa : BitVec 4) (s : State) : Out :=
  issue64 s g ⟨[], [], [], []⟩ fun s => readSregs s [sa] fun s =>
    issueM [regTrap s sa true none, operandTrap s sa false 0] false none
      { newCmd s (.mwr acc ty) with s1 := s.sreg sa, ents := accEntries s (s.sreg sa) (.cread 0) } s

/-! ## Tiles and verification (R242) -/

/-- The first n words of a table, and back. -/
def tabArr (n : Nat) (t : Tab W32) : Array W32 := t.foldl (fun a e => a.setIfInBounds e.1 e.2) (Array.replicate n 0)
def arrTab (a : Array W32) : Tab W32 := (List.range a.size).filterMap fun i => let w := a.getD i 0; if w = 0 then none else some (i, w)
/-- Column n of a tile. -/
def tileCol (a : Array W32) (n : Nat) : List W32 := (List.range 64).map fun m => a.getD (64 * m + n) 0

/-- An exact number, an infinity or a NaN. -/
inductive Ex where
  | v (i : Int)
  | inf (neg : Bool)
  | nan
deriving DecidableEq, Repr, Inhabited

/-- A value as a multiple of 2^q, which it is. -/
def exOf (q : Int) : Fp → Ex
  | .nan => .nan
  | .inf n => .inf n
  | .fin n m e => .v (if 0 ≤ e - q then sgn n (m * 2 ^ (e - q).toNat) else sgn n (m / 2 ^ (q - e).toNat))
def Ex.add : Ex → Ex → Ex
  | .nan, _ | _, .nan => .nan
  | .inf a, .inf b => if a == b then .inf a else .nan
  | .inf a, .v _ | .v _, .inf a => .inf a
  | .v a, .v b => .v (a + b)
def Ex.mul : Ex → Ex → Ex
  | .nan, _ | _, .nan => .nan
  | .inf a, .inf b => .inf (a != b)
  | .inf a, .v i | .v i, .inf a => if i = 0 then .nan else .inf (a != decide (i < 0))
  | .v a, .v b => .v (a * b)

/-- Whether a float column passes against its checksum word; none where it holds an infinity or a NaN. -/
def colPass (ulp : Ty) (col : List Fp) (chk : W32) : Option Bool :=
  let step (acc : Option (Int × Nat)) (x : Ex) : Option (Int × Nat) :=
    match acc, x with
    | some (a, b), .v i => some (a + i, b + i.natAbs)
    | _, _ => none
  match (col.map (exOf (-149))).foldl step (some (0, 0)), exOf (-149) (fpOf .f32 chk.toNat) with
  | some (a, b), .v k => some (decide ((a - k).natAbs * 2 ^ 16 ≤ b + k.natAbs + 64 * 2 ^ 16 * 2 ^ (ulp.emin - ulp.mbits + 149).toNat))
  | _, _ => none
/-- Whether an integer column is congruent to its checksum word. -/
def intPass (col : List W32) (chk : W32) : Bool := col.foldl (· + ·) 0 == chk

/-- The lowest failing column, and how many columns were not checked. -/
def verdict (rs : List (Option Bool)) : Option Nat × Nat :=
  ((List.range rs.length).find? fun n => rs.getD n none == some false, (rs.filter (·.isNone)).length)
/-- Verification of an accumulator in its ATY. -/
def Accu.verify (a : Accu) : Option Nat × Nat :=
  let c := tabArr 4096 a.c
  let k := tabArr 64 a.chk
  verdict ((List.range 64).map fun n =>
    if a.aty == .s32 then some (intPass (tileCol c n) (k.getD n 0))
    else colPass .f32 ((tileCol c n).map fun w => fpOf .f32 w.toNat) (k.getD n 0))

/-- MSTAT bits (R229). -/
def mWRAP : W64 := 2
def mUNCHECKED : W64 := 4
def mMOVF : W64 := 8
def mMNAN : W64 := 16
def mBANDMIX : W64 := 32
/-- MSTAT bits of a rounding to f32. -/
def mOf (r : Nat × Fl) : W64 :=
  (if r.2 &&& fOF ≠ 0 then mMOVF else 0) ||| (if (fpOf .f32 r.1).isNan then mMNAN else 0)
def Task.orMstat (t : Task) (f : W64) : Task := { t with c := { t.c with mstat := t.c.mstat ||| f } }

/-- A checksum failure of a command or check (R242, R264): SNAPCTL.ONCHK fires the snapshot. -/
def chkFail (s : State) (r : Ref) (ev : Nat) (deferred : Bool) : State :=
  let t := s.task r.core r.slot
  let s := if t.c.snapctl.getLsbD 2 then s.fireSnap 2 t.cid else s
  soften s r cCHKERR (BitVec.ofNat 64 ev) deferred

/-- R411 mchk: at issue, once no earlier command of the stream names its accumulator, in its queue or in its open block. -/
def execMchk (g : Guard) (acc : BitVec 3) (s : State) : Out :=
  issue64 s g ⟨[], [], [], []⟩ fun s =>
    if s.cmds.any fun op => op.accs.contains acc then .hold .queueFull s
    else
      let s := eccRead s (accKey s.cur.core acc.toNat 0) (2 ^ 15)
      if badWord s (accKey s.cur.core acc.toNat 0) (2 ^ 15) then .stop (soften s s.cur cPOISON (BitVec.allOnes 64) false)
      else
      let (bad, un) := (s.my.accu acc).verify
      match bad with
      | some n =>
        let s := if un = 0 then s else s.modMy fun t => t.orMstat mUNCHECKED
        .stop (chkFail s s.cur (n + 64 * acc.toNat) false)
      | none => .go (if un = 0 then s else s.addEff (.csrOr 0x007 mUNCHECKED))

/-! ## MEPI at issue (R412, R413) -/

/-- The check of a step's own tile: not converted, and f32 where the step needs it. -/
def epiAccTrap (s : State) (floatOnly : Bool) (acc : BitVec 3) : Option (Nat × W64) :=
  let a := accView s acc
  accTrap (a.1 != a.2 || (floatOnly && a.1 == .s32)) acc
/-- A step's command. -/
def epiCmd (s : State) (fn acc src : BitVec 3) (ty : Ty) (mode : Nat) (v : BitVec 512) (ents : List Entry) : Cmd :=
  { newCmd s (.epi fn acc src ty mode) with s1 := v, ents := ents }
/-- Reads of a step's operand: one value, or 64. -/
def epiReads (s : State) (v : BitVec 512) (mode : Nat) : List Entry :=
  spanEntries s 4 (operandSpace v) (sBase v) (if mode = 0 then 4 else 256) 0 (.cread 0)

/-- R413 escale. -/
def execEscale (g : Guard) (acc : BitVec 3) (sa : BitVec 4) (mode : BitVec 4) (s : State) : Out :=
  issue64 s g ⟨[], [], [], []⟩ fun s => readSregs s (if mode = 3 then [] else [sa]) fun s =>
    let m := mode.toNat
    issueM [if m = 3 then none else regTrap s sa true none, epiAccTrap s false acc] false none
      (epiCmd s 0 acc 0 .f32 m (s.sreg sa) (if m = 3 then [] else epiReads s (s.sreg sa) m)) s
/-- R413 ebias. -/
def execEbias (g : Guard) (acc : BitVec 3) (sa : BitVec 4) (mode : BitVec 4) (s : State) : Out :=
  issue64 s g ⟨[], [], [], []⟩ fun s => readSregs s [sa] fun s =>
    issueM [regTrap s sa true none, epiAccTrap s false acc] false none
      (epiCmd s 1 acc 0 .f32 mode.toNat (s.sreg sa) (epiReads s (s.sreg sa) mode.toNat)) s
/-- A step on one tile without operand. -/
def epi1 (fn : BitVec 3) (floatOnly : Bool) (g : Guard) (acc : BitVec 3) (s : State) : Out :=
  issue64 s g ⟨[], [], [], []⟩ fun s => issueM [epiAccTrap s floatOnly acc] false none (epiCmd s fn acc 0 .f32 0 0 []) s
/-- R413 erelu. -/
def execErelu (g : Guard) (acc : BitVec 3) (s : State) : Out := epi1 2 false g acc s
/-- R413 esig. -/
def execEsig (g : Guard) (acc : BitVec 3) (s : State) : Out := epi1 3 true g acc s
/-- R413 esilu. -/
def execEsilu (g : Guard) (acc : BitVec 3) (s : State) : Out := epi1 4 true g acc s
/-- A step on two tiles of one type. -/
def epi2 (fn : BitVec 3) (g : Guard) (acc : BitVec 3) (src : BitVec 4) (s : State) : Out :=
  issue64 s g ⟨[], [], [], []⟩ fun s =>
    let b : BitVec 3 := src.extractLsb' 0 3
    let y := accView s b
    issueM [epiAccTrap s false acc, accTrap (y.1 != y.2 || y.1 != (accView s acc).1) acc] false none (epiCmd s fn acc b .f32 0 0 []) s
/-- R413 emul. -/
def execEmul (g : Guard) (acc : BitVec 3) (src : BitVec 4) (s : State) : Out := epi2 5 g acc src s
/-- R413 eadd. -/
def execEadd (g : Guard) (acc : BitVec 3) (src : BitVec 4) (s : State) : Out := epi2 6 g acc src s
/-- The targets of econv. -/
def convOk (aty ty : Ty) : Bool :=
  if aty == .f32 then ty == .f16 || ty == .bf16 || ty == .e4m3 || ty == .e5m2 else ty == .s8 || ty == .n8 || ty == .f32
/-- R413 econv; e4m3 and e5m2 saturate when SAT or FPMODE.SAT8 is 1. -/
def execEconv (g : Guard) (ty : Ty) (acc : BitVec 3) (sat : BitVec 4) (s : State) : Out :=
  issue64 s g ⟨[], [], [], []⟩ fun s =>
    let on := sat.getLsbD 0 || (s.csr 0x005).getLsbD 2
    issueM [epiAccTrap s false acc, accTrap (!convOk (accView s acc).1 ty) acc] false none
      (epiCmd s 7 acc 0 ty (if on then 1 else 0) 0 []) s

/-! ## B regions (R395, R397) -/

def Region.empty : Region := ⟨[], [], 0, 0, 0⟩
/-- A region as a context reads it: another's reads as zero. -/
def bRegion (s : State) (core cid breg : Nat) : Region :=
  let r := tget Region.empty s.regions (eightOf core * 4096 + breg)
  if r.cid = cid then r else Region.empty
/-- The place of a region's bytes, its scale area and its band scale in the store of its eight (notes/assumptions/69.md). -/
def regionKey (core breg : Nat) : Nat := shellKey (eightOf core) (breg * 2 ^ 14)
def scaleOff : Nat := 2 ^ 13
def bandOff : Nat := 2 ^ 13 + 2 ^ 11
/-- Bytes of a region written whole: no error or poison is left in them. -/
def regionWrite (s : State) (k n : Nat) : State :=
  let s := eccWrite s k n
  { s with poison := s.poison.filter fun p => !(wholePieces k n).contains p }
/-- The bytes of the regions that a shell command reads: the values, the scales of e2m1, and for a sparse one the metadata. Another
context's regions read as zero. -/
def regionReads (s : State) (core cid : Nat) (fn : BitVec 2) (ty : Ty) (breg : Nat) : List (Nat × Nat) :=
  let own (b : Nat) : Bool := (tget Region.empty s.regions (eightOf core * 4096 + b)).cid == cid
  let sc (b : Nat) : List (Nat × Nat) := if ty == .e2m1 then [(regionKey core b + scaleOff, 2048)] else []
  (if own breg then (regionKey core breg, 8192) :: sc breg ++ (if ty == .e2m1 then [(regionKey core breg + bandOff, 2)] else []) else []) ++
  (if fn = 1 && own (breg + 1) then (regionKey core (breg + 1), 64 * metaBytes ty (bRegion s core cid breg).form) :: sc (breg + 1) else [])

/-- Bytes of a command as cells from an offset on. -/
def cells (c : Cmd) (pos n off : Nat) : List Host.Cell :=
  (List.range n).filterMap fun i => let b := (cellAt c.buf (pos + i)).getD 0; if b = 0 then none else some (off + i, b)

/-- The regions a B load writes: its values, in a sparse form its metadata in the next region, and for e2m1 the scales. -/
def runMldb (s : State) (r : Ref) (c : Cmd) (ty : Ty) (breg form : Nat) : State :=
  let cid := (s.task r.core r.slot).cid
  let n := loadScales ty form
  let p := scalePos ty form
  let half (k : Nat) : List Host.Cell := (List.range 64).flatMap fun col => cells c (p + col * n + k * 32) 32 (col * 32)
  let put (s : State) (b : Nat) (x : Region) : State := { s with regions := tput Region.empty s.regions (eightOf r.core * 4096 + b) x }
  let s := regionWrite s (regionKey r.core breg) 8192
  let s := if n = 0 then s else regionWrite (regionWrite s (regionKey r.core breg + scaleOff) 2048) (regionKey r.core breg + bandOff) 64
  let s := if form = 0 then s else regionWrite s (regionKey r.core (breg + 1)) (64 * metaBytes ty form)
  let s := if form = 0 || n = 0 then s else regionWrite s (regionKey r.core (breg + 1) + scaleOff) 2048
  let old := bRegion s r.core cid breg
  let band : W32 := BitVec.ofNat 32 (leNat (c.out (p + 64 * n) 2))
  let s1 := put s breg { data := cells c 0 8192 0, scale := if n = 0 then old.scale else half 0
                         band := if n = 0 then old.band else band, cid := cid, form := form }
  if form = 0 then s1
  else
    let old := bRegion s r.core cid (breg + 1)
    put s1 (breg + 1) { data := cells c 8192 (64 * metaBytes ty form) 0, scale := if n = 0 then old.scale else half 1
                        band := old.band, cid := cid, form := form }

/-! ## Sums (R236 to R240, R402 to R405) -/

/-- Least exponent of a type's values, and of the products of a command. -/
def Ty.lsb (t : Ty) : Int := if t.isFloat then t.emin - t.mbits else 0
/-- Elements of a row of n bytes at a place of a command's bytes. -/
def rowElems (ty : Ty) (row : Nat) : List Ex :=
  (List.range (1024 / ty.bits)).map fun k => exOf (Ty.lsb ty) (fpOf ty (bits row (ty.bits * k) ty.bits))
/-- Elements scaled by their blocks of 8. -/
def scaleRow (ty : Ty) (xs : List Ex) (sc : Nat → Nat) : List Ex :=
  if ty == .e2m1 then (List.range xs.length).map fun k => (xs.getD k .nan).mul (exOf (-7) (fpOf .e3m5 (sc (k / 8)))) else xs

/-- Row m of the A operand over `nb` blocks from block j0 of the command's bytes, with its scales. -/
def rowA (c : Cmd) (ty : Ty) (j0 nb m : Nat) : Array Ex :=
  ((List.range nb).map (j0 + ·) |>.flatMap fun j =>
    scaleRow ty (rowElems ty (leNat (c.out (blockPos j + m * 128) 128)))
      fun g => leNat (c.out (blockPos j + 8192 + m * 32 + g) 1)).toArray

/-- Positions of the kept values of a column, from its metadata. -/
def keptPos (form k md : Nat) : List Nat :=
  if form = 2 then (List.range k).map fun f => f / 4 * 8 + bits md (3 * f) 3
  else (List.range k).map fun f => f / 2 * 4 + bits md (2 * f) 2

/-- Column n of the B operand: each value with its logical position and scale. -/
def colB (x y : Region) (ty : Ty) (sparse : Bool) (n : Nat) : List (Nat × Ex) :=
  let read (m : List Host.Cell) (a len : Nat) : Nat := leNat (readKeys m a len)
  let vs := rowElems ty (read x.data (n * 128) 128)
  let k := vs.length
  let mb := if x.form = 2 then 3 * k / 8 else k / 4
  let ps := if !sparse then List.range k else keptPos x.form k (if x.form = 0 then 0 else read y.data (n * mb) mb)
  let sc (p : Nat) : Ex :=
    let g := p / 8
    exOf (-7) (fpOf .e3m5 (if g < 32 then read x.scale (n * 32 + g) 1 else read y.scale (n * 32 + g - 32) 1))
  (List.range k).map fun i =>
    let p := ps.getD i 0
    (p, if ty == .e2m1 then (vs.getD i .nan).mul (sc p) else vs.getD i .nan)

def dot (row : Array Ex) (col : List (Nat × Ex)) : Ex := col.foldl (fun a e => a.add ((row.getD e.1 (.v 0)).mul e.2)) (.v 0)

/-- One word takes a command's sum S × 2^e (R236, R238). -/
def accAdd (aty : Ty) (nbv : BitVec 2) (c : W32) (sum : Ex) (e : Int) : W32 × W64 :=
  if aty == .s32 then
    match sum with
    | .v i =>
      let t := c.toInt + i
      (BitVec.ofInt 32 t, if t < -(2 ^ 31) ∨ 2 ^ 31 ≤ t then mWRAP else 0)
    | .inf _ | .nan => (c, 0)
  else
    match sum with
    | .nan => (0x7FC00000, mMNAN)
    | .inf n => let r := fAdd .f32 0 false (fpOf .f32 c.toNat) (.inf n); (BitVec.ofNat 32 r.1, mOf r)
    | .v i =>
      let x : Fp := .fin (decide (i < 0)) i.natAbs e
      if nbv = 1 then
        let p := convTo .f32 0 false x
        let r := fAdd .f32 0 false (fpOf .f32 c.toNat) (fpOf .f32 p.1)
        (BitVec.ofNat 32 r.1, mOf p ||| mOf r)
      else let r := fAdd .f32 0 false (fpOf .f32 c.toNat) x; (BitVec.ofNat 32 r.1, mOf r)

/-- A row of words takes the sums of one A row. -/
def addRow (aty : Ty) (nbv : BitVec 2) (e : Int) (row : Array Ex) (cols : List (List (Nat × Ex))) (at_ : Nat) (a : Array W32 × W64) :
    Array W32 × W64 :=
  ((List.range 64).zip cols).foldl (fun a nc =>
    let r := accAdd aty nbv (a.1.getD (at_ + nc.1) 0) (dot row nc.2) e
    (a.1.setIfInBounds (at_ + nc.1) r.1, a.2 ||| r.2)) a

/-- A whole command on an accumulator: rows in ascending m onto their targets below 64, then the checksum row (R240, R405). -/
def shellSum (x : Accu) (rows : List (Array Ex × Nat)) (cols : List (List (Nat × Ex))) (e : Int) (nbv : BitVec 2) : Accu × W64 :=
  let land := rows.filter fun r => r.2 < 64
  let c := land.foldl (fun a r => addRow x.aty nbv e r.1 cols (64 * r.2) a) (tabArr 4096 x.c, 0)
  let len := (land.map fun r => r.1.size).foldl max 0
  let colA := ((List.range len).map fun k => land.foldl (fun a r => a.add (r.1.getD k (.v 0))) (.v 0)).toArray
  let k := addRow x.aty nbv e colA cols 0 (tabArr 64 x.chk, c.2)
  ({ x with c := arrTab c.1, chk := arrTab k.1 }, k.2)

/-- The band product of a command (R234). -/
def latchBand (x : Accu) (a b : Nat) : Accu × W64 :=
  let p := BitVec.ofNat 32 (fMul .f32 0 false (fpOf .bf16 a) (fpOf .bf16 b)).1
  ({ x with bp := p, bpl := true }, if x.bpl && p != x.bp then mBANDMIX else 0)

/-- One step of a shell command: step k of mmak, or the whole of another. -/
def runStep (s : State) (r : Ref) (c : Cmd) (fn : BitVec 2) (ty : Ty) (acc : BitVec 3) (breg k : Nat) : State :=
  let t := s.task r.core r.slot
  let sparse := fn = 1
  let x := bRegion s r.core t.cid (breg + k)
  let y := bRegion s r.core t.cid (breg + k + 1)
  let cols := (List.range 64).map (colB x y ty sparse)
  let e : Int := 2 * Ty.lsb ty + (if ty == .e2m1 then -14 else 0)
  let tgt (m : Nat) : Nat := if fn = 2 then (c.idx.getD (64 + m) 0).toNat else m
  let rows := (List.range 64).map fun m => (rowA c ty (2 * k) (if sparse then 2 else 1) m, tgt m)
  let (a, f) := shellSum (t.accu acc) rows cols e c.nbv
  let (a, f2) := if ty == .e2m1 then latchBand a (leNat (c.out (blockPos (2 * k) + 8192 + 64 * 32) 2)) (bits x.band.toNat 0 16) else (a, 0)
  s.setTask r.core r.slot ((t.setAccu acc a).orMstat (f ||| f2))

/-! ## Epilogue steps (R241, R413, R414) -/

/-- Whether a step is nonlinear: it verifies its tiles and recomputes the checksum. -/
def epiNonlinear (fn : BitVec 3) (mode : Nat) : Bool := !(fn = 1 || fn = 6 || (fn = 0 && mode ≠ 2))

/-- The result of a step in f32, as bits with its MSTAT bits. -/
def fRes (r : Nat × Fl) : W32 × W64 := (BitVec.ofNat 32 r.1, mOf r)

/-- One element of an f32 tile; o is the step's operand, w the other tile's element. A NaN of e4m3 that econv gives keeps its sign
(R228). -/
def epiF (fn : BitVec 3) (ty : Ty) (sat : Bool) (v o w : W32) : W32 × W64 :=
  let x := fpOf .f32 v.toNat
  let y (u : W32) : Fp := fpOf .f32 u.toNat
  if fn = 0 then fRes (fMul .f32 0 false x (y o))
  else if fn = 1 then fRes (fAdd .f32 0 false x (y o))
  else if fn = 2 then (if x.isNan then (0x7FC00000, mMNAN) else (if v.getLsbD 31 then 0 else v, 0))
  else if fn = 3 then fRes (fSig .f32 0 false x)
  else if fn = 4 then fRes (fSilu .f32 0 false x)
  else if fn = 5 then fRes (fMul .f32 0 false x (y w))
  else if fn = 6 then fRes (fAdd .f32 0 false x (y w))
  else
    let r := convTo ty 0 sat x
    let b := (convTo .f32 0 false (fpOf ty r.1)).1
    let neg := (fpOf ty r.1).isNan && r.1 / ty.signBit % 2 = 1
    (BitVec.ofNat 32 (if neg then 0xFFC00000 else b), mOf (b, r.2))

/-- One element of an s32 tile. -/
def epiI (fn : BitVec 3) (ty : Ty) (v o w : W32) : W32 × W64 :=
  if fn = 0 then (v * o, 0)
  else if fn = 1 then (v + o, 0)
  else if fn = 2 then (if v.getLsbD 31 then 0 else v, 0)
  else if fn = 5 then (v * w, 0)
  else if fn = 6 then (v + w, 0)
  else if fn = 7 then
    if ty == .f32 then fRes (convTo .f32 0 false (fpOf .s32 v.toNat))
    else (BitVec.ofInt 32 (iVal ty (satInt ty v.toInt false).1), 0)
  else (v, 0)

/-- The checksum word after a linear step. -/
def epiChk (fn : BitVec 3) (float : Bool) (k o w : W32) : W32 × W64 :=
  if float then
    if fn = 1 then fRes (fFma .f32 0 false (.fin false 64 0) (fpOf .f32 o.toNat) (fpOf .f32 k.toNat)) else epiF fn .f32 false k o w
  else if fn = 1 then (k + 64 * o, 0) else epiI fn .s32 k o w

/-- The checksum word recomputed over a column of outputs. -/
def chkAgain (float : Bool) (col : List W32) : W32 × W64 :=
  if float then fRes (reduceTree (fun a b => fAdd .f32 0 false (fpOf .f32 a) (fpOf .f32 b)) 6 (col.map (·.toNat)))
  else (col.foldl (· + ·) 0, 0)

/-- A step on a tile: its elements, then its checksum row. -/
def epiTile (x y : Accu) (fn : BitVec 3) (ty : Ty) (mode : Nat) (o : Nat → W32) : Accu × W64 :=
  let float := x.aty == .f32
  if fn = 0 && mode = 3 && !float then (x, 0)
  else
    let ops : List (W32 × W64) := (List.range 64).map fun i =>
      if fn = 0 && float then
        fRes (fMul .f32 0 false (fpOf .f32 x.bp.toNat) (if mode = 3 then .fin false 1 0 else fpOf .f32 (o (if mode = 0 then 0 else i)).toNat))
      else (o (if mode = 0 then 0 else i), 0)
    let op (i : Nat) : W32 := (ops.getD i (0, 0)).1
    let cx := tabArr 4096 x.c
    let cy := tabArr 4096 y.c
    let rs := (List.range 4096).map fun i =>
      let u := op (if mode = 2 then i / 64 else i % 64)
      if float then epiF fn ty (mode = 1) (cx.getD i 0) u (cy.getD i 0) else epiI fn ty (cx.getD i 0) u (cy.getD i 0)
    let c := (rs.map (·.1)).toArray
    let aty := if fn = 7 && ty == .f32 then .f32 else x.aty
    let kx := tabArr 64 x.chk
    let ky := tabArr 64 y.chk
    let ks := (List.range 64).map fun n =>
      if epiNonlinear fn mode then chkAgain (aty == .f32) (tileCol c n) else epiChk fn float (kx.getD n 0) (op n) (ky.getD n 0)
    let f := ((ops.map (·.2)) ++ (rs.map (·.2)) ++ (ks.map (·.2))).foldl (· ||| ·) 0
    ({ c := arrTab c, chk := arrTab (ks.map (·.1)).toArray, aty := aty, oty := if fn = 7 then ty else x.oty
       bp := if fn = 0 && float then 0x3F800000 else x.bp, bpl := x.bpl || (fn = 0 && float) }, f)

/-- Markers and releases outlast the commands discarded behind a failing step (R129, R414). -/
def outlasts (c : Cmd) : Bool := match c.op with | .mark _ | .mrel => true | _ => false

/-- A failing step: it writes nothing, the commands behind it go, and CHKERR is due. -/
def epiFail (s : State) (r : Ref) (c : Cmd) (ev : Nat) : State :=
  let gone := ((s.stm r).cq.filter fun k => k.id ≥ c.id && !outlasts k).map (·.id)
  chkFail (gone.foldl (fun s id => endCmd s r id) s) r ev true

/-- An epilogue step when it runs: none where it failed and ended its command. -/
def runEpi (s : State) (r : Ref) (c : Cmd) (fn acc src : BitVec 3) (ty : Ty) (mode : Nat) : Bool × State :=
  let t := s.task r.core r.slot
  let x := t.accu acc
  let y := t.accu src
  let tiles := if !epiNonlinear fn mode then [] else if fn = 5 then [(acc, x), (src, y)] else [(acc, x)]
  let vs := tiles.map fun e => (e.1, e.2.verify)
  let un := vs.any fun v => v.2.2 ≠ 0
  let s := if un then s.modTask r.core r.slot fun t => t.orMstat mUNCHECKED else s
  match vs.find? fun v => v.2.1.isSome with
  | some v => (false, epiFail s r c ((v.2.1.getD 0) + 64 * v.1.toNat))
  | none =>
    let o (i : Nat) : W32 := BitVec.ofNat 32 (leNat (c.out (4 * i) 4))
    let (a, f) := epiTile x y fn ty mode o
    (true, s.modTask r.core r.slot fun t => (t.setAccu acc a).orMstat f)

/-! ## Moves of accumulators (R409, R410) -/

/-- What mwr leaves (R410). -/
def accFrom (c : Cmd) (ty : Ty) : Accu :=
  let w (i : Nat) : W32 := BitVec.ofNat 32 (leNat (c.out (4 * i) 4))
  let row (lo n : Nat) : Tab W32 := (List.range n).filterMap fun i => if w (lo + i) = 0 then none else some (i, w (lo + i))
  { c := row 0 4096, chk := row 4096 64, aty := ty, oty := ty, bp := 0x3F800000, bpl := false }
/-- The bytes mrd writes. -/
def accBytes (a : Accu) : List Host.Cell :=
  let ws : Tab W32 := a.c ++ a.chk.map fun e => (4096 + e.1, e.2)
  ws.flatMap fun e => (List.range 4).map fun i => (4 * e.1 + i, BitVec.ofNat 8 (e.2.toNat / 2 ^ (8 * i)))

end Sys2Proof.Machine
end

