-- ==== Sys2Proof/Machine/Store.lean ====
section
/-! DEFINITION. The store engine: tiles converted, verified, pruned and written, and handles written out (R415 to R420, R422). -/

namespace Sys2Proof.Machine

/-- Check 1 of R420. -/
def storeSpace (s : State) (i : BitVec 4) : Option Space := if sSp (s.sreg i) < 4 then codeSpace (sSp (s.sreg i)) else none

/-- R417 swb: as copyout, on the store-engine path. -/
def execSwb (g : Guard) (si : BitVec 4) (h : R5) (sgr : BitVec 2) (gate : BitVec 6) (s : State) : Out :=
  issue64 s g ⟨[], [], [], []⟩ fun s => readSregs s [si] fun s =>
    let v := s.sreg si
    let ends := layoutEnds v
    let n := layoutN v * sBlen v
    match storeSpace s si with
    | none => .trap cILLOP (si.zeroExtend 64)
    | some sp =>
      match (endsTrap s sp ends.1 ends.2 true).orElse fun _ => handleTrap s h n with
      | some (c, e) => .trap c e
      | none => consume s h { newCmd s .swb with
          s1 := v, sgr := sgr, gate := gate.toNat, gateCore := gateHome s sp (sBase v)
          ents := bufEntries s 5 h n (.cread 0) ++ layoutEntries s 5 sp v (.cwrite 0) }

/-! ## Tiles (R416, R418) -/

/-- A TY that a tile may be written in. -/
def storeOk (a : Accu) (ty : Ty) : Bool :=
  if a.oty != a.aty then ty == a.oty
  else if a.aty == .f32 then ty == .f32 || ty == .f16 || ty == .bf16 || ty == .e4m3 || ty == .e5m2
  else ty == .s32 || ty == .s8 || ty == .n8

/-- An element converted as econv converts it, SAT taken as 0: its bits and MSTAT bits. A NaN that econv has given keeps its sign. -/
def storeElem (a : Accu) (ty : Ty) (sat8 : Bool) (w : W32) : Nat × W64 :=
  if a.aty == .s32 then ((satInt ty w.toInt false).1, 0)
  else if ty == .f32 then (w.toNat, 0)
  else if a.oty == ty && ty == .e4m3 && (fpOf .f32 w.toNat).isNan then ((if w.getLsbD 31 then 0xFF else 0x7F), 0)
  else
    let r := convTo ty 0 sat8 (fpOf .f32 w.toNat)
    (r.1, if a.oty == ty then 0 else mOf ((convTo .f32 0 false (fpOf ty r.1)).1, r.2))

/-- The converted tile with its MSTAT bits. -/
def storeTile (a : Accu) (ty : Ty) (sat8 : Bool) : Array Nat × W64 :=
  let rs := (tabArr 4096 a.c).toList.map (storeElem a ty sat8)
  ((rs.map (·.1)).toArray, (rs.map (·.2)).foldl (· ||| ·) 0)

/-- Verification against the values written: an s32 tile before it is narrowed. -/
def storeVerify (a : Accu) (ty : Ty) (v : Array Nat) : Option Nat × Nat :=
  let c := tabArr 4096 a.c
  let k := tabArr 64 a.chk
  verdict ((List.range 64).map fun n =>
    if a.aty == .s32 then some (intPass (tileCol c n) (k.getD n 0))
    else colPass ty ((List.range 64).map fun m => fpOf ty (v.getD (64 * m + n) 0)) (k.getD n 0))

/-- A piece of output: its address, its place in the command's bytes, and the bytes. -/
structure Piece where
  addr : Nat
  pos : Nat
  bytes : List Byte

/-- The rows and columns swbacc writes. -/
def rowPieces (v : BitVec 512) (w : Nat) (t : Array Nat) : List Piece :=
  let cols := if sSize v 0 = 0 then 64 else min (sSize v 0) 64
  (List.range (sRows v)).map fun m : Nat =>
    ⟨at64 (sBase v) (m * sStride v 1), 256 * m, (List.range cols).flatMap fun n => toBytes w (t.getD (64 * m + n) 0)⟩
/-- Rows cut at 64-byte pieces, the pieces whose written bytes are all zero left out, of whichever rows they are (R416 swbz). -/
def nonzeroPieces (ps : List Piece) : List Piece :=
  let cs := ps.flatMap fun p => (cuts 64 (p.bytes.length / 64 + 2) p.addr p.bytes.length).map fun c =>
    (⟨c.1, p.pos + (c.1 - p.addr), (p.bytes.drop (c.1 - p.addr)).take c.2⟩ : Piece)
  let live := ((cs.filter fun c => !c.bytes.all (· == 0)).map fun c => c.addr / 64).dedup
  cs.filter fun c => live.contains (c.addr / 64)

/-- The rank of a value: larger first, NaNs above all (R418). -/
def rankKey (ty : Ty) (b : Nat) : Nat :=
  if ty.isFloat then (if (fpOf ty b).isNan then ty.signBit else b % ty.signBit) else (iVal ty b).natAbs
/-- The kept rows of a group of M values, ascending. -/
def keepRows (ty : Ty) (keep : Nat) (xs : List Nat) : List Nat :=
  (List.range xs.length).filter fun i =>
    let k (j : Nat) : Nat := rankKey ty (xs.getD j 0)
    ((List.range xs.length).filter fun j => k j > k i || (k j == k i && j < i)).length < keep
/-- A column pruned to N:M: its values and its metadata bytes. -/
def pruneCol (ty : Ty) (form : Nat) (col : List Nat) : List Byte × List Byte :=
  let m := if form = 0 then 4 else 8
  let b := if form = 0 then 2 else 3
  let ks := (List.range (64 / m)).map fun g => (keepRows ty (m / 2) ((col.drop (g * m)).take m)).map fun i => (g * m + i, i)
  let kept := ks.flatten
  let md := (kept.foldr (fun e acc => e.2 + 2 ^ b * acc) 0)
  (kept.flatMap fun e => toBytes (ty.bits / 8) (col.getD e.1 0), toBytes (if form = 0 then 8 else 12) md)
/-- The values and metadata of all columns. -/
def nmPieces (v : BitVec 512) (ty : Ty) (form : Nat) (t : Array Nat) : List Piece :=
  let cols := (List.range 64).map fun n => pruneCol ty form ((List.range 64).map fun m => t.getD (64 * m + n) 0)
  ((List.range 64).map fun n : Nat => ⟨at64 (sBase v) (n * sStride v 1), 128 * n, (cols.getD n ([], [])).1⟩) ++
  ((List.range 64).map fun n : Nat => ⟨at64 (sBase v) (sStride v 2 + n * sStride v 3), 2 ^ 14 + 16 * n, (cols.getD n ([], [])).2⟩)

/-- What a store-engine command writes of a tile: its pieces, the MSTAT bits, the failing column and the unchecked ones. -/
def storeOut (fn : BitVec 2) (ty : Ty) (v : BitVec 512) (form : Nat) (sat8 : Bool) (a : Accu) : List Piece × W64 × Option Nat × Nat :=
  let (vals, fl) := storeTile a ty sat8
  (if fn = 2 then nmPieces v ty form vals else rowPieces v (ty.bits / 8) vals, fl, storeVerify a ty vals)
/-- The places of pieces in a command's bytes. -/
def pieceCells (ps : List Piece) : List Host.Cell := ps.flatMap fun p => (List.range p.bytes.length).map fun i => (p.pos + i, p.bytes.getD i 0)
/-- What such a command keeps of a tile, in xs: the failing column plus one, the unchecked columns, the MSTAT bits; then its accumulator,
the form and whether narrow floats saturate. -/
def storeXs (fl : W64) (bad : Option Nat) (un : Nat) (x form : W64) (sat8 : Bool) : List W64 :=
  [match bad with | some n => BitVec.ofNat 64 (n + 1) | none => 0, BitVec.ofNat 64 un, fl, x, form, if sat8 then 1 else 0]
/-- The accumulator is read: what the command writes and finds is that of the tile as it stands (R422, R446). -/
def Cmd.reread (c : Cmd) (fn : BitVec 2) (ty : Ty) (a : Accu) : Cmd :=
  let form := c.xs.getD 4 0
  let sat8 := c.xs.getD 5 0 == 1
  let (rows, fl, bad, un) := storeOut fn ty c.s1 form.toNat sat8 a
  { c with buf := pieceCells rows, xs := storeXs fl bad un (c.xs.getD 3 0) form sat8 }

/-- swbacc, swbz and swbnm: their writes are formed at issue, once no queued M command names the accumulator (R422). -/
def storeAcc (fn : BitVec 2) (g : Guard) (us : List R5) (ty : Ty) (a : R5) (si : BitVec 4) (form : State → W64) (gate : BitVec 6) (s : State) : Out :=
  issue64 s g ⟨us, [], [], us⟩ fun s => readSregs s [si] fun s =>
    let v := s.sreg si
    let w := ty.bits / 8
    let x := s.x a
    let acc : BitVec 3 := x.extractLsb' 0 3
    match storeSpace s si with
    | none => .trap cILLOP (si.zeroExtend 64)
    | some sp =>
      if x.toNat > 7 || !s.my.mtask then .trap cILLOP x
      else if (s.my.stm .m).cq.any fun c => c.op.accs.contains acc then .hold .queueFull s
      else
        let t := s.my.accu acc
        if !storeOk t ty then .trap cILLOP (acc.zeroExtend 64)
        else if fn = 2 && form s > 1 then .trap cILLOP (form s)
        else
          let sat8 := (s.csr 0x005).getLsbD 2
          let (rows, fl, bad, un) := storeOut fn ty v (form s).toNat sat8 t
          match rows.findSome? fun p => checkAddr s s.cur s.my.cid sp p.addr p.bytes.length true with
          | some (c, e) => .trap c e
          | none =>
            if sBase v % w ≠ 0 || sStrideN v 1 % w ≠ 0 || (fn = 2 && (sStrideN v 2 % 4 ≠ 0 || sStrideN v 3 % 4 ≠ 0)) then
              .trap cALIGN (BitVec.ofNat 64 (sBase v))
            else
              let out := if fn = 3 then nonzeroPieces rows else rows
              .go (s.addEff (.cmd { newCmd s (.swbAcc fn acc ty) with
                s1 := v, gate := gate.toNat, gateCore := gateHome s sp (sBase v)
                xs := storeXs fl bad un x (form s) sat8
                buf := pieceCells out
                ents := out.flatMap fun p => spanEntries s 5 sp p.addr p.bytes.length p.pos (.cwrite 0) }))

/-- R416 swbacc. -/
def execSwbacc (g : Guard) (ty : Ty) (a : R5) (si : BitVec 4) (gate : BitVec 6) (s : State) : Out :=
  storeAcc 1 g [a] ty a si (fun _ => 0) gate s
/-- R418 swbnm. -/
def execSwbnm (g : Guard) (ty : Ty) (a : R5) (si : BitVec 4) (b : R5) (gate : BitVec 6) (s : State) : Out :=
  storeAcc 2 g [a, b] ty a si (fun s => s.x b) gate s
/-- R416 swbz. -/
def execSwbz (g : Guard) (ty : Ty) (a : R5) (si : BitVec 4) (gate : BitVec 6) (s : State) : Out :=
  storeAcc 3 g [a] ty a si (fun _ => 0) gate s
/-- R419 sckstat. -/
def execSckstat (g : Guard) (a : R5) (s : State) : Out :=
  issue64 s g ⟨[a], [], [], []⟩ fun s => if s.me.cq.isEmpty then .go (s.setX a s.my.sck) else .hold .queueFull s

/-- What a verified command does when it runs: its bytes and MSTAT, or the failure (R416, R242). -/
def runStore (s : State) (r : Ref) (c : Cmd) : Bool × State :=
  let s := s.modCmd r c.id fun k => { k with buf := c.buf, xs := c.xs }
  let fl := c.xs.getD 2 0 ||| (if c.xs.getD 1 0 = 0 then 0 else mUNCHECKED)
  let s := s.modTask r.core r.slot fun t => t.orMstat fl
  let bad := (c.xs.getD 0 0).toNat
  if bad = 0 then (true, s)
  else (false, chkFail (endCmd s r c.id) r (bad - 1 + 64 * (c.xs.getD 3 0).toNat + 512) true)
/-- SCK after a command that has verified and written (R419). -/
def sckAdd (v : W64) (un : W64) : W64 := ((v.extractLsb' 32 32 + un.extractLsb' 0 32) ++ (v.extractLsb' 0 32 + 1#32) : BitVec 64)

end Sys2Proof.Machine
end

