-- ==== Sys2Proof/Machine/Vector.lean ====
section
/-! DEFINITION. The vector instructions: arithmetic, comparisons, conversions, transcendentals, lane movement, memory, sparse lists,
thresholds and quantisation (R372 to R392). -/

namespace Sys2Proof.Machine

/-! ## Lanes and elements (R372) -/

def laneAt (v : Vector W32 64) (l : Nat) : W32 := if h : l < 64 then v[l] else 0
/-- Whether a lane is active under a mask. -/
def laneOn (s : State) (p : R5) (l : Nat) : Bool := p == 31 || (s.p p).getLsbD l
def orFlags (fs : List Fl) : Fl := fs.foldl (· ||| ·) 0

/-- The active lanes as a mask. -/
def laneMask (s : State) (p : R5) : W64 := if p = 31 then BitVec.allOnes 64 else s.p p

/-- v[vd] with its active lanes written, and the flags of those lanes. -/
def State.setLanes (s : State) (pred : R5) (vd : R6) (f : Nat → W32 × Fl) : State :=
  let old := s.v vd
  let rs : Vector (W32 × Fl) 64 := Vector.ofFn fun i : Fin 64 => if laneOn s pred i.val then f i.val else (old[i], 0)
  let on : W64 := (List.range 64).foldl (fun m l => if laneOn s pred l then m ||| (1 : W64) <<< l else m) 0
  ((s.putV vd (rs.map (·.1))).cleanRow s.cur vd on).flags (orFlags (rs.toList.map (·.2)))

/-- An instruction that writes v[vd] lane by lane under its mask. -/
def vecOp (g : Guard) (us : Uses) (rd : List R6) (vd : R6) (f : State → Nat → W32 × Fl) (s : State) : Out :=
  issueVV s g us rd fun s => .go (s.setLanes g.pred vd (f s))

/-- A lane made of the results for its elements. -/
def mapElems (ty : Ty) (f : Nat → Nat × Fl) : W32 × Fl :=
  let rs := (List.range ty.epl).map f
  (packLane ty (rs.map (·.1)), orFlags (rs.map (·.2)))

/-- FPMODE as the instruction sees it (R230). -/
def State.rm (s : State) : Nat := bits (s.csr 0x005).toNat 0 2
def State.sat8 (s : State) : Bool := (s.csr 0x005).getLsbD 2

/-- Element-wise operations of one, two and three sources. -/
def elem1 (g : Guard) (ty : Ty) (vd va : R6) (f : State → Nat → Nat × Fl) (s : State) : Out :=
  vecOp g ⟨[], [], [vd, va], []⟩ [va] vd (fun s l => mapElems ty fun j => f s (elem ty (laneAt (s.v va) l) j)) s
def elem2 (g : Guard) (ty : Ty) (vd va vb : R6) (f : State → Nat → Nat → Nat × Fl) (s : State) : Out :=
  vecOp g ⟨[], [], [vd, va, vb], []⟩ [va, vb] vd
    (fun s l => mapElems ty fun j => f s (elem ty (laneAt (s.v va) l) j) (elem ty (laneAt (s.v vb) l) j)) s
def elem3 (g : Guard) (ty : Ty) (vd va vb vc : R6) (f : State → Nat → Nat → Nat → Nat × Fl) (s : State) : Out :=
  vecOp g ⟨[], [], [vd, va, vb, vc], []⟩ [va, vb, vc] vd
    (fun s l => mapElems ty fun j =>
      f s (elem ty (laneAt (s.v va) l) j) (elem ty (laneAt (s.v vb) l) j) (elem ty (laneAt (s.v vc) l) j)) s

/-! ## VALUF (R374) -/

/-- A value operation under FPMODE. -/
def float2 (g : Guard) (ty : Ty) (vd va vb : R6) (f : Nat → Bool → Fp → Fp → Nat × Fl) (s : State) : Out :=
  elem2 g ty vd va vb (fun s a b => f s.rm s.sat8 (fpOf ty a) (fpOf ty b)) s
def float3 (g : Guard) (ty : Ty) (vd va vb vc : R6) (f : Nat → Bool → Fp → Fp → Fp → Nat × Fl) (s : State) : Out :=
  elem3 g ty vd va vb vc (fun s a b c => f s.rm s.sat8 (fpOf ty a) (fpOf ty b) (fpOf ty c)) s
def float1 (g : Guard) (ty : Ty) (vd va : R6) (f : Nat → Bool → Fp → Nat × Fl) (s : State) : Out :=
  elem1 g ty vd va (fun s a => f s.rm s.sat8 (fpOf ty a)) s

/-- R374 vadd. -/
def execVaddF (g : Guard) (ty : Ty) (vd va vb : R6) (s : State) : Out := float2 g ty vd va vb (fAdd ty) s
/-- R374 vsub. -/
def execVsubF (g : Guard) (ty : Ty) (vd va vb : R6) (s : State) : Out := float2 g ty vd va vb (fun m t a b => fAdd ty m t a (fpNeg b)) s
/-- R374 vmul. -/
def execVmulF (g : Guard) (ty : Ty) (vd va vb : R6) (s : State) : Out := float2 g ty vd va vb (fMul ty) s
/-- R374 vfma. -/
def execVfma (g : Guard) (ty : Ty) (vd va vb vc : R6) (s : State) : Out := float3 g ty vd va vb vc (fFma ty) s
/-- R374 vfms. -/
def execVfms (g : Guard) (ty : Ty) (vd va vb vc : R6) (s : State) : Out :=
  float3 g ty vd va vb vc (fun m t a b c => fFma ty m t a b (fpNeg c)) s
/-- R374 vfnma. -/
def execVfnma (g : Guard) (ty : Ty) (vd va vb vc : R6) (s : State) : Out :=
  float3 g ty vd va vb vc (fun m t a b c => fFma ty m t (fpNeg a) b c) s
/-- R374, R231 vmin. -/
def execVminF (g : Guard) (ty : Ty) (vd va vb : R6) (s : State) : Out := elem2 g ty vd va vb (fun _ a b => fMinMax ty false a b) s
/-- R374, R231 vmax. -/
def execVmaxF (g : Guard) (ty : Ty) (vd va vb : R6) (s : State) : Out := elem2 g ty vd va vb (fun _ a b => fMinMax ty true a b) s
/-- R374 vabs: the sign cleared. -/
def execVabsF (g : Guard) (ty : Ty) (vd va : R6) (s : State) : Out := elem1 g ty vd va (fun _ a => (a % ty.signBit, 0)) s
/-- R374 vneg: the sign inverted. -/
def execVneg (g : Guard) (ty : Ty) (vd va : R6) (s : State) : Out :=
  elem1 g ty vd va (fun _ a => (if a ≥ ty.signBit then a - ty.signBit else a + ty.signBit, 0)) s
/-- R374 vdiv. -/
def execVdiv (g : Guard) (ty : Ty) (vd va vb : R6) (s : State) : Out := float2 g ty vd va vb (fDiv ty) s
/-- R374 vsqrt. -/
def execVsqrt (g : Guard) (ty : Ty) (vd va : R6) (s : State) : Out := float1 g ty vd va (fSqrt ty) s

/-! ## VALUI (R375) -/

/-- An integer operation, which raises no flag. -/
def int2 (g : Guard) (ty : Ty) (vd va vb : R6) (f : Nat → Nat → Nat) (s : State) : Out := elem2 g ty vd va vb (fun _ a b => (f a b, 0)) s

/-- R375 vadd. -/
def execVaddI (g : Guard) (ty : Ty) (vd va vb : R6) (s : State) : Out := int2 g ty vd va vb (iAdd ty) s
/-- R375 vsub. -/
def execVsubI (g : Guard) (ty : Ty) (vd va vb : R6) (s : State) : Out := int2 g ty vd va vb (iSub ty) s
/-- R375 vmul. -/
def execVmulI (g : Guard) (ty : Ty) (vd va vb : R6) (s : State) : Out := int2 g ty vd va vb (iMul ty) s
/-- R375 vmulh. -/
def execVmulh (g : Guard) (ty : Ty) (vd va vb : R6) (s : State) : Out := int2 g ty vd va vb (iMulh ty) s
/-- R375 vand. -/
def execVand (g : Guard) (ty : Ty) (vd va vb : R6) (s : State) : Out := int2 g ty vd va vb (fun a b => a &&& b) s
/-- R375 vor. -/
def execVor (g : Guard) (ty : Ty) (vd va vb : R6) (s : State) : Out := int2 g ty vd va vb (fun a b => a ||| b) s
/-- R375 vxor. -/
def execVxor (g : Guard) (ty : Ty) (vd va vb : R6) (s : State) : Out := int2 g ty vd va vb (fun a b => a ^^^ b) s
/-- R375 vandn. -/
def execVandn (g : Guard) (ty : Ty) (vd va vb : R6) (s : State) : Out :=
  int2 g ty vd va vb (fun a b => a &&& (2 ^ ty.bits - 1 - b)) s
/-- R375 vsll. -/
def execVsll (g : Guard) (ty : Ty) (vd va vb : R6) (s : State) : Out := int2 g ty vd va vb (iSll ty) s
/-- R375 vsrl. -/
def execVsrl (g : Guard) (ty : Ty) (vd va vb : R6) (s : State) : Out := int2 g ty vd va vb (iSrl ty) s
/-- R375 vsra. -/
def execVsra (g : Guard) (ty : Ty) (vd va vb : R6) (s : State) : Out := int2 g ty vd va vb (iSra ty) s
/-- R375 vmin. -/
def execVminI (g : Guard) (ty : Ty) (vd va vb : R6) (s : State) : Out := int2 g ty vd va vb (iMin ty) s
/-- R375 vmax. -/
def execVmaxI (g : Guard) (ty : Ty) (vd va vb : R6) (s : State) : Out := int2 g ty vd va vb (iMax ty) s
/-- R375 vabs. -/
def execVabsI (g : Guard) (ty : Ty) (vd va : R6) (s : State) : Out := elem1 g ty vd va (fun _ a => (iAbs ty a, 0)) s

/-! ## VCMP (R376) -/

/-- p[pd] with the bits of the active lanes written. -/
def State.setMask (s : State) (pred pd : R5) (f : Nat → Bool × Fl) : State :=
  let old := s.p pd
  let rs := (List.range 64).map fun l => if laneOn s pred l then f l else (old.getLsbD l, 0)
  let v := rs.foldr (fun r acc => acc * 2 + if r.1 then 1 else 0) 0
  (s.setP pd (BitVec.ofNat 64 v)).flags (orFlags (rs.map (·.2)))

/-- A comparison of one element of each lane: on floating-point values, or on integers; an order on a NaN raises NV. -/
def vcmp (g : Guard) (ty : Ty) (pd : R5) (va vb : R6) (el : R6) (orders : Bool) (ff : Fp → Fp → Bool) (fi : Int → Int → Bool)
    (s : State) : Out :=
  issueVV s g ⟨[], [pd], [va, vb], []⟩ [va, vb] fun s => readPreds s (if g.pred = 31 then [] else [pd]) [pd] fun s =>
    .go (s.setMask g.pred pd fun l =>
      let a := elem ty (laneAt (s.v va) l) el.toNat
      let b := elem ty (laneAt (s.v vb) l) el.toNat
      if ty.isFloat then
        let x := fpOf ty a
        let y := fpOf ty b
        (ff x y, if orders && (x.isNan || y.isNan) then fNV else 0)
      else (fi (iVal ty a) (iVal ty b), 0))

/-- R376 vcmp.eq. -/
def execVcmpEq (g : Guard) (ty : Ty) (pd : R5) (va vb el : R6) (s : State) : Out :=
  vcmp g ty pd va vb el false fpEq (fun a b => decide (a = b)) s
/-- R376 vcmp.ne. -/
def execVcmpNe (g : Guard) (ty : Ty) (pd : R5) (va vb el : R6) (s : State) : Out :=
  vcmp g ty pd va vb el false (fun a b => !fpEq a b) (fun a b => decide (a ≠ b)) s
/-- R376 vcmp.lt. -/
def execVcmpLt (g : Guard) (ty : Ty) (pd : R5) (va vb el : R6) (s : State) : Out :=
  vcmp g ty pd va vb el true (fun a b => fpLt a b false) (fun a b => decide (a < b)) s
/-- R376 vcmp.le. -/
def execVcmpLe (g : Guard) (ty : Ty) (pd : R5) (va vb el : R6) (s : State) : Out :=
  vcmp g ty pd va vb el true (fun a b => fpLt a b false || fpEq a b) (fun a b => decide (a ≤ b)) s
/-- R376 vcmp.gt. -/
def execVcmpGt (g : Guard) (ty : Ty) (pd : R5) (va vb el : R6) (s : State) : Out :=
  vcmp g ty pd va vb el true (fun a b => fpLt b a false) (fun a b => decide (b < a)) s
/-- R376 vcmp.ge. -/
def execVcmpGe (g : Guard) (ty : Ty) (pd : R5) (va vb el : R6) (s : State) : Out :=
  vcmp g ty pd va vb el true (fun a b => fpLt b a false || fpEq a b) (fun a b => decide (b ≤ a)) s

/-- Whether the class of an element lies in a mask. -/
def classIn (ty : Ty) (mask : R6) (v : Nat) : Bool :=
  let c := match fpOf ty v with
    | .nan => 0
    | .inf _ => 1
    | .fin _ m _ => if m = 0 then 4 else if v / 2 ^ ty.mbits % 2 ^ ty.ebits = 0 then 3 else 2
  mask.getLsbD c && (!mask.getLsbD 5 || v ≥ ty.signBit)
/-- R376 vclass. -/
def execVclass (g : Guard) (ty : Ty) (pd : R5) (va mask el : R6) (s : State) : Out :=
  issueVV s g ⟨[], [pd], [va], []⟩ [va] fun s => readPreds s (if g.pred = 31 then [] else [pd]) [pd] fun s =>
    .go (s.setMask g.pred pd fun l => (classIn ty mask (elem ty (laneAt (s.v va) l) el.toNat), 0))

/-! ## VCVT (R377, R378) -/

/-- Conv of an element of one type to another. -/
def conv (ty sty : Ty) (rm : Nat) (sat : Bool) (v : Nat) : Nat × Fl := convTo ty rm sat (fpOf sty v)

/-- A lane converted by part (R378). -/
def cvtLane (ty sty : Ty) (rm : Nat) (sat : Bool) (pt : Nat) (old a : W32) : W32 × Fl :=
  let ns := sty.epl
  let nd := ty.epl
  if nd ≥ ns then
    (List.range ns).foldl (fun acc j =>
      let (r, f) := conv ty sty rm sat (elem sty a j)
      (setElem ty acc.1 (pt * ns + j) r, acc.2 ||| f)) (old, 0)
  else mapElems ty fun j => conv ty sty rm sat (elem sty a (pt * nd + j))

def cvt (g : Guard) (ty sty : Ty) (vd va pt : R6) (rm : Nat) (sat : State → Bool) (s : State) : Out :=
  vecOp g ⟨[], [], [vd, va], []⟩ (if ty.epl > sty.epl then [vd, va] else [va]) vd (fun s l => cvtLane ty sty rm (sat s) pt.toNat (laneAt (s.v vd) l) (laneAt (s.v va) l)) s

/-- R377 cvt.rne. -/
def execCvtRne (g : Guard) (ty sty : Ty) (vd va pt : R6) (s : State) : Out := cvt g ty sty vd va pt 0 State.sat8 s
/-- R377 cvt.rtz. -/
def execCvtRtz (g : Guard) (ty sty : Ty) (vd va pt : R6) (s : State) : Out := cvt g ty sty vd va pt 1 State.sat8 s
/-- R377 cvt.rup. -/
def execCvtRup (g : Guard) (ty sty : Ty) (vd va pt : R6) (s : State) : Out := cvt g ty sty vd va pt 2 State.sat8 s
/-- R377 cvt.rdn. -/
def execCvtRdn (g : Guard) (ty sty : Ty) (vd va pt : R6) (s : State) : Out := cvt g ty sty vd va pt 3 State.sat8 s
/-- R377 cvt.sat. -/
def execCvtSat (g : Guard) (ty sty : Ty) (vd va pt : R6) (s : State) : Out := cvt g ty sty vd va pt 0 (fun _ => true) s

/-- R378 vpack. -/
def execVpack (g : Guard) (ty sty : Ty) (vd va vc : R6) (s : State) : Out :=
  vecOp g ⟨[], [], [vd, va, vc], []⟩ [va, vc] vd (fun s l =>
    mapElems ty fun j =>
      let ns := sty.epl
      conv ty sty s.rm s.sat8 (if j < ns then elem sty (laneAt (s.v va) l) j else elem sty (laneAt (s.v vc) l) (j - ns))) s
/-- R378 vunpack. -/
def execVunpack (g : Guard) (ty sty : Ty) (vd va : R6) (s : State) : Out :=
  issueVV s g ⟨[], [], [vd, vd + 1, va], []⟩ [va] fun s =>
    let src := s.v va
    let half (k l : Nat) : W32 × Fl := mapElems ty fun j => conv ty sty s.rm s.sat8 (elem sty (laneAt src l) (k * ty.epl + j))
    .go ((s.setLanes g.pred vd (half 0)).setLanes g.pred (vd + 1) (half 1))

/-! ## VTRANS (R379) -/

/-- R379 vexp2. -/
def execVexp2 (g : Guard) (ty : Ty) (vd va : R6) (s : State) : Out := float1 g ty vd va (fExp2 ty) s
/-- R379 vlog2. -/
def execVlog2 (g : Guard) (ty : Ty) (vd va : R6) (s : State) : Out := float1 g ty vd va (fLog2 ty) s
/-- R379 vrcp. -/
def execVrcp (g : Guard) (ty : Ty) (vd va : R6) (s : State) : Out := float1 g ty vd va (fRcp ty) s
/-- R379 vrsqrt. -/
def execVrsqrt (g : Guard) (ty : Ty) (vd va : R6) (s : State) : Out := float1 g ty vd va (fRsqrt ty) s
/-- R379 vsig. -/
def execVsig (g : Guard) (ty : Ty) (vd va : R6) (s : State) : Out := float1 g ty vd va (fSig ty) s
/-- R379 vtanh. -/
def execVtanh (g : Guard) (ty : Ty) (vd va : R6) (s : State) : Out := float1 g ty vd va (fTanh ty) s

/-! ## VPERM (R380, R381) -/

/-- Whole lanes moved under the mask. -/
def moveLanes (g : Guard) (us : Uses) (rd : List R6) (vd : R6) (f : State → Nat → W32) (s : State) : Out := vecOp g us rd vd (fun s l => (f s l, 0)) s

/-- R380 vbcast. -/
def execVbcast (g : Guard) (vd : R6) (xa : R5) (s : State) : Out :=
  moveLanes g ⟨[xa], [], [vd], [xa]⟩ [] vd (fun s _ => (s.x xa).extractLsb' 0 32) s
/-- R380 vlane. -/
def execVlane (g : Guard) (xd : R5) (va : R6) (xb : R5) (s : State) : Out :=
  issueVV s g ⟨[xd, xb], [], [va], [xb]⟩ [va] fun s =>
    if (s.x xb).toNat > 63 then .trap cILLOP (s.x xb)
    else .go (s.setX xd ((laneAt (s.v va) (s.x xb).toNat).zeroExtend 64))
/-- R380 vperm. -/
def execVperm (g : Guard) (vd va vb : R6) (s : State) : Out :=
  moveLanes g ⟨[], [], [vd, va, vb], []⟩ [va, vb] vd (fun s l => laneAt (s.v va) (bits (laneAt (s.v vb) l).toNat 0 6)) s
/-- R380 vrot. -/
def execVrot (g : Guard) (vd va : R6) (xb : R5) (s : State) : Out :=
  moveLanes g ⟨[xb], [], [vd, va], [xb]⟩ [va] vd (fun s l => laneAt (s.v va) ((l + (s.x xb).toNat) % 64)) s
/-- R380 vshl. -/
def execVshl (g : Guard) (vd va : R6) (xb : R5) (s : State) : Out :=
  issueVV s g ⟨[xb], [], [vd, va], [xb]⟩ [va] fun s =>
    let k := (s.x xb).toNat
    if k > 64 then .trap cILLOP (s.headWord.zeroExtend 64)
    else .go (s.setLanes g.pred vd fun l => (if k ≤ l then laneAt (s.v va) (l - k) else 0, 0))
/-- R380 vsel. -/
def execVsel (g : Guard) (vd va vb : R6) (pc : R5) (s : State) : Out :=
  issueVV s g ⟨[], [pc], [vd, va, vb], []⟩ [va, vb] fun s => readPreds s [pc] [] fun s =>
    .go (s.setLanes g.pred vd fun l => (if (s.p pc).getLsbD l then laneAt (s.v va) l else laneAt (s.v vb) l, 0))
/-- R380 vmov. -/
def execVmov (g : Guard) (vd va : R6) (s : State) : Out := moveLanes g ⟨[], [], [vd, va], []⟩ [va] vd (fun s l => laneAt (s.v va) l) s

/-- An operation on all lanes: each element position is worked on over the 64 lanes, inactive ones giving the identity. -/
def acrossLanes (g : Guard) (ty : Ty) (vd va : R6) (ident : Nat) (f : List Nat → List Nat × Fl) (s : State) : Out :=
  issueVV s g ⟨[], [], [vd, va], []⟩ [va] fun s =>
    let src := s.v va
    let cols := (List.range ty.epl).map fun j =>
      f ((List.range 64).map fun l => if laneOn s g.pred l then elem ty (laneAt src l) j else ident)
    let row : Vector W32 64 := Vector.ofFn fun i : Fin 64 => packLane ty (cols.map fun c => c.1.getD i.val 0)
    .go ((s.setV vd row).flags (orFlags (cols.map (·.2))))

/-- The addition of a reduction: by RNE, or wrapping (R233, R381). -/
def redAdd (ty : Ty) (a b : Nat) : Nat × Fl :=
  if ty.isFloat then fAdd ty 0 false (fpOf ty a) (fpOf ty b) else (iAdd ty a b, 0)
def redMax (ty : Ty) (a b : Nat) : Nat × Fl := if ty.isFloat then fMinMax ty true a b else (iMax ty a b, 0)
def redMin (ty : Ty) (a b : Nat) : Nat × Fl := if ty.isFloat then fMinMax ty false a b else (iMin ty a b, 0)
/-- A reduction's result in every lane. -/
def reduceAll (op : Nat → Nat → Nat × Fl) (xs : List Nat) : List Nat × Fl :=
  let (r, f) := reduceTree op 6 xs
  (List.replicate 64 r, f)

/-- R381 vredadd. -/
def execVredadd (g : Guard) (ty : Ty) (vd va : R6) (s : State) : Out :=
  acrossLanes g ty vd va (if ty.isFloat then ty.signBit else 0) (reduceAll (redAdd ty)) s
/-- R381 vredmax. -/
def execVredmax (g : Guard) (ty : Ty) (vd va : R6) (s : State) : Out :=
  acrossLanes g ty vd va (if ty.isFloat then ty.infBits true else intBits ty ty.iMin) (reduceAll (redMax ty)) s
/-- R381 vredmin. -/
def execVredmin (g : Guard) (ty : Ty) (vd va : R6) (s : State) : Out :=
  acrossLanes g ty vd va (if ty.isFloat then ty.infBits false else intBits ty ty.iMax) (reduceAll (redMin ty)) s
/-- R381, R233 vscan. -/
def execVscan (g : Guard) (ty : Ty) (vd va : R6) (s : State) : Out :=
  acrossLanes g ty vd va (if ty.isFloat then ty.signBit else 0) (fun xs =>
    match xs with
    | [] => ([], 0)
    | x :: xs => let (r, f) := scanSum (redAdd ty) x xs; (x :: r, f)) s

/-! ## VMEM (R382 to R385) -/

/-- Bytes of an element in memory. -/
def memW (ty : Ty) : Nat := ty.bits / 8
def activeLanes (s : State) (p : R5) : List Nat := (List.range 64).filter (laneOn s p)
/-- The lane number of an entry: lanes have memory of their own in .l only. -/
def laneOf (sp : Space) (l : Nat) : Nat := if sp == .l then l else 0

/-- How a lane's address fails the checks of R383 at issue: a trap, or a translation miss. -/
inductive LaneFault where
  | trap (code : Nat) (ev : W64)
  | miss (a reason : Nat) (rg : FaultOf)
/-- The checks of one lane of a load. -/
def loadCheck (s : State) (sp : Space) (n : Nat) (addr : W64) : Option LaneFault :=
  match formAddr s sp addr 0 n with
  | .error (c, v) => some (.trap c v)
  | .ok ad =>
    if sp != .g then none
    else
      match locate s.who ad n .rd s with
      | .error .prot _ => some (.trap cPROT addr)
      | .error (.fault a r rg) _ => some (.miss a r rg)
      | .ok _ _ | .error _ _ => none
/-- The first failing check of a load's active lanes, in lane order (R383): one that stands behind no translation miss of a lower lane
traps; else the load holds on the first such miss. A miss alone is met as its lane is performed. -/
def loadChecks (s : State) (sp : Space) (n : Nat) (addr : Nat → W64) (first : Option (Nat × Nat × Nat × FaultOf)) : List Nat → Option Res
  | [] => none
  | l :: ls =>
    match loadCheck s sp n (addr l) with
    | none => loadChecks s sp n addr first ls
    | some (.miss a r rg) => loadChecks s sp n addr (first.orElse fun _ => some ((addr l).toNat, a, r, rg)) ls
    | some (.trap c v) =>
      match first with
      | none => some (.trap c v)
      | some (ad, a, r, rg) =>
        match raiseFault s s.my.cid a r (rg.kind 0) with
        | (some w, s) => some (.hold .memory (s.modMe fun st => { st with fwait := some (w, ad) }))
        | (none, _) => some (.trap cXLATE (BitVec.ofNat 64 ad))
/-- The first failing check of a store's active lanes (R383): a trap, or at TL1 and TL2 the state of a translation miss. -/
def storeChecks (s : State) (sp : Space) (n : Nat) (addr : Nat → W64) : List Nat → Option Res
  | [] => none
  | l :: ls =>
    match formAddr s sp (addr l) 0 n with
    | .error (c, v) => some (.trap c v)
    | .ok ad =>
      match syncMiss s sp ad n .wr with
      | some t => some (.stop t)
      | none => storeChecks s sp n addr ls

/-- Accesses of .l stand behind no list command of their own block (R388). -/
def lanesBusy (s : State) (sp : Space) : Bool :=
  sp == .l && s.effs.any fun | .cmd c => (match c.op with | .list _ _ _ _ _ _ _ => true | _ => false) | _ => false

/-- A vector load: one weak entry for each active lane, ascending. -/
def vecLoad (g : Guard) (us : Uses) (rd : List R6) (sp : Space) (ty : Ty) (vd : R6) (addr : State → Nat → W64) (s : State) : Out :=
  issueVV s g us rd fun s =>
    let ls := activeLanes s g.pred
    if lanesBusy s sp then .trap cILLOP (s.headWord.zeroExtend 64)
    else
      match loadChecks s sp (memW ty) (addr s) none ls with
      | some r => r
      | none => .go (ls.foldl (fun t l => t.load 0 .weak .core sp (laneOf sp l) (addr s l).toNat (memW ty) (.vlane vd l ty)) s)

/-- A vector store: its lanes enter at the commit. -/
def vecStore (g : Guard) (us : Uses) (rd : List R6) (sp : Space) (ty : Ty) (vc : R6) (addr : State → Nat → W64) (s : State) : Out :=
  issueVV s g us rd fun s =>
    let ls := activeLanes s g.pred
    if lanesBusy s sp then .trap cILLOP (s.headWord.zeroExtend 64)
    else
      match storeChecks s sp (memW ty) (addr s) ls with
      | some r => r
      | none => .go (ls.foldl (fun t l => t.addEff (.entry (mkEntry s 0 .weak .core sp (laneOf sp l) (addr s l).toNat (memW ty)
          (.store (toBytes (memW ty) (laneAt (s.v vc) l).toNat))))) s)

def strideAddr (xa xb : R5) (s : State) (l : Nat) : W64 := s.x xa + BitVec.ofNat 64 l * s.x xb
def indexAddr (xa : R5) (vb : R6) (s : State) (l : Nat) : W64 := s.x xa + (laneAt (s.v vb) l).zeroExtend 64

/-- R382 vld. -/
def execVld (g : Guard) (sp : Space) (ty : Ty) (vd : R6) (xa xb : R5) (s : State) : Out :=
  vecLoad g ⟨[xa, xb], [], [vd], [xa, xb]⟩ [] sp ty vd (strideAddr xa xb) s
/-- R382 vst. -/
def execVst (g : Guard) (sp : Space) (ty : Ty) (xa xb : R5) (vc : R6) (s : State) : Out :=
  vecStore g ⟨[xa, xb], [], [vc], [xa, xb]⟩ [vc] sp ty vc (strideAddr xa xb) s
/-- R382 vldi. -/
def execVldi (g : Guard) (sp : Space) (ty : Ty) (vd : R6) (xa : R5) (vb : R6) (s : State) : Out :=
  vecLoad g ⟨[xa], [], [vd, vb], [xa]⟩ [vb] sp ty vd (indexAddr xa vb) s
/-- R382 vsti. -/
def execVsti (g : Guard) (sp : Space) (ty : Ty) (xa : R5) (vb vc : R6) (s : State) : Out :=
  vecStore g ⟨[xa], [], [vb, vc], [xa]⟩ [vb, vc] sp ty vc (indexAddr xa vb) s

/-- R385 vldb. -/
def execVldb (g : Guard) (vd : R6) (sa : BitVec 4) (xb : R5) (n : R6) (s : State) : Out :=
  issueVV s g ⟨[xb], [], (List.range n.toNat).map fun i => vd + BitVec.ofNat 6 i, [xb]⟩ [] fun s => readSregs s [sa] fun s =>
    let v := s.sreg sa
    let h := sHdl v
    let off := 256 * (s.x xb).toNat
    if sSp v ≥ 5 || !v.getLsbD 63 then .trap cILLOP (sa.zeroExtend 64)
    else if s.my.hst h ≠ 2 then .hold .handle (s.modMe fun st => { st with waitH := h.toNat + 1 })
    else
      match handleTrap s h (off + 256 * n.toNat), hSpace (s.hreg h) with
      | none, some sp =>
        let s := s.acquire .package
        let s := (List.range n.toNat).foldl (fun s i =>
          s.load 0 .weak .core sp 0 (hBase (s.hreg h) + off + 256 * i) 256 (.vrow (vd + BitVec.ofNat 6 i) (laneMask s g.pred))) s
        .go (s.addEff (.drain h))
      | some (c, e), _ => .trap c e
      | none, none => .trap cPROT (h.zeroExtend 64)

/-! ## Sparse lists (R386 to R388) -/

def dOff (d : W32) : Nat := bits d.toNat 0 13
def dCnt (d : W32) : Nat := bits d.toNat 16 13
/-- A descriptor's reserved bits and alignment, then its end. -/
def descTrap (d : W32) : Option (Nat × W64) :=
  if bits d.toNat 13 3 ≠ 0 || d.getLsbD 29 || d.getLsbD 31 || dOff d % 8 ≠ 0 then some (cILLOP, d.zeroExtend 64)
  else if dOff d + 8 * dCnt d > 7936 then some (cPROT, BitVec.ofNat 64 (dOff d + 8 * dCnt d))
  else none
def dMeets (a b : W32) : Bool := dOff a < dOff b + 8 * dCnt b && dOff b < dOff a + 8 * dCnt a && dCnt a ≠ 0 && dCnt b ≠ 0
/-- The checks of one lane: A, B, the output, and the output's overlap with either. -/
def listTrap (a b d : W32) : Option (Nat × W64) :=
  (descTrap a).orElse fun _ => (descTrap b).orElse fun _ => (descTrap d).orElse fun _ =>
    if dMeets d a || dMeets d b then some (cPROT, BitVec.ofNat 64 (dOff d + 8 * dCnt d)) else none

/-- Positions in a list command's bytes: the A, B and output lists of a lane. -/
def listPos (l k : Nat) : Nat := l * 2 ^ 16 + k * 2 ^ 14

/-- vmrg, visect and vunion at issue. -/
def listCmd (op : BitVec 2) (g : Guard) (ty : Ty) (vd va vb : R6) (pc : R5) (s : State) : Out :=
  issueVV s g ⟨[], [pc], [vd, va, vb], []⟩ [vd, va, vb] fun s => readPreds s [pc] [] fun s =>
    let ls := activeLanes s g.pred
    let da (l : Nat) := laneAt (s.v va) l
    let db (l : Nat) := laneAt (s.v vb) l
    let dd (l : Nat) := laneAt (s.v vd) l
    match ls.findSome? fun l => listTrap (da l) (db l) (dd l) with
    | some (c, v) => .trap c v
    | none =>
      let mask : W64 := ls.foldl (fun m l => m ||| (1 : W64) <<< l) 0
      let words (l : Nat) (d : W32) (acc : Nat → Acc) : List Entry :=
        (List.range (2 * dCnt d)).map fun i => mkEntry s 0 .weak .core .l l (dOff d + 4 * i) 4 (acc (4 * i))
      let rd (l : Nat) (d : W32) (k : Nat) : List Entry := words l d fun i => .cread 0 (listPos l k + i)
      let wr (l : Nat) : List Entry := words l (dd l) fun i => .cwrite 0 (listPos l 2 + i)
      let all := List.range 64
      .go (s.addEff (.cmd { newCmd s (.list op ty vd va vb pc mask) with
        xs := [s.csr 0x005]
        idx := all.map da ++ all.map db ++ all.map dd
        ents := (ls.flatMap fun l => rd l (da l) 0 ++ rd l (db l) 1) ++ ls.flatMap wr }))

/-- R387 vmrg. -/
def execVmrg (g : Guard) (ty : Ty) (vd va vb : R6) (pc : R5) (s : State) : Out := listCmd 0 g ty vd va vb pc s
/-- R387 visect. -/
def execVisect (g : Guard) (ty : Ty) (vd va vb : R6) (pc : R5) (s : State) : Out := listCmd 1 g ty vd va vb pc s
/-- R387 vunion. -/
def execVunion (g : Guard) (ty : Ty) (vd va vb : R6) (pc : R5) (s : State) : Out := listCmd 2 g ty vd va vb pc s

/-- What one lane's list command has made. -/
structure ListRun where
  out : List (Nat × Nat)
  bad : Bool
  full : Bool
  fl : Fl

/-- An emit, which at the capacity does not write and stops the lane. -/
def ListRun.emit (r : ListRun) (cap : Nat) (e : Nat × Nat) (f : Fl) : ListRun :=
  if r.out.length ≥ cap then { r with full := true } else { r with out := r.out ++ [e], fl := r.fl ||| f }

/-- The value of two equal coordinates (R387). -/
def listVal (op : BitVec 2) (ty : Ty) (rm : Nat) (a b : Nat) : Nat × Fl :=
  if op = 1 then (if ty == .f32 then fMul .f32 rm false (fpOf .f32 a) (fpOf .f32 b) else (iMul ty a b, 0))
  else (if ty == .f32 then fAdd .f32 rm false (fpOf .f32 a) (fpOf .f32 b) else (iAdd ty a b, 0))

/-- The loop of R387 for one lane, over the rests of the lists and the coordinates taken last. -/
def listLoop (op : BitVec 2) (ty : Ty) (rm cap : Nat) : Nat → List (Nat × Nat) → List (Nat × Nat) → Option Nat → Option Nat → ListRun → ListRun
  | 0, _, _, _, _, r => r
  | fuel + 1, as, bs, pa, pb, r =>
    let falls (xs : List (Nat × Nat)) (p : Option Nat) : Bool := match xs, p with | x :: _, some c => decide (x.1 ≤ c) | _, _ => false
    let go (as bs : List (Nat × Nat)) (pa pb : Option Nat) (r : ListRun) : ListRun :=
      if r.full then r else listLoop op ty rm cap fuel as bs pa pb r
    let keep (e : Nat × Nat) : ListRun := if op = 1 then r else r.emit cap e 0
    if r.full then r
    else if falls as pa || falls bs pb then { r with bad := true }
    else
      match as, bs with
      | [], [] => r
      | a :: as', [] => if op = 1 then r else go as' [] (some a.1) pb (keep a)
      | [], b :: bs' => if op = 1 then r else go [] bs' pa (some b.1) (keep b)
      | a :: as', b :: bs' =>
        if a.1 < b.1 then go as' (b :: bs') (some a.1) pb (keep a)
        else if b.1 < a.1 then go (a :: as') bs' pa (some b.1) (keep b)
        else
          let r := if op = 0 then (let r := r.emit cap a 0; if r.full then r else r.emit cap b 0)
            else r.emit cap (a.1, (listVal op ty rm a.2 b.2).1) (listVal op ty rm a.2 b.2).2
          go as' bs' (some a.1) (some b.1) r

/-- The entries of a list from a command's bytes. -/
def listOf (c : Cmd) (pos n : Nat) : List (Nat × Nat) :=
  (List.range n).map fun i => (leNat (c.out (pos + 8 * i) 4), leNat (c.out (pos + 8 * i + 4) 4))

/-! ## Threshold, compression and expansion (R389, R390) -/

/-- THR[LAYER] and LAYER as they stand at issue. -/
def State.layer (s : State) : Nat := bits (s.csr 0x008).toNat 0 6
def State.thr (s : State) : W32 := (s.csr (0x100 + s.layer)).extractLsb' 0 32
/-- Dropped magnitude is added at commit. -/
def State.drop (s : State) (n : Nat) : State := if n = 0 then s else s.addEff (.dmag s.layer n)

/-- R389 vthr. -/
def execVthr (g : Guard) (ty : Ty) (vd va : R6) (s : State) : Out :=
  issueVV s g ⟨[], [], [vd, va], []⟩ [va] fun s =>
    let src := s.v va
    let at_ (l j : Nat) : Bool × Nat := countsZero ty s.thr (elem ty (laneAt src l) j)
    let dm := ((activeLanes s g.pred).flatMap fun l => (List.range ty.epl).map fun j => (at_ l j).2).sum
    let s' := s.setLanes g.pred vd fun l => mapElems ty fun j => (if (at_ l j).1 then 0 else elem ty (laneAt src l) j, 0)
    .go (s'.drop dm)

/-- Lanes of va that do not count as zero, ascending. -/
def liveLanes (s : State) (ty : Ty) (va : R6) : List Nat :=
  (List.range 64).filter fun l => !(countsZero ty s.thr (laneAt (s.v va) l).toNat).1

/-- R390 vcmpr. -/
def execVcmpr (g : Guard) (ty : Ty) (vd va : R6) (xc : R5) (s : State) : Out :=
  issueVV s g ⟨[xc], [], [vd, va], []⟩ [va] fun s =>
    let src := s.v va
    let ls := liveLanes s ty va
    let dm := ((List.range 64).map fun l => (countsZero ty s.thr (laneAt src l).toNat).2).sum
    .go (((s.setV vd (Vector.ofFn fun i : Fin 64 => match ls[i.val]? with | some l => laneAt src l | none => 0)).setX xc
      (BitVec.ofNat 64 ls.length)).drop dm)
/-- R390 vexpd. -/
def execVexpd (g : Guard) (_ty : Ty) (vd va : R6) (pc : R5) (s : State) : Out :=
  issueVV s g ⟨[], [pc], [vd, va], []⟩ [va] fun s => readPreds s [pc] [] fun s =>
    let src := s.v va
    let m := s.p pc
    .go (s.setV vd (Vector.ofFn fun i : Fin 64 =>
      if m.getLsbD i.val then laneAt src ((List.range i.val).filter fun l => m.getLsbD l).length else 0))
/-- R390 vnzidx. -/
def execVnzidx (g : Guard) (ty : Ty) (vd va : R6) (xc : R5) (s : State) : Out :=
  issueVV s g ⟨[xc], [], [vd, va], []⟩ [va] fun s =>
    let ls := liveLanes s ty va
    .go ((s.setV vd (Vector.ofFn fun i : Fin 64 => BitVec.ofNat 32 (ls.getD i.val 64))).setX xc (BitVec.ofNat 64 ls.length))

/-! ## VQNT (R391, R392) -/

/-- The band scale in lane 0 of a vector, with NV where it counts as 1.0 instead (R391). -/
def bandScale (v : Vector W32 64) : Fp × Fl :=
  match fpOf .bf16 (bits (laneAt v 0).toNat 0 16) with
  | .fin false m e => if m = 0 then (.fin false 1 0, fNV) else (.fin false m e, 0)
  | _ => (.fin false 1 0, fNV)

/-- R392 vqnt. -/
def execVqnt (g : Guard) (vd va vb : R6) (s : State) : Out :=
  issueVV s g ⟨[], [], [vd, va, vb], []⟩ [va, vb] fun s =>
    let src := s.v va
    let (bs, f) := bandScale (s.v vb)
    let blocks := (List.range 8).map fun b =>
      quant8 ((List.range 8).map fun i => fpOf .f32 (fDiv .f32 0 false (fpOf .f32 (laneAt src (8 * b + i)).toNat) bs).1)
    let codes (b : Nat) : W32 := packLane .e2m1 ((blocks.getD b (0, [], false, false, false)).2.1)
    let scales (k : Nat) : W32 := packLane .n8 ((List.range 4).map fun i => (blocks.getD (4 * k + i) (0, [], false, false, false)).1)
    let row : Vector W32 64 := Vector.ofFn fun i : Fin 64 =>
      if i.val < 8 then codes i.val else if i.val < 10 then scales (i.val - 8) else 0
    let nv := blocks.any fun b => b.2.2.1
    let ufl := (blocks.filter fun b => b.2.2.2.1).length
    let sat := (blocks.filter fun b => b.2.2.2.2).length
    let s := (s.setV vd row).flags (f ||| if nv then fNV else 0)
    .go (if ufl = 0 && sat = 0 then s else s.addEff (.vcnt ufl sat))

/-- A product of values rounded once to f32 by RNE. -/
def mul3 (a b c : Fp) : Nat × Fl :=
  match a, b with
  | .fin na ma ea, .fin nb mb eb => fMul .f32 0 false (.fin (na != nb) (ma * mb) (ea + eb)) c
  | _, _ => invalid .f32

/-- R392 vdqnt. -/
def execVdqnt (g : Guard) (vd va vb : R6) (s : State) : Out :=
  issueVV s g ⟨[], [], [vd, va, vb], []⟩ [va, vb] fun s =>
    let src := s.v va
    let (bs, f) := bandScale (s.v vb)
    let rs := (List.range 64).map fun l =>
      let b := l / 8
      let sc := elem .n8 (laneAt src (8 + b / 4)) (b % 4)
      mul3 (fpOf .e2m1 (elem .e2m1 (laneAt src b) (l % 8))) (fpOf .e3m5 sc) bs
    let row : Vector W32 64 := Vector.ofFn fun i : Fin 64 => BitVec.ofNat 32 (rs.getD i.val (0, 0)).1
    .go ((s.setV vd row).flags (f ||| orFlags (rs.map (·.2))))

/-- The magnitude of an f32 lane as Quant8 takes it. -/
def magBits (w : W32) : Nat := match fpOf .f32 w.toNat with | .nan => 0 | _ => w.toNat % 2 ^ 31
/-- R392 vamax. -/
def execVamax (g : Guard) (vd va : R6) (s : State) : Out :=
  issueVV s g ⟨[], [], [vd, va], []⟩ [va] fun s =>
    let src := s.v va
    let amax (b : Nat) : Nat := (List.range 8).foldl (fun m i => max m (magBits (laneAt src (8 * b + i)))) 0
    let nv := (List.range 64).any fun l => (fpOf .f32 (laneAt src l).toNat).isNan
    .go ((s.setV vd (Vector.ofFn fun i : Fin 64 => BitVec.ofNat 32 (amax (i.val / 8)))).flags (if nv then fNV else 0))
/-- R392 vbscl. -/
def execVbscl (g : Guard) (vd va : R6) (s : State) : Out :=
  vecOp g ⟨[], [], [vd, va], []⟩ [va] vd (fun s l =>
    match fpOf .f32 (laneAt (s.v va) l).toNat with
    | .nan => (0, fNV)
    | .inf n => if n then (0, fNV) else (0xFF, 0)
    | .fin n m e => if n && m ≠ 0 then (0, fNV) else (BitVec.ofNat 32 (scaleFor (magQ (.fin false m e))).1, 0)) s

end Sys2Proof.Machine
end

