-- ==== Sys2Proof/Machine/Commands.lean ====
section
/-! DEFINITION. The command queues: what a command at the head of its queue does when its data are there, its completion, the states of
handles, and the arbitration of the shell lease (R119, R202, R203, R206, R365, R388, R398, R400). -/

namespace Sys2Proof.Machine

/-! ## Lease arbitration (R119) -/

/-- The class of the M task of a core. -/
def coreClass (s : State) (core : Nat) : Nat :=
  (([0, 1, 2, 3].map fun sl => s.task core sl).find? fun t => t.live && t.mtask).elim 3 Task.cls

/-- Whether a holder has reached its cap. -/
def Shell.capped (cycle : Nat) (sh : Shell) : Bool := sh.cmds ≥ 256 || cycle - sh.grantAt ≥ 4096

/-- Requesting cores of a shell, in round-robin order after the last holder. -/
def leaseOrder (eight last : Nat) : List Nat := (List.range 8).map fun i => 8 * eight + (last % 8 + 1 + i) % 8

/-- R119: the lease of a free shell goes to a requester of the lowest class, round robin within it; a gated shell runs again (R16). -/
def execLeaseGrant (eight : Nat) (s : State) : Out :=
  if h : eight < 12 then
    let sh := s.shells[eight]
    let req := (leaseOrder eight sh.last).filter fun c => sh.reqs.contains c || sh.reqs.contains (96 + c)
    let best := (req.map (coreClass s)).foldl min 3
    match sh.holder, req.find? fun c => coreClass s c == best with
    | none, some c =>
      let sh' : Shell := ⟨some c, 0, s.cycle, sh.reqs.filter fun r => r != c && r != 96 + c, sh.last⟩
      .next { s with shells := s.shells.set eight sh', pkg := { s.pkg with shellGated := s.pkg.shellGated &&& ~~~(1#12 <<< eight) } }
    | _, _ => .next s
  else .next s

/-- The command of the M stream that runs on a core, and is at no place where its lease may end: its bytes are on their way, or it has
begun and may not be split (R119). -/
def midCommand (s : State) (core : Nat) : Bool :=
  ([0, 1, 2, 3] : List Nat).any fun sl =>
    match (s.stm ⟨core, sl, .m⟩).cq with
    | c :: _ => (match c.op with | .mma _ _ _ _ n => decide (0 < c.phase) && decide (c.phase < n) && !c.splits | _ => false)
    | [] => false

/-- R119: a holder at its cap is renewed when no other core requests, and otherwise becomes a requester again. -/
def execLeaseCap (eight : Nat) (s : State) : Out :=
  if h : eight < 12 then
    let sh := s.shells[eight]
    match sh.holder with
    | some c =>
      if !sh.capped s.cycle || midCommand s c then .next s
      else if sh.reqs.isEmpty then .next { s with shells := s.shells.set eight { sh with cmds := 0, grantAt := s.cycle } }
      else .next { s with shells := s.shells.set eight { sh.free s.cycle c with reqs := sh.reqs ++ [96 + c] } }
    | none => .next s
  else .next s

/-! ## What a command still has to do -/

/-- Entries of a command not yet performed. -/
def cmdReads (s : State) (id : Nat) : Bool := s.paths.any fun e => match e.acc with | .cread c _ => c == id | _ => false
def cmdWrites (s : State) (id : Nat) : Bool :=
  s.paths.any fun e => match e.acc with | .cwrite c _ | .cadd c _ _ => c == id | _ => false
/-- Those of one of its K-steps. -/
def stepOut (s : State) (id k : Nat) : Bool :=
  s.paths.any fun e => match e.acc with | .cread c p | .cwrite c p => c == id && stepOf p == k | _ => false

/-- Steps a command runs, beyond its accesses. -/
def CmdOp.steps : CmdOp → Nat
  | .mark _ | .copy | .swb => 0
  | .mma _ _ _ _ n => n
  | .scan _ _ _ | .list _ _ _ _ _ _ _ | .mldb _ _ _ | .mrel | .mzero _ _ | .maccd _ _ | .mrd _ | .mwr _ _ | .epi _ _ _ _ _
  | .swbAcc _ _ _ => 1
/-- Commands that need the lease to run (R400). -/
def CmdOp.shell : CmdOp → Bool
  | .mma _ _ _ _ _ | .mldb _ _ _ => true
  | .mark _ | .copy | .scan _ _ _ | .list _ _ _ _ _ _ _ | .mrel | .mzero _ _ | .maccd _ _ | .mrd _ | .mwr _ _ | .epi _ _ _ _ _
  | .swb | .swbAcc _ _ _ => false
/-- The writes of a command cut at the ends of what it writes. -/
def trimWrites (s : State) (id : Nat) (limit : Nat → Nat) : State :=
  { s with paths := s.paths.filterMap fun e =>
    match e.acc with
    | .cwrite c pos =>
      if c = id then (if limit pos ≤ pos then none else some { e with n := min e.n (limit pos - pos) }) else some e
    | _ => some e }

/-! ## Scans and lists (R365, R387, R388) -/

/-- A scan's kept indices and dropped magnitude, by the threshold that it has read (R365). -/
def scanOut (c : Cmd) (ty : Ty) (n : Nat) : List Nat × Nat :=
  scanRun ty ((c.xs.getD 0 0).extractLsb' 0 32) (fun i => leNat (c.out (i * (ty.bits / 8)) (ty.bits / 8))) n

/-- One lane of a list command. -/
def listLane (c : Cmd) (op : BitVec 2) (ty : Ty) (l : Nat) : ListRun :=
  let a := c.idx.getD l 0
  let b := c.idx.getD (64 + l) 0
  let d := c.idx.getD (128 + l) 0
  listLoop op ty (bits (c.xs.getD 0 0).toNat 0 2) (dCnt d) (dCnt a + dCnt b + 1) (listOf c (listPos l 0) (dCnt a)) (listOf c (listPos l 1) (dCnt b))
    none none ⟨[], false, false, 0⟩

def pairBytes (pos : Nat) (es : List (Nat × Nat)) : List Host.Cell :=
  (List.range es.length).flatMap fun i =>
    let e := es.getD i (0, 0)
    (List.range 8).map fun j => (pos + 8 * i + j, (toBytes 4 e.1 ++ toBytes 4 e.2).getD j 0)

/-- The registers a list command leaves (R387, R388). -/
def listDone (s : State) (r : Ref) (c : Cmd) (op : BitVec 2) (ty : Ty) (vd : R6) (pc : R5) (mask : W64) : State :=
  let ls := (List.range 64).filter fun l => mask.getLsbD l
  let outs := ls.map fun l => (l, listLane c op ty l)
  let bad := (outs.filter fun o => o.2.bad).map (·.1)
  let fl : Fl := orFlags (outs.map fun o => o.2.fl) ||| (if bad.isEmpty then 0 else fORDERR)
  let desc (l : Nat) (x : ListRun) : W32 :=
    BitVec.ofNat 32 (dOff (c.idx.getD (128 + l) 0) + x.out.length * 2 ^ 16 + (if x.full then 2 ^ 30 else 0))
  let s := (s.cleanRow r vd mask).modTask r.core r.slot fun t =>
    let row := t.row vd.toNat
    let row : Vector W32 64 := Vector.ofFn fun i : Fin 64 => match outs.find? fun o => o.1 == i.val with
      | some o => desc i.val o.2
      | none => row[i]
    let t := (t.lateRow vd.toNat row).modStm r.eng fun st =>
      st.lateP pc (outs.foldl (fun p o => if o.2.bad then p ||| (1 : W64) <<< o.1 else p &&& ~~~((1 : W64) <<< o.1)) (st.rp pc))
    { t with c := { t.c with vstat := t.c.vstat ||| fl } }
  match bad with
  | l :: _ => if (s.task r.core r.slot).c.trapen.getLsbD 1 then s.defer r cRINGERR (BitVec.ofNat 64 (2 ^ 63 + l)) else s
  | [] => s

/-! ## A command runs -/

/-- The accumulators a command reads, and the one it overwrites whole. -/
def CmdOp.accUse : CmdOp → List (BitVec 3) × Option (BitVec 3)
  | .mma _ _ a _ _ => ([a], none)
  | .mzero a _ | .mwr a _ => ([], some a)
  | .maccd a b => ([b], some a)
  | .mrd a => ([a], none)
  | .epi fn a b _ _ => (if fn = 5 then [a, b] else [a], none)
  | .swbAcc _ a _ => ([a], none)
  | .mark _ | .copy | .scan _ _ _ | .list _ _ _ _ _ _ _ | .mldb _ _ _ | .mrel | .swb => ([], none)

/-- A step of the command at the head of a queue, its data read: none where the command ended by it. -/
def runStepOf (s : State) (r : Ref) (c : Cmd) : Bool × State :=
  let t := s.task r.core r.slot
  let done (s : State) : Bool × State := (true, s.modCmd r c.id fun k => { k with phase := k.phase + 1 })
  match c.op with
  | .mark _ | .copy | .swb => done s
  | .scan ty n _ =>
    let ks := (scanOut c ty n).1
    let bs := toBytes 4 ks.length ++ ks.flatMap (toBytes 4)
    done (trimWrites (s.modCmd r c.id fun k => { k with buf := cellsPut k.buf scanPos bs }) c.id fun _ => scanPos + bs.length)
  | .list op ty _ _ _ _ mask =>
    let outs := ((List.range 64).filter fun l => mask.getLsbD l).map fun l => (l, listLane c op ty l)
    let s := s.modCmd r c.id fun k => { k with buf := k.buf ++ outs.flatMap fun o => pairBytes (listPos o.1 2) o.2.out }
    done (trimWrites s c.id fun pos =>
      listPos (pos / 2 ^ 16) 2 + 8 * ((outs.find? fun o => o.1 == pos / 2 ^ 16).elim 0 fun o => o.2.out.length))
  | .mma fn ty acc breg _ =>
    let src := regionReads s r.core t.cid fn ty (breg + c.phase)
    let s := src.foldl (fun s x => eccRead s x.1 x.2) s
    if src.any fun x => homePoison s x.1 x.2 then (false, soften (endCmd s r c.id) r cPOISON (BitVec.allOnes 64) true)
    else
      let s := (runStep s r c fn ty acc breg c.phase).modShell r.core fun sh => { sh with cmds := sh.cmds + 1 }
      done (s.modCmd r c.id fun k => { k with buf := k.buf.filter fun x => stepOf x.1 > c.phase })
  | .mldb ty breg form => done ((runMldb s r c ty breg form).modShell r.core fun sh => { sh with cmds := sh.cmds + 1 })
  | .mrel => done (s.modShell r.core fun sh => sh.free s.cycle r.core)
  | .mzero a ty => done (s.setTask r.core r.slot (t.setAccu a { Accu.empty with aty := ty, oty := ty }))
  | .maccd a b => done (s.setTask r.core r.slot (t.setAccu a (t.accu b)))
  | .mrd a => done (s.modCmd r c.id fun k => { k with buf := accBytes (t.accu a) })
  | .mwr a ty => done (s.setTask r.core r.slot (t.setAccu a (accFrom c ty)))
  | .epi fn a b ty mode =>
    let (ok, s) := runEpi s r c fn a b ty mode
    if ok then done s else (false, s)
  | .swbAcc fn a ty =>
    let (ok, s) := runStore s r (c.reread fn ty (t.accu a))
    if ok then done s else (false, s)

/-- A step of a command: its accumulators' words corrected, or POISON where one is uncorrectable (R255, R256). -/
def runCmd (s : State) (r : Ref) (c : Cmd) : Bool × State :=
  let (rd, wr) := c.op.accUse
  let s := rd.foldl (fun s a => eccRead s (accKey r.core a.toNat 0) (2 ^ 15)) s
  if rd.any fun a => badWord s (accKey r.core a.toNat 0) (2 ^ 15) then
    (false, soften (endCmd s r c.id) r cPOISON (BitVec.allOnes 64) true)
  else
    let s := match wr with | some a => eccWrite s (accKey r.core a.toNat 0) (2 ^ 15) | none => s
    runStepOf s r c

/-! ## Completion -/

/-- A command's arrival at its gate (R206): none while no task of its kind is resident there. -/
def gateArrival (s : State) (r : Ref) (c : Cmd) : Option State :=
  let t := s.task r.core r.slot
  if c.gate = 0 then some s
  else
    match gateOwner s r c.gateCore with
    | none => none
    | some sl =>
      let s := if c.gateCore = r.core then s else (⟨t.cid, some (r, t.tid), dieOf r.core⟩ : Who).harden s
      match ((s.task c.gateCore sl).gate c.gate).arrive (inEight r.core) 1 with
      | some g => some (s.modTask c.gateCore sl fun t => t.setGate c.gate g)
      | none => some (s.defer r cGATEOVF (BitVec.ofNat 64 c.gate))

/-- A gather or scatter counts its out-of-range indices in its handle, before the handle leaves it (R207, R208). -/
def Cmd.countOor (c : Cmd) (t : Task) : Task :=
  match c.op, c.xs with
  | .copy, [n, h] =>
    let h : R5 := h.extractLsb' 0 5
    t.setH h (hOor (t.h.get h.toFin) n.toNat)
  | _, _ => t
/-- The handles of a command that has ended: a producer's is FULL, a consumer's FREE (R202). -/
def endHandles (t : Task) (c : Cmd) (cycle : Nat) : Task :=
  let t := match c.prod with | some h => t.fillH h cycle | none => t
  c.cons.foldl (fun t h => t.freeH h cycle) t

/-- Out-of-range indices, dropped magnitude, list registers and counts enter when the command completes. -/
def finishCmd (s : State) (r : Ref) (c : Cmd) : State :=
  let s := s.modTask r.core r.slot fun t => endHandles (c.countOor t) c s.cycle
  let s := match c.op with
    | .scan ty n layer => s.modTask r.core r.slot fun t => dmagAdd t layer (scanOut c ty n).2
    | .list op ty vd _ _ pc mask => listDone s r c op ty vd pc mask
    | .swbAcc _ _ _ => s.modTask r.core r.slot fun t => { t with sck := sckAdd t.sck (c.xs.getD 1 0) }
    | .mark _ | .copy | .mma _ _ _ _ _ | .mldb _ _ _ | .mrel | .mzero _ _ | .maccd _ _ | .mrd _ | .mwr _ _ | .epi _ _ _ _ _
    | .swb => s
  s.modSt r fun st => { st with cq := st.cq.filter fun k => k.id != c.id }

/-- Whether the M task of a core may run a shell command now (R119, R400): a command that has begun goes on past the cap. -/
def mayRun (s : State) (r : Ref) (op : CmdOp) : Bool :=
  let sh := shellAt s r.core
  !op.shell || (sh.holder == some r.core && (!sh.capped s.cycle || midCommand s r.core))

/-- A scan whose threshold is still to be read, which it is once, as it starts at the head of its queue (R365). -/
def thrDue (c : Cmd) : Option Nat := match c.op with | .scan _ _ l => if c.xs.isEmpty then some l else none | _ => none
/-- Whether the bytes that the next step of a command needs are all there: those of its K-step, or all that it reads. -/
def stepFed (s : State) (c : Cmd) : Bool :=
  match c.op with
  | .mma _ _ _ _ _ => !stepOut s c.id c.phase
  | op => !cmdReads s c.id && !(op.moves && cmdWrites s c.id)

/-- The handle of an operand fetch goes on (R200, R202, R396): FREE, the fetch of the next K-step takes it; FULL, the shell reads from it. -/
def handleStep (s : State) (r : Ref) (c : Cmd) : Option State :=
  let h := sHdl c.s1
  let t := s.task r.core r.slot
  if c.prod.isSome then none
  else if c.cons.isEmpty then
    if t.hst h = 0 then some ((s.setTask r.core r.slot (t.setHState h 1)).modCmd r c.id fun k => { k with prod := some h }) else none
  else if t.hst h = 2 then some ((runCmd s r c).2.modTask r.core r.slot fun t => if t.hst h = 2 then t.setHState h 3 else t)
  else none

/-- A command of M that entered its queue after a store-engine instruction had issued waits until that has read the accumulator that both
name (R422). -/
def readAhead (s : State) (r : Ref) (c : Cmd) : Bool :=
  let st := (s.task r.core r.slot).stm .s
  let reads (d : Cmd) : Bool := match d.op with | .swbAcc _ a _ => c.op.accs.contains a && d.phase = 0 | _ => false
  r.eng == .m && (st.cq.any reads || st.blk.any fun b => b.effs.any fun | .cmd d => reads d | _ => false)
/-- What the head command of a queue can do next, if anything: run a step, or complete (R151, R184, R398). -/
def headStep (s : State) (r : Ref) : Option State :=
  match (s.stm r).cq with
  | [] => none
  | c :: cq =>
    match c.op with
    | .mark _ => none
    | op =>
      if c.phase < op.steps then
        if let some l := thrDue c then some (s.modCmd r c.id fun k => { k with xs := [tget 0 (s.task r.core r.slot).c.thr l] })
        else if cmdStopped (s.task r.core r.slot) (c :: cq) c (c.phase * 2 ^ 15) || readAhead s r c then none
        else if c.viaHandle && c.cons.isEmpty then handleStep s r c
        else if !stepFed s c || !mayRun s r op then none
        else if c.viaHandle then handleStep s r c
        else some (runCmd s r c).2
      else if cmdReads s c.id || cmdWrites s c.id || cmdFenced s r c then none
      else (gateArrival s r c).map fun s => finishCmd s r c

/-- R398: the head command of a stream's queue runs its next step, or completes. -/
def execCommandComplete (r : Ref) (s : State) : Out := .next ((headStep s r).getD s)

/-! ## Handles (R202, R203) -/

/-- The queued command that a handle waits for, with its stream. -/
def handleCmd (s : State) (core slot : Nat) (p : Cmd → Bool) : Option (Ref × Cmd) :=
  Eng.all.findSome? fun e =>
    let r : Ref := ⟨core, slot, e⟩
    ((s.stm r).cq.find? p).map fun c => (r, c)

/-- The writes of a producer are all performed; of an operand fetch, those of its K-step. -/
def filled (s : State) (core slot : Nat) (h : R5) : Option (Ref × Cmd) :=
  match handleCmd s core slot fun c => c.prod == some h with
  | some (r, c) =>
    if cmdFenced s r c then none
    else if c.viaHandle then (if stepOut s c.id c.phase then none else some (r, c))
    else if cmdReads s c.id || cmdWrites s c.id || c.phase < c.op.steps then none
    else some (r, c)
  | none => none
/-- The reads of a consumer are all performed; of an operand, its step has run. -/
def drained (s : State) (core slot : Nat) (h : R5) : Option (Ref × Cmd) :=
  match handleCmd s core slot fun c => c.cons.contains h with
  | some (r, c) =>
    if if c.viaHandle then (s.task core slot).hst h != 3 else cmdReads s c.id then none else some (r, c)
  | none => none

/-- R202: the handle becomes FULL, and the command's gate arrival is made where a task stands to take it. That of an operand fetch stays
with its command, which reads from it. -/
def execHandleFull (core slot : Nat) (h : R5) (s : State) : Out :=
  match filled s core slot h with
  | some (r, c) =>
    if c.viaHandle then
      .next ((s.modTask core slot fun t => t.setHState h 2).modCmd r c.id fun k => { k with prod := none, cons := [h] })
    else
      let s := (s.modTask core slot fun t => (c.countOor t).fillH h s.cycle).modCmd r c.id fun k => { k with prod := none, xs := [] }
      match gateArrival s r c with
      | some s => .next (s.modCmd r c.id fun k => { k with gate := 0 })
      | none => .next s
  | none => .next s
/-- R202: the handle becomes FREE. -/
def execHandleFree (core slot : Nat) (h : R5) (s : State) : Out :=
  match drained s core slot h with
  | some (r, c) =>
    .next ((s.modTask core slot fun t => (c.countOor t).freeH h s.cycle).modCmd r c.id fun k =>
      { k with cons := k.cons.filter (· != h), xs := if k.op == .copy then [] else k.xs })
  | none => .next s

/-- R203: the wait for a handle FREE for 2^20 cycles, with no producer queued, traps HSTALL. -/
def execHstallTimeout (r : Ref) (s : State) : Out :=
  let t := s.task r.core r.slot
  let st := t.stm r.eng
  let h : R5 := BitVec.ofNat 5 (st.waitH - 1)
  let since := (max (tget 0 t.hSince h.toNat) (t.since + 1)) - 1
  if t.live && st.blk.isSome && st.hold = .handle && st.waitH ≠ 0 && t.hst h = 0 && s.cycle - since ≥ 2 ^ 20 &&
      !(Eng.all.any fun e => (t.stm e).cq.any fun c => c.prod == some h || (c.viaHandle && c.phase < c.op.steps && sHdl c.s1 == h)) then
    .next (trapAt s r cHSTALL (BitVec.ofNat 64 (0x300 + h.toNat)) false)
  else .next s

/-! ## What moves by itself -/

/-- Streams with a queued command or marker, in slot order. -/
def queueRefs (s : State) : List Ref :=
  s.tasks.flatMap fun k => (Eng.all.filter fun e => !(k.2.stm e).cq.isEmpty).map fun e => ⟨k.1 / 4, k.1 % 4, e⟩
/-- A marker that stands at the head of its queue. -/
def markFirst (s : State) (r : Ref) : Bool :=
  match (s.stm r).cq with
  | c :: _ => (match c.op with | .mark _ => true | _ => false)
  | [] => false

/-- The first queue event that can happen. -/
def queueMove (s : State) : Option Instr :=
  (queueRefs s).findSome? fun r =>
    if markFirst s r then some (.markerRetire r)
    else if (headStep s r).isSome then some (.commandComplete r)
    else
      (s.stm r).cq.findSome? fun c =>
        match c.prod with
        | some h => if (filled s r.core r.slot h).isSome then some (.handleFull r.core r.slot h) else none
        | none => (c.cons.find? fun h => (drained s r.core r.slot h).isSome).map fun h => .handleFree r.core r.slot h
/-- The first lease event that can happen. -/
def leaseMove (s : State) : Option Instr :=
  (List.range 12).findSome? fun k =>
    if h : k < 12 then
      let sh := s.shells[k]
      match sh.holder with
      | none => if sh.reqs.isEmpty then none else some (.leaseGrant k)
      | some c => if sh.capped s.cycle && !midCommand s c then some (.leaseCap k) else none
    else none

end Sys2Proof.Machine
end

