-- ==== Sys2Proof/Machine/Control.lean ====
section
/-! DEFINITION. Blocks, exits, control registers, traps, loops, engine events, rendezvous, barriers, monitors, task, stage, abort
and segment instructions (R125 to R150, R309 to R338, R116 to R118). -/

namespace Sys2Proof.Machine

/-- Trap ILLOP with the head word (R251). -/
def illop (s : State) : Res := .trap cILLOP (s.headWord.zeroExtend 64)

/-! ## Headers, exits and the commit -/

/-- R125, R288, R133, R150: the block fetched for the moving stream is opened, unless its encodings fail, a token it needs can never
come, the abort line is raised, or it must wait for tokens; a trap comes before the line (R154). Without fetched words nothing begins. -/
def execBlockHeader (f : Sync) (_ni : BitVec 5) (_nx : BitVec 2) (ac : Bool) (s : State) : Out :=
  let st := s.me
  let t := s.my
  match st.blk, st.fetched with
  | none, some ws =>
    if !t.live || !st.live || st.stopped then .next s
    else
      match st.illegal with
      | some ev => .next (trapAt s s.cur cILLOP ev false)
      | none =>
        if t.c.tl == 0 && straddles st.loop st.pc ws.length then .next (trapAt s s.cur cILLOP ((ws.headD 0).zeroExtend 64) false)
        else
          let aborts := t.c.tl == 0 && (st.first || ac) && abortRaised s s.cur.core t
          match tokens? s f with
          | .dead k => .next (trapAt s s.cur cHSTALL (BitVec.ofNat 64 (0x100 + k)) false)
          | .empty => .next (if aborts then abortTask s s.cur.core s.cur.slot else s.held .token)
          | .there => .next (if aborts then abortTask s s.cur.core s.cur.slot else openBlock s f ws)
  | _, _ => .next s

/-- Every exit issues (R311); it is judged when the block ends. -/
def exit (f : Sync) (pred : R5) (kind : BitVec 2) (disp : BitVec 14) (us rs : List R5) (s : State) : Out :=
  issue32 s f ⟨us, if pred = 31 then [] else [pred], [], rs⟩ fun s =>
    .go (s.modBlk fun b => { b with exits := b.exits ++ [(pred, kind, disp, s.headWord)] })

/-- R128 jump. -/
def execJump (f : Sync) (pred : R5) (disp : BitVec 14) (s : State) : Out := exit f pred 0 disp [] [] s
/-- R128, R312 call. -/
def execCall (f : Sync) (pred : R5) (disp : BitVec 14) (s : State) : Out := exit f pred 1 disp [31] [] s
/-- R128, R312 return. -/
def execRet (f : Sync) (pred : R5) (s : State) : Out := exit f pred 2 0 [31] [31] s
/-- R128, R124 done. -/
def execDone (f : Sync) (pred : R5) (s : State) : Out := exit f pred 3 0 [] [] s

def bufWord (st : EStream) (a : Nat) : Option W32 := (st.ibuf.find? fun w => w.1 == a).map (·.2)
/-- The address of the k-th word from one on. -/
def wordAddr (pc : W64) (k : Nat) : Nat := (pc + BitVec.ofNat 64 (4 * k)).toNat
/-- The words of the running body as the loop begins: what the stream's instruction buffer holds, else what a fetch would read (R145, R196). -/
def bodyWords (s : State) (l : Loop) : List (Nat × W32) :=
  (List.range l.len).filterMap fun k =>
    let a := wordAddr l.start k
    match bufWord s.me a with
    | some w => some (a, w)
    | none => match gRead s.who a 4 .ex s with
      | .ok (bs, _, false) _ => some (a, BitVec.ofNat 32 (leNat bs))
      | _ => none
/-- After a loopgo has committed, the replay reads the body as it stands now. -/
def captureBody (b : Block) (s : State) : State :=
  if b.effs.any (fun | .loopgo _ => true | _ => false) && s.me.loop.run then s.modMe fun st => { st with body := bodyWords s st.loop } else s

/-- R129, R174: the commit of the moving stream's block, which waits for room in the side log; an abort in it ends the task's staging
(R259). -/
def execBlockCommit (s : State) : Out :=
  match s.me.blk with
  | none => .next s
  | some b =>
    let ends := (exitTrap s.my s.cur.eng b).isNone
    if b.words.isEmpty && ends && !logRoom s s.cur.core b.effs then .next (s.held .memory)
    else
      let s' := commitBlock s s.cur
      if ends && s'.me.blk.isNone then
        .next (captureBody b (if b.effs.contains .abort then s'.who.harden s' else s'))
      else .next s'

/-- R248, R250, R268: the first trap that waits for the moving stream's block boundary is taken there at TL0, after that of an earlier
stream that is due as well. -/
def execDeferredTrap (s : State) : Out :=
  let st := s.me
  match st.blk, st.deferred with
  | none, d :: ds =>
    if st.stopped || !st.live || s.my.c.tl ≠ 0 then .next s
    else
      match dueBefore s.my s.cur.eng with
      | some (e, d') =>
        let o : Ref := ⟨s.cur.core, s.cur.slot, e⟩
        .next (trapAt (s.modSt o fun st => { st with deferred := st.deferred.tail }) o d'.code d'.eval true)
      | none => .next (trapAt (s.modMe fun st => { st with deferred := ds }) s.cur d.code d.eval true)
  | _, _ => .next s

/-! ## SYS (R313, R314) -/

/-- R314 nop. -/
def execNop (f : Sync) (s : State) : Out := issue32 s f ⟨[], [], [], []⟩ fun s => .go s
/-- R314 trap: TRAPI with x[a][62:0]. -/
def execTrap (f : Sync) (a : R5) (s : State) : Out :=
  issue32 s f ⟨[a], [], [], [a]⟩ fun s => .trap cTRAPI (s.x a &&& 0x7FFF_FFFF_FFFF_FFFF)
/-- R314, R249 eret. -/
def execEret (f : Sync) (s : State) : Out :=
  issue32 s f ⟨[], [], [], []⟩ fun s =>
    if s.my.c.tl = 0 || s.my.trapEng != s.cur.eng then illop s else .go (s.addEff .eret)
/-- R314 brk: TRAPI with 2^63 + x[a][62:0]. -/
def execBrk (f : Sync) (a : R5) (s : State) : Out :=
  issue32 s f ⟨[a], [], [], [a]⟩ fun s => .trap cTRAPI (s.x a ||| 0x8000_0000_0000_0000)
/-- R314 kill: the context is killed with KILLTRAP at issue. -/
def execKill (f : Sync) (s : State) : Out := issue32 s f ⟨[], [], [], []⟩ fun s => .stop (kill s s.my.cid 0x11)

/-! ## CSR (R315 to R317) -/

/-- A write to NBV that would leave a VER other than 1 or 2 traps ILLOP with that value (R317). -/
def csrWrite (n : Nat) (new : W64) (e : Eff) (s : State) : Res :=
  let v := new &&& 0xFF
  if n = 0x004 && !(v == 1 || v == 2) then .trap cILLOP v else .go (s.addEff e)

/-- R316 rdc. -/
def execRdc (g : Guard) (d : R5) (n : BitVec 14) (s : State) : Out :=
  issue64 s g ⟨[d], [], [], []⟩ fun s => .go (s.setX d (s.csr n.toNat))
/-- R316 wrc. -/
def execWrc (g : Guard) (a : R5) (n : BitVec 14) (s : State) : Out :=
  issue64 s g ⟨[a], [], [], [a]⟩ fun s => csrWrite n.toNat (s.x a) (.csr n.toNat (s.x a)) s
/-- R316 swpc. -/
def execSwpc (g : Guard) (d a : R5) (n : BitVec 14) (s : State) : Out :=
  issue64 s g ⟨[d, a], [], [], [a]⟩ fun s => csrWrite n.toNat (s.x a) (.csr n.toNat (s.x a)) (s.setX d (s.csr n.toNat))
/-- R316 setc. -/
def execSetc (g : Guard) (d a : R5) (n : BitVec 14) (s : State) : Out :=
  issue64 s g ⟨[d, a], [], [], [a]⟩ fun s =>
    csrWrite n.toNat (s.csr n.toNat ||| s.x a) (.csrOr n.toNat (s.x a)) (s.setX d (s.csr n.toNat))
/-- R316 clrc. -/
def execClrc (g : Guard) (d a : R5) (n : BitVec 14) (s : State) : Out :=
  issue64 s g ⟨[d, a], [], [], [a]⟩ fun s =>
    csrWrite n.toNat (s.csr n.toNat &&& ~~~(s.x a)) (.csrAnd n.toNat (s.x a)) (s.setX d (s.csr n.toNat))

/-! ## LOOP (R318 to R320) -/

/-- At TL1 and TL2 the loop instructions trap ILLOP (R320). -/
def loopIns (g : Guard) (us : List R5) (body : State → Res) (s : State) : Out :=
  issue64 s g ⟨us, [], [], us⟩ fun s => if s.my.c.tl ≠ 0 then illop s else body s

/-- R319 loopn. -/
def execLoopn (g : Guard) (a : R5) (lvl : BitVec 3) (cnt : BitVec 11) (s : State) : Out :=
  loopIns g [a] (fun s => .go (s.addEff (.lc lvl.toNat ((s.x a + cnt.zeroExtend 64).extractLsb' 0 32)))) s
/-- R319 lstride. -/
def execLstride (g : Guard) (d a : R5) (lvl ent : BitVec 3) (str : BitVec 8) (s : State) : Out :=
  loopIns g [a] (fun s => .go (s.addEff (.stride ent.toNat
    (if lvl = 0 then ⟨0, 0, 0⟩ else ⟨lvl, d, s.x a + str.signExtend 64⟩)))) s
/-- R319, R143 loopgo. -/
def execLoopgo (g : Guard) (len : BitVec 14) (s : State) : Out :=
  loopIns g [] (fun s => if s.me.loop.run then illop s else .go (s.addEff (.loopgo len.toNat))) s
/-- R319, R143 loopbrk. -/
def execLoopbrk (g : Guard) (s : State) : Out := loopIns g [] (fun s => .go (s.addEff .loopbrk)) s

/-! ## Events, markers, rendezvous (R136 to R139, R321 to R325) -/

/-- R136, R322 post. -/
def execPost (f : Sync) (e : R5) (n : BitVec 16) (s : State) : Out :=
  issue32 s f ⟨[], [], [], []⟩ fun s => .go (s.addEff (.entry (sigEntry s (.post e.toNat n.toNat))))

/-- R136, R322 await: holds until the count is at least n, then takes n. -/
def execAwait (f : Sync) (e : R5) (n : BitVec 16) (s : State) : Out :=
  issue32 s f ⟨[], [], [], []⟩ fun s =>
    let c : Nat := if h : e.toNat < 16 then s.my.e[e.toNat] else 0
    if c < n.toNat then .hold .event s
    else
      let s := s.modMy fun t => if h : e.toNat < 16 then { t with e := t.e.set e.toNat (c - n.toNat) } else t
      .go ((s.modBlk fun b => { b with taken := b.taken ++ [.event e.toNat n.toNat] }).acquire .core)

/-- R137, R323 mark. -/
def execMark (f : Sync) (n : BitVec 16) (s : State) : Out :=
  issue32 s f ⟨[], [], [], []⟩ fun s => .go (s.addEff (.cmd (newCmd s (.mark n))))

/-- R325 rdvset. -/
def execRdvset (g : Guard) (a : R5) (mask : BitVec 4) (num : BitVec 10) (s : State) : Out :=
  issue64 s g ⟨[a], [], [], [a]⟩ fun s =>
    .go (s.addEff (.csr 0x031 (0#43 ++ 1#1 ++ mask ++ (s.x a + num.zeroExtend 64).extractLsb' 0 16)))

/-- A marker of a number still queued in an engine's command queue. -/
def hasMark (st : EStream) (n : BitVec 16) : Bool := st.cq.any fun c => c.op == .mark n

/-- R139 rdvwait: HSTALL 0x200 when the rendezvous can never fire. -/
def execRdvwait (g : Guard) (s : State) : Out :=
  issue64 s g ⟨[], [], [], []⟩ fun s =>
    let v := s.view.c.rdv
    let arr := s.view.rdvArr
    let num : BitVec 16 := v.extractLsb' 0 16
    let dead := Eng.all.all fun e =>
      !v.getLsbD (16 + e.idx.val) || arr.getLsbD e.idx.val || (!(s.my.stm e).live && !hasMark (s.my.stm e) num)
    if v.getLsbD 21 then .go (s.acquire .core)
    else if !v.getLsbD 20 || dead then .trap cHSTALL 0x200
    else .hold .rendezvous s

/-- R137, R138: a marker at the head of its queue, the commands ahead of it done and no older xfence waiting (R192), retires: LM, and the
engine's arrival. -/
def execMarkerRetire (r : Ref) (s : State) : Out :=
  let t := s.task r.core r.slot
  match (t.stm r.eng).cq with
  | c :: cq =>
    match c.op with
    | .mark n =>
      if cmdFenced s r c then .next s
      else
      let t := t.modStm r.eng fun st => { st with cq := cq, lm := n.zeroExtend 32 }
      let v := t.c.rdv
      let arr := if v.getLsbD 20 && v.getLsbD (16 + r.eng.idx.val) && v.extractLsb' 0 16 == n then t.rdvArr ||| (1#4 <<< r.eng.idx.val)
        else t.rdvArr
      .next (s.setTask r.core r.slot { t with rdvArr := arr, c := { t.c with rdv := rdvFire v arr } })
    | _ => .next s
  | [] => .next s

/-! ## Barriers (R146 to R148, R326) -/

/-- The cores that are members at a level (R146, R147). -/
def domCores (dom : W64) (core lvl : Nat) : List Nat :=
  if lvl = 2 then ((List.range 8).filter fun i => dom.getLsbD i).map fun i => 8 * eightOf core + i
  else if lvl = 3 then ((List.range 24).filter fun i => dom.getLsbD (8 + i)).map fun i => 24 * dieOf core + i
  else ((List.range 4).filter fun d => dom.getLsbD (32 + d)).flatMap fun d =>
    ((List.range 24).filter fun i => dom.getLsbD (8 + i)).map fun i => 24 * d + i

/-- Entries, logged accesses and commands a member had before it arrived, still to be performed, of a saved task too (R148). -/
def before (s : State) (tid uid : Nat) (eng : Option Eng) : Bool :=
  let on (e : Eng) : Bool := eng.all (· == e)
  let out (e : Entry) : Bool := e.tid == tid && e.uid < uid && !e.inBlock && on e.r.eng
  let logd (l : LogEnt) : Bool := l.e.tid == tid && l.age < uid && on l.e.r.eng
  let queued (t : Task) : Bool := t.tid == tid && t.live && Eng.all.any fun g => on g && (t.stm g).cq.any fun c => c.id < uid
  (s.paths.any out) || (s.logs.any logd) || (s.tasks.any fun k => queued k.2) ||
  s.jobs.any fun j => (j.paths.any out) || (j.logs.any logd) || queued j.t

/-- Whether a phase is complete: every member has arrived, and what each committed before arriving is performed. -/
def phaseDone (s : State) (p : Phase) (members : List Nat) : Bool :=
  (members.all fun m => p.arrived.any fun a => a.1 == m) &&
  p.arrived.all fun a => !before s a.2.1 a.2.2 (if p.lvl = 1 then Eng.all[a.1]? else none)

/-- The dsync of a member: it arrives once, its DOM is compared with the first arrival's, it holds, and it passes when the phase is
complete, with PH inverted (R148). -/
def dsyncAt (s : State) (cid id lvl me : Nat) (members : List Nat) (sc : Scope) : Res :=
  let dom := s.view.c.dom
  let uid := s.uid
  let same (p : Phase) : Bool := p.cid == cid && p.id == id && p.lvl == lvl
  let differs (p : Phase) : Bool := lvl ≥ 2 && p.dom != (dom &&& 0xFF_FFFF_FFFF)
  match s.phases.find? (fun p => same p && (p.arrived.any fun a => a.1 == me) && !p.passed.contains me) with
  | some p =>
    if differs p then .stop (trapAt s s.cur cILLOP dom false)
    else if phaseDone s p members || !p.passed.isEmpty then
      let p' := { p with passed := me :: p.passed }
      let s := { s with phases := s.phases.filterMap fun q => if q == p then
        (if p.passed.length + 1 ≥ p.arrived.length then none else some p') else some q }
      .go (((s.modMy (·.flipPh lvl)).modBlk fun b => { b with taken := b.taken ++ [.dsync p' me] }).acquire sc)
    else .hold .dsync { s with uid := uid + 1 }
  | none =>
    match s.phases.find? (fun p => same p && p.passed.isEmpty) with
    | some p =>
      let s := { s with uid := uid + 1, phases := s.phases.map fun q =>
        if q == p then { p with arrived := p.arrived ++ [(me, s.my.tid, uid)] } else q }
      if differs p then .stop (trapAt s s.cur cILLOP dom false) else .hold .dsync s
    | none => .hold .dsync { s with uid := uid + 1, phases := s.phases ++
        [⟨cid, id, lvl, dom &&& 0xFF_FFFF_FFFF, [(me, s.my.tid, uid)], []⟩] }

/-- R148, R326 dsync. -/
def execDsync (f : Sync) (n : BitVec 16) (s : State) : Out :=
  issue32 s f ⟨[], [], [], []⟩ fun s =>
    let lvl := n.toNat
    let core := s.cur.core
    if s.my.c.tl ≠ 0 then .trap cILLOP (n.zeroExtend 64)
    else if lvl = 0 then
      if before s s.my.tid s.uid (some s.cur.eng) then .hold .dsync s else .go (s.acquire .core)
    else if lvl = 1 then
      dsyncAt s s.my.cid (16 + s.my.tid) 1 s.cur.eng.idx.val
        ((Eng.all.filter fun e => (s.my.stm e).live).map fun e => e.idx.val) .core
    else
      let dom := s.view.c.dom
      let ms := domCores dom core lvl
      let id := bits dom.toNat 36 4 + 2 ^ 32 * (if lvl = 2 then eightOf core else if lvl = 3 then dieOf core else 0)
      if ms.contains core then
        dsyncAt s s.my.cid id lvl core ms (if lvl = 2 then .eight else if lvl = 3 then .die else .package)
      else .trap cILLOP dom

/-! ## Monitors (R140, R141, R327, R328) -/

/-- The space a monitor's space code names (R327). -/
def monSpace (c : BitVec 3) : Option Space :=
  if c = 0 then some .g else if c = 2 then some .k else if c = 3 then some .d else none

/-- The 256-byte line of an address: of the global address, or of the memory key of a local one. -/
def monLine (s : State) (r : Ref) (sp : Space) (a : Nat) : Nat :=
  if sp = .g then a / 256 else localKey s r sp 0 a / 256

/-- R328 mon: its arm stands over an earlier mclr of the block, which takes effect before it (R127). -/
def execMon (g : Guard) (a : R5) (sp3 : BitVec 3) (off : BitVec 14) (s : State) : Out :=
  issue64 s g ⟨[a], [], [], [a]⟩ fun s =>
    let ad := (s.x a + off.signExtend 64).toNat
    match monSpace sp3 with
    | none => .trap cPROT (BitVec.ofNat 64 ad)
    | some sp =>
      match checkAddr s s.cur s.my.cid sp ad 1 false with
      | some (c, v) => .trap c v
      | none => .go (s.modMe fun st => { st with
          mon := some ⟨sp, monLine s s.cur sp ad, false⟩
          blk := st.blk.map fun b => { b with armed := true, effs := b.effs.filter (· != .mclr) } })

/-- R141 mwait. -/
def execMwait (g : Guard) (d a : R5) (s : State) : Out :=
  issue64 s g ⟨[d, a], [], [], [a]⟩ fun s =>
    let wake (c : W64) : Res := .go ((s.setX d c).modMe fun st => { st with mon := none, blk := st.blk.map fun b => { b with began := none, timeout := false } })
    match s.me.mon with
    | none => wake 3
    | some m =>
      if m.trig then wake 1
      else if s.x a = 0 || (match s.blk with | some b => b.timeout | none => false) then wake 2
      else .hold .monitor (s.modBlk fun b => { b with began := some (b.began.getD s.cycle) })

/-- R328 mclr. -/
def execMclr (g : Guard) (s : State) : Out := issue64 s g ⟨[], [], [], []⟩ fun s => .go (s.addEff .mclr)

/-- R141: the x[a] cycles of a held mwait have passed; it will wake with code 2. -/
def execMwaitTimeout (r : Ref) (s : State) : Out :=
  let st := s.stm r
  match st.blk with
  | some b =>
    match st.hold, b.began with
    | .monitor, some c0 =>
      if s.cycle - c0 ≥ (st.rx ((b.words.headD 0).extractLsb' 11 5)).toNat then
        .next (s.modSt r fun st => { st with blk := some { b with timeout := true } })
      else .next s
    | _, _ => .next s
  | none => .next s

/-! ## Tasks (R329 to R336) -/

/-- The record of a spawn is read at issue as a strong load (R332); what follows is done when it returns. -/
def spawnIns (r : Bool) (g : Guard) (d a : R5) (s : State) : Out :=
  issue64 s g ⟨[d, a], [], [], [a]⟩ fun s =>
    let ad := s.x a
    if bits ad.toNat 0 6 ≠ 0 then .trap cALIGN ad
    else
      match checkAddr s s.cur s.my.cid .g ad.toNat 64 false with
      | some (c, v) => .trap c v
      | none =>
        let e := { sigEntry s (.spawn r 0 d) with uid := s.uid }
        .go ((s.load 1 .strong .core .g 0 ad.toNat 64 (.spawn r d ad)).addEff (.entry e))

/-- R332 spawn. -/
def execSpawn (g : Guard) (d a : R5) (s : State) : Out := spawnIns false g d a s
/-- R332, R333 spawnr. -/
def execSpawnr (g : Guard) (d a : R5) (s : State) : Out := spawnIns true g d a s

/-- R334 evsig. -/
def execEvsig (g : Guard) (a : R5) (imm : BitVec 14) (s : State) : Out :=
  issue64 s g ⟨[a], [], [], [a]⟩ fun s =>
    .go (s.addEff (.entry (sigEntry s (.evsig (((s.x a).toNat + imm.toNat) % 65536)))))

/-- Whether a stream already waits on an event. -/
def isWaiter (s : State) (cid name : Nat) (w : Waiter) : Bool :=
  s.events.any fun e => e.cid == cid && e.name == name && (e.hw.contains w || e.ovf.contains w)

/-- R334 evwait. -/
def execEvwait (g : Guard) (a : R5) (imm : BitVec 14) (s : State) : Out :=
  issue64 s g ⟨[a], [], [], [a]⟩ fun s =>
    let name := ((s.x a).toNat + imm.toNat) % 65536
    let w : Waiter := .stream s.cur s.my.tid
    if (match s.blk with | some b => b.evRel | none => false) then
      .go ((s.modBlk fun b => { b with evRel := false }).acquire .package)
    else if isWaiter s s.my.cid name w then .hold .event s
    else if eventFull s s.my.cid name && !slotFree s s.my.cid then .hold .event (armFull s s.my.cid)
    else
      match arriveWaiter s s.my.cid name w with
      | (true, s) => .go ((s.modBlk fun b => { b with taken := b.taken ++ [.evwait name] }).acquire .package)
      | (false, s) => .hold .event s

/-- Nodes of the graph a task belongs to. -/
def nnode (s : State) (t : Task) : Nat := match s.replays.find? (fun r => r.id == t.replay) with | some r => r.total | none => 0

/-- R334 joindec. -/
def execJoindec (g : Guard) (a : R5) (s : State) : Out :=
  issue64 s g ⟨[a], [], [], [a]⟩ fun s =>
    let k := s.x a
    if bits k.toNat 39 24 ≠ 0 || (k.getLsbD 63 && (!s.my.isNode || bits k.toNat 0 16 ≥ nnode s s.my)) then .trap cILLOP k
    else .go (s.addEff (.entry (sigEntry s (.joindec k))))

/-- R335 yield. -/
def execYield (g : Guard) (s : State) : Out := issue64 s g ⟨[], [], [], []⟩ fun s => .go (s.addEff .yield)

/-- R330 tself. -/
def execTself (g : Guard) (d : R5) (s : State) : Out := issue64 s g ⟨[d], [], [], []⟩ fun s => .go (s.setX d s.my.key)

/-! ## Stage counters (R112 to R118) -/

/-- C[i] with the updates of the instance that have committed and those of the open block: none is infinite, from the commit of an update
to FINAL on (R112, R117). -/
def stageC (s : State) (t : Task) (i : Nat) : Option Nat :=
  match stageTab s t.part with
  | none => some 0
  | some x =>
    let c := (s.paths.filter fun e => e.tid == t.tid).foldl (fun c e => match e.acc with | .stage _ _ v => min v t.final | _ => c)
      (tget 0 x.counts i)
    if x.retired.contains i || ((s.paths.filter fun e => e.tid == t.tid).any fun e => match e.acc with
        | .stage _ _ v => decide (t.final ≤ v) | _ => false) then none
    else some (s.effs.foldl (fun c e => match e with | .stage _ v => min v t.final | _ => c) c)

/-- The stage table that holds the left neighbour of iteration i: its own part's, or another's of the same task (R113). -/
def leftTab (s : State) (t : Task) (i : Nat) : Option StageTab :=
  match stageTab s t.part with
  | none => none
  | some y => s.stages.find? fun x => x.grp == y.grp && x.lo ≤ i - 1 && i - 1 < x.hi
/-- Left(i) (R117): the counter of iteration i − 1, infinite once retired or below ILO. -/
def stageLeft (s : State) (t : Task) (i : Nat) : Option Nat :=
  if i = 0 || i ≤ t.ilo then none
  else
    match leftTab s t i with
    | none => none
    | some x => if x.retired.contains (i - 1) then none else some (tget 0 x.counts (i - 1))
/-- The scope of a waitl: its die, and the package when the left neighbour's table is homed on another die (R114). -/
def leftScope (s : State) (t : Task) (i : Nat) : Scope :=
  match stageTab s t.part, leftTab s t i with
  | some y, some x => if x.home = y.home then .die else .package
  | _, _ => .die

def stageIns (g : Guard) (us rs : List R5) (body : State → Res) (s : State) : Out :=
  issue64 s g ⟨us, [], [], rs⟩ fun s => if !s.my.staged then .trap cSTAGEERR 0 else body s
/-- x[a] + imm14 as the stage instructions take it (R117). -/
def stageArg (s : State) (a : R5) (imm : BitVec 14) : Nat := (s.x a + imm.zeroExtend 64).toNat

/-- R117 stgadv: the new value is taken at issue. -/
def execStgadv (g : Guard) (a : R5) (imm : BitVec 14) (s : State) : Out :=
  stageIns g [a] [a] (fun s => .go (s.addEff (.stage 0 ((stageC s s.my s.my.c.iter.toNat).getD 0 + stageArg s a imm)))) s
/-- R117, R118 stgjmp. -/
def execStgjmp (g : Guard) (a : R5) (imm : BitVec 14) (s : State) : Out :=
  stageIns g [a] [a] (fun s =>
    let v := stageArg s a imm
    match stageC s s.my s.my.c.iter.toNat with
    | some c => if v < c then .trap cSTAGEERR (BitVec.ofNat 64 v) else .go (s.addEff (.stage 1 v))
    | none => .go (s.addEff (.stage 1 v))) s
/-- R117, R114 waitl. -/
def execWaitl (g : Guard) (a : R5) (imm : BitVec 14) (s : State) : Out :=
  stageIns g [a] [a] (fun s =>
    let v := stageArg s a imm
    let i := s.my.c.iter.toNat
    let pass : Res := .go (s.acquire (leftScope s s.my i))
    if i = s.my.ilo || v = 0 then pass
    else
      match stageLeft s s.my i with
      | none => pass
      | some c => if c ≥ v then pass else .hold .stage s) s
/-- R117 stgrd: an infinite value reads as 0xFFFF. -/
def execStgrd (g : Guard) (d : R5) (imm : BitVec 14) (s : State) : Out :=
  stageIns g [d] [] (fun s =>
    let i := s.my.c.iter.toNat
    let c := if imm = 0 then stageC s s.my i else stageLeft s s.my i
    .go (s.setX d (BitVec.ofNat 64 (c.getD 0xFFFF)))) s

/-! ## The abort line (R149, R150, R337) -/

/-- R337 abort. -/
def execAbort (g : Guard) (s : State) : Out :=
  issue64 s g ⟨[], [], [], []⟩ fun s => if s.my.abgrp = 0 then .trap cILLOP 0 else .go (s.addEff .abort)
/-- R337 abchk. -/
def execAbchk (g : Guard) (s : State) : Out :=
  issue64 s g ⟨[], [], [], []⟩ fun s =>
    if s.my.c.tl = 0 && abortRaised s s.cur.core s.my then .stop (abortTask s s.cur.core s.cur.slot) else .go s
/-- R337 abrd. -/
def execAbrd (g : Guard) (d : R5) (s : State) : Out :=
  issue64 s g ⟨[d], [], [], []⟩ fun s => .go (s.setX d (if abortRaised s s.cur.core s.my then 1 else 0))
/-- R149: the raised line reaches a task of the group. -/
def execAbortLineArrival (core slot : Nat) (s : State) : Out :=
  let t := s.task core slot
  if t.live && t.abgrp != 0 && s.aborts.any (fun a => a.1 == t.cid && a.2.1 == t.abgrp) then
    .next (s.setTask core slot { t with line := true })
  else .next s

/-! ## Segments (R261 to R263, R338) -/

/-- R338 segb: the segment is open from the block's commit on. -/
def execSegb (g : Guard) (a : R5) (off : BitVec 14) (s : State) : Out :=
  issue64 s g ⟨[a], [], [], [a]⟩ fun s =>
    let ad := s.x a + off.signExtend 64
    if s.my.c.tl ≠ 0 || s.me.seg.isSome then illop s
    else if bits ad.toNat 0 4 ≠ 0 then .trap cALIGN ad
    else
      match checkAddr s s.cur s.my.cid .g ad.toNat 16 false with
      | some (c, v) => .trap c v
      | none => .go ((s.load 1 .strong .core .g 0 ad.toNat 16 .segb).addEff (.segb s.uid 0))

/-- R338, R263 sege. -/
def execSege (g : Guard) (s : State) : Out :=
  issue64 s g ⟨[], [], [], []⟩ fun s =>
    if s.my.c.tl ≠ 0 then illop s
    else
      match s.me.seg with
      | none => illop s
      | some sg =>
        if sg.bad = 0 then .go (s.addEff .sege)
        else
          let s1 := s.modMe fun st => { st with seg := none }
          let s2 := if s.my.c.snapctl.getLsbD 1 then s1.fireSnap 2 s.my.cid else s1
          .stop (soften s2 s.cur cSIGERR (BitVec.ofNat 64 (bits sg.ent.toNat 64 16 + sg.bad)) false)

end Sys2Proof.Machine
end

