-- ==== Sys2Proof/Machine/Launch.lean ====
section
/-! DEFINITION. The host's side of the device: apertures, kicks, the fetch of queue records, graph replays and patches, and the
completion rings (R43 to R60, R89, R97, R98, R447). -/

namespace Sys2Proof.Machine

/-! ## Streams (R44, R50, R164) -/

/-- The tenant of a stream by STRMAP, if the entry is valid (R48). -/
def streamTenant (s : State) (i : Nat) : Option Nat :=
  let e := tget 0 s.strmap i
  if e.testBit 3 then some (e % 8) else none
/-- The context of a stream by CTXMAP, if the entry is valid (R164). -/
def streamCtx (s : State) (i : Nat) : Option Nat :=
  let e := (tget 0 s.ctxmap i).toNat
  if e.testBit 15 then some (e % 4096) else none
/-- Whether a function may use a stream's block (R44, R47). -/
def mayUse (s : State) (fn i : Nat) : Bool := i < 128 && (fn = 0 || (fn ≤ 8 && streamTenant s i == some (fn - 1)))
/-- LOG2 of a stream's queue; 0 is disabled (R48). -/
def sqLog (s : State) (i : Nat) : Nat := bits (hst s i).sqsize.toNat 0 5
/-- The context of a stream that is not disabled (R50, R164). -/
def enabledCtx (s : State) (i : Nat) : Option Nat :=
  match streamCtx s i with
  | some c => if sqLog s i ≠ 0 && streamTenant s i == some (ctxTenant s (nextDie s 0) c) then some c else none
  | none => none

/-! ## BAR4 (R46) -/

/-- Whether the windows beside the management window answer: from READY on, but not while only management traffic continues (R20,
R23). -/
def winOpen (s : State) : Bool := s.pkg.ready && !pkgHeld s

/-- APERR of a function, signalled on vector 1 (R48, R58). -/
def apErr (s : State) (fn : Nat) : State := (s.modFn fn fun f => { f with crstat := f.crstat ||| 0x2 }).signalVec fn 1

/-- What a BAR4 offset addresses. -/
inductive Aper where
  | bad
  | phys (die addr : Nat)
  | virt (cid addr : Nat)

def aperture (s : State) (fn off : Nat) : Aper :=
  let w := s.physwin.toNat
  if fn = 0 && w.testBit 0 then
    if trusted s (bits w 1 2) then .phys (bits w 1 2) (off % 2 ^ 36) else .bad
  else
    let f := fnAt s fn
    let a := bits f.apbase.toNat 0 8 * 2 ^ 40 + off % 2 ^ 40
    let c := bits f.apctx.toNat 0 12
    let d := a / 2 ^ 45
    if !f.apctx.getLsbD 15 || d ≥ 4 then .bad
    else if !trusted s d || !ctxValid s d c || (fn ≠ 0 && ctxTenant s d c != fn - 1) then .bad
    else .virt c a

/-- A read in pieces, each as the access of R46; the first failure ends it. Poisoned bytes are answered as they stand
(notes/assumptions/100.md). -/
def readPieces (w : Who) : List (Nat × Nat) → TM (List Byte)
  | [] => pure []
  | (a, n) :: ps => do
    let (bs, _, _) ← gRead w a n .rd
    let rest ← readPieces w ps
    pure (bs ++ rest)
def writePieces (w : Who) : List (Nat × Nat) → List Byte → TM Unit
  | [], _ => pure ()
  | (a, n) :: ps, bs => do
    gWrite w a (bs.take n)
    writePieces w ps (bs.drop n)

/-- R46: a host read through BAR4; zero until READY (R23). It is served once the links it crosses can take it (R10). -/
def execBar4Read (fn off n : Nat) (s : State) : Out :=
  let reply (s : State) (d : Option (List Byte)) : State := { s with replies := s.replies ++ [(fn, d)] }
  if fn > 8 then .next s
  else if !winOpen s then .next (reply s (some (List.replicate n 0)))
  else
    match aperture s fn off with
    | .bad => .next (reply (apErr s fn) none)
    | .phys d p =>
      if !reaches s 4 d n then .next s
      else if p + n ≤ hbmBytes then
        let s := homeFetch (travel s 4 d n) (hbmKey d p) n
        .next (reply s (some (s.read (hbmKey d p) n)))
      else .fault (.physHole d (p + n))
    | .virt c a =>
      match readPieces (hostWho c) (cutPages a n) s with
      | .ok bs s => .next (reply s (some bs))
      | .error .link _ => .next s
      | .error (.hole d p) _ => .fault (.physHole d p)
      | .error _ s => .next (reply (apErr s fn) none)

/-- R46: a host write through BAR4, likewise; in a hold of the package it is dropped (R20). -/
def execBar4Write (fn off : Nat) (data : List Byte) (s : State) : Out :=
  if fn > 8 || pkgHeld s then .next s
  else
    match aperture s fn off with
    | .bad => .next (apErr s fn)
    | .phys d p =>
      if !reaches s 4 d data.length then .next s
      else if p + data.length ≤ hbmBytes then .next (homeWrite (travel s 4 d data.length) (hostWho 0) none (hbmKey d p) data)
      else .fault (.physHole d (p + data.length))
    | .virt c a =>
      match writePieces (hostWho c) (cutPages a data.length) data s with
      | .ok _ s => .next s
      | .error .link _ => .next s
      | .error (.hole d p) _ => .fault (.physHole d p)
      | .error _ s => .next (apErr s fn)

/-! ## The kick (R50) -/

/-- R50: a KICK write; in a hold of the package it is dropped (R20). -/
def execKickWrite (fn stream : Nat) (v : W64) (s : State) : Out :=
  let h := hst s stream
  let t : W32 := v.extractLsb' 0 32
  if !mayUse s fn stream || pkgHeld s || (enabledCtx s stream).isNone then .next s
  else if (t - h.kick).toNat < 2 ^ 31 && (t - h.sqhead).toNat ≤ 2 ^ sqLog s stream then
    .next (s.modStrm stream fun h => { h with
      kick := t
      owner := if h.covers.isEmpty then fn else h.owner
      covers := if t = h.kick then h.covers else h.covers ++ [(t.toNat, fn)]
      stall := if h.sqstat.getLsbD 2 then h.stall else false })
  else
    let s := s.modStrm stream fun h => { h with sqstat := h.sqstat ||| 0x1 }
    .next ((s.modFn fn fun f => { f with crstat := f.crstat ||| 0x4 }).signalVec fn 1)

/-! ## The fetch of a record (R51, R447) -/

/-- The record at the head of a stream: it, its context, its count and the function that covers it. -/
structure Head where
  word : BitVec 512
  cid : Nat
  seq : W32
  fn : Nat
def Head.f (h : Head) (lo w : Nat) : Nat := bits h.word.toNat lo w

/-- A read of a stream that misses (R447). -/
def queueMiss (s0 : State) (stream cid : Nat) (m : Miss) : Out :=
  match m with
  | .fault a r rg =>
    match raiseFault s0 cid a r (rg.kind 3) with
    | (some w, s) => .next (s.modStrm stream fun h => { h with qwait := some w })
    | (none, s) => .next (fetchErr s stream)
  | .hole d p => .fault (.physHole d p)
  | .link => .next s0
  | .prot | .exhausted _ => .next (fetchErr s0 stream)

/-- The record that stands next in a stream is read, and a record of the given kind is taken, but not while only management traffic
continues (R20). It is read whole at its fetch, a queue at an
address of die field 4 to 7 fails, and poisoned bytes are taken as they stand (notes/assumptions/100.md). -/
def withRecord (s : State) (stream kind : Nat) (body : State → Head → Out) : Out :=
  let h := hst s stream
  match enabledCtx s stream with
  | none => .next s
  | some cid =>
    if stream ≥ 128 || pkgHeld s || h.sqhead = h.kick || h.sqstat.getLsbD 2 || h.stall || h.qwait.isSome then .next s
    else
      let a := bits h.sqbase.toNat 6 42 * 64 + 64 * (h.sqhead.toNat % 2 ^ sqLog s stream)
      if a / 2 ^ 45 % 8 > 3 || !trusted s (a / 2 ^ 45 % 8) then .next (fetchErr s stream)
      else
        match gRead (hostWho cid) (a % 2 ^ 48) 64 .rd s with
        | .ok (bs, _, _) s1 =>
          let rec_ := BitVec.ofNat 512 (leNat bs)
          if bits rec_.toNat 510 2 = kind then body s1 { word := rec_, cid := cid, seq := h.sqhead, fn := coverOf h h.sqhead } else .next s
        | .error .link _ => .next s
        | .error m s1 => queueMiss s1 stream cid m

/-- A record has left the queue: SQHEAD advances (R51). -/
def takeHead (s : State) (stream : Nat) : State :=
  s.modStrm stream fun h => { h with
    sqhead := h.sqhead + 1
    covers := h.covers.filter fun c => 0 < (BitVec.ofNat 32 c.1 - (h.sqhead + 1)).toNat && (BitVec.ofNat 32 c.1 - (h.sqhead + 1)).toNat < 2 ^ 31 }

/-- A record is refused (R52, R54, R89, R97): RECERR, and its completion. -/
def refuseRecord (s : State) (stream status : Nat) (h : Head) : State :=
  let s := (s.modStrm stream fun h => { h with sqstat := h.sqstat ||| 0x2 }).signalVec h.fn 1
  s.report h.fn ⟨h.seq, 0xFFFF, stream, status, false⟩

/-- Whether a record's tenant is wrong for a function (R89). -/
def badTenant (s : State) (stream fn tenant : Nat) : Bool := fn ≠ 0 && streamTenant s stream != some tenant

/-- R89, R91, R92: a task record is fetched, and armed or refused. -/
def execTaskRecordFetch (stream : Nat) (s : State) : Out :=
  withRecord s stream 0 fun s h =>
    let t := taskOf s h.word h.cid h.seq h.fn true
    if badRecord h.word || h.f 256 7 ≠ stream || h.f 288 16 ≠ 0xFFFF || badTenant s stream h.fn (h.f 266 3) then
      .next (refuseRecord (takeHead s stream) stream 0x03 h)
    else if !armRoom s h.cid t.key none then .next (armFull s h.cid)
    else .next (armFetch (takeHead { s with uid := s.uid + 1 } stream) t)

/-- R52: a record of the reserved kind. -/
def execReservedRecord (stream : Nat) (s : State) : Out :=
  withRecord s stream 3 fun s h => .next (refuseRecord (takeHead s stream) stream 0x03 h)

/-! ## Graphs (R53 to R55, R97, R98) -/

/-- A template header. -/
structure Tmpl where
  addr : Nat
  d : Nat
def Tmpl.gid (t : Tmpl) : Nat := bits t.d 0 16
def Tmpl.nnode (t : Tmpl) : Nat := bits t.d 16 12
def Tmpl.cur (t : Tmpl) : Nat := bits t.d 32 1
def Tmpl.pb (t : Tmpl) (g : Nat) : Nat := if g = 0 then bits t.d 64 48 else bits t.d 128 48
def Tmpl.nreplay (t : Tmpl) : Nat := bits t.d 192 32
/-- A header that breaks the limits of R97. -/
def Tmpl.bad (t : Tmpl) : Bool :=
  t.nnode = 0 || bits t.d 28 4 ≠ 0 || bits t.d 33 31 ≠ 0 || bits t.d 112 16 ≠ 0 || bits t.d 176 16 ≠ 0 || bits t.d 224 288 ≠ 0 ||
  t.pb 0 % 256 ≠ 0 || t.pb 1 % 256 ≠ 0

def readTmpl (w : Who) (a : Nat) : TM Tmpl := do
  let (bs, _, _) ← gRead w a 64 .rd
  pure ⟨a, leNat bs⟩
/-- The node records of a template from node i on. -/
def readNodes (w : Who) (a : Nat) : Nat → Nat → TM (List (BitVec 512))
  | 0, _ => pure []
  | n + 1, i => do
    let (bs, _, _) ← gRead w (a + 64 * (i + 1)) 64 .rd
    let rest ← readNodes w a n (i + 1)
    pure (BitVec.ofNat 512 (leNat bs) :: rest)
/-- The parameter blocks of a generation copied into the other, their bytes as they stand (DESIGN CHOICE, notes/assumptions/105.md). -/
def copyBlocks (w : Who) (src dst : Nat) : Nat → Nat → TM Unit
  | 0, _ => pure ()
  | n + 1, i => do
    let (bs, _, _) ← gRead w (src + 256 * i) 256 .rd
    gWrite w (dst + 256 * i) bs
    copyBlocks w src dst n (i + 1)

/-- A record of a node as the device writes it: the stream, the graph and the generation. -/
def setField (r : BitVec 512) (lo w v : Nat) : BitVec 512 :=
  BitVec.ofNat 512 (r.toNat - bits r.toNat lo w * 2 ^ lo + v % 2 ^ w * 2 ^ lo)
def nodeRec (r : BitVec 512) (stream gid gen : Nat) : BitVec 512 :=
  setField (setField (setField r 256 7 stream) 304 16 gid) 320 8 gen
/-- A node that breaks R89 or R97. -/
def badNode (s : State) (stream fn i : Nat) (r : BitVec 512) : Bool :=
  badRecord r || bits r.toNat 288 16 ≠ i || bits r.toNat 510 2 ≠ 0 || badTenant s stream fn (bits r.toNat 266 3)

/-- Whether the arm entries of a replay's nodes find room (R92, R96). -/
def nodesRoom (s : State) (cid seq n : Nat) : Bool :=
  let f := slotFn s cid
  let need := ([0, 1, 2, 3].map fun d =>
    let k := ((List.range n).filter fun i => nextDie s (i + seq) == d).length
    (armsOn s d + k - 4096) - (armsOn s d - 4096)).sum
  let l := bits (fnAt s f).armsize.toNat 0 5
  need = 0 || (l ≠ 0 && overflowUsed s f + need ≤ 2 ^ l)

/-- Steps 2 and 3 of R98. -/
def armNodes (stream id gid gen pb cid seq fn : Nat) : List (BitVec 512) → Nat → State → State
  | [], _, s => s
  | r :: rs, i, s =>
    let t := { taskOf s (nodeRec r stream gid gen) cid (BitVec.ofNat 32 seq) fn true with
      replay := id, pblk := BitVec.ofNat 64 (pb + 256 * i) }
    armNodes stream id gid gen pb cid seq fn rs (i + 1) (armFetch { s with uid := s.uid + 1 } t)

/-- What a launch does in memory: step 1 of R98, unless the template is refused. -/
def launchMem (w : Who) (ok : Tmpl → List (BitVec 512) → Bool) (a gid : Nat) : TM (Option (Tmpl × List (BitVec 512))) := do
  let t ← readTmpl w a
  if t.bad || t.gid ≠ gid then pure none
  else do
    let ns ← readNodes w a t.nnode 0
    if !ok t ns then pure none
    else do
      let g := 1 - t.cur
      copyBlocks w (t.pb g) (t.pb (1 - g)) t.nnode 0
      gWrite w (a + 4) (toBytes 1 g)
      gWrite w (a + 24) (toBytes 4 (t.nreplay + 1))
      pure (some (t, ns))

/-- A template, node record or parameter block that cannot be read or written: a fault is waited for, as for the queue's own record, so
that its FATAL answer, or a kill, sets FETCHERR; anything else refuses the record (DESIGN CHOICE, notes/assumptions/59.md). -/
def tmplMiss (s0 : State) (stream : Nat) (h : Head) (m : Miss) : Out :=
  match m with
  | .fault a r rg =>
    match raiseFault s0 h.cid a r (rg.kind 3) with
    | (some w, s) => .next (s.modStrm stream fun h => { h with qwait := some w })
    | (none, s) => .next (refuseRecord (takeHead s stream) stream 0x04 h)
  | .hole d p => .fault (.physHole d p)
  | .link => .next s0
  | .prot | .exhausted _ => .next (refuseRecord (takeHead s0 stream) stream 0x04 h)

/-- R98: a replay launch. -/
def execReplayRecord (stream : Nat) (s : State) : Out :=
  withRecord s stream 1 fun s h =>
    let a := h.f 0 48
    let gid := h.f 64 16
    let named := s.modStrm stream fun x => { x with tmpl := tput 0 x.tmpl gid (a + 1) }
    let bad (s : State) : Out := .next (refuseRecord (takeHead s stream) stream 0x04 h)
    if h.f 0 64 % 64 ≠ 0 || h.f 48 16 ≠ 0 then bad named
    else
      match launchMem (hostWho h.cid) (fun _ ns => !(ns.zipIdx.any fun p => badNode s stream h.fn p.2 p.1)) a gid named with
      | .error m _ => tmplMiss named stream h m
      | .ok none s => bad s
      | .ok (some (t, ns)) s1 =>
        if !nodesRoom s h.cid h.seq.toNat t.nnode then .next (armFull s h.cid)
        else
          let id := s1.uid
          let r : Replay := { id := id, cid := h.cid, stream := stream, seq := h.seq, gid := gid, tmpl := a, gen := 1 - t.cur
                              all := h.f 80 1 = 1, left := t.nnode, total := t.nnode, status := 0 }
          let s2 := takeHead { s1 with uid := id + 1, replays := s1.replays ++ [r] } stream
          .next (armNodes stream id gid ((t.nreplay + 1) % 256) (t.pb (1 - t.cur)) h.cid h.seq.toNat h.fn ns 0 s2)

/-- R54, R55: a patch of the inactive generation, held at the head while that generation is bound. A node beyond the template's is refused
with BADGRAPH (DEDUCED, notes/assumptions/59.md). -/
def execPatchRecord (stream : Nat) (s : State) : Out :=
  withRecord s stream 2 fun s h =>
    let gid := h.f 0 16
    let off := h.f 32 16
    let len := h.f 48 8
    let named := h.f 64 48
    let last := tget 0 (hst s stream).tmpl gid
    let a := if named ≠ 0 then named else last - 1
    let bad (s : State) : Out := .next (refuseRecord (takeHead s stream) stream 0x04 h)
    if off % 8 ≠ 0 || len % 8 ≠ 0 || len < 8 || len > 40 || off + len > 256 || (named = 0 && last = 0) || a % 64 ≠ 0 then bad s
    else
      match readTmpl (hostWho h.cid) a s with
      | .error m _ => tmplMiss s stream h m
      | .ok t s =>
        let g := 1 - t.cur
        if (named ≠ 0 && t.gid ≠ gid) || h.f 16 16 ≥ t.nnode then bad s
        else if s.replays.any (fun r => r.cid == h.cid && r.tmpl == a && r.gen == g) then .next s
        else
          match gWrite (hostWho h.cid) (t.pb g + 256 * h.f 16 16 + off) (toBytes len (h.f 128 (8 * len))) s with
          | .error m _ => tmplMiss s stream h m
          | .ok _ s => .next (takeHead s stream)

/-! ## Completion rings (R56 to R59) -/

def crLog (f : Fn) : Nat := bits f.crsize.toNat 0 5

/-- A completion record (R56). -/
def recordBytes (r : Record) (wraps : Nat) (time : W64) : List Byte :=
  toBytes 16 (r.seq.toNat + r.node.toNat * 2 ^ 32 + r.status % 256 * 2 ^ 48 + r.stream % 128 * 2 ^ 56 +
    (if wraps % 2 = 0 then 2 ^ 63 else 0) + time.toNat * 2 ^ 64)

/-- R58, R59: the oldest record of a function is posted, or finds its ring full; a ring that holds more than 2^LOG2 records is full too
(DESIGN CHOICE, notes/assumptions/105.md). -/
def execCompletionPost (fn : Nat) (s : State) : Out :=
  let f := fnAt s fn
  match f.queue with
  | [] => .next s
  | r :: rs =>
    let n := 2 ^ crLog f
    if crLog f = 0 || fn > 8 then .next s
    else if (f.crtail - f.crhead).toNat ≥ n then .next (s.modFn fn fun f => { f with crstat := f.crstat ||| 0x1 })
    else
      let t := f.crtail.toNat
      let s := s.write (busKey (bits f.crbase.toNat 12 52 * 4096 + 16 * (t % n))) (recordBytes r (t / n) s.timebase)
      let now := f.unsig + 1 ≥ bits f.crirq.toNat 0 16
      let s := s.modFn fn fun f => { f with
        queue := rs, crtail := f.crtail + 1
        unsig := if now then 0 else f.unsig + 1
        unsigAt := if f.unsig = 0 then s.timebase.toNat else f.unsigAt }
      .next (if now then s.signalVec fn 0 else s)

/-- R58: CRIRQ.USEC has passed since the first unsignalled record. -/
def execCompletionIrqTimer (fn : Nat) (s : State) : Out :=
  let f := fnAt s fn
  let us := bits f.crirq.toNat 16 16
  if f.unsig ≠ 0 && us ≠ 0 && s.timebase.toNat ≥ f.unsigAt + 1000 * us then
    .next ((s.modFn fn fun f => { f with unsig := 0 }).signalVec fn 0)
  else .next s

/-- R59: a CRHEAD write; one beyond CRTAIL is ignored. -/
def execCrheadWrite (fn : Nat) (v : W64) (s : State) : Out :=
  let t : W32 := v.extractLsb' 0 32
  .next (if ((fnAt s fn).crtail - t).toNat < 2 ^ 31 then s.modFn fn fun f => { f with crhead := t } else s)

/-- R48: a LOG2 field that is 0 or in its range; other values store 0. -/
def logField (v : W64) (lo hi : Nat) : W64 := let l := bits v.toNat 0 5; if lo ≤ l && l ≤ hi then BitVec.ofNat 64 l else 0

/-- R59: a CRSIZE write; enabling the ring queues what was held, disabling it drops what it does not hold. -/
def execCrsizeWrite (fn : Nat) (v : W64) (s : State) : Out :=
  let n := logField v 8 20
  .next (s.modFn fn fun f =>
    if n = 0 then { f with crsize := n, queue := [], held := f.held ++ f.queue.filter (·.kill) }
    else { f with crsize := n, queue := f.held ++ f.queue, held := [] })

end Sys2Proof.Machine
end

