-- ==== Sys2Proof/Machine/Media.lean ====
section
/-! DEFINITION. The codec streams and the change-mask unit: the media descriptor, access units, picture slots, motion and residual
tensors, the refinement search, tile decisions and list slots (R61 to R85). -/

namespace Sys2Proof.Machine

def State.modMedia (s : State) (i : Nat) (f : Media → Media) : State := s.modStrm i fun h => { h with media := f h.media }
def mediaOf (s : State) (i : Nat) : Media := (hst s i).media
def Media.running (m : Media) : Bool := m.ctl.getLsbD 0

def roundUp (v a : Nat) : Nat := (v + a - 1) / a * a
/-- Nearest integer of v / d, an exact half toward zero (R70, R77). -/
def roundTiesZero (v : Int) (d : Nat) : Int :=
  let q := v.natAbs / d
  let q := if 2 * (v.natAbs % d) > d then q + 1 else q
  if v < 0 then -(q : Int) else q
def clamp16 (v : Int) : Int := max (-32768) (min 32767 v)
def sat32 (n : Nat) : Nat := min n 0xFFFFFFFF
/-- The w-bit field of a signed value. -/
def signedField (w : Nat) (v : Int) : Nat := (v % (2 ^ w : Nat)).toNat

/-! ## The descriptor (R66, R69) -/

structure Desc where
  d : Nat
def Desc.f (x : Desc) (lo w : Nat) : Nat := bits x.d lo w
def Desc.codec (x : Desc) : Nat := x.f 0 3
def Desc.slots (x : Desc) : Nat := x.f 8 5
def Desc.qlog (x : Desc) : Nat := x.f 112 5
def Desc.maxW (x : Desc) : Nat := x.f 320 16
def Desc.maxH (x : Desc) : Nat := x.f 336 16
def Desc.bps (x : Desc) : Nat := if x.codec = 3 || (x.codec = 4 && x.f 3 1 = 1) then 2 else 1
def Desc.pitch (x : Desc) : Nat := roundUp (x.maxW * x.bps) 256
def Desc.alh (x : Desc) : Nat := roundUp x.maxH 16
def Desc.fslot (x : Desc) : Nat := x.pitch * x.alh * 3 / 2
def Desc.bw (x : Desc) : Nat := (x.maxW + 15) / 16
def Desc.tslot (x : Desc) : Nat := roundUp (4 * x.bw * ((x.maxH + 15) / 16)) 256
/-- A descriptor that sets DESCERR. -/
def Desc.bad (x : Desc) : Bool :=
  x.codec < 1 || x.codec > 4 || x.slots < 2 || x.slots > 16 || x.f 24 7 > 64 || x.qlog < 4 || x.qlog > 16 ||
  x.maxW < 64 || x.maxW > 4096 || x.maxH < 64 || x.maxH > 4096 || x.f 448 64 < 18 * x.fslot + 2 ^ 20 ||
  x.f 64 48 % 16 ≠ 0 || x.f 256 48 % 256 ≠ 0 || x.f 384 48 % 4096 ≠ 0 || x.f 512 48 % 32 ≠ 0 || x.f 640 48 % 256 ≠ 0 ||
  x.f 704 48 % 256 ≠ 0 || x.f 768 48 % 64 ≠ 0

/-! ## Accesses of the media path (R65, R81) -/

/-- Why a stream stops: FAULT with its address, UNSUP or DESCERR, or memory that does not exist. With `link` it does not stop, but waits for
a link that carries no data or has no room (R10). -/
inductive Stop where
  | fault (a : Nat)
  | unsup
  | descErr
  | link
  | hole (die addr : Nat)

abbrev MM := EStateM Stop State

/-- An access in the stream's context: any miss is a FAULT with the address of the access. -/
def media (a : Nat) (m : TM α) : MM α := fun s =>
  if a / 2 ^ 45 > 3 || !trusted s (a / 2 ^ 45) then .error (.fault a) s
  else
    match m s with
    | .ok x s => .ok x s
    | .error (.hole d p) s => .error (.hole d p) s
    | .error .link s => .error .link s
    | .error _ s => .error (.fault a) s

def mRead (cid : Nat) : List (Nat × Nat) → MM (List Byte)
  | [] => pure []
  | (a, n) :: ps => do
    let (bs, _, _) ← media a (gRead (hostWho cid) a n .rd)
    let rest ← mRead cid ps
    pure (bs ++ rest)
def mWriteAt (cid : Nat) : List (Nat × Nat) → List Byte → MM Unit
  | [], _ => pure ()
  | (a, n) :: ps, bs => do
    media a (gWrite (hostWho cid) a (bs.take n))
    mWriteAt cid ps (bs.drop n)
def mWrite (cid a : Nat) (bs : List Byte) : MM Unit := mWriteAt cid (cutPages a bs.length) bs
def mReadN (cid a n : Nat) : MM Nat := do pure (leNat (← mRead cid (cutPages a n)))

def readDesc (cid base : Nat) : MM Desc := do
  let x : Desc := ⟨← mReadN cid base 128⟩
  if x.bad then throw .descErr else pure x
/-- A stream's descriptor is read; the line that holds its AUPROD and RELCNT is watched from then on (R67, R68). -/
def startDesc (stream cid base : Nat) : MM Desc := do
  let x ← readDesc cid base
  let (p, _) ← media base (locate (hostWho cid) base 64 .rd)
  let w := match p with | .at k => some (k / 64) | .dflt _ => none
  modify fun s => s.modMedia stream fun m => { m with watch := w, qlog := x.qlog }
  pure x

/-- A stream stops: its bit of MDSTAT, RUN cleared, vector 1 of the PF and of the tenant's function (R65, R66). A pass that was due is
dropped, pictures not yet begun are kept (notes/assumptions/102.md). -/
def mediaStop (s : State) (i : Nat) (bit : W64) : State :=
  let s := s.modMedia i fun m => { m with
    stat := m.stat ||| bit, ctl := m.ctl &&& ~~~(1 : W64), stopping := false, opening := false, stalled := false, cmu := none }
  (match streamTenant s i with | some t => [0, t + 1] | none => [0]).foldl (fun s f => s.signalVec f 1) s

/-- A piece of a stream's work, in its context and by the descriptor at which RUN was last set; a stop keeps the writes already performed
(R65, R81), a wait leaves the machine as it waits (R10). A stream without a valid CTXMAP entry does nothing
(notes/assumptions/102.md). -/
def mediaWork (waits s : State) (i : Nat) (onStop : Media → Media) (work : Nat → Nat → MM Unit) : Out :=
  let base := (mediaOf s i).used
  match streamCtx s i with
  | none => .next waits
  | some cid =>
    match work cid base s with
    | .ok _ s => .next s
    | .error (.fault a) s =>
      match mWrite cid (base + 72) (toBytes 6 a) (mediaStop (s.modMedia i onStop) i 1) with
      | .error .link _ => .next waits
      | .ok _ s | .error _ s => .next s
    | .error .unsup s => .next (mediaStop (s.modMedia i onStop) i 2)
    | .error .descErr s => .next (mediaStop (s.modMedia i onStop) i 4)
    | .error .link _ => .next waits
    | .error (.hole d p) _ => .fault (.physHole d p)

/-! ## MDCTL (R64, R65) -/

/-- R65: the descriptor's counts are read, and an over-full queue is a DESCERR (R67). -/
def takeCounts (i : Nat) (x : Desc) : MM Unit := do
  modify fun s => s.modMedia i fun m => { m with
    prod := BitVec.ofNat 32 (x.f 128 32), cons := BitVec.ofNat 32 (x.f 160 32), rel := BitVec.ofNat 32 (x.f 192 32) }
  if (x.f 128 32 + 2 ^ 32 - x.f 160 32) % 2 ^ 32 > 2 ^ x.qlog then throw .descErr

/-- The engine with the fewest assigned streams, the lower on ties (R62). -/
def pickEngine (s : State) (stream : Nat) : Nat :=
  let load (e : Nat) : Nat := (s.strm.filter fun k => k.1 != stream && k.2.media.running && k.2.media.engine == some e).length
  (List.range 16).foldl (fun best e => if load e < load best then e else best) 0

/-- Whether a write of MDCTL by a function is taken: in a hold of the package it is dropped (R20). -/
def mdWrite (s : State) (fn stream : Nat) : Bool := mayUse s fn stream && !pkgHeld s

/-- A stream whose RUN has been set starts: it is given an engine (R62) and reads its descriptor (R65); the engine's oldest request is due
from then on (R265). With a new MDBASE what was decoded for the old one and not output is dropped, and the last picture output stays the
previous one (DESIGN CHOICE, notes/assumptions/105.md). -/
def openRun (s : State) (stream : Nat) : Out :=
  let eng := pickEngine s stream
  let start (m : Media) : Media := { m with
    used := m.base.toNat, first := true, stalled := false, opening := false, since := s.cycle, skipping := m.skipping && !m.fresh
    engine := some eng, pending := if m.fresh then [] else m.pending, units := if m.fresh then [] else m.units
    history := if m.fresh then [] else m.history, cmu := m.cmu.map fun j => { j with old := j.old || m.fresh }
    n := if m.fresh then 0 else m.n, fresh := false }
  mediaWork s (s.modMedia stream start) stream id fun cid base => do
    let x ← startDesc stream cid base
    takeCounts stream x

/-- R65: RUN goes from 0 to 1. A stream that is still finishing a picture starts once that picture is output. -/
def execMdctlRunSet (fn stream : Nat) (s : State) : Out :=
  if !mdWrite s fn stream || (mediaOf s stream).running then .next s
  else
    let s := s.modMedia stream fun m => { m with ctl := m.ctl ||| 1, opening := true }
    if (mediaOf s stream).stopping then .next s else openRun s stream

/-- R65: RUN goes from 1 to 0 by a write; the picture being produced is finished. -/
def execMdctlRunClear (fn stream : Nat) (s : State) : Out :=
  if mdWrite s fn stream && (mediaOf s stream).running then
    .next (s.modMedia stream fun m => { m with
      ctl := m.ctl &&& ~~~(1 : W64), opening := false, stopping := m.stopping || (!m.opening && m.cmu.isNone && !m.pending.isEmpty) })
  else .next s
/-- R64, R65: EXACT. -/
def execMdctlExact (fn stream : Nat) (on : Bool) (s : State) : Out :=
  if mdWrite s fn stream then
    .next (s.modMedia stream fun m => { m with ctl := if on then m.ctl ||| 2 else m.ctl &&& ~~~(2 : W64) })
  else .next s
/-- R64, R84: REFINE, by the PF only. -/
def execMdctlRefine (fn stream : Nat) (on : Bool) (s : State) : Out :=
  if fn = 0 && mdWrite s fn stream then
    .next (s.modMedia stream fun m => { m with ctl := if on then m.ctl ||| 4 else m.ctl &&& ~~~(4 : W64) })
  else .next s

/-! ## Access units (R61, R62, R67, R73) -/

/-- R67: the line of AUPROD has been written, and AUPROD is read again; or the descriptor is read that RUN's setting has waited for
(R10, R65). -/
def execAuprodReread (stream : Nat) (s : State) : Out :=
  if (mediaOf s stream).opening && !(mediaOf s stream).stopping then openRun s stream
  else if (mediaOf s stream).running && !(mediaOf s stream).opening && (mediaOf s stream).auDue then
    mediaWork s (s.modMedia stream fun m => { m with auDue := false }) stream id fun cid base => do
      let p ← mReadN cid (base + 16) 4
      modify fun s => s.modMedia stream fun m => { m with
        prod := BitVec.ofNat 32 p, since := if m.prod = m.cons then s.cycle else m.since }
      let m := mediaOf (← get) stream
      if (m.prod - m.cons).toNat > 2 ^ m.qlog then throw .descErr
  else .next s
/-- R68: the line of RELCNT has been written, and RELCNT is read again. -/
def execRelcntReread (stream : Nat) (s : State) : Out :=
  let m := mediaOf s stream
  if ((m.running && !m.opening) || m.stopping) && m.relDue then
    mediaWork s (s.modMedia stream fun m => { m with relDue := false }) stream id fun cid base => do
      let r ← mReadN cid (base + 24) 4
      modify fun s => s.modMedia stream fun m => { m with rel := BitVec.ofNat 32 r }
  else .next s

/-- ERRCNT counts skipped pictures (R66, R73). -/
def addErr (cid base k : Nat) : MM Unit := do
  if k ≠ 0 then
    let c ← mReadN cid (base + 44) 4
    mWrite cid (base + 44) (toBytes 4 (sat32 (c + k)))

/-- A picture the stream may not output (R61, R73): its size, its type, the bit depth of its CODEC. -/
def badPicture (x : Desc) (p : Picture) : Bool :=
  p.w < 64 || p.h < 64 || p.w > x.maxW || p.h > x.maxH || p.ptype > 2 || (p.d10 && x.bps = 1) || (!p.d10 && x.codec = 3)

/-- Pictures leaving the decoder in output order: those before the next random-access point after an error are skipped. -/
def takePictures (stream cid base : Nat) (x : Desc) : List Picture → MM Unit
  | [] => pure ()
  | p :: ps => do
    let m := mediaOf (← get) stream
    if m.skipping && !p.rap then addErr cid base 1
    else do
      if badPicture x p then throw .unsup
      let (tag, refine, srange) := (m.units[p.age]?).getD (0, false, 0)
      let o : OutPic := { pic := p, tag := tag, refine := refine, srange := srange, errskip := m.skipping }
      modify fun s => s.modMedia stream fun m => { m with skipping := false, pending := m.pending ++ [o] }
    takePictures stream cid base x ps

/-- The uses of the work area by a decode, inside the 18 × FSLOT + 1 MiB that it must hold (R66). -/
def workUses (cid : Nat) (x : Desc) : List WorkUse → MM Unit
  | [] => pure ()
  | u :: us => do
    if u.off + u.n ≤ 18 * x.fslot + 2 ^ 20 && u.off + u.data.length ≤ 18 * x.fslot + 2 ^ 20 then
      let _ ← mRead cid (cutPages (x.f 384 48 + u.off) u.n)
      mWrite cid (x.f 384 48 + u.off) u.data
    workUses cid x us

/-- What decoding gives: what it gave for the same CODEC and bitstream before, if it has met them (R61, notes/assumptions/102.md). -/
def decodedAs (s : State) (codec : Nat) (units : List (List Byte)) (r : AuResult) : AuResult :=
  match s.decoded.find? fun e => e.1 == codec && e.2.1 == units with | some e => e.2.2 | none => r
def noteDecoded (s : State) (codec : Nat) (units : List (List Byte)) (r : AuResult) : State :=
  if s.decoded.any fun e => e.1 == codec && e.2.1 == units then s else { s with decoded := (codec, units, r) :: s.decoded }

/-- R61, R62, R65 to R67, R73: the next access unit is read and decoded; what decoding a bitstream gives when it is first met, and what a
decode does in the work area, are operands. -/
def execAccessUnitDecode (stream : Nat) (r : AuResult) (use : AuUse) (s : State) : Out :=
  let m := mediaOf s stream
  if !m.running || m.opening || m.prod = m.cons || stream ≥ 128 then .next s
  else
    mediaWork s (s.modMedia stream fun m => { m with engine := some (pickEngine s stream) }) stream id fun cid base => do
      let x ← startDesc stream cid base
      let e ← mReadN cid (x.f 64 48 + 16 * (m.cons.toNat % 2 ^ x.qlog)) 16
      let bs ← mRead cid (cutPages (bits e 0 48) (bits e 64 32))
      let units := bs :: m.history
      let r := decodedAs s x.codec units r
      modify fun s => (noteDecoded s x.codec units r).modMedia stream fun m => { m with
        cons := m.cons + 1, since := s.cycle, history := units
        units := ((BitVec.ofNat 32 (bits e 96 32), m.ctl.getLsbD 2, use.srange) :: m.units).take 64 }
      mWrite cid (base + 20) (toBytes 4 ((m.cons.toNat + 1) % 2 ^ 32))
      workUses cid x use.work
      match r with
      | .pictures ps => takePictures stream cid base x ps
      | .bitstreamError => do
        modify fun s => s.modMedia stream fun m => { m with stat := m.stat ||| 8, skipping := true }
        addErr cid base 1
      | .unsupported => throw .unsup

/-! ## Tensors (R70, R71, R83) -/

/-- The prediction unit a block's motion is taken from: the largest cover, then the first in raster order. -/
def mainUnit (us : List PredUnit) : Option PredUnit :=
  us.foldl (fun best u => match best with
    | none => some u
    | some b => if u.cover > b.cover || (u.cover = b.cover && u.first < b.first) then some u else best) none

/-- R70. -/
def motionOf (b : PicBlock) : Mv :=
  if b.intra then ⟨0, 0⟩
  else
    match mainUnit b.units with
    | none => ⟨0, 0⟩
    | some u =>
      match u.l0.orElse fun _ => u.l1 with
      | none => ⟨0, 0⟩
      | some (v, d) =>
        let v : Mv := match u.warp with | some (x, y) => ⟨roundTiesZero x (2 ^ 14), roundTiesZero y (2 ^ 14)⟩ | none => v
        let c (z : Int) : Int := clamp16 (roundTiesZero (if d < 0 then -z else z) d.natAbs)
        ⟨c v.x, c v.y⟩

/-- The squared residuals of the samples of block (by, bx) that lie inside a picture, summed (R71). -/
def blockEnergy (p : Picture) (bY bX : Nat) (b : PicBlock) : Nat :=
  ((List.range (min 16 (p.h - 16 * bY))).map fun y => ((List.range (min 16 (p.w - 16 * bX))).map fun x =>
    ((b.resid.getD y []).getD x 0).natAbs ^ 2).sum).sum
/-- R71. -/
def residualOf (p : Picture) (i : Nat) (b : PicBlock) : Nat :=
  if b.intra then 0xFFFFFFFF
  else if b.skip then 0
  else
    let bw := (p.w + 15) / 16
    let e := blockEnergy p (i / bw) (i % bw) b
    min (if p.d10 then e / 16 else e) 0xFFFFFFFE

def sampleAt (rows : List (List Nat)) (y x : Nat) : Nat := (rows.getD y []).getD x 0

/-- The SAD of block (by, bx) at a displacement (R83): of whole samples inside the previous picture; any other is free. -/
def sadOf (cur prev : Picture) (bY bX : Nat) (v : Mv) : Nat :=
  let h := min 16 (cur.h - 16 * bY)
  let w := min 16 (cur.w - 16 * bX)
  let dy := v.y / 4
  let dx := v.x / 4
  let y0 : Int := 16 * bY + dy
  let x0 : Int := 16 * bX + dx
  if v.x % 4 == 0 && v.y % 4 == 0 && 0 ≤ y0 && 0 ≤ x0 && y0 + h ≤ prev.h && x0 + w ≤ prev.w then
    ((List.range h).map fun y => ((List.range w).map fun x =>
      ((sampleAt cur.luma (16 * bY + y) (16 * bX + x) : Int) - sampleAt prev.luma (y0.toNat + y) (x0.toNat + x)).natAbs).sum).sum
  else Config.sad cur prev bY bX v

/-- R83: the kept vector of a block; candidates in raster order of (dy, dx). A kept vector outside the elements' range is stored clamped
(DESIGN CHOICE, notes/assumptions/105.md). -/
def refineMv (cur prev : Picture) (bY bX range : Nat) (v : Mv) : Mv :=
  let ds : List Int := (List.range (2 * range + 1)).map fun (i : Nat) => (i : Int) - (range : Int)
  let cands := ds.flatMap fun dy => ds.map fun dx => (dy, dx)
  let cost (c : Int × Int) : Nat × Nat := (sadOf cur prev bY bX ⟨v.x + c.2, v.y + c.1⟩, c.1.natAbs + c.2.natAbs)
  let best := cands.foldl (fun b c => match b with
    | none => some (c, cost c)
    | some (_, k) => let k' := cost c; if k'.1 < k.1 || (k'.1 = k.1 && k'.2 < k.2) then some (c, k') else b) none
  match best with
  | some (c, _) => ⟨clamp16 (v.x + c.2), clamp16 (v.y + c.1)⟩
  | none => v

/-- SRANGE of a picture: 0, 2, 4 or 8, as the headroom operand gives (R83). -/
def srangeOf (n : Nat) : Nat := if n = 2 || n = 4 || n = 8 then n else 0

/-- Whether the search runs on a picture (R72, R83). -/
def OutPic.refined (o : OutPic) : Bool := o.refine && (o.pic.ptype = 1 || o.pic.ptype = 2)

/-- A picture's motion tensor. With no previous output picture nothing is searched and the decoded vectors stay (DESIGN CHOICE,
notes/assumptions/105.md). -/
def motionTensor (o : OutPic) (prev : Option Picture) : List Mv :=
  let bw := (o.pic.w + 15) / 16
  o.pic.blocks.zipIdx.map fun b =>
    let v := motionOf b.1
    match o.refined, b.1.intra, prev with
    | true, false, some p => refineMv o.pic p (b.2 / bw) (b.2 % bw) (srangeOf o.srange) v
    | _, _, _ => v

/-! ## Output (R68, R69, R72) -/

/-- Rows of samples of a depth written at a pitch: the bits above the depth are zero. -/
def writeRows (cid bps depth pitch len : Nat) : List (List Nat) → Nat → MM Unit
  | [], _ => pure ()
  | r :: rs, a => do
    mWrite cid a (((List.range len).map fun i => toBytes bps (r.getD i 0 % 2 ^ depth)).flatten)
    writeRows cid bps depth pitch len rs (a + pitch)
def depthOf (p : Picture) : Nat := if p.d10 then 10 else 8

/-- Rows of a tensor, bw elements apart by row of the largest picture. -/
def writeTensor (cid row : Nat) : List (List Nat) → Nat → MM Unit
  | [], _ => pure ()
  | r :: rs, a => do
    mWrite cid a ((r.map (toBytes 4)).flatten)
    writeTensor cid row rs (a + row)

def chunk (k : Nat) : Nat → List α → List (List α)
  | 0, _ => []
  | n + 1, l => l.take k :: chunk k n (l.drop k)

/-- Intra blocks of a picture. -/
def nIntra (p : Picture) : Nat := (p.blocks.filter (·.intra)).length
/-- SC (R72). -/
def sceneCut (m : Media) (x : Desc) (o : OutPic) : Bool :=
  let p := o.pic
  let nblk := ((p.w + 15) / 16) * ((p.h + 15) / 16)
  p.rap || m.first || o.errskip || (match m.last with | some q => q.w != p.w || q.h != p.h | none => true) ||
    (x.f 16 8 ≠ 0 && nIntra p * 256 ≥ x.f 16 8 * nblk)

/-- The information record (R72). -/
def infoRecord (m : Media) (x : Desc) (o : OutPic) : BitVec 512 :=
  let p := o.pic
  let b (c : Bool) (k : Nat) : Nat := if c then 2 ^ k else 0
  BitVec.ofNat 512 (o.tag.toNat + m.n.toNat * 2 ^ 32 + p.w * 2 ^ 64 + p.h * 2 ^ 80 + p.ptype * 2 ^ 96 + b (sceneCut m x o) 98 + b p.rap 99 +
    b o.refined 100 + b o.errskip 101 + b p.d10 102 + nIntra p * 2 ^ 128 + ((p.w + 15) / 16) * ((p.h + 15) / 16) * 2 ^ 160)

/-- R68 to R72: the next picture goes to its slot, or waits for RELCNT with STALL set; what waits goes on when RELCNT, read again, has
released the slot. -/
def execPictureOutput (stream : Nat) (s : State) : Out :=
  let m := mediaOf s stream
  match m.pending with
  | [] => .next s
  | o :: os =>
    if m.cmu.isSome || !((m.running && !m.opening) || m.stopping) then .next s
    else
      mediaWork s s stream (fun m => { m with pending := os }) fun cid base => do
        let x ← startDesc stream cid base
        let rel := if m.stalled then m.rel else BitVec.ofNat 32 (x.f 192 32)
        modify fun s => s.modMedia stream fun m => { m with rel := rel }
        if (m.n - rel).toNat ≥ x.slots then
          modify fun s => s.modMedia stream fun m => { m with stat := m.stat ||| 16, stalled := true }
        else do
          let p := o.pic
          if badPicture x p then throw .unsup
          let k := m.n.toNat % x.slots
          let bw := (p.w + 15) / 16
          let bh := (p.h + 15) / 16
          let f := x.f 256 48 + k * x.fslot
          writeRows cid x.bps (depthOf p) x.pitch p.w (p.luma.take p.h) f
          writeRows cid x.bps (depthOf p) x.pitch (2 * ((p.w + 1) / 2)) (p.chroma.take ((p.h + 1) / 2)) (f + x.alh * x.pitch)
          let mv := (motionTensor o m.last).map fun v => signedField 16 v.x + signedField 16 v.y * 2 ^ 16
          writeTensor cid (4 * x.bw) (chunk bw bh mv) (x.f 640 48 + k * x.tslot)
          writeTensor cid (4 * x.bw) (chunk bw bh (p.blocks.zipIdx.map fun b => residualOf p b.2 b.1)) (x.f 704 48 + k * x.tslot)
          let info := infoRecord m x o
          mWrite cid (x.f 768 48 + 64 * k) (toBytes 64 info.toNat)
          modify fun s => s.modMedia stream fun m => { m with
            pending := os, first := false, last := some p, stopping := false, stalled := false, cmu := some ⟨x.d, base, info, false, s.cycle⟩ }

/-! ## The change-mask unit (R74 to R82) -/

/-- A layer descriptor (R74) with the picture's size and the largest size. -/
structure Layer where
  d : Nat
  w : Nat
  h : Nat
  maxW : Nat
  maxH : Nat
def Layer.ts (l : Layer) : Nat := bits l.d 0 4
def Layer.tp (l : Layer) : Nat := 16 * l.ts
def Layer.st (l : Layer) : Nat := 2 ^ bits l.d 4 3
def Layer.gen (l : Layer) : Nat := bits l.d 16 8
def Layer.tx (l : Layer) : Nat := (l.w + l.tp - 1) / l.tp
def Layer.ty (l : Layer) : Nat := (l.h + l.tp - 1) / l.tp
def Layer.txm (l : Layer) : Nat := (l.maxW + l.tp - 1) / l.tp
def Layer.tym (l : Layer) : Nat := (l.maxH + l.tp - 1) / l.tp
def Layer.lbase (l : Layer) : Nat := bits l.d 128 48
def Layer.sbase (l : Layer) : Nat := bits l.d 192 48
def Layer.moff (l : Layer) : Nat := 64 + roundUp (8 * (l.txm * l.tym)) 64
def Layer.lslot (l : Layer) : Nat := l.moff + roundUp ((l.txm * l.tym + 7) / 8) 64
def Layer.bad (l : Layer) : Bool :=
  l.ts < 1 || l.ts > 8 || bits l.d 4 3 > 6 || l.tp % l.st ≠ 0 || l.lbase % 64 ≠ 0 || l.sbase % 8 ≠ 0

/-- DominantVector (R77). -/
def dominant (vs : List Mv) : Mv :=
  let count (v : Mv) : Nat := (vs.filter (· == v)).length
  (vs.foldl (fun b v => match b with
    | none => some v
    | some u => if count v > count u then some v else b) none).getD ⟨0, 0⟩

/-- The decision of one tile (R77): its action (0 RECOMPUTE, 1 REUSE, 2 REUSE_MC), reason, offsets and new state. -/
structure TileAct where
  act : Nat
  rsn : Nat
  ox : Int
  oy : Int
  st : Nat
deriving DecidableEq, Repr

def decideTile (l : Layer) (exact sc : Bool) (ty tx st : Nat) (res : List Nat) (mv : List Mv) : TileAct :=
  let esum := min res.sum 0xFFFFFFFE
  let acc := bits st 0 32
  let cnt := bits st 32 8
  let state (a c : Nat) : Nat := a + c * 2 ^ 32 + 2 ^ 40 + l.gen * 2 ^ 48
  let re (r : Nat) : TileAct := ⟨0, r, 0, 0, state 0 0⟩
  let keep (a : Nat) (ox oy : Int) : TileAct := ⟨a, 0, ox, oy, state (sat32 (acc + esum)) (min (cnt + 1) 255)⟩
  if exact then re 1
  else if sc then re 2
  else if !st.testBit 40 || bits st 48 8 ≠ l.gen then re 3
  else if res.contains 0xFFFFFFFF then re 4
  else if esum > bits l.d 32 32 then re 5
  else if cnt ≥ bits l.d 8 8 then re 6
  else if sat32 (acc + esum) > bits l.d 96 32 then re 7
  else
    let dom := dominant mv
    let c := bits l.d 64 16
    if mv.any fun v => (v.x - dom.x).natAbs > c || (v.y - dom.y).natAbs > c then re 8
    else
      let ox := roundTiesZero dom.x (4 * l.st)
      let oy := roundTiesZero dom.y (4 * l.st)
      if ox = 0 && oy = 0 then keep 1 0 0
      else
        let e := l.tp / l.st
        let aw := (l.w + l.st - 1) / l.st
        let ah := (l.h + l.st - 1) / l.st
        let y0 := ty * e
        let x0 := tx * e
        let h := min e (ah - y0)
        let w := min e (aw - x0)
        if 0 ≤ (y0 : Int) + oy && (y0 : Int) + oy + h ≤ ah && 0 ≤ (x0 : Int) + ox && (x0 : Int) + ox + w ≤ aw then keep 2 ox oy
        else re 9

/-- A list entry (R79). -/
def listEntry (ty tx : Nat) (t : TileAct) : Nat :=
  ty + tx * 2 ^ 8 + t.act * 2 ^ 16 + t.rsn * 2 ^ 18 + bits t.st 32 8 * 2 ^ 24 + signedField 16 t.ox * 2 ^ 32 + signedField 16 t.oy * 2 ^ 48

/-- Elements of the blocks of a tile, of a tensor of the picture. -/
def tileBlocks (l : Layer) (ty tx : Nat) (t : List α) : List α :=
  let bw := (l.w + 15) / 16
  let bh := (l.h + 15) / 16
  (List.range l.ts).flatMap fun i => (List.range l.ts).filterMap fun j =>
    let y := ty * l.ts + i
    let x := tx * l.ts + j
    if y < bh && x < bw then t[y * bw + x]? else none

/-- The tiles of a layer decided in raster order, each with its state read and written. -/
def decideTiles (cid : Nat) (l : Layer) (exact sc : Bool) (res : List Nat) (mv : List Mv) : List (Nat × Nat) → MM (List (Nat × Nat × TileAct))
  | [] => pure []
  | (ty, tx) :: ts => do
    let a := l.sbase + 8 * (ty * l.txm + tx)
    let st ← mReadN cid a 8
    let t := decideTile l exact sc ty tx st (tileBlocks l ty tx res) (tileBlocks l ty tx mv)
    mWrite cid a (toBytes 8 t.st)
    let rest ← decideTiles cid l exact sc res mv ts
    pure ((ty, tx, t) :: rest)

/-- The mask of a layer (R78). -/
def maskBytes (ts : List (Nat × Nat × TileAct)) : List Byte :=
  (List.range ((ts.length + 7) / 8)).map fun j => BitVec.ofNat 8 (((List.range 8).map fun i =>
    match ts[8 * j + i]? with | some t => if t.2.2.act = 0 then 2 ^ i else 0 | none => 0).sum)

/-- The layer descriptors of a pass, all read at its start (R74). -/
def readLayers (cid : Nat) (x : Desc) : List Nat → MM (List (Nat × Nat))
  | [] => pure []
  | k :: ks => do
    let d ← mReadN cid (x.f 512 48 + 32 * k) 32
    let rest ← readLayers cid x ks
    pure ((k, d) :: rest)

/-- One layer of a pass: its decisions, its list slot. -/
def layerPass (cid : Nat) (x : Desc) (info : Nat) (exact : Bool) (res : List Nat) (mv : List Mv) (k d : Nat) : MM Unit := do
  let l : Layer := ⟨d, bits info 64 16, bits info 80 16, x.maxW, x.maxH⟩
  if l.bad then throw .descErr
  let sc := info.testBit 98
  let tiles := (List.range l.ty).flatMap fun ty => (List.range l.tx).map fun tx => (ty, tx)
  let ts ← decideTiles cid l exact sc res mv tiles
  let a := l.lbase + (bits info 32 32 % x.slots) * l.lslot
  let rec_ := ts.filter fun t => t.2.2.act = 0
  let mc := ts.filter fun t => t.2.2.act = 2
  mWrite cid (a + 64) (((rec_ ++ mc).map fun t => toBytes 8 (listEntry t.1 t.2.1 t.2.2)).flatten)
  mWrite cid (a + l.moff) (maskBytes ts)
  let b (c : Bool) (i : Nat) : Nat := if c then 2 ^ i else 0
  let hdr := bits info 32 32 + bits info 0 32 * 2 ^ 32 + rec_.length * 2 ^ 64 + mc.length * 2 ^ 96 +
    (ts.length - rec_.length - mc.length) * 2 ^ 128 + ts.length * 2 ^ 160 + l.tx * 2 ^ 192 + l.ty * 2 ^ 208 + k * 2 ^ 224 +
    b sc 232 + b exact 233 + b (info.testBit 100 && !exact) 234 + b (ts.any fun t => t.2.2.rsn = 3) 235 + l.moff * 2 ^ 256
  mWrite cid a (toBytes 64 hdr)

def layerPasses (cid : Nat) (x : Desc) (info : Nat) (exact : Bool) (res : List Nat) (mv : List Mv) : List (Nat × Nat) → MM Unit
  | [] => pure ()
  | (k, d) :: ks => do
    layerPass cid x info exact res mv k d
    layerPasses cid x info exact res mv ks

/-- Rows of a tensor read back. -/
def readTensor (cid row bw : Nat) : Nat → Nat → MM (List Nat)
  | 0, _ => pure []
  | n + 1, a => do
    let bs ← mRead cid (cutPages a (4 * bw))
    let rest ← readTensor cid row bw n (a + row)
    pure ((chunk 4 bw bs).map leNat ++ rest)

/-- R74 to R80: the pass of the picture just written, then OUTCNT and EVDONE, at the descriptor that was read for the picture. -/
def execCmuPass (stream : Nat) (s : State) : Out :=
  let m := mediaOf s stream
  match m.cmu with
  | none => .next s
  | some j =>
    mediaWork s s stream id fun cid _ => do
      let x : Desc := ⟨j.desc⟩
      let info := j.info.toNat
      let n := bits info 32 32
      let k := n % x.slots
      let bw := (bits info 64 16 + 15) / 16
      let bh := (bits info 80 16 + 15) / 16
      let ls ← readLayers cid x (List.range (x.f 24 7))
      let mv ← readTensor cid (4 * x.bw) bw bh (x.f 640 48 + k * x.tslot)
      let res ← readTensor cid (4 * x.bw) bw bh (x.f 704 48 + k * x.tslot)
      layerPasses cid x info (m.ctl.getLsbD 1) res (mv.map fun v => ⟨sInt 16 (v % 2 ^ 16), sInt 16 (v / 2 ^ 16)⟩) ls
      mWrite cid (j.base + 28) (toBytes 4 ((n + 1) % 2 ^ 32))
      modify fun s => s.modMedia stream fun m => { m with n := if j.old then m.n else m.n + 1, cmu := none }
      if x.f 32 16 ≠ 0 then modify fun s => signalEvent s cid (x.f 32 16)

end Sys2Proof.Machine
end

