-- ==== Sys2Proof/Machine/Transform.lean ====
section
/-! DEFINITION. Compression at the L2 and the transform engines (R212 to R221). -/

namespace Sys2Proof.Machine

/-! ## Eviction (R160, R212) -/

/-- R160, R212: a line leaves the L2; the block of a line of a compressed page is coded. -/
def execL2Evict (die paddr : Nat) (s : State) : Out :=
  let l := hbmKey die paddr / 256
  if die > 3 || paddr ≥ hbmBytes || !inL2 s l then .next s else .next (evictLine s l)

/-! ## Rings (R216, R217) -/

/-- A ring that is served: registered, its context valid and not killed since, its engines' die taking part. -/
def ringServed (s : State) (ring : Nat) : Bool :=
  let e := ringReg s ring
  let cid := bits e 50 12
  ring < 64 && e.testBit 63 && trusted s (bits e 48 2) && ctxValid s (bits e 48 2) cid && !(tget Te.empty s.te ring).dead && !s.kills.any fun k => k.cid == cid

def teOf (s : State) (ring : Nat) : Te := tget Te.empty s.te ring
def State.modTe (s : State) (ring : Nat) (f : Te → Te) : State := { s with te := tput Te.empty s.te ring (f (teOf s ring)) }
def ringCid (s : State) (ring : Nat) : Nat := bits (ringReg s ring) 50 12
def ringHdr (s : State) (ring : Nat) : Nat := bits (ringReg s ring) 6 42 * 64
def ringDie (s : State) (ring : Nat) : Nat := bits (ringReg s ring) 48 2
/-- On whose behalf a ring's engine reaches memory. -/
def ringWho (s : State) (ring : Nat) : Who := ⟨ringCid s ring, none, ringDie s ring⟩

/-- An engine access: on a die that takes part, in the ring's context. -/
def onDie (a : Nat) (m : TM α) : TM α := fun s =>
  if a / 2 ^ 45 > 3 || !trusted s (a / 2 ^ 45) then .error .prot s else m s

/-- A read of an engine's: a fault it meets is one of a copy's read (R220). -/
def asRead (m : TM α) : TM α := fun s =>
  match m s with
  | .error (.fault a r .access) s => .error (.fault a r .read) s
  | r => r

/-- Bytes read, each with whether it is poisoned (R256). -/
def teReadAt (w : Who) : List (Nat × Nat) → TM (List (Byte × Bool))
  | [] => pure []
  | (a, n) :: ps => do
    let (bs, _, bad) ← onDie a (asRead (gRead w a n .rd))
    let rest ← teReadAt w ps
    pure (bs.map (fun b => (b, bad)) ++ rest)
def teRead (w : Who) (a n : Nat) : TM (List (Byte × Bool)) := teReadAt w (cuts 64 (n / 64 + 2) a n)
def teReadN (w : Who) (a n : Nat) : TM Nat := do pure (leNat ((← teRead w a n).map (·.1)))

/-- Bytes written; a piece with a poisoned byte becomes poisoned. -/
def teWriteAt (w : Who) : List (Nat × Nat) → List (Byte × Bool) → TM Unit
  | [], _ => pure ()
  | (a, n) :: ps, bs => do
    let now := bs.take n
    onDie a (do
      let (p, _) ← locate w a n .wr
      match p with
      | .dflt _ => throw .prot
      | .at k =>
        modify fun s => poisonAt (homeWrite s w (some (w.cid, a / 256)) k (now.map (·.1))) k
          ((List.range n).filter fun i => (now.getD i (0, false)).2) : TM Unit)
    teWriteAt w ps (bs.drop n)
def teWrite (w : Who) (a : Nat) (bs : List (Byte × Bool)) : TM Unit := teWriteAt w (cuts 64 (bs.length / 64 + 2) a bs.length) bs
def clean (bs : List Byte) : List (Byte × Bool) := bs.map fun b => (b, false)

/-- How an engine's work that misses goes on: a fault is waited for, KIND 3 for reads and 4 for writes, and so is a write to the line of the
region whose pool is exhausted, as every copy-path access waits (R176, R180, R220); a link that cannot take it leaves the machine as it
waits (R10); else it fails. `req` is the tag of the request that met it, if one did. -/
def teMiss (waits s : State) (ring : Nat) (req : Option W32) (fail : State → State) : Miss → Out
  | .fault a r rg =>
    match raiseFault s (ringCid s ring) a r (rg.kind 4) with
    | (some w, s) => .next (s.modTe ring fun t => { t with wait := some (w, req) })
    | (none, s) => .next (fail s)
  | .exhausted l => .next (s.modTe ring fun t => { t with wait := some (lineWait l, req) })
  | .link => .next waits
  | .hole d p => .fault (.physHole d p)
  | .prot => .next (fail s)

/-- Whether a ring has a request pending, by its counts as last read. -/
def Te.pending (t : Te) : Bool := match t.prod with | some p => p != t.cons | none => false

/-- R217: PROD is read again. -/
def execTeRingPoll (ring : Nat) (s : State) : Out :=
  if !ringServed s ring || (teOf s ring).wait.isSome then .next s
  else
    match teReadN (ringWho s ring) (ringHdr s ring) 8 s with
    | .ok x s1 =>
      .next (s1.modTe ring fun t => { t with
        prod := some (BitVec.ofNat 32 (bits x 0 32)), cons := BitVec.ofNat 32 (bits x 32 32), since := if t.pending then t.since else s.cycle })
    | .error m s1 => teMiss s s1 ring none id m

/-! ## Requests (R218 to R220) -/

/-- A request with its ring's place. -/
structure Req where
  d : Nat
  die : Nat
  cid : Nat
def Req.f (q : Req) (lo w : Nat) : Nat := bits q.d lo w
def Req.sty (q : Req) : Option Ty := (typeOf (BitVec.ofNat 5 (q.f 4 5))).toOption
def Req.dty (q : Req) : Option Ty := (typeOf (BitVec.ofNat 5 (q.f 9 5))).toOption
def Req.rm (q : Req) : Nat := q.f 14 2
def Req.src (q : Req) : Nat := q.f 32 48
def Req.dst (q : Req) : Nat := q.f 80 48
def Req.w (q : Req) : Nat := q.f 128 16
def Req.h (q : Req) : Nat := q.f 144 16
def Req.ow (q : Req) : Nat := q.f 160 16
def Req.oh (q : Req) : Nat := q.f 176 16
def Req.spitch (q : Req) : Nat := q.f 192 32
def Req.dpitch (q : Req) : Nat := q.f 224 32

/-- Status codes of R220. -/
def teOk : Nat := 0
def teBadarg : Nat := 3

/-- Request k of a ring, by its header. -/
def recordAt (s : State) (ring x : Nat) : Nat := ringHdr s ring + 64 + 64 * (bits x 32 32 % 2 ^ bits x 64 4)
/-- A request's outcome stands for its completion. -/
def State.teDone (s : State) (ring st : Nat) (tag : W32) : State := s.modTe ring fun t => { t with done := some (st, tag) }

/-- Whether a ring's next request may be served. -/
def ringReady (s : State) (ring : Nat) : Bool :=
  let t := teOf s ring
  ringServed s ring && t.wait.isNone && t.done.isNone && t.pending
/-- The ring whose turn it is on a die (R217): round robin, from the one after the ring that had the last turn. -/
def teTurn (s : State) (die : Nat) : Option Nat :=
  ((List.range 64).map fun i => (tget 0 s.teLast die + i) % 64).find? fun r => ringDie s r == die && ringReady s r
/-- A ring has its turn. -/
def State.teTook (s : State) (ring : Nat) : State := { s with teLast := tput 0 s.teLast (ringDie s ring) ((ring + 1) % 64) }

/-- A request of an operation is served at its ring's turn: its header and its record are read, its work is done, its status stands for the
completion. The TAG of a record that cannot be read is open. -/
def teServe (ring : Nat) (isOp : Nat → Bool) (work : Who → Req → TM Nat) (s : State) : Out :=
  if teTurn s (ringDie s ring) ≠ some ring then .next s
  else
    let w := ringWho s ring
    let took := s.teTook ring
    let tag : W32 := (Config.freeWord s.free).extractLsb' 0 32
    let lost (m : Miss) (s : State) : Out := teMiss took { s with free := s.free + 1 } ring (some tag) (fun s => s.teDone ring 1 tag) m
    match teReadN w (ringHdr s ring) 64 took with
    | .error m s => lost m s
    | .ok x s1 =>
      match teReadN w (recordAt s ring x) 64 s1 with
      | .error m s => lost m s
      | .ok d s1 =>
        let tag : W32 := BitVec.ofNat 32 (bits d 256 32)
        if !isOp (bits d 0 4) then .next s
        else if bits x 64 4 < 4 || bits x 64 4 > 12 then .next (s1.teDone ring teBadarg tag)
        else
          match work w ⟨d, ringDie s ring, w.cid⟩ s1 with
          | .ok st s => .next (s.teDone ring st tag)
          | .error m s => teMiss took s ring (some tag) (fun s => s.teDone ring 1 tag) m

/-- R219 NOP. -/
def execTeNop (ring : Nat) (s : State) : Out := teServe ring (· == 0) (fun _ _ => pure teOk) s
/-- R220: OP 6 to 15. -/
def execTeBadop (ring : Nat) (s : State) : Out := teServe ring (fun o => o ≥ 6) (fun _ _ => pure 2) s

/-- Bytes of a row of n elements. -/
def rowBytes (ty : Ty) (n : Nat) : Nat := (n * ty.bits + 7) / 8
/-- Element i of a row. -/
def rowElem (ty : Ty) (bs : List (Byte × Bool)) (i : Nat) : Nat × Bool :=
  let lo := i * ty.bits / 8
  let cell := (bs.drop lo).take ((ty.bits + 7) / 8)
  (leNat (cell.map (·.1)) / 2 ^ (i * ty.bits % 8) % 2 ^ ty.bits, cell.any (·.2))
/-- A row of elements as bytes; two e2m1 elements share one (R226). -/
def packRow (ty : Ty) (es : List (Nat × Bool)) : List (Byte × Bool) :=
  let per := if ty.bits < 8 then 8 / ty.bits else 1
  ((List.range ((es.length + per - 1) / per)).map fun g =>
    let xs := (es.drop (per * g)).take per
    let v := xs.foldr (fun e a => e.1 % 2 ^ ty.bits + 2 ^ ty.bits * a) 0
    (toBytes ((ty.bits + 7) / 8) v).map fun b => (b, xs.any (·.2))).flatten

/-- h rows of n elements at a pitch. -/
def readRows (w : Who) (ty : Ty) (n pitch : Nat) : Nat → Nat → TM (List (List (Nat × Bool)))
  | 0, _ => pure []
  | h + 1, a => do
    let bs ← teRead w a (rowBytes ty n)
    let rest ← readRows w ty n pitch h (a + pitch)
    pure ((List.range n).map (rowElem ty bs) :: rest)
def writeElems (w : Who) (ty : Ty) (pitch : Nat) : List (List (Nat × Bool)) → Nat → TM Unit
  | [], _ => pure ()
  | r :: rs, a => do
    teWrite w a (packRow ty r)
    writeElems w ty pitch rs (a + pitch)

def gridAt (g : List (List (Nat × Bool))) (y x : Nat) : Nat × Bool := (g.getD y []).getD x (0, false)

/-- R219 TRANSP. -/
def execTeTransp (ring : Nat) (s : State) : Out :=
  teServe ring (· == 2) (fun w q => do
    match q.sty with
    | none => pure teBadarg
    | some ty =>
      if q.dty != some ty || q.rm = 3 || q.w = 0 || q.h = 0 then pure teBadarg
      else do
        let g ← readRows w ty q.w q.spitch q.h q.src
        writeElems w ty q.dpitch ((List.range q.w).map fun x => (List.range q.h).map fun y => gridAt g y x) q.dst
        pure teOk) s

/-- R219 FCONV: each element converted under RM. -/
def execTeFconv (ring : Nat) (s : State) : Out :=
  teServe ring (· == 3) (fun w q => do
    match q.sty, q.dty with
    | some a, some b =>
      if a == .e3m5 || b == .e3m5 || q.rm = 3 || q.w = 0 || q.h = 0 then pure teBadarg
      else do
        let g ← readRows w a q.w q.spitch q.h q.src
        let cv (e : Nat × Bool) : Nat × Bool := ((convTo b (if q.rm = 1 then 1 else 0) (q.rm == 2) (fpOf a e.1)).1, e.2)
        writeElems w b q.dpitch (g.map fun r => r.map cv) q.dst
        pure teOk
    | _, _ => pure teBadarg) s

/-! ## PICT (R219): FP32 with RNE, in the order written -/

def f32Of (n d : Nat) : Nat := (roundQ .f32 0 false false n d).1
def f32Add (a b : Nat) : Nat := (fAdd .f32 0 false (fpOf .f32 a) (fpOf .f32 b)).1
def f32Sub (a b : Nat) : Nat := (fAdd .f32 0 false (fpOf .f32 a) (fpNeg (fpOf .f32 b))).1
def f32Mul (a b : Nat) : Nat := (fMul .f32 0 false (fpOf .f32 a) (fpOf .f32 b)).1
def f32Div (a b : Nat) : Nat := (fDiv .f32 0 false (fpOf .f32 a) (fpOf .f32 b)).1

/-- R, G and B of a luma and a chroma sample. -/
def rgbOf (k y cb cr : Nat) : List Nat :=
  let n (v : Nat) : Nat := f32Of v 1
  let yy := f32Div (f32Sub (n y) (n (16 * k))) (n (219 * k))
  let b := f32Div (f32Sub (n cb) (n (128 * k))) (n (224 * k))
  let c := f32Div (f32Sub (n cr) (n (128 * k))) (n (224 * k))
  [f32Add yy (f32Mul (f32Of 15748 10000) c),
   f32Sub (f32Sub yy (f32Mul (f32Of 1873 10000) b)) (f32Mul (f32Of 4681 10000) c),
   f32Add yy (f32Mul (f32Of 18556 10000) b)]

/-- A source position along one axis: the sample at or below it, clamped with its successor to the picture, and the step beyond it. -/
def axisPos (o n m : Nat) : Nat × Nat × Nat :=
  let half := f32Of 1 2
  let p := f32Sub (f32Div (f32Mul (f32Add (f32Of o 1) half) (f32Of m 1)) (f32Of n 1)) half
  let fl : Int := match fpOf .f32 p with
    | .fin neg k e =>
      let (a, d) := scaleQ k 1 (-e)
      if neg then -(((a + d - 1) / d : Nat) : Int) else ((a / d : Nat) : Int)
    | _ => 0
  let clampTo (i : Int) : Nat := min i.toNat (m - 1)
  let frac := f32Sub p (if fl < 0 then f32Of 0 1 + (f32Of fl.natAbs 1 + 2 ^ 31) else f32Of fl.toNat 1)
  (clampTo fl, clampTo (fl + 1), frac)

/-- Clamped to [0, 1]. -/
def clamp01 (v : Nat) : Nat :=
  match fpOf .f32 v with
  | .fin true _ _ => 0
  | .fin false m e => let (n, d) := scaleQ m 1 (-e); if n ≥ d then f32Of 1 1 else v
  | .inf true => 0
  | .inf false => f32Of 1 1
  | .nan => v

/-- Stored: converted under RM, or for n8 as RNE(255 × v). -/
def pictOut (q : Req) (ty : Ty) (v : Nat) : Nat :=
  if ty == .n8 then (convTo .n8 0 false (fpOf .f32 (f32Mul (f32Of 255 1) v))).1
  else (convTo ty (if q.rm = 1 then 1 else 0) (q.rm == 2) (fpOf .f32 v)).1

/-- A point between two samples, in either of two orders of FP32 operations. -/
def lerp (form : Bool) (u v f : Nat) : Nat :=
  if form then f32Add (f32Mul (f32Sub (f32Of 1 1) f) u) (f32Mul f v) else f32Add u (f32Mul f (f32Sub v u))
/-- A bilinear sample of four: along rows first, along columns first, each in two orders, or by the weights of the four
(notes/assumptions/71.md). -/
def bilin (a b c d fx fy : Nat) : Nat :=
  let one := f32Of 1 1
  if Config.bilinearOrder % 5 = 0 then lerp true (lerp true a b fx) (lerp true c d fx) fy
  else if Config.bilinearOrder % 5 = 1 then lerp false (lerp false a b fx) (lerp false c d fx) fy
  else if Config.bilinearOrder % 5 = 2 then lerp true (lerp true a c fy) (lerp true b d fy) fx
  else if Config.bilinearOrder % 5 = 3 then lerp false (lerp false a c fy) (lerp false b d fy) fx
  else
    let gx := f32Sub one fx
    let gy := f32Sub one fy
    f32Add (f32Add (f32Add (f32Mul (f32Mul gx gy) a) (f32Mul (f32Mul fx gy) b)) (f32Mul (f32Mul gx fy) c)) (f32Mul (f32Mul fx fy) d)

/-- The R, G and B of a sample of the source, and whether any sample of it is poisoned. -/
def pictPixel (a : Ty) (luma chroma : List (List (Nat × Bool))) (y x : Nat) : List Nat × Bool :=
  let l := gridAt luma y x
  let cb := gridAt chroma (y / 2) (2 * (x / 2))
  let cr := gridAt chroma (y / 2) (2 * (x / 2) + 1)
  (rgbOf (if a == .n8 then 1 else 4) l.1 cb.1 cr.1, l.2 || cb.2 || cr.2)
/-- The elements of an output sample. -/
def pictSample (q : Req) (a b : Ty) (luma chroma : List (List (Nat × Bool))) (oy ox : Nat) : List (Nat × Bool) :=
  let (x0, x1, fx) := axisPos ox q.ow q.w
  let (y0, y1, fy) := axisPos oy q.oh q.h
  let p := pictPixel a luma chroma y0 x0
  let p2 := pictPixel a luma chroma y0 x1
  let p3 := pictPixel a luma chroma y1 x0
  let p4 := pictPixel a luma chroma y1 x1
  (List.range 3).map fun i =>
    (pictOut q b (clamp01 (bilin (p.1.getD i 0) (p2.1.getD i 0) (p3.1.getD i 0) (p4.1.getD i 0) fx fy)), p.2 || p2.2 || p3.2 || p4.2)

/-- R219 PICT. -/
def execTePict (ring : Nat) (s : State) : Out :=
  teServe ring (· == 1) (fun w q => do
    match q.sty, q.dty with
    | some a, some b =>
      if !(a == .n8 || a == .n16) || !(b == .f32 || b == .f16 || b == .bf16 || b == .n8) || q.rm = 3 || q.w = 0 || q.h = 0 || q.ow = 0 ||
          q.oh = 0 then pure teBadarg
      else do
        let luma ← readRows w a q.w q.spitch q.h q.src
        let chroma ← readRows w a (2 * ((q.w + 1) / 2)) q.spitch ((q.h + 1) / 2) (q.src + (q.h + 15) / 16 * 16 * q.spitch)
        writeElems w b q.dpitch ((List.range q.oh).map fun oy => (List.range q.ow).flatMap fun ox => pictSample q a b luma chroma oy ox) q.dst
        pure teOk
    | _, _ => pure teBadarg) s

/-- Blocks read and written back whole. -/
def recompBlocks (w : Who) : Nat → Nat → TM Unit
  | 0, _ => pure ()
  | n + 1, a => do
    let bs ← teRead w a 512
    teWrite w a bs
    recompBlocks w n (a + 512)
/-- R219 RECOMP. -/
def execTeRecomp (ring : Nat) (s : State) : Out :=
  teServe ring (· == 4) (fun w q => do
    if q.rm = 3 || q.w = 0 || q.dst % 512 ≠ 0 then pure teBadarg
    else do
      recompBlocks w q.w q.dst
      pure teOk) s
/-- R219, R214 CBLOAD: contexts of CID 1,024 and above have no slots. -/
def execTeCbload (ring : Nat) (s : State) : Out :=
  teServe ring (· == 5) (fun w q => do
    if q.rm = 3 || q.cid ≥ 1024 then pure teBadarg
    else do
      let bs ← teRead w q.src 256
      let k := q.die * 8192 + 2 * q.cid + q.f 16 1
      modify fun s => { s with
        books := tput [] s.books k (bs.map (·.1))
        bookSt := tput 0 s.bookSt k (1 + 2 * (1 - bits (tget 0 s.bookSt k) 1 1)) }
      pure teOk) s

/-- R220: a request's completion record, CONS and EV. -/
def execTeRequestComplete (ring : Nat) (s : State) : Out :=
  let t := teOf s ring
  match t.done with
  | none => .next s
  | some (st, tag) =>
    if !ringServed s ring || t.wait.isSome then .next s
    else
      let w := ringWho s ring
      let hdr := ringHdr s ring
      match (do
        let x ← teReadN w hdr 64
        let k := bits x 32 32
        let n := 2 ^ bits x 64 4
        let rec_ := tag.toNat + st * 2 ^ 32 + (if k / n % 2 = 0 then 2 ^ 63 else 0) + k * 2 ^ 64
        teWrite w (bits x 96 48 + 16 * (k % n)) (clean (toBytes 16 rec_))
        teWrite w (hdr + 4) (clean (toBytes 4 ((k + 1) % 2 ^ 32)))
        modify fun s => s.modTe ring fun t => { t with cons := BitVec.ofNat 32 (k + 1), since := s.cycle }
        pure (bits x 80 16) : TM Nat) s with
      | .error m s1 => teMiss s s1 ring none id m
      | .ok ev s =>
        let s := s.modTe ring fun t => { t with done := none }
        .next (if ev ≠ 0 then signalEvent s w.cid ev else s)

end Sys2Proof.Machine
end

