-- ==== Sys2Proof/Machine/Reliability.lean ====
section
/-! DEFINITION. Soft errors and scrubbing, and the snapshot registers (R255 to R257, R264, R265). -/

namespace Sys2Proof.Machine

/-! ## Soft errors and scrubbing (R255) -/

/-- The key of an address in a register file of a die: vector rows, from 2^35 up accumulators, then x, predicate and stream registers. -/
def regFileKey (die a : Nat) : Option Nat :=
  let r : Ref := ⟨24 * die, 0, .a⟩
  let x := 2 ^ 35 + 2 ^ 34
  let p := x + 2 ^ 33
  let g := p + 2 ^ 32
  if a < 24 * 2 ^ 21 then some (rowKey (24 * die) 0 0 a)
  else if 2 ^ 35 ≤ a && a < 2 ^ 35 + 24 * 2 ^ 18 then some (accKey (24 * die) 0 0 + (a - 2 ^ 35))
  else if x ≤ a && a < x + 24 * 2 ^ 12 then some (regKey r 0 + (a - x))
  else if p ≤ a && a < p + 24 * 2 ^ 12 then some (predKey r 0 + (a - p))
  else if g ≤ a && a < g + 24 * 2 ^ 12 then some (sregKey (24 * die) 0 0 + (a - g))
  else none
/-- The key of an address in a store of a die, by the store codes of ECCADDR (R257): 0 HBM, 1 L2, 2 die scratchpad, 3 core
scratchpads, 4 shell stores, 5 register files and accumulators; die 4 is the M-die. -/
def storeKey (die store a : Nat) : Option Nat :=
  if die = 4 then some (mdieKey store (a % 2 ^ 48))
  else if die > 3 then none
  else if store = 0 then (if a < hbmBytes then some (hbmKey die a) else none)
  else if store = 1 then (if a < hbmBytes then some (l2Key (hbmKey die a)) else none)
  else if store = 2 then (if a < 2 ^ 25 then some (dieKey die a) else none)
  else if store = 3 then (if a < 24 * 2 ^ 22 then some (coreKey (24 * die) a) else none)
  else if store = 4 then (if a < 3 * 2 ^ 32 then some (shellKey (3 * die) a) else none)
  else if store = 5 then regFileKey die a
  else none

/-- Whether a task has staged a byte of HBM (R258). -/
def stagedBy (s : State) (tid k : Nat) : Bool :=
  let has (t : Task) : Bool := t.tid == tid && (cellAt t.stg.bytes k).isSome
  s.tasks.any (fun e => has e.2) || s.jobs.any fun j => has j.t
/-- The key of an address in a store that holds copies, where the copy stands now, by codes of the model's own beside those of ECCADDR
(notes/assumptions/69.md): 6 an L1, 7 an instruction buffer, 8 a side log, 9 and up what the task numbered by the code, less 9, has staged. -/
def copyKey (s : State) (die store a : Nat) : Option Nat :=
  if die > 3 then none
  else if store = 6 then
    let core := 24 * die + a / 2 ^ 60
    let cid := a / 2 ^ 48 % 4096
    if s.views.any fun v => v.core == core && v.cid == cid && v.line == a % 2 ^ 48 / 64 then
      some (viewKey core cid (a % 2 ^ 48 / 64) + a % 64) else none
  else if store = 7 then (if a < 24 * 2 ^ 52 then some (ibufKey ⟨24 * die, 0, .a⟩ a) else none)
  else if store = 8 then
    let core := 24 * die + a / 2 ^ 13
    ((s.logs.filter fun l => l.e.r.core == core)[a % 2 ^ 13 / 128]?).map fun l => logKey core l.e.uid + a % 128
  else if a < hbmBytes && stagedBy s (store - 9) (hbmKey die a) then some (stageKey (store - 9) (hbmKey die a))
  else none
/-- The key of an address of a store where the store holds it now: a line that the L2 does not hold stands in HBM alone. -/
def storedKey (s : State) (die store a : Nat) : Option Nat :=
  if die < 4 && store > 5 then copyKey s die store a
  else if die < 4 && store = 1 && !inL2 s (hbmKey die a / 256) then none else storeKey die store a

/-- Bit b of the store from an address on changes. -/
def flipBit (k : Nat) (s : State) (b : Nat) : State :=
  let w := k / 4 + b / 32
  { s with soft := tput 0 s.soft w (tget 0 s.soft w ^^^ ((1 : W32) <<< (b % 32))) }

/-- The bits of a word of a table changed. -/
def tabXor (t : Tab W32) (k : Nat) (m : W32) : Tab W32 := tput 0 t k (tget 0 t k ^^^ m)
/-- A wide register with the bits of its 32-bit word `i` changed. -/
def wideXor {w : Nat} (v : BitVec w) (i : Nat) (m : W32) : BitVec w := v ^^^ (m.zeroExtend w <<< (32 * i))
/-- An accumulator with bits of a word changed, its own words first, then the checksum row. -/
def Accu.flip (x : Accu) (i : Nat) (m : W32) : Accu :=
  if i < 4096 then { x with c := tabXor x.c i m } else { x with chk := tabXor x.chk (i - 4096) m }
/-- The stream and the register, of 64 bits, that a byte of a file of them belongs to. -/
def fileRef (o : Nat) : Ref × Nat := (⟨o / 2 ^ 12, o / 2 ^ 10 % 4, (Eng.all[o / 256 % 4]?).getD .a⟩, o % 256 / 8)
/-- The stored bits of the 32-bit word at a key change and nothing shows it; none in a store whose bits the model does not hold as words
(notes/assumptions/69.md). -/
def State.xorAt (s : State) (w : Nat) (m : W32) : Option State :=
  let k := 4 * w
  let inMem (k : Nat) : State := s.write k (toBytes 4 ((BitVec.ofNat 32 (s.readN k 4)) ^^^ m).toNat)
  if k < 6 * 2 ^ 40 then some (inMem k)
  else if k < 7 * 2 ^ 40 then
    let row := (k - 6 * 2 ^ 40) % 2 ^ 21 / 256
    if row % 2048 < 64 then
      some (s.modTask ((k - 6 * 2 ^ 40) / 2 ^ 21) (row / 2048) fun t =>
        t.setRow (row % 2048) (Vector.ofFn fun i : Fin 64 => (t.row (row % 2048))[i] ^^^ (if i.val = k % 256 / 4 then m else 0)))
    else some (inMem k)
  else if k < 2 ^ 71 then none
  else if k < 2 ^ 71 + 2 ^ 34 then
    let o := k - 2 ^ 71
    let acc : Fin 8 := Fin.ofNat 8 (o / 2 ^ 15)
    some { s with tasks := s.tasks.map fun e =>
      if e.1 / 4 == o / 2 ^ 18 && e.2.mtask then (e.1, { e.2 with acc := e.2.acc.set acc (e.2.acc[acc].flip (o % 2 ^ 15 / 4) m) }) else e }
  else if k < 2 ^ 71 + 2 ^ 35 then
    let (r, i) := fileRef (k - 2 ^ 71 - 2 ^ 34)
    some (s.modSt r fun st => st.setX (BitVec.ofNat 5 i) (wideXor (st.rx (BitVec.ofNat 5 i)) (w % 2) m))
  else if k < 2 ^ 71 + 2 ^ 36 then
    let (r, i) := fileRef (k - 2 ^ 71 - 2 ^ 35)
    some (s.modSt r fun st => st.setP (BitVec.ofNat 5 i) (wideXor (st.rp (BitVec.ofNat 5 i)) (w % 2) m))
  else if k < 2 ^ 72 then
    let o := k - 2 ^ 71 - 2 ^ 36
    let i : Fin 16 := Fin.ofNat 16 (o / 64)
    some (s.modTask (o / 2 ^ 12) (o / 2 ^ 10 % 4) fun t => { t with s := t.s.set i (wideXor t.s[i] (o % 64 / 4) m) })
  else if k < 2 ^ 73 then some (inMem (k - 2 ^ 72))
  else none
/-- The word of the error list that holds the errors of a protected word, and the pattern of its changed bits (R255). -/
def errPattern (s : State) (w : Nat) : List Nat × Nat :=
  let ks := if isRegFile (4 * w) then [w] else [w / 2 * 2, w / 2 * 2 + 1]
  (ks, (ks.zipIdx.map fun i => (tget 0 s.soft i.1).toNat * 2 ^ (32 * i.2)).sum)
/-- Errors that a protected word's code misses are in its data from then on, unseen (R446); those it can see stay until the word is
read. -/
def landFlip (s : State) (w : Nat) : State :=
  let (ks, v) := errPattern s w
  if (ks.map fun i => flips (tget 0 s.soft i)).sum < 3 || !Config.eccMissed v then s
  else
    match ks.foldl (fun o i => o.bind fun z => z.xorAt i (tget 0 s.soft i)) (some s) with
    | some z => { z with soft := ks.foldl tdel z.soft }
    | none => s

/-- R255: stored bits change. -/
def execSoftError (die store addr : Nat) (bits : List Nat) (s : State) : Out :=
  match storedKey s die store addr with
  | some k => .next ((bits.map fun b => k / 4 + b / 32).foldl landFlip (bits.foldl (flipBit k) s))
  | none => .next s

/-- R255: the scrub timer reads the 64-byte piece of an address of a store that is scrubbed, which wakes its HBM stack (R16); `errs` bits of
its first word changed since it was last read. -/
def execScrubPass (die store addr errs : Nat) (s : State) : Out :=
  if die < 4 && store > 4 then .next s
  else
    match storedKey s die store (addr / 64 * 64) with
    | some k => .next (eccRead ((List.range (min errs 32)).foldl (flipBit k) (touchHbm s k)) k 64)
    | none => .next s

/-! ## Snapshots (R264, R265) -/

/-- R265: a write of 1 releases the held snapshot and arms the trigger. -/
def execSnaparmWrite (fn : Nat) (v : W64) (s : State) : Out :=
  if fn = 0 && v.getLsbD 0 then .next { s with snap := { s.snap with armed := true, held := false } } else .next s

/-- R264: a write of 1 to SNAPTRG fires. -/
def execSnaptrgWrite (fn : Nat) (v : W64) (s : State) : Out :=
  if fn = 0 && v.getLsbD 0 then .next (s.fireSnap 0 0) else .next s

/-- R264: a falling edge of at least 100 ns. -/
def execSnapinEdge (ns : Nat) (s : State) : Out := .next (if ns ≥ 100 then s.fireSnap 1 0 else s)

def Hold.code : Hold → Nat
  | .none => 0 | .token => 1 | .event => 2 | .handle => 3 | .gate => 4 | .stage => 5 | .rendezvous => 6 | .dsync => 7
  | .monitor => 8 | .memory => 9 | .lease => 10 | .queueFull => 11

/-- The two words of a stream in its core's record. -/
def streamWords (t : Task) (e : Eng) : Nat × Nat :=
  let st := t.stm e
  let state := if !t.live then 0 else if !st.live then 4 else if st.stopped then 5 else if st.hold != .none then 2
    else match st.blk with | some b => if b.words.isEmpty then 3 else 1 | none => 1
  let pc := (match st.blk with | some b => b.hdr | none => st.pc).toNat % 2 ^ 48
  if t.live then (pc + t.c.tl * 2 ^ 48 + state * 2 ^ 50 + st.hold.code * 2 ^ 56, t.cid + t.seq.toNat * 2 ^ 32) else (0, 0)
def coreWords (s : State) (core : Nat) : List Nat :=
  [0, 1, 2, 3].flatMap fun sl => Eng.all.flatMap fun e =>
    let w := streamWords (s.task core sl) e
    [w.1, w.2]

/-- A request of a unit as its record shows it: its age in cycles, its context and its address, free values where the model holds none. -/
structure UnitReq where
  age : Nat
  cid : Option Nat
  addr : Option Nat
/-- A record of four words: of the requests the oldest is shown, the first of those as old. -/
def unitWords (s : State) (rs : List UnitReq) : List Nat :=
  match rs with
  | [] => [0, 0, 0, 0]
  | r :: rs =>
    let o := rs.foldl (fun a b => if b.age > a.age then b else a) r
    let free := (Config.freeWord s.free).toNat
    [1 + min (rs.length + 1) 0xFFFF * 2 ^ 16, o.age, o.cid.getD free % 2 ^ 12, o.addr.getD free % 2 ^ 48]

/-- The access units and pictures that an engine's streams have it work on. -/
def codecRequests (s : State) (e : Nat) : List UnitReq :=
  (s.strm.filter fun k => k.2.media.engine == some e).flatMap fun k =>
    let m := k.2.media
    List.replicate ((if m.running && !m.opening then (m.prod - m.cons).toNat else 0) + m.pending.length)
      ⟨s.cycle - m.since, some ((streamCtx s k.1).getD 0), some m.used⟩
/-- The requests of a ring, the one that is done and not yet reported among them. -/
def ringRequests (s : State) (ring : Nat) (t : Te) : List UnitReq :=
  List.replicate (match t.prod with | some p => (p - t.cons).toNat | none => 0) ⟨s.cycle - t.since, some (ringCid s ring), some (ringHdr s ring)⟩

/-- The four words of the units beside cores (R265). -/
def otherWords (s : State) (u : Nat) : List Nat :=
  if u < 224 then
    let d := (u - 96) / 32
    unitWords s ((s.paths.filter fun e => e.sp == .g && e.addr / 2 ^ 45 == d && homeSlice e.addr == u % 32 && e.acc.isMem).map
      fun e => ⟨s.cycle - e.since, some e.cid, some e.addr⟩)
  else if u < 240 then unitWords s (codecRequests s (u - 224))
  else if u < 272 then
    let d := (u - 240) / 8
    unitWords s ((s.te.filter fun r => ringDie s r.1 == d && r.1 % 8 == u % 8).flatMap fun r => ringRequests s r.1 r.2)
  else if u < 280 then
    match s.links.toList[u - 272]? with
    | some l => unitWords s (l.dirs.toList.flatMap fun d => d.replay.map fun c => ⟨s.cycle - c, none, none⟩)
    | none => []
  else if u = 280 then
    unitWords s (s.strm.filterMap fun k => k.2.media.cmu.map fun j => ⟨s.cycle - j.since, some ((streamCtx s k.1).getD 0), some j.base⟩)
  else if u = 281 then
    unitWords s ((s.jobs.filter fun j => j.st == .ready).map fun j => ⟨s.cycle - j.t.since, some j.t.cid, some (j.t.fld 0 48)⟩)
  else []

/-- The record of a unit of SNAPSEL. -/
def unitRecord (s : State) (u : Nat) : List Nat := if u < 96 then coreWords s u else otherWords s u

/-- Words that are not zero, by unit × 32 + word. -/
def recordTab (u : Nat) (ws : List Nat) : Tab W64 :=
  (List.range ws.length).filterMap fun i =>
    let w : W64 := BitVec.ofNat 64 (ws.getD i 0)
    if w = 0 then none else some (u * 32 + i, w)

/-- R264: 256 ns after a trigger every unit is latched. -/
def execSnapshotLatch (s : State) : Out :=
  match s.snap.pend with
  | some (t0, src, cid) =>
    if s.timebase.toNat ≥ t0 + 256 then
      .next { s with
        free := s.free + 1
        snap := { s.snap with
          armed := false, held := true, src := src, cid := cid, time := BitVec.ofNat 64 (t0 + 256), pend := none
          recs := (List.range 282).flatMap fun u => recordTab u (unitRecord s u) } }
    else .next s
  | none => .next s

/-- SNAPDATA (R265): the selected word, zero beyond its record. -/
def snapData (s : State) : W64 :=
  let w := bits s.snap.sel.toNat 12 8
  if w < 32 then tget 0 s.snap.recs ((s.snap.sel.toNat % 2 ^ 12) * 32 + w) else 0

end Sys2Proof.Machine
end

