-- ==== Sys2Proof/Machine/Registers.lean ====
section
/-! DEFINITION. Host writes of registers that have no behaviour of their own, with their clamps, and what a host read returns
(R3, R4, R21, R22, R41, R42, R47 to R49, R63, R64, R96, R104, R163, R164, R216, R257, R265, R266). A register is named by its BAR and
offset; a value is at the width its register map gives. -/

namespace Sys2Proof.Machine

def clamp (lo hi n : Nat) : Nat := max lo (min hi n)
/-- CLR (R4): a write of all ones to a 32-bit counter clears it. -/
def clrWrite (v : W64) (old : Nat) : Nat := if v.extractLsb' 0 32 == BitVec.allOnes 32 then 0 else old

/-- PF registers of the package (R21, R22, R41, R42, R257, R265). -/
def pkgWrite (off : Nat) (v : W64) (s : State) : State :=
  let n := v.toNat
  let p := s.pkg
  if off = 0x10 then { s with pkg := { p with pwrlim := clamp 150 600 (bits n 0 16) } }
  else if off = 0x28 then { s with pkg := { p with capcnt := clrWrite v p.capcnt } }
  else if off = 0x38 then { s with pkg := { p with dieThr := clamp 60 100 (bits n 0 8), hbmThr := clamp 60 85 (bits n 16 8) } }
  else if off = 0x50 then
    { s with pkg := { p with almstat := p.almstat &&& ~~~(v.extractLsb' 8 3 ++ v.extractLsb' 0 4) } }
  else if off = 0x60 then State.rollsDue { s with pkg := { p with rollctl := max 1 (bits n 0 8) } }
  else if off = 0x78 then { s with pkg := { p with eccCnt := clrWrite v p.eccCnt } }
  else if off = 0x80 then { s with pkg := { p with eccUnc := clrWrite v p.eccUnc } }
  else if off = 0x90 then { s with pkg := { p with scrubHours := max 1 (bits n 0 8) } }
  else if off = 0xB8 then { s with snap := { s.snap with sel := v &&& 0xF_FFFF } }
  else s

/-- Launch registers of one function (R47, R48, R96). -/
def fnWrite (fn off : Nat) (v : W64) (s : State) : State :=
  if off = 0x1000 then s.modFn fn fun f => { f with apbase := v &&& 0xFF }
  else if off = 0x1008 then s.modFn fn fun f => { f with crbase := v &&& 0xFFFF_FFFF_FFFF_F000 }
  else if off = 0x1028 then s.modFn fn fun f => { f with crstat := f.crstat &&& ~~~v }
  else if off = 0x1030 then s.modFn fn fun f => { f with
    crirq := BitVec.ofNat 64 (max 1 (bits v.toNat 0 16) + bits v.toNat 16 16 * 2 ^ 16) }
  else if off = 0x1038 then s.modFn fn fun f => { f with armbase := v &&& 0x0000_FFFF_FFFF_F000 }
  else if off = 0x1040 then s.modFn fn fun f => { f with armsize := logField v 10 24 ||| (f.armsize &&& 0x100) }
  else if off = 0x10D8 then s.modFn fn fun f => { f with apctx := v &&& 0x8FFF }
  else s

/-- The bytes of a weight register, 0 stored as 1 (R104). -/
def weightWrite (r : Nat) (v : W64) (w : Tab Nat) : Tab Nat :=
  (List.range 8).foldl (fun w i => tput 1 w (8 * r + i) (max 1 (bits v.toNat (8 * i) 8))) w
/-- The tenants of 16 streams (R48). -/
def strmapWrite (r : Nat) (v : W64) (m : Tab Nat) : Tab Nat :=
  (List.range 16).foldl (fun m i => tput 0 m (16 * r + i) (bits v.toNat (4 * i) 4)) m

/-- PF registers of launch, scheduling, memory and save frames (R47 to R49, R104, R163, R164, R216, R266). A ring that is registered anew
starts anew. -/
def pfWrite (off : Nat) (v : W64) (s : State) : State :=
  let n := v.toNat
  if off = 0x1048 then { s with sch := { s.sch with age := BitVec.ofNat 64 (bits n 0 24 + max 16 (bits n 24 8) * 2 ^ 24) } }
  else if off = 0x1050 then { s with sch := { s.sch with drrq := BitVec.ofNat 64 (max 256 (bits n 0 16)) } }
  else if off = 0x1058 then { s with ctxtbl := v &&& 0xF_FFFC_0000 }
  else if off = 0x1060 then { s with physwin := v &&& 7 }
  else if off = 0x1068 then { s with fqbase := v &&& 0xFFFF_FFFF_FFFF_F000 }
  else if off = 0x1070 then postFaults (s.fqwait.length + 1) { s with fqsize := logField v 8 16 }
  else if off = 0x1078 then postFaults (s.fqwait.length + 1) { s with fqhead := v.extractLsb' 0 32 }
  else if 0x10B0 ≤ off && off ≤ 0x10C8 && off % 8 = 0 then { s with svbase := tput 0 s.svbase ((off - 0x10B0) / 8) (v &&& 0xFFFF_FFF0_0000) }
  else if off = 0x10D0 then { s with svcnt := v &&& 0xFFF }
  else if 0x1100 ≤ off && off < 0x1140 && off % 8 = 0 then { s with strmap := strmapWrite ((off - 0x1100) / 8) v s.strmap }
  else if 0x1200 ≤ off && off < 0x1300 && off % 8 = 0 then
    { s with peerwin := tput 0 s.peerwin ((off - 0x1200) / 8) (if off % 16 = 0 then v &&& 0xFFFF_FFFF_FFFF_F000 else v &&& 0xFFFF) }
  else if 0x1400 ≤ off && off < 0x1480 && off % 8 = 0 then
    { s with sch := { s.sch with weights := weightWrite ((off - 0x1400) / 8) v s.sch.weights } }
  else if 0x1500 ≤ off && off < 0x1600 && off % 2 = 0 then { s with ctxmap := tput 0 s.ctxmap ((off - 0x1500) / 2) (v &&& 0x8FFF) }
  else if 0x1600 ≤ off && off < 0x1660 && off % 8 = 0 then
    let new : W64 := BitVec.ofNat 64 (min 8 (bits n 0 4)) ||| (v &&& 0x8FFF_0000) ||| 0x1_0000_0000
    { s with kcfgNew := tput 0 s.kcfgNew ((off - 0x1600) / 8) new }
  else if 0x1700 ≤ off && off < 0x1800 && off % 2 = 0 then
    let part := (off - 0x1700) / 2
    { s with
      dsown := tput 0 s.dsown part (v &&& 0x8FFF)
      dOwner := if v.getLsbD 15 && tget 0 s.dOwner part ≠ bits n 0 12 + 1 then tput 0 s.dOwner part 0 else s.dOwner }
  else if 0x1800 ≤ off && off < 0x1C00 && off % 16 = 0 then
    { s with
      xrtab := tput 0 s.xrtab ((off - 0x1800) / 8) (v &&& 0xBFFF_FFFF_FFFF_FFC0)
      te := tdel s.te ((off - 0x1800) / 16) }
  else s

/-- A stream block (R47, R48, R63, R64); in a hold of the package the write is dropped (R20). -/
def streamWrite (fn i off : Nat) (v : W64) (s : State) : State :=
  if !mayUse s fn i || pkgHeld s then s
  else if off = 0x00 then s.modStrm i fun h => { h with sqbase := v &&& 0x0000_FFFF_FFFF_FFC0 }
  else if off = 0x08 then
    s.modStrm i fun h => { h with sqsize := logField v 6 16, spn := if h.sqsize = 0 && logField v 6 16 != 0 then 0 else h.spn }
  else if off = 0x20 then s.modStrm i fun h => { h with sqstat := h.sqstat &&& ~~~v }
  else if off = 0x28 then
    if (mediaOf s i).running then s
    else s.modMedia i fun m => { m with base := v &&& 0x0000_FFFF_FFFF_FF80, fresh := true }
  else if off = 0x38 then s.modMedia i fun m => { m with stat := m.stat &&& ~~~v }
  else s

/-- R4: a host write of a register with no behaviour of its own. -/
def execRegisterWrite (fn bar off : Nat) (v : W64) (s : State) : Out :=
  if fn > 8 then .next s
  else if bar = 2 then .next (streamWrite fn (off / 64) (off % 64) v s)
  else if bar ≠ 0 then .next s
  else if off < 0x1000 then .next (if fn = 0 then pkgWrite off v s else s)
  else if off ≤ 0x1040 || off = 0x10D8 then .next (fnWrite fn off v s)
  else .next (if fn = 0 then pfWrite off v s else s)

/-! ## Reads -/

/-- DEVSTAT (R22). -/
def devstat (s : State) : Nat :=
  let b (c : Bool) (i : Nat) : Nat := if c then 2 ^ i else 0
  b s.pkg.ready 0 + ([0, 1, 2, 3].map fun d => b (trusted s d) (1 + d)).sum + b s.pkg.capped 5 + b s.pkg.throttle 6 + b s.pkg.trip 7 +
    b (s.pkg.almstat &&& 0xF != 0) 8
def DieState.code : DieState → Nat | .fused => 0 | .reset => 1 | .attesting => 2 | .trusted => 3 | .quarantined => 4

/-- Package registers as a function reads them (R21, R22, R41, R42, R257, R265). -/
def pkgRead (s : State) (fn off : Nat) : Nat :=
  let p := s.pkg
  if off = 0x00 then p.devid.toNat
  else if off = 0x08 then devstat s
  else if off = 0x20 then p.mhz
  else if off = 0x40 then s.timebase.toNat
  else if fn ≠ 0 then 0
  else if off = 0x10 then p.pwrlim
  else if off = 0x18 then p.pwrnow
  else if off = 0x28 then p.capcnt
  else if off = 0x30 then p.tempC + p.tempM * 2 ^ 8 + p.tempH * 2 ^ 16
  else if off = 0x38 then p.dieThr + p.hbmThr * 2 ^ 16
  else if off = 0x48 then ([0, 1, 2, 3].map fun d => (dieAt s d).st.code * 16 ^ d).sum
  else if off = 0x50 then bits p.almstat.toNat 0 4 + bits p.almstat.toNat 4 3 * 2 ^ 8
  else if off = 0x60 then p.rollctl
  else if off = 0x68 then ([0, 1, 2, 3].map fun d => (dieAt s d).att * 16 ^ d).sum
  else if off = 0x70 then p.almpol
  else if off = 0x78 then p.eccCnt
  else if off = 0x80 then p.eccUnc
  else if off = 0x88 then p.eccAddr.toNat
  else if off = 0x90 then p.scrubHours
  else if off = 0xA0 then
    (if s.snap.armed then 1 else 0) + (if s.snap.held then 2 else 0) + s.snap.src * 2 ^ 2 + s.snap.cid * 2 ^ 4 + s.snap.miss * 2 ^ 16
  else if off = 0xA8 then s.snap.time.toNat
  else if off = 0xB8 then s.snap.sel.toNat
  else if off = 0xC0 then (snapData s).toNat
  else 0

/-- Launch registers of a function (R47, R48, R96). -/
def fnRead (s : State) (fn off : Nat) : Nat :=
  let f := fnAt s fn
  if off = 0x1000 then f.apbase.toNat
  else if off = 0x1008 then f.crbase.toNat
  else if off = 0x1010 then f.crsize.toNat
  else if off = 0x1018 then f.crhead.toNat
  else if off = 0x1020 then f.crtail.toNat
  else if off = 0x1028 then f.crstat.toNat
  else if off = 0x1030 then f.crirq.toNat
  else if off = 0x1038 then f.armbase.toNat
  else if off = 0x1040 then f.armsize.toNat
  else if off = 0x10D8 then f.apctx.toNat
  else 0

/-- PF registers (R47, R49, R104, R163, R164, R216, R254, R266). -/
def pfRead (s : State) (off : Nat) : Nat :=
  if off = 0x1048 then s.sch.age.toNat
  else if off = 0x1050 then s.sch.drrq.toNat
  else if off = 0x1058 then s.ctxtbl.toNat
  else if off = 0x1060 then s.physwin.toNat
  else if off = 0x1068 then s.fqbase.toNat
  else if off = 0x1070 then s.fqsize.toNat
  else if off = 0x1078 then s.fqhead.toNat
  else if off = 0x1080 then s.fqtail.toNat
  else if off = 0x1098 then (if s.invals.isEmpty then 0 else 1)
  else if off = 0x10A8 then
    (if s.kills.isEmpty then 0 else 1) + min 16 (s.kills.length - 1) * 2 + (if s.killDrop then 2 ^ 6 else 0)
  else if 0x10B0 ≤ off && off ≤ 0x10C8 then (tget 0 s.svbase ((off - 0x10B0) / 8)).toNat
  else if off = 0x10D0 then s.svcnt.toNat
  else if 0x1100 ≤ off && off < 0x1140 then
    ((List.range 16).map fun i => tget 0 s.strmap (16 * ((off - 0x1100) / 8) + i) * 16 ^ i).sum
  else if 0x1200 ≤ off && off < 0x1300 then (tget 0 s.peerwin ((off - 0x1200) / 8)).toNat
  else if 0x1400 ≤ off && off < 0x1480 then
    ((List.range 8).map fun i => tget 1 s.sch.weights (8 * ((off - 0x1400) / 8) + i) * 256 ^ i).sum
  else if 0x1500 ≤ off && off < 0x1600 then (tget 0 s.ctxmap ((off - 0x1500) / 2)).toNat
  else if 0x1600 ≤ off && off < 0x1660 then
    let k := (off - 0x1600) / 8
    if tget 0 s.kcfgNew k = 0 then (tget 0 s.kcfg k).toNat else (tget 0 s.kcfgNew k).toNat
  else if 0x1700 ≤ off && off < 0x1800 then (tget 0 s.dsown ((off - 0x1700) / 2)).toNat
  else if 0x1800 ≤ off && off < 0x1C00 then (tget 0 s.xrtab ((off - 0x1800) / 8)).toNat
  else 0

/-- A stream block (R47, R63). -/
def streamRead (s : State) (fn i off : Nat) : Nat :=
  let h := hst s i
  if !mayUse s fn i then 0
  else if off = 0x00 then h.sqbase.toNat
  else if off = 0x08 then h.sqsize.toNat
  else if off = 0x10 then h.sqhead.toNat
  else if off = 0x18 then h.kick.toNat
  else if off = 0x20 then h.sqstat.toNat
  else if off = 0x28 then h.media.base.toNat
  else if off = 0x30 then h.media.ctl.toNat
  else if off = 0x38 then h.media.stat.toNat
  else 0

/-- What a function reads at a register (R3, R4): write-only registers and holes read zero, and every window but management's until READY
(R23). -/
def hostRead (s : State) (fn bar off : Nat) : W64 :=
  BitVec.ofNat 64 (if fn > 8 then 0
    else if bar = 2 then (if winOpen s then streamRead s fn (off / 64) (off % 64) else 0)
    else if bar ≠ 0 then 0
    else if off < 0x1000 then pkgRead s fn off
    else if off ≤ 0x1040 || off = 0x10D8 then fnRead s fn off
    else if fn = 0 then pfRead s off else 0)

end Sys2Proof.Machine
end

