-- ==== Sys2Proof/Machine/Scalar.lean ====
section
/-! DEFINITION. The scalar instructions of every stream: ALU, immediates, compares, predicates, multiply and divide, select
(R341 to R348). -/

namespace Sys2Proof.Machine

/-! ## Operations on values -/

def aluMinS (a b : W64) : W64 := if a.slt b then a else b
def aluMinN (a b : W64) : W64 := if a.ult b then a else b
def aluMaxS (a b : W64) : W64 := if a.slt b then b else a
def aluMaxN (a b : W64) : W64 := if a.ult b then b else a
/-- A 32-bit result sign-extended (R341, R347). -/
def wordRes (a : W32) : W64 := a.signExtend 64
def lo32 (a : W64) : W32 := a.extractLsb' 0 32
def aluAddW (a b : W64) : W64 := wordRes (lo32 (a + b))
def aluSubW (a b : W64) : W64 := wordRes (lo32 (a - b))

/-- Leading zero bits of the low n bits of a number. -/
def clzNat : Nat → Nat → Nat
  | 0, _ => 0
  | n + 1, v => if v / 2 ^ n % 2 = 1 then 0 else 1 + clzNat n v
/-- One bits among the low n bits of a number. -/
def popNat : Nat → Nat → Nat
  | 0, _ => 0
  | n + 1, v => v / 2 ^ n % 2 + popNat n v
def aluClz (a : W64) : W64 := BitVec.ofNat 64 (clzNat 64 a.toNat)
def aluPopc (a : W64) : W64 := BitVec.ofNat 64 (popNat 64 a.toNat)

/-- 64 ones or 64 zeros (R344). -/
def allOnes (b : Bool) : W64 := if b then 0xFFFF_FFFF_FFFF_FFFF else 0

/-- Bits [127:64] of the exact product (R347). -/
def mulhS (a b : W64) : W64 := BitVec.ofInt 64 (a.toInt * b.toInt / 2 ^ 64)
def mulhN (a b : W64) : W64 := BitVec.ofNat 64 (a.toNat * b.toNat / 2 ^ 64)

/-- Quotient and remainder, with the divisor of zero and the overflow of R348. -/
def quotS {w : Nat} (a b : BitVec w) : BitVec w := if b = 0 then BitVec.allOnes w else BitVec.ofInt w (a.toInt.tdiv b.toInt)
def quotN {w : Nat} (a b : BitVec w) : BitVec w := if b = 0 then BitVec.allOnes w else a / b
def remS {w : Nat} (a b : BitVec w) : BitVec w := if b = 0 then a else BitVec.ofInt w (a.toInt.tmod b.toInt)
def remN {w : Nat} (a b : BitVec w) : BitVec w := if b = 0 then a else a % b

/-! ## Shapes of instructions -/

/-- x[d] from x[a] and x[b]. -/
def alu2 (f : Sync) (d a b : R5) (op : W64 → W64 → W64) (s : State) : Out :=
  issue32 s f ⟨[d, a, b], [], [], [a, b]⟩ fun s => .go (s.setX d (op (s.x a) (s.x b)))
/-- x[d] from x[a]. -/
def alu1 (f : Sync) (d a : R5) (op : W64 → W64) (s : State) : Out :=
  issue32 s f ⟨[d, a], [], [], [a]⟩ fun s => .go (s.setX d (op (s.x a)))
/-- p[d] from a test of x[a] and x[b]. -/
def cmp2 (f : Sync) (d a b : R5) (op : W64 → W64 → Bool) (s : State) : Out :=
  issue32 s f ⟨[a, b], [d], [], [a, b]⟩ fun s => readPreds s [] [d] fun s => .go (s.setP d (allOnes (op (s.x a) (s.x b))))
/-- p[d] from a test of x[a] and a signed immediate. -/
def cmpImm (g : Guard) (d a : R5) (imm : BitVec 14) (op : W64 → W64 → Bool) (s : State) : Out :=
  issue64 s g ⟨[a], [d], [], [a]⟩ fun s => readPreds s [] [d] fun s =>
    .go (s.setP d (allOnes (op (s.x a) (imm.signExtend 64))))
/-- p[d] from p[a] and p[b]. -/
def pred2 (f : Sync) (d a b : R5) (op : W64 → W64 → W64) (s : State) : Out :=
  issue32 s f ⟨[], [d, a, b], [], []⟩ fun s => readPreds s [a, b] [d] fun s => .go (s.setP d (op (s.p a) (s.p b)))
def pred1 (f : Sync) (d a : R5) (op : W64 → W64) (s : State) : Out :=
  issue32 s f ⟨[], [d, a], [], []⟩ fun s => readPreds s [a] [d] fun s => .go (s.setP d (op (s.p a)))
/-- A division: with TRAPEN.DIVZ set a zero divisor traps DIVZ with EVAL x[a] (R348). -/
def divide (f : Sync) (d a b : R5) (zero : W64 → Bool) (op : W64 → W64 → W64) (s : State) : Out :=
  issue32 s f ⟨[d, a, b], [], [], [a, b]⟩ fun s =>
    if zero (s.x b) && (s.csr 0x00B).getLsbD 0 then .trap cDIVZ (s.x a) else .go (s.setX d (op (s.x a) (s.x b)))
def isZero (b : W64) : Bool := b == 0
def isZeroW (b : W64) : Bool := lo32 b == 0

/-! ## ALU (R341) -/

/-- R341 add: x[a] + x[b] modulo 2^64. -/
def execAdd (f : Sync) (d a b : R5) (s : State) : Out := alu2 f d a b (fun x y => x + y) s
/-- R341 sub. -/
def execSub (f : Sync) (d a b : R5) (s : State) : Out := alu2 f d a b (fun x y => x - y) s
/-- R341 and. -/
def execAnd (f : Sync) (d a b : R5) (s : State) : Out := alu2 f d a b (fun x y => x &&& y) s
/-- R341 or. -/
def execOr (f : Sync) (d a b : R5) (s : State) : Out := alu2 f d a b (fun x y => x ||| y) s
/-- R341 xor. -/
def execXor (f : Sync) (d a b : R5) (s : State) : Out := alu2 f d a b (fun x y => x ^^^ y) s
/-- R341 andn: x[a] & ~x[b]. -/
def execAndn (f : Sync) (d a b : R5) (s : State) : Out := alu2 f d a b (fun x y => x &&& ~~~y) s
/-- R341 sll by x[b][5:0]. -/
def execSll (f : Sync) (d a b : R5) (s : State) : Out := alu2 f d a b (fun x y => x <<< (y &&& 63).toNat) s
/-- R341 srl by x[b][5:0]. -/
def execSrl (f : Sync) (d a b : R5) (s : State) : Out := alu2 f d a b (fun x y => x >>> (y &&& 63).toNat) s
/-- R341 sra by x[b][5:0]. -/
def execSra (f : Sync) (d a b : R5) (s : State) : Out := alu2 f d a b (fun x y => x.sshiftRight (y &&& 63).toNat) s
/-- R341 min.s. -/
def execMinS (f : Sync) (d a b : R5) (s : State) : Out := alu2 f d a b (aluMinS) s
/-- R341 min.n. -/
def execMinN (f : Sync) (d a b : R5) (s : State) : Out := alu2 f d a b (aluMinN) s
/-- R341 max.s. -/
def execMaxS (f : Sync) (d a b : R5) (s : State) : Out := alu2 f d a b (aluMaxS) s
/-- R341 max.n. -/
def execMaxN (f : Sync) (d a b : R5) (s : State) : Out := alu2 f d a b (aluMaxN) s
/-- R341 clz: leading zero bits. -/
def execClz (f : Sync) (d a : R5) (s : State) : Out := alu1 f d a aluClz s
/-- R341 popc: one bits. -/
def execPopc (f : Sync) (d a : R5) (s : State) : Out := alu1 f d a aluPopc s
/-- R341 add.w. -/
def execAddW (f : Sync) (d a b : R5) (s : State) : Out := alu2 f d a b aluAddW s
/-- R341 sub.w. -/
def execSubW (f : Sync) (d a b : R5) (s : State) : Out := alu2 f d a b aluSubW s

/-! ## Immediates (R342, R343) -/

/-- R342 addi with the sign-extended immediate. -/
def execAddi (f : Sync) (d a : R5) (imm : BitVec 11) (s : State) : Out := alu1 f d a (fun x => x + imm.signExtend 64) s
/-- R342 andi with the sign-extended immediate. -/
def execAndi (f : Sync) (d a : R5) (imm : BitVec 11) (s : State) : Out := alu1 f d a (fun x => x &&& imm.signExtend 64) s
/-- R342 ori with the sign-extended immediate. -/
def execOri (f : Sync) (d a : R5) (imm : BitVec 11) (s : State) : Out := alu1 f d a (fun x => x ||| imm.signExtend 64) s
/-- R342 xori with the sign-extended immediate. -/
def execXori (f : Sync) (d a : R5) (imm : BitVec 11) (s : State) : Out := alu1 f d a (fun x => x ^^^ imm.signExtend 64) s
/-- R342 slli by imm11[5:0]. -/
def execSlli (f : Sync) (d a : R5) (sh : BitVec 6) (s : State) : Out := alu1 f d a (fun x => x <<< sh.toNat) s
/-- R342 srli by imm11[5:0]. -/
def execSrli (f : Sync) (d a : R5) (sh : BitVec 6) (s : State) : Out := alu1 f d a (fun x => x >>> sh.toNat) s
/-- R342 srai by imm11[5:0]. -/
def execSrai (f : Sync) (d a : R5) (sh : BitVec 6) (s : State) : Out := alu1 f d a (fun x => x.sshiftRight sh.toNat) s
/-- R343 liw: the sign-extended 32-bit value. -/
def execLiw (f : Sync) (d : R5) (imm : W32) (s : State) : Out := issue32 s f ⟨[d], [], [], []⟩ fun s => .go (s.setX d (imm.signExtend 64))
/-- R343 lih: the upper half, the lower unchanged. -/
def execLih (f : Sync) (d : R5) (imm : W32) (s : State) : Out := issue32 s f ⟨[d], [], [], [d]⟩ fun s => .go (s.setX d (imm ++ lo32 (s.x d)))

/-! ## Compares (R344) -/

/-- R344 cmp Eq into p[d]. -/
def execCmpEq (f : Sync) (d a b : R5) (s : State) : Out := cmp2 f d a b (fun x y => x == y) s
/-- R344 cmp Ne into p[d]. -/
def execCmpNe (f : Sync) (d a b : R5) (s : State) : Out := cmp2 f d a b (fun x y => x != y) s
/-- R344 cmp LtS into p[d]. -/
def execCmpLtS (f : Sync) (d a b : R5) (s : State) : Out := cmp2 f d a b (BitVec.slt) s
/-- R344 cmp LtN into p[d]. -/
def execCmpLtN (f : Sync) (d a b : R5) (s : State) : Out := cmp2 f d a b (BitVec.ult) s
/-- R344 cmp GeS into p[d]. -/
def execCmpGeS (f : Sync) (d a b : R5) (s : State) : Out := cmp2 f d a b (fun x y => !x.slt y) s
/-- R344 cmp GeN into p[d]. -/
def execCmpGeN (f : Sync) (d a b : R5) (s : State) : Out := cmp2 f d a b (fun x y => !x.ult y) s
/-- R344 cmpi Eq into p[d]. -/
def execCmpiEq (g : Guard) (d a : R5) (imm : BitVec 14) (s : State) : Out := cmpImm g d a imm (fun x y => x == y) s
/-- R344 cmpi Ne into p[d]. -/
def execCmpiNe (g : Guard) (d a : R5) (imm : BitVec 14) (s : State) : Out := cmpImm g d a imm (fun x y => x != y) s
/-- R344 cmpi LtS into p[d]. -/
def execCmpiLtS (g : Guard) (d a : R5) (imm : BitVec 14) (s : State) : Out := cmpImm g d a imm (BitVec.slt) s
/-- R344 cmpi LtN into p[d]. -/
def execCmpiLtN (g : Guard) (d a : R5) (imm : BitVec 14) (s : State) : Out := cmpImm g d a imm (BitVec.ult) s
/-- R344 cmpi GeS into p[d]. -/
def execCmpiGeS (g : Guard) (d a : R5) (imm : BitVec 14) (s : State) : Out := cmpImm g d a imm (fun x y => !x.slt y) s
/-- R344 cmpi GeN into p[d]. -/
def execCmpiGeN (g : Guard) (d a : R5) (imm : BitVec 14) (s : State) : Out := cmpImm g d a imm (fun x y => !x.ult y) s

/-! ## Predicates (R345) -/

/-- R345 pand. -/
def execPand (f : Sync) (d a b : R5) (s : State) : Out := pred2 f d a b (fun x y => x &&& y) s
/-- R345 por. -/
def execPor (f : Sync) (d a b : R5) (s : State) : Out := pred2 f d a b (fun x y => x ||| y) s
/-- R345 pxor. -/
def execPxor (f : Sync) (d a b : R5) (s : State) : Out := pred2 f d a b (fun x y => x ^^^ y) s
/-- R345 pandn. -/
def execPandn (f : Sync) (d a b : R5) (s : State) : Out := pred2 f d a b (fun x y => x &&& ~~~y) s
/-- R345 pnot. -/
def execPnot (f : Sync) (d a : R5) (s : State) : Out := pred1 f d a (fun x => ~~~x) s
/-- R345 pmov. -/
def execPmov (f : Sync) (d a : R5) (s : State) : Out := pred1 f d a (fun x => x) s
/-- R345 pall. -/
def execPall (f : Sync) (d a : R5) (s : State) : Out := pred1 f d a (fun x => allOnes (x == 0xFFFF_FFFF_FFFF_FFFF)) s
/-- R345 pnone. -/
def execPnone (f : Sync) (d a : R5) (s : State) : Out := pred1 f d a (fun x => allOnes (x == 0)) s
/-- R345 ppop: one bits of p[a] into x[d]. -/
def execPpop (f : Sync) (d a : R5) (s : State) : Out := issue32 s f ⟨[d], [a], [], []⟩ fun s => readPreds s [a] [] fun s => .go (s.setX d (aluPopc (s.p a)))
/-- R345 pfirst: all ones when p[a] has a set bit. -/
def execPfirst (f : Sync) (d a : R5) (s : State) : Out := pred1 f d a (fun x => allOnes (x != 0)) s

/-! ## Multiply and divide (R347, R348) -/

/-- R347 mul. -/
def execMul (f : Sync) (d a b : R5) (s : State) : Out := alu2 f d a b (fun x y => x * y) s
/-- R347 mulh.s. -/
def execMulhS (f : Sync) (d a b : R5) (s : State) : Out := alu2 f d a b mulhS s
/-- R347 mulh.n. -/
def execMulhN (f : Sync) (d a b : R5) (s : State) : Out := alu2 f d a b mulhN s
/-- R347, R348 DivS. -/
def execDivS (f : Sync) (d a b : R5) (s : State) : Out := divide f d a b isZero (fun x y => quotS x y) s
/-- R347, R348 DivN. -/
def execDivN (f : Sync) (d a b : R5) (s : State) : Out := divide f d a b isZero (fun x y => quotN x y) s
/-- R347, R348 RemS. -/
def execRemS (f : Sync) (d a b : R5) (s : State) : Out := divide f d a b isZero (fun x y => remS x y) s
/-- R347, R348 RemN. -/
def execRemN (f : Sync) (d a b : R5) (s : State) : Out := divide f d a b isZero (fun x y => remN x y) s
/-- R347 mul.w. -/
def execMulW (f : Sync) (d a b : R5) (s : State) : Out := alu2 f d a b (fun x y => wordRes (lo32 x * lo32 y)) s
/-- R347, R348 DivWS. -/
def execDivWS (f : Sync) (d a b : R5) (s : State) : Out := divide f d a b isZeroW (fun x y => wordRes (quotS (lo32 x) (lo32 y))) s
/-- R347, R348 DivWN. -/
def execDivWN (f : Sync) (d a b : R5) (s : State) : Out := divide f d a b isZeroW (fun x y => wordRes (quotN (lo32 x) (lo32 y))) s
/-- R347, R348 RemWS. -/
def execRemWS (f : Sync) (d a b : R5) (s : State) : Out := divide f d a b isZeroW (fun x y => wordRes (remS (lo32 x) (lo32 y))) s
/-- R347, R348 RemWN. -/
def execRemWN (f : Sync) (d a b : R5) (s : State) : Out := divide f d a b isZeroW (fun x y => wordRes (remN (lo32 x) (lo32 y))) s
/-- R346 sel: x[a] when bit 0 of p[c] is 1, else x[b]. -/
def execSel (g : Guard) (d a b c : R5) (s : State) : Out :=
  issue64 s g ⟨[d, a, b], [c], [], [a, b]⟩ fun s => readPreds s [c] [] fun s => .go (s.setX d (if (s.p c).getLsbD 0 then s.x a else s.x b))

end Sys2Proof.Machine
end

