-- ==== Sys2Proof/Machine/Sched.lean ====
section
/-! DEFINITION. The scheduler: dispatch turns, ageing, stealing and splitting, pre-emption and resumption, iterations and the end of a
task (R86 to R93, R99, R104 to R113, R123, R124, R151 to R153, R258, R266). -/

namespace Sys2Proof.Machine

/-! ## Registers (R104) -/

/-- What was written to the registers takes effect at a dispatch turn. -/
def latch (s : State) : State :=
  { s with sch := { s.sch with ageIn := s.sch.age, drrqIn := s.sch.drrq, weightsIn := s.sch.weights } }
def ageOf (s : State) : Nat := bits s.sch.ageIn.toNat 0 24
def floorOf (s : State) : Nat := max 16 (bits s.sch.ageIn.toNat 24 8)
/-- Q(s) = W(s) × QBASE. -/
def quantum (s : State) (stream : Nat) : Nat := max 1 (tget 1 s.sch.weightsIn stream) * max 256 (bits s.sch.drrqIn.toNat 0 16)

def queueOf (s : State) (core : Nat) : List Job := s.jobs.filter fun j => j.st == .ready && j.q == core
def freeSlot (s : State) (core : Nat) : Option Nat := [0, 1, 2, 3].find? fun k => !(s.task core k).live
def residents (s : State) (core : Nat) : List (Nat × Task) :=
  ([0, 1, 2, 3].map fun k => (k, s.task core k)).filter fun e => e.2.live

/-! ## The stream set (R87, R89, R90) -/

/-- The stream set of a task, as an instruction fetch reads it; none where it is poisoned. -/
def readSet (cid code : Nat) : TM (Option (List W64)) := do
  let (bs, _, bad) ← gRead (hostWho cid) code 32 .ex
  pure (if bad then none else some ((List.range 4).map fun i => BitVec.ofNat 64 (leNat ((bs.drop (8 * i)).take 8))))
/-- Whether a task that waits has an M stream (R107, R123); none where its set cannot be read. -/
def hasM (s : State) (j : Job) : Option Bool :=
  if j.t.saved then some j.t.mtask
  else
    match readSet j.t.cid (j.t.fld 0 48) s with
    | .ok (some es) _ => some (es.getD 1 0 != 0)
    | .ok none _ | .error _ _ => none
/-- Whether a core's slots may hold an M task: a task whose stream set is still to be read counts as one (DEDUCED,
notes/assumptions/105.md). -/
def coreHasM (s : State) (core : Nat) : Bool := (residents s core).any fun e => e.2.mtask || e.2.unread

/-- A stream as it starts (R90), at the bits [47:0] of its entry (DESIGN CHOICE, notes/assumptions/105.md). -/
def startStream (t : Task) (entry : W64) (st : EStream) : EStream :=
  { st with
    x := (((Vector.replicate 32 (0 : W64)).set 1 (BitVec.ofNat 64 (t.fld 384 64))).set 2 (BitVec.ofNat 64 (t.fld 64 48))).set 3 t.pblk
    p := Vector.replicate 24 0
    pc := entry &&& 0x0000_FFFF_FFFF_FFFF
    live := entry != 0
    blk := none, hold := .none, fetched := none, illegal := none, stopped := false, first := true }
/-- The four streams start at their entries. -/
def startAll (t : Task) (es : Vector W64 4) : Task :=
  { t with entries := es, unread := false, mtask := es[1] != 0, st := Vector.ofFn fun i : Fin 4 => startStream t es[i] t.st[i] }

/-- Whether the range task of a part has been refused. -/
def partRefused (s : State) (t : Task) : Bool := s.parts.any fun p => p.key == t.grp && p.refused
/-- A task that has left its core, refused when its stream set is read with no entry (R89). With a part of a range task the whole is
refused: no part of it begins any more, and those that have begun end without a record. -/
def refuseTask (s : State) (t : Task) : State :=
  let again := partRefused s t
  let mine (g : Nat) : Bool := g != 0 && g == t.grp
  let s := { s with
    jobs := s.jobs.filter fun j => !mine j.t.grp || j.t.saved
    stages := s.stages.map fun x : StageTab => if mine x.grp then { x with hi := x.next } else x }
  let left := (s.tasks.filter fun e => e.2.live && mine e.2.grp).length + (s.jobs.filter fun j => mine j.t.grp).length
  let s := { s with
    stages := s.stages.filter fun x => !(mine x.grp && left == 0)
    parts := s.parts.filterMap fun p =>
      if mine p.key then (if left = 0 then none else some { p with live := left, refused := true }) else some p }
  if again then lowerLines s
  else
    let (s, rs) := taskRecords s t 0x03 false
    let s := if t.queued && !t.isNode then
        (s.modStrm t.stream fun h => { h with sqstat := h.sqstat ||| 0x2 }).signalVec t.fn 1
      else s
    lowerLines (rs.foldl (fun s r => s.report r.1 r.2) s)

/-- The stream set of a resident task is read, at its dispatch or once its fault is resolved: it starts, is refused and leaves its stream's
list, waits, or traps as an instruction fetch of its A stream (R87, R108). -/
def loadSet (s : State) (core slot : Nat) : Out :=
  let t := s.task core slot
  let r : Ref := ⟨core, slot, .a⟩
  let code := t.fld 0 48
  let ev := BitVec.ofNat 64 code
  let d := code / 2 ^ 45
  if d > 3 then .next (trapAt s r cPROT ev false)
  else if !trusted s d then .next (trapAt s r cDIEQ ev false)
  else
    match readSet t.cid code s with
    | .ok none s => .next (soften s r cPOISON ev false)
    | .ok (some es) s =>
      if es.all (· == 0) then .next (actSync (payResidency (refuseTask (s.setTask core slot Task.empty) t) core t) (dieOf core) t.cls)
      else .next (s.setTask core slot (startAll t (Vector.ofFn fun i : Fin 4 => es.getD i.val 0)))
    | .error (.fault a rs rg) s =>
      match raiseFault s t.cid a rs (rg.kind 7) with
      | (some w, s) => .next (s.modSt r fun st => { st with fwait := some (w, code), hold := .memory })
      | (none, s) => .next (trapAt s r cXLATE ev false)
    | .error (.hole d p) _ => .fault (.physHole d p)
    | .error .link _ => .next s
    | .error _ s => .next (trapAt s r cPROT ev false)

/-! ## Round robin (R107, R108) -/

/-- Bytes of staging reserved on a die by restartable tasks dispatched there (R258). -/
def reserved (s : State) (die tid : Nat) : Nat :=
  ((s.tasks.filter fun e => e.2.live && dieOf (e.1 / 4) == die && e.2.staging && e.2.tid != tid).map fun e => e.2.stageLimit).sum +
  ((s.jobs.filter fun j => j.t.saved && dieOf j.q == die && j.t.staging && j.t.tid != tid).map fun j => j.t.stageLimit).sum

/-- A range task over no iteration (R90). -/
def emptyRange (j : Job) : Bool := j.t.range && j.t.part = 0 && j.t.ilo ≥ j.t.fld 160 32 && !j.t.saved

/-- Whether a turn at a core could dispatch a task (R107, R108, R123, R174, R258). One whose stream set cannot be read counts as with an M
stream (DEDUCED, notes/assumptions/105.md). -/
def canDispatch (s : State) (core : Nat) (j : Job) : Bool :=
  !emptyRange j && !(coreHasM s core && (hasM s j).getD true) &&
  !(j.t.staging && reserved s (dieOf core) j.t.tid + j.t.stageLimit > 2 ^ 25) &&
  logCount s core + j.logs.length ≤ 64

/-- The class of a turn and the counters after it (R107); none when no class is ready. -/
def turnClass (s : State) (core : Nat) (cands : List Job) : Option (Nat × State) :=
  let ready (c : Nat) : Bool := cands.any fun j => j.t.cls == c
  match [0, 1, 2, 3].find? ready with
  | none => none
  | some c0 =>
    let sk (c : Nat) : Nat := tget 0 s.sch.sk (core * 4 + c)
    let c := ([0, 1, 2, 3].find? fun c => c > c0 && ready c && sk c ≥ floorOf s - 1).getD c0
    let t := [0, 1, 2, 3].foldl (fun t k => tput 0 t (core * 4 + k) (if k = c || !ready k then 0 else sk k + 1)) s.sch.sk
    some (c, { s with sch := { s.sch with sk := t } })

/-- The loop of R108: the stream that is served. -/
def drrLoop (die cls : Nat) (has : Nat → Bool) : Nat → State → Option (Nat × State)
  | 0, _ => none
  | fuel + 1, s =>
    let act := tget [] s.sch.act (actKey die cls)
    match act.find? has with
    | none => none
    | some x =>
      if defOf s die cls x > 0 then some (x, addDef s die cls x (-1024))
      else
        let s := addDef s die cls x (quantum s x)
        drrLoop die cls has fuel { s with sch := { s.sch with act := tput [] s.sch.act (actKey die cls) (act.filter (· != x) ++ [x]) } }

/-- R99 within a stream: the earlier ready time, the lower NODE, the lower SEQ; of tasks alike, the one that stands first (DESIGN CHOICE,
notes/assumptions/105.md). -/
def before99 (a b : Job) : Bool :=
  a.t.readyAt < b.t.readyAt || (a.t.readyAt == b.t.readyAt && (a.t.node < b.t.node ||
    (a.t.node == b.t.node && a.t.seq.toNat < b.t.seq.toNat)))
/-- The task that goes first of a list, the first of those alike (DESIGN CHOICE, notes/assumptions/105.md). -/
def pick99 (js : List Job) : Option Job :=
  js.foldl (fun b j => match b with | none => some j | some k => if before99 j k then some j else b) none

/-- A dispatch turn of a core: the task it serves, and the state after the choice. -/
def turnPick (s : State) (core : Nat) : Option (Job × State) :=
  let die := dieOf core
  let cands := (queueOf s core).filter (canDispatch s core)
  if core ≥ 96 || !dieOk s die || (freeSlot s core).isNone || tget 0 s.kcfgNew (eightOf core) != 0 then none
  else
    match turnClass s core cands with
    | none => none
    | some (c, s) =>
      let pool := cands.filter fun j => j.t.cls == c
      let s := actSync s die c
      let fuel := (((pool.map fun j => (defOf s die c j.t.stream).natAbs / 256 + 2).sum) + 1)
      match drrLoop die c (fun x => pool.any fun j => j.t.stream == x) (fuel * (pool.length + 1)) s with
      | none => none
      | some (x, s) =>
        match pick99 (pool.filter fun j => j.t.stream == x) with
        | some j => some (j, { s with jobs := s.jobs.filter fun k => k.t.tid != j.t.tid })
        | none => none

/-! ## Dispatch (R90, R156, R157) -/

/-- The bytes of a slot's register-file window. -/
def inWindow (core slot k : Nat) : Bool := rowKey core (2048 * slot) 0 0 ≤ k && k < rowKey core (2048 * slot + 2048) 0 0

/-- A slot made ready for a task: its window of rows zero, its x registers written, its scratchpad window zero when the context changes. -/
def openSlot (s : State) (core slot cid : Nat) : State :=
  let s1 := zeroKeys s (rowKey core (2048 * slot) 0 0) (2048 * 256)
  let s2 := if tget 0 s.slotCid (slotKey core slot) = cid + 1 then s1
    else zeroKeys s1 (coreKey core (slot * cspan s core)) (cspan s core)
  let k := regKey ⟨core, slot, .a⟩ 0
  { s2 with
    slotCid := tput 0 s.slotCid (slotKey core slot) (cid + 1)
    soft := s2.soft.filter fun e => !(k ≤ 4 * e.1 && 4 * e.1 < k + 1024) }

/-! ## The end of a task (R88, R93, R111) -/

/-- The keys of a frame's successor list, its bytes as they stand (DESIGN CHOICE, notes/assumptions/105.md). -/
def succList (w : Who) (a : Nat) : Nat → TM (List W64)
  | 0 => pure []
  | n + 1 => do
    let (bs, _, _) ← gRead w a 8 .rd
    let rest ← succList w (a + 8) n
    pure (BitVec.ofNat 64 (leNat bs) :: rest)
/-- The successors of a frame (R88): none where the count is above 255. -/
def readFrame (w : Who) (a : Nat) : TM (Option (List W64)) := do
  if a = 0 then pure (some [])
  else do
    let (bs, _, _) ← gRead w a 2 .rd
    let n := leNat bs
    if n > 255 then pure none else do pure (some (← succList w (a + 8) n))

/-- Whether a task that ends is the last part of its range task (R111). -/
def lastPart (s : State) (t : Task) : Bool := match s.parts.find? (fun p => p.key == t.grp) with | some p => p.live ≤ 1 | none => true
/-- Whether the end of a task releases: it is the last part of its range task, which has not been refused (R89, R111). -/
def releases (s : State) (t : Task) : Bool := lastPart s t && !partRefused s t
/-- The successors that the end of a task decrements, in order (R88, R333). -/
def endKeys (s : State) (t : Task) (list : List W64) : List W64 := if releases s t then list ++ partSucc s t ++ t.succ else []
/-- Whether each of these decrements, made in order, finds the slot it may need (R96). -/
def joinsFit (t : Task) : List W64 → State → Bool
  | [], _ => true
  | k :: ks, s => armRoom s t.cid (succKey k) (succRep t k) && joinsFit t ks (joinSucc s t k)

/-- Steps 2 to 4 of R93 for a task that has left its core. -/
def finishTask (s : State) (t : Task) (status : Nat) (list : List W64) : State :=
  let s1 := (endKeys s t list).foldl (fun s k => joinSucc s t k) s
  let s2 := if releases s t && t.fld 240 16 ≠ 0 then signalEvent s1 t.cid (t.fld 240 16) else s1
  let (s3, rs) := endRecords s2 t status false
  lowerLines (rs.foldl (fun s r => s.report r.1 r.2) s3)

/-- The frame of a task that ends is read in its context, once (R88); what cannot be read, or is too long, kills it. -/
def withFrame (s : State) (t : Task) (wait : State → Nat → State) (body : State → List W64 → Out) : Out :=
  match t.list with
  | some l => body s l
  | none =>
    match readFrame (hostWho t.cid) (if releases s t then t.fld 64 48 else 0) s with
    | .ok (some l) s => body s l
    | .ok none s => .next (kill s t.cid 0x11)
    | .error (.fault b r rg) s =>
      match raiseFault s t.cid b r (rg.kind 0) with
      | (some w, s) => .next (wait s w)
      | (none, s) => .next (kill s t.cid 0x11)
    | .error (.hole d p) _ => .fault (.physHole d p)
    | .error .link _ => .next s
    | .error _ s => .next (kill s t.cid 0x11)

/-- Whether a task acquires before it runs: one that a predecessor's completion or joindec made READY, one that took a count of an event,
and a spawned one (R93, R94, R332). -/
def Task.acquires (t : Task) : Bool := t.fld 48 16 ≠ 0 || t.fld 112 16 ≠ 0 || (!t.queued && !t.isNode)

/-- The fields of the task of a job. -/
def State.modJobTask (s : State) (tid : Nat) (f : Task → Task) : State :=
  { s with jobs := s.jobs.map fun k => if k.t.tid == tid then { k with t := f k.t } else k }
/-- The task over no iteration that ends, or goes on ending, at a core's turn (R90). -/
def emptyTurn (s : State) (core : Nat) : Option Job :=
  s.jobs.find? fun j => j.q == core && (j.st == .ending || (j.st == .ready && emptyRange j)) && (j.t.stm .a).fwait.isNone

/-- R107, R108, R90: a dispatch turn; one that serves a pre-empted task is taken by its resumption. First, tasks held for an overflow
slot try again (notes/assumptions/95.md). -/
def execDispatchTurn (core : Nat) (s : State) : Out :=
  let s := unstick s
  match emptyTurn s core with
  | some j =>
    let s := actSync (s.setJobSt j.t.tid .ending) (dieOf core) j.t.cls
    withFrame s j.t (fun s w => s.modJobTask j.t.tid fun t => t.modStm .a fun st => { st with fwait := some (w, t.fld 64 48) }) fun s l =>
      if joinsFit j.t (endKeys s j.t l) s then .next (finishTask { s with jobs := s.jobs.filter fun k => k.t.tid != j.t.tid } j.t 0 l)
      else .next (armFull (s.modJobTask j.t.tid fun t => { t with list := some l }) j.t.cid)
  | none =>
    match turnPick (latch s) core, freeSlot s core with
    | some (j, s1), some slot =>
      if j.t.saved then .next s
      else
        let o := openSlot s1 core slot j.t.cid
        let s2 := if j.t.acquires then o.dropViews core j.t.cid .package else o
        let line := s2.aborts.any fun a => a.1 == j.t.cid && a.2.1 == j.t.abgrp
        let t := { j.t with
          line := line, since := s2.cycle, unread := true, mtask := false, preempt := false
          st := (Vector.replicate 4 EStream.empty).set 0 { EStream.empty with live := true, first := true } }
        loadSet (settle (s2.setTask core slot t) core) core slot
    | _, _ => .next s

/-! ## Ageing, stealing, splitting (R106, R110, R111, R113) -/

/-- R106: a task has spent AGE cycles in its queue. -/
def execAgeExpiry (core tid : Nat) (s : State) : Out :=
  .next { s with jobs := s.jobs.map fun j =>
    if j.st == .ready && j.q == core && j.t.tid == tid && s.cycle - j.t.since ≥ ageOf s then { j with aged := true } else j }

/-- The home die of a staged instance. -/
def stageHome (s : State) (t : Task) : Option Nat := (stageTab s t.part).map (·.home)

/-- Whether an idle core may take a waiting task: aged, not pre-empted, and a staged instance only on its home die. -/
def stealable (s : State) (core : Nat) (j : Job) : Bool :=
  j.st == .ready && j.aged && !j.t.saved && (match stageHome s j.t with | some h => dieOf core == h | none => true)

/-- The cores asked at the three levels of R110. -/
def stealLevels (s : State) (core : Nat) : List (List Nat) :=
  [(List.range 96).filter fun c => eightOf c == eightOf core && c != core,
   (List.range 96).filter fun c => dieOf c == dieOf core && eightOf c != eightOf core,
   (List.range 96).filter fun c => dieOf c != dieOf core && dieOk s (dieOf c)]

/-- The lowest iteration not begun and the end of a resident range part (R111, R113). -/
def partSpan (s : State) (t : Task) : Nat × Nat :=
  if t.staged then (match stageTab s t.part with | some x => (x.next, x.hi) | none => (0, 0))
  else (t.c.iter.toNat + 1, t.hi.toNat)

/-- The resident range task of a level whose remaining interval is longest, the lower core on ties. -/
def longestPart (s : State) (cores : List Nat) : Option (Nat × Nat) :=
  (cores.flatMap fun c => ((residents s c).filter fun e => e.2.range && !e.2.aborted && !e.2.unread).map fun e => (c, e.1)).foldl
    (fun b r =>
      let len (r : Nat × Nat) : Nat := let p := partSpan s (s.task r.1 r.2); p.2 - p.1
      match b with
      | none => some r
      | some q => if len r > len q then some r else b) none

/-- The range task of a part is known to have one more part (R111). -/
def addPart (s : State) (core slot : Nat) : State × Nat :=
  let t := s.task core slot
  match s.parts.find? (fun p => p.key == t.grp) with
  | some _ => ({ s with parts := s.parts.map fun p => if p.key == t.grp then { p with live := p.live + 1 } else p }, t.grp)
  | none =>
    let k := s.uid
    ({ (s.setTask core slot { t with grp := k, succ := [] }) with uid := k + 1, parts := s.parts ++ [⟨k, 2, 0, t.succ, false⟩] }, k)

/-- A task stands in a core's queue: the cores of its eight may ask again, and its stream is on the die's list (R108, R110). -/
def queued (s : State) (core cls : Nat) : State :=
  actSync { s with sch := { s.sch with asked := s.sch.asked.filter fun a => eightOf a.1 != eightOf core } } (dieOf core) cls

/-- R111: the split of a resident part for a thief; none is a refusal. -/
def splitPart (s : State) (thief core slot : Nat) : Option State :=
  let t := s.task core slot
  let (cur, hi) := partSpan s t
  let n := hi - cur
  let g := max (t.fld 336 16) 1
  if n < 2 * g then none
  else
    let mid := cur + (n + 1) / 2
    if t.staged then
      match stageTab s t.part with
      | none => none
      | some x =>
        let key := s.uid
        let s := { s with uid := key + 1, stages := s.stages.map fun y => if y.key == x.key then { y with hi := mid } else y }
        let y : StageTab := ⟨key, x.grp, dieOf thief, mid, hi, mid, [], []⟩
        let base : Task := { Task.empty with
          live := true, trec := t.trec, cid := t.cid, seq := t.seq, pblk := t.pblk, fn := t.fn, queued := t.queued
          replay := t.replay, grp := t.grp, hi := t.hi }
        let (s, y) := stageReady base (t.fld 352 6 + 1) s y
        some { s with stages := s.stages ++ [y] }
    else
      let (s, k) := addPart s core slot
      let s := s.modTask core slot fun t => { t with hi := BitVec.ofNat 32 mid }
      let rec_ := setField (setField t.trec 128 32 mid) 160 32 hi
      let nt : Task := { Task.empty with
        live := true, tid := s.uid, trec := rec_, cid := t.cid, seq := t.seq, pblk := t.pblk, fn := t.fn, queued := t.queued
        replay := t.replay, grp := k, hi := BitVec.ofNat 32 hi, readyAt := s.timebase.toNat, since := s.cycle
        c := { Csrs.empty with iter := BitVec.ofNat 32 mid } }
      some (queued { s with uid := s.uid + 1, jobs := s.jobs ++ [⟨nt, .ready, thief, false, [], [], [], none⟩] } thief t.cls)

/-- One level of a request: the stealable task with the earliest ready time, else a split. -/
def askLevel (s : State) (core : Nat) (cores : List Nat) : Option State :=
  let js := s.jobs.filter fun j => stealable s core j && cores.contains j.q
  let best := js.foldl (fun b j => match b with
    | none => some j
    | some k => if j.t.readyAt < k.t.readyAt || (j.t.readyAt == k.t.readyAt && j.q < k.q) then some j else b) none
  match best with
  | some j => some (queued (actSync { s with jobs := (s.jobs.filter fun k => k.t.tid != j.t.tid) ++
      [{ j with q := core, aged := false, t := { j.t with since := s.cycle } }] } (dieOf j.q) j.t.cls) core j.t.cls)
  | none =>
    match longestPart s cores with
    | some (c, sl) => splitPart s core c sl
    | none => none

/-- Whether a core may ask: it has found nothing since a task last entered a queue of its eight, or AGE cycles ago. -/
def mayAsk (s : State) (core : Nat) : Bool := let a := tget 0 s.sch.asked core; a = 0 || s.cycle ≥ a - 1 + ageOf s

/-- R110: an idle core asks. -/
def execStealRequest (core : Nat) (s : State) : Out :=
  if core < 96 && dieOk s (dieOf core) && (freeSlot s core).isSome && (queueOf s core).isEmpty && mayAsk s core then
    .next (((stealLevels s core).findSome? (askLevel s core)).getD
      { s with sch := { s.sch with asked := tput 0 s.sch.asked core (s.cycle + 1) } })
  else .next s

/-! ## Pre-emption (R109, R151 to R153, R266) -/

/-- Save frames in use on a die. -/
def framesUsed (s : State) (die : Nat) : Nat := (s.jobs.filter fun j => j.frame == some die).length

/-- A save frame of a die is written or read, that of the number in use (R16, R266; DESIGN CHOICE, notes/assumptions/105.md). -/
def touchFrame (s : State) (die : Nat) : State :=
  touchHbm s (hbmKey die (((tget 0 s.svbase die).toNat % 2 ^ 45 + framesUsed s die * 2 ^ 20) % hbmBytes))

/-- The resident task that a core pre-empts now, by the cases of R109 in their precedence. -/
def victim (s : State) (core : Nat) : Option Nat :=
  let q := queueOf s core
  let rs := residents s core
  let first := rs.filter fun e => q.any fun j => j.t.cls < e.2.cls
  let worst := first.foldl (fun b e => match b with
    | none => some e
    | some k => if e.2.cls > k.2.cls || (e.2.cls == k.2.cls && e.2.since > k.2.since) then some e else b) none
  let third := rs.find? fun e => e.2.mtask && q.any fun j => j.t.cls < e.2.cls && hasM s j == some true
  let late := rs.filter fun e => s.cycle - e.2.since > quantum s e.2.stream && q.any fun j => j.t.cls ≤ e.2.cls
  let longest := late.foldl (fun b e => match b with
    | none => some e
    | some k => if e.2.since < k.2.since then some e else b) none
  (if rs.length = 4 then worst else none).map (·.1) |>.orElse fun _ => third.map (·.1) |>.orElse fun _ => longest.map (·.1)

/-- A save frame is free on a die (R266). -/
def frameFree (s : State) (die : Nat) : Bool := framesUsed s die < bits s.svcnt.toNat 0 12

/-- R109: pre-emption is requested of the task it names, if none is outstanding on the core. Without a free save frame it does not take
place (R266); the next expiry asks again. -/
def execQuantumExpiry (core : Nat) (s : State) : Out :=
  if core ≥ 96 || !frameFree s (dieOf core) || (residents s core).any (fun e => e.2.preempt) then .next s
  else
    match victim s core with
    | some slot => .next (s.modTask core slot fun t => { t with preempt := true })
    | none => .next s

/-- A wait of R151 or R173 that pre-emption breaks. -/
def breakable (s : State) (r : Ref) (st : EStream) : Bool :=
  match st.hold with
  | .token | .event | .handle | .gate | .stage | .rendezvous | .dsync | .monitor | .lease => true
  | .memory => st.fwait.isSome || s.paths.any fun e => e.tid == (s.task r.core r.slot).tid && e.r.eng == r.eng && e.inBlock && e.wait.isSome
  | .none | .queueFull => false

/-- Whether an instruction that an open block has issued keeps it from being discarded at a wait: one that took something (R151), and at a
waitl one that waited on a handle or gate (R118). -/
def Taken.keeps (stage : Bool) : Taken → Bool
  | .token _ | .event _ _ | .queue _ _ | .evwait _ => true
  | .passed => stage
  | .dsync _ _ | .rel _ => false
/-- Whether the open block of a stream is held at a wait that pre-emption breaks. -/
def heldOpen (s : State) (r : Ref) : Bool :=
  let st := s.stm r
  match st.blk with
  | none => false
  | some b => !(b.taken.any (Taken.keeps (st.hold == .stage))) && breakable s r st
/-- Whether a stream stands where pre-emption may take it (R151): at such a wait, or at its block boundary, where a trap that its next
block meets comes first (R294). -/
def stoppable (s : State) (r : Ref) : Bool :=
  let st := s.stm r
  match st.blk with
  | none => !st.live || st.stopped || st.looked || !st.deferred.isEmpty || st.fwait.isSome
  | some _ => heldOpen s r
/-- Whether a command has come to a boundary that its SGR allows: no access of it before the boundary is left, and the steps up to it
are run. -/
def atBoundary (s : State) (c : Cmd) : Bool :=
  !(s.paths.any fun e => match e.acc with | .cread d pos | .cwrite d pos | .cadd d pos _ => d == c.id && decide (pos < c.stopAt) | _ => false) &&
  (match c.op with | .mma _ _ _ _ n => decide (c.phase * 2 ^ 15 ≥ c.stopAt) || decide (c.phase ≥ n) | _ => true)
/-- Whether a command queue has come to a boundary: empty, or its first command may be split and stands at one (R151). -/
def queueStops (s : State) (st : EStream) : Bool := match st.cq with | [] => true | c :: _ => c.splits && atBoundary s c

/-- Whether a returning atomic is still to be performed, or an erase waits for its fault: its stream's boundary is no pre-emption point then
(R353, R173). -/
def pinned (e : Entry) : Bool := match e.acc with | .amo _ _ _ _ d => d != 0 | .erase => e.wait.isSome | _ => false

/-- Whether a task may be saved now. -/
def savable (s : State) (core slot : Nat) : Bool :=
  let t := s.task core slot
  t.live && t.preempt && !t.unread && frameFree s (dieOf core) &&
  (Eng.all.all fun e => stoppable s ⟨core, slot, e⟩ && queueStops s (t.stm e)) &&
  s.paths.all fun e => e.tid != t.tid || e.inBlock || !pinned e

/-- Accesses that are saved with a task: those of its split commands and of those behind them. Its other committed entries stay in their
paths and are performed as usual (R151, R197). -/
def Entry.saved (e : Entry) : Bool := e.acc.cmd.isSome

/-- R152: the task is saved. A request that finds no free frame is dropped (R266). -/
def execPreemptSave (core slot : Nat) (s : State) : Out :=
  if (s.task core slot).preempt && !frameFree s (dieOf core) then
    .next (s.modTask core slot fun t => { t with preempt := false, yielded := false })
  else if !savable s core slot then .next s
  else
    let s := Eng.all.foldl (fun s e => discardBlock s ⟨core, slot, e⟩) s
    let t := s.task core slot
    let base := rowKey core (2048 * slot) 0 0
    let rows := (s.mem.filter fun c => inWindow core slot c.1 && liveRow t ((c.1 - base) / 256)).map fun c => (c.1 - base, c.2)
    let t1 := { t with
      saved := true, preempt := false
      v := t.v.filter fun r => liveRow t r.1
      acc := Vector.ofFn fun i : Fin 8 => if t.c.acclive.getLsbD i.val then t.acc[i] else Accu.empty
      st := t.st.map fun st => { st with mon := none, ibuf := [], fetched := none, fwait := none, hold := .none, looked := false } }
    let own (e : Entry) : Bool := e.tid == t.tid && e.saved
    let j : Job := { t := t1, st := .ready, q := core, aged := false, rows := rows
                     paths := s.paths.filter own, logs := s.logs.filter fun l => l.e.tid == t.tid
                     frame := some (dieOf core) }
    let s1 := if t.mtask then dropLease s core else s
    let s2 := freeLogs s1 fun l => l.e.tid == t.tid
    let s3 := zeroKeys { s2 with paths := s2.paths.filter fun e => !own e } base (2048 * 256)
    .next (enterQueue (payResidency (touchFrame (s3.setTask core slot Task.empty) (dieOf core)) core t) j core .returning)

/-- An entry of a task that is resumed at a slot; a wait for room in the log of its old core is over. -/
def Entry.at (e : Entry) (core slot : Nat) : Entry := (e.clear (logFullWait e.r.core)).atRef ⟨core, slot, e.r.eng⟩

/-- R153: a dispatch turn that serves a pre-empted task restores it. -/
def execTaskResume (core : Nat) (s : State) : Out :=
  match turnPick (latch s) core, freeSlot s core with
  | some (j, s1), some slot =>
    if !j.t.saved then .next s
    else
      let s2 := openSlot (touchFrame s1 (dieOf core)) core slot j.t.cid
      let base := rowKey core (2048 * slot) 0 0
      let s3 := { s2 with
        mem := j.rows.foldl (fun m (c : Host.Cell) => tput 0 m (base + c.1) c.2) s2.mem
        paths := (s2.paths.map fun (e : Entry) => if e.tid == j.t.tid then e.at core slot else e) ++ j.paths.map (fun (e : Entry) => e.at core slot)
        logs := s2.logs ++ j.logs.map (fun (l : LogEnt) => { l with e := l.e.at core slot }) }
      .next (settle (s3.setTask core slot { j.t with saved := false, since := s3.cycle }) core)
  | _, _ => .next s

/-! ## The end of a run (R93, R110, R112, R124) -/

/-- Whether every stream of a task has retired and every command has completed (R124), and its accesses are performed. -/
def taskDone (s : State) (t : Task) : Bool :=
  t.live && !t.unread && (t.st.toList.all fun st => !st.live && st.cq.isEmpty && st.fwait.isNone) &&
  !(s.paths.any fun e => e.tid == t.tid) && !(s.logs.any fun l => l.e.tid == t.tid)

/-- R93, R110, R111, R112: a run of the streams has ended. The next iteration of a range part begins; or the task's writes are all
performed, its staged lines with them, its list is read, the task leaves its core, and its successors, its event and its record follow.
A decrement that needs a slot of the overflow area holds the end until there is one (R96). -/
def execTaskEnd (core slot : Nat) (s : State) : Out :=
  let t := s.task core slot
  let retired := t.live && !t.unread && t.st.toList.all fun st => !st.live
  if retired && !t.aborted && t.range && !t.staged && t.c.iter.toNat + 1 < t.hi.toNat then
    if t.st.toList.any fun st => !st.deferred.isEmpty then .next (kill s t.cid 0x11)
    else
      let t1 := { t with c := { t.c with iter := t.c.iter + 1, tl := 0 } }
      .next (s.setTask core slot (startAll t1 t.entries))
  else if !taskDone s t then .next s
  else
    withFrame (flushStage s ⟨core, slot, .a⟩ t.tid) t (fun s w => s.modSt ⟨core, slot, .a⟩ fun st => { st with fwait := some (w, t.fld 64 48) }) fun s l =>
      if !joinsFit t (endKeys s t l) s then .next (armFull (s.modTask core slot fun t => { t with list := some l }) t.cid)
      else
        let s := if t.mtask then dropLease s core else s
        let s := { s.setTask core slot Task.empty with hidden := showAll (fun h => h.tid == t.tid) s.hidden }
        let s := if t.staged then stageRetire s t.part t.c.iter.toNat t else s
        let s := finishTask s t (if t.aborted then 1 else 0) l
        .next (actSync (payResidency s core t) (dieOf core) t.cls)

end Sys2Proof.Machine
end

