-- ==== Sys2Proof/Machine/Dispatch.lean ====
section
/-! DEFINITION. The meaning of every constructor of Instr: one arm each, a direct call of its own definition. -/

namespace Sys2Proof.Machine

open Sys2Proof

def exec (i : Instr) (s : State) : Host.Outcome State Fault Refusal :=
  match i with
  | .powerGood fwOk => Sys2Proof.Machine.execPowerGood fwOk s
  | .pcieFundamentalReset fwOk => Sys2Proof.Machine.execPcieFundamentalReset fwOk s
  | .packageReset fwOk => Sys2Proof.Machine.execPackageReset fwOk s
  | .dieSelfTestDone die => Sys2Proof.Machine.execDieSelfTestDone die s
  | .getVersion die versions => Sys2Proof.Machine.execGetVersion die versions s
  | .getCapabilities die flags => Sys2Proof.Machine.execGetCapabilities die flags s
  | .negotiateAlgorithms die selected => Sys2Proof.Machine.execNegotiateAlgorithms die selected s
  | .getDigests die slot0 => Sys2Proof.Machine.execGetDigests die slot0 s
  | .getCertificate die digest root inter leaf => Sys2Proof.Machine.execGetCertificate die digest root inter leaf s
  | .challenge die sigOk => Sys2Proof.Machine.execChallenge die sigOk s
  | .getMeasurements die sigOk ms => Sys2Proof.Machine.execGetMeasurements die sigOk ms s
  | .keyExchange die sigOk => Sys2Proof.Machine.execKeyExchange die sigOk s
  | .finish die verifyOk => Sys2Proof.Machine.execFinish die verifyOk s
  | .spdmResponseTimeout die => Sys2Proof.Machine.execSpdmResponseTimeout die s
  | .keyinstall link dir key => Sys2Proof.Machine.execKeyinstall link dir key s
  | .dieBringupDone die => Sys2Proof.Machine.execDieBringupDone die s
  | .flitReceive link dir count intact flit tag => Sys2Proof.Machine.execFlitReceive link dir count intact flit tag s
  | .flitAck link dir => Sys2Proof.Machine.execFlitAck link dir s
  | .rolloverStart link dir key => Sys2Proof.Machine.execRolloverStart link dir key s
  | .dierstWrite fn v => Sys2Proof.Machine.execDierstWrite fn v s
  | .dieResetScrubDone die => Sys2Proof.Machine.execDieResetScrubDone die s
  | .glitchAlarm die => Sys2Proof.Machine.execGlitchAlarm die s
  | .meshBreach die => Sys2Proof.Machine.execMeshBreach die s
  | .powerWindow watts cdie mdie hbm => Sys2Proof.Machine.execPowerWindow watts cdie mdie hbm s
  | .clockRaise => Sys2Proof.Machine.execClockRaise s
  | .thermalTrip cdie mdie hbm => Sys2Proof.Machine.execThermalTrip cdie mdie hbm s
  | .hbmSelfRefresh stack => Sys2Proof.Machine.execHbmSelfRefresh stack s
  | .shellGate eight => Sys2Proof.Machine.execShellGate eight s
  | .bar4Read fn off n => Sys2Proof.Machine.execBar4Read fn off n s
  | .bar4Write fn off data => Sys2Proof.Machine.execBar4Write fn off data s
  | .kickWrite fn stream v => Sys2Proof.Machine.execKickWrite fn stream v s
  | .taskRecordFetch stream => Sys2Proof.Machine.execTaskRecordFetch stream s
  | .replayRecord stream => Sys2Proof.Machine.execReplayRecord stream s
  | .patchRecord stream => Sys2Proof.Machine.execPatchRecord stream s
  | .reservedRecord stream => Sys2Proof.Machine.execReservedRecord stream s
  | .completionPost fn => Sys2Proof.Machine.execCompletionPost fn s
  | .completionIrqTimer fn => Sys2Proof.Machine.execCompletionIrqTimer fn s
  | .crheadWrite fn v => Sys2Proof.Machine.execCrheadWrite fn v s
  | .crsizeWrite fn v => Sys2Proof.Machine.execCrsizeWrite fn v s
  | .mdctlRunSet fn stream => Sys2Proof.Machine.execMdctlRunSet fn stream s
  | .mdctlRunClear fn stream => Sys2Proof.Machine.execMdctlRunClear fn stream s
  | .mdctlExact fn stream on => Sys2Proof.Machine.execMdctlExact fn stream on s
  | .mdctlRefine fn stream on => Sys2Proof.Machine.execMdctlRefine fn stream on s
  | .auprodReread stream => Sys2Proof.Machine.execAuprodReread stream s
  | .accessUnitDecode stream r use => Sys2Proof.Machine.execAccessUnitDecode stream r use s
  | .pictureOutput stream => Sys2Proof.Machine.execPictureOutput stream s
  | .relcntReread stream => Sys2Proof.Machine.execRelcntReread stream s
  | .cmuPass stream => Sys2Proof.Machine.execCmuPass stream s
  | .dispatchTurn core => Sys2Proof.Machine.execDispatchTurn core s
  | .ageExpiry core tid => Sys2Proof.Machine.execAgeExpiry core tid s
  | .stealRequest core => Sys2Proof.Machine.execStealRequest core s
  | .quantumExpiry core => Sys2Proof.Machine.execQuantumExpiry core s
  | .preemptSave core slot => Sys2Proof.Machine.execPreemptSave core slot s
  | .taskResume core => Sys2Proof.Machine.execTaskResume core s
  | .taskEnd core slot => Sys2Proof.Machine.execTaskEnd core slot s
  | .leaseGrant eight => Sys2Proof.Machine.execLeaseGrant eight s
  | .leaseCap eight => Sys2Proof.Machine.execLeaseCap eight s
  | .abortLineArrival core slot => Sys2Proof.Machine.execAbortLineArrival core slot s
  | .blockCommit => Sys2Proof.Machine.execBlockCommit s
  | .deferredTrap => Sys2Proof.Machine.execDeferredTrap s
  | .markerRetire r => Sys2Proof.Machine.execMarkerRetire r s
  | .mwaitTimeout r => Sys2Proof.Machine.execMwaitTimeout r s
  | .commandComplete r => Sys2Proof.Machine.execCommandComplete r s
  | .handleFull core slot h => Sys2Proof.Machine.execHandleFull core slot h s
  | .handleFree core slot h => Sys2Proof.Machine.execHandleFree core slot h s
  | .hstallTimeout r => Sys2Proof.Machine.execHstallTimeout r s
  | .memPerform uid => Sys2Proof.Machine.execMemPerform uid s
  | .viewServe uid => Sys2Proof.Machine.execViewServe uid s
  | .viewFill core cid addr => Sys2Proof.Machine.execViewFill core cid addr s
  | .viewDrop core cid addr => Sys2Proof.Machine.execViewDrop core cid addr s
  | .fqresRetry fn tag => Sys2Proof.Machine.execFqresRetry fn tag s
  | .fqresFatal fn tag => Sys2Proof.Machine.execFqresFatal fn tag s
  | .sideLogReplay core uid => Sys2Proof.Machine.execSideLogReplay core uid s
  | .tlbcmdWrite fn v => Sys2Proof.Machine.execTlbcmdWrite fn v s
  | .tlbInvalidateDone => Sys2Proof.Machine.execTlbInvalidateDone s
  | .kcfgApply eight => Sys2Proof.Machine.execKcfgApply eight s
  | .ctxkillWrite fn v => Sys2Proof.Machine.execCtxkillWrite fn v s
  | .killDrainEnd => Sys2Proof.Machine.execKillDrainEnd s
  | .birthRetry cid die reg => Sys2Proof.Machine.execBirthRetry cid die reg s
  | .l2Evict die paddr => Sys2Proof.Machine.execL2Evict die paddr s
  | .teRingPoll ring => Sys2Proof.Machine.execTeRingPoll ring s
  | .teNop ring => Sys2Proof.Machine.execTeNop ring s
  | .tePict ring => Sys2Proof.Machine.execTePict ring s
  | .teTransp ring => Sys2Proof.Machine.execTeTransp ring s
  | .teFconv ring => Sys2Proof.Machine.execTeFconv ring s
  | .teRecomp ring => Sys2Proof.Machine.execTeRecomp ring s
  | .teCbload ring => Sys2Proof.Machine.execTeCbload ring s
  | .teBadop ring => Sys2Proof.Machine.execTeBadop ring s
  | .teRequestComplete ring => Sys2Proof.Machine.execTeRequestComplete ring s
  | .snaptrgWrite fn v => Sys2Proof.Machine.execSnaptrgWrite fn v s
  | .snapinEdge ns => Sys2Proof.Machine.execSnapinEdge ns s
  | .snapshotLatch => Sys2Proof.Machine.execSnapshotLatch s
  | .snaparmWrite fn v => Sys2Proof.Machine.execSnaparmWrite fn v s
  | .scrubPass die store addr errs => Sys2Proof.Machine.execScrubPass die store addr errs s
  | .registerWrite fn bar off v => Sys2Proof.Machine.execRegisterWrite fn bar off v s
  | .softError die store addr bits => Sys2Proof.Machine.execSoftError die store addr bits s
  | .blockHeader f ni nx ac => Sys2Proof.Machine.execBlockHeader f ni nx ac s
  | .jump f pred disp => Sys2Proof.Machine.execJump f pred disp s
  | .call f pred disp => Sys2Proof.Machine.execCall f pred disp s
  | .ret f pred => Sys2Proof.Machine.execRet f pred s
  | .done f pred => Sys2Proof.Machine.execDone f pred s
  | .add f d a b => Sys2Proof.Machine.execAdd f d a b s
  | .sub f d a b => Sys2Proof.Machine.execSub f d a b s
  | .and f d a b => Sys2Proof.Machine.execAnd f d a b s
  | .or f d a b => Sys2Proof.Machine.execOr f d a b s
  | .xor f d a b => Sys2Proof.Machine.execXor f d a b s
  | .andn f d a b => Sys2Proof.Machine.execAndn f d a b s
  | .sll f d a b => Sys2Proof.Machine.execSll f d a b s
  | .srl f d a b => Sys2Proof.Machine.execSrl f d a b s
  | .sra f d a b => Sys2Proof.Machine.execSra f d a b s
  | .minS f d a b => Sys2Proof.Machine.execMinS f d a b s
  | .minN f d a b => Sys2Proof.Machine.execMinN f d a b s
  | .maxS f d a b => Sys2Proof.Machine.execMaxS f d a b s
  | .maxN f d a b => Sys2Proof.Machine.execMaxN f d a b s
  | .clz f d a => Sys2Proof.Machine.execClz f d a s
  | .popc f d a => Sys2Proof.Machine.execPopc f d a s
  | .addW f d a b => Sys2Proof.Machine.execAddW f d a b s
  | .subW f d a b => Sys2Proof.Machine.execSubW f d a b s
  | .addi f d a imm => Sys2Proof.Machine.execAddi f d a imm s
  | .andi f d a imm => Sys2Proof.Machine.execAndi f d a imm s
  | .ori f d a imm => Sys2Proof.Machine.execOri f d a imm s
  | .xori f d a imm => Sys2Proof.Machine.execXori f d a imm s
  | .slli f d a sh => Sys2Proof.Machine.execSlli f d a sh s
  | .srli f d a sh => Sys2Proof.Machine.execSrli f d a sh s
  | .srai f d a sh => Sys2Proof.Machine.execSrai f d a sh s
  | .liw f d imm => Sys2Proof.Machine.execLiw f d imm s
  | .lih f d imm => Sys2Proof.Machine.execLih f d imm s
  | .cmpEq f d a b => Sys2Proof.Machine.execCmpEq f d a b s
  | .cmpNe f d a b => Sys2Proof.Machine.execCmpNe f d a b s
  | .cmpLtS f d a b => Sys2Proof.Machine.execCmpLtS f d a b s
  | .cmpLtN f d a b => Sys2Proof.Machine.execCmpLtN f d a b s
  | .cmpGeS f d a b => Sys2Proof.Machine.execCmpGeS f d a b s
  | .cmpGeN f d a b => Sys2Proof.Machine.execCmpGeN f d a b s
  | .cmpiEq g d a imm => Sys2Proof.Machine.execCmpiEq g d a imm s
  | .cmpiNe g d a imm => Sys2Proof.Machine.execCmpiNe g d a imm s
  | .cmpiLtS g d a imm => Sys2Proof.Machine.execCmpiLtS g d a imm s
  | .cmpiLtN g d a imm => Sys2Proof.Machine.execCmpiLtN g d a imm s
  | .cmpiGeS g d a imm => Sys2Proof.Machine.execCmpiGeS g d a imm s
  | .cmpiGeN g d a imm => Sys2Proof.Machine.execCmpiGeN g d a imm s
  | .pand f d a b => Sys2Proof.Machine.execPand f d a b s
  | .por f d a b => Sys2Proof.Machine.execPor f d a b s
  | .pxor f d a b => Sys2Proof.Machine.execPxor f d a b s
  | .pandn f d a b => Sys2Proof.Machine.execPandn f d a b s
  | .pnot f d a => Sys2Proof.Machine.execPnot f d a s
  | .pmov f d a => Sys2Proof.Machine.execPmov f d a s
  | .pall f d a => Sys2Proof.Machine.execPall f d a s
  | .pnone f d a => Sys2Proof.Machine.execPnone f d a s
  | .ppop f d a => Sys2Proof.Machine.execPpop f d a s
  | .pfirst f d a => Sys2Proof.Machine.execPfirst f d a s
  | .mul f d a b => Sys2Proof.Machine.execMul f d a b s
  | .mulhS f d a b => Sys2Proof.Machine.execMulhS f d a b s
  | .mulhN f d a b => Sys2Proof.Machine.execMulhN f d a b s
  | .divS f d a b => Sys2Proof.Machine.execDivS f d a b s
  | .divN f d a b => Sys2Proof.Machine.execDivN f d a b s
  | .remS f d a b => Sys2Proof.Machine.execRemS f d a b s
  | .remN f d a b => Sys2Proof.Machine.execRemN f d a b s
  | .mulW f d a b => Sys2Proof.Machine.execMulW f d a b s
  | .divWS f d a b => Sys2Proof.Machine.execDivWS f d a b s
  | .divWN f d a b => Sys2Proof.Machine.execDivWN f d a b s
  | .remWS f d a b => Sys2Proof.Machine.execRemWS f d a b s
  | .remWN f d a b => Sys2Proof.Machine.execRemWN f d a b s
  | .sel g d a b c => Sys2Proof.Machine.execSel g d a b c s
  | .rdc g d n => Sys2Proof.Machine.execRdc g d n s
  | .wrc g a n => Sys2Proof.Machine.execWrc g a n s
  | .swpc g d a n => Sys2Proof.Machine.execSwpc g d a n s
  | .setc g d a n => Sys2Proof.Machine.execSetc g d a n s
  | .clrc g d a n => Sys2Proof.Machine.execClrc g d a n s
  | .nop f => Sys2Proof.Machine.execNop f s
  | .trap f a => Sys2Proof.Machine.execTrap f a s
  | .eret f => Sys2Proof.Machine.execEret f s
  | .brk f a => Sys2Proof.Machine.execBrk f a s
  | .kill f => Sys2Proof.Machine.execKill f s
  | .loopn g a lvl cnt => Sys2Proof.Machine.execLoopn g a lvl cnt s
  | .lstride g d a lvl ent str => Sys2Proof.Machine.execLstride g d a lvl ent str s
  | .loopgo g len => Sys2Proof.Machine.execLoopgo g len s
  | .loopbrk g => Sys2Proof.Machine.execLoopbrk g s
  | .post f e n => Sys2Proof.Machine.execPost f e n s
  | .await f e n => Sys2Proof.Machine.execAwait f e n s
  | .mark f n => Sys2Proof.Machine.execMark f n s
  | .rdvset g a mask num => Sys2Proof.Machine.execRdvset g a mask num s
  | .rdvwait g => Sys2Proof.Machine.execRdvwait g s
  | .dsync f n => Sys2Proof.Machine.execDsync f n s
  | .mon g a sp3 off => Sys2Proof.Machine.execMon g a sp3 off s
  | .mwait g d a => Sys2Proof.Machine.execMwait g d a s
  | .mclr g => Sys2Proof.Machine.execMclr g s
  | .spawn g d a => Sys2Proof.Machine.execSpawn g d a s
  | .spawnr g d a => Sys2Proof.Machine.execSpawnr g d a s
  | .evsig g a imm => Sys2Proof.Machine.execEvsig g a imm s
  | .evwait g a imm => Sys2Proof.Machine.execEvwait g a imm s
  | .joindec g a => Sys2Proof.Machine.execJoindec g a s
  | .yield g => Sys2Proof.Machine.execYield g s
  | .tself g d => Sys2Proof.Machine.execTself g d s
  | .stgadv g a imm => Sys2Proof.Machine.execStgadv g a imm s
  | .stgjmp g a imm => Sys2Proof.Machine.execStgjmp g a imm s
  | .waitl g a imm => Sys2Proof.Machine.execWaitl g a imm s
  | .stgrd g d imm => Sys2Proof.Machine.execStgrd g d imm s
  | .abort g => Sys2Proof.Machine.execAbort g s
  | .abchk g => Sys2Proof.Machine.execAbchk g s
  | .abrd g d => Sys2Proof.Machine.execAbrd g d s
  | .segb g a off => Sys2Proof.Machine.execSegb g a off s
  | .sege g => Sys2Proof.Machine.execSege g s
  | .ld g sp w o sc d a off => Sys2Proof.Machine.execLd g sp w o sc d a off s
  | .st g sp w o sc a b off => Sys2Proof.Machine.execSt g sp w o sc a b off s
  | .amoAdd g w64 sp o sc d a b off => Sys2Proof.Machine.execAmoAdd g w64 sp o sc d a b off s
  | .amoAnd g w64 sp o sc d a b off => Sys2Proof.Machine.execAmoAnd g w64 sp o sc d a b off s
  | .amoOr g w64 sp o sc d a b off => Sys2Proof.Machine.execAmoOr g w64 sp o sc d a b off s
  | .amoXor g w64 sp o sc d a b off => Sys2Proof.Machine.execAmoXor g w64 sp o sc d a b off s
  | .amoMinS g w64 sp o sc d a b off => Sys2Proof.Machine.execAmoMinS g w64 sp o sc d a b off s
  | .amoMinN g w64 sp o sc d a b off => Sys2Proof.Machine.execAmoMinN g w64 sp o sc d a b off s
  | .amoMaxS g w64 sp o sc d a b off => Sys2Proof.Machine.execAmoMaxS g w64 sp o sc d a b off s
  | .amoMaxN g w64 sp o sc d a b off => Sys2Proof.Machine.execAmoMaxN g w64 sp o sc d a b off s
  | .amoSwap g w64 sp o sc d a b off => Sys2Proof.Machine.execAmoSwap g w64 sp o sc d a b off s
  | .amoCas g w64 sp o sc d a b off => Sys2Proof.Machine.execAmoCas g w64 sp o sc d a b off s
  | .fence g sc => Sys2Proof.Machine.execFence g sc s
  | .xfence g src dst => Sys2Proof.Machine.execXfence g src dst s
  | .ptfence g sc => Sys2Proof.Machine.execPtfence g sc s
  | .tlbinv g a b all => Sys2Proof.Machine.execTlbinv g a b all s
  | .ldx g d a c off => Sys2Proof.Machine.execLdx g d a c off s
  | .erase g a off => Sys2Proof.Machine.execErase g a off s
  | .extest g a c off => Sys2Proof.Machine.execExtest g a c off s
  | .exmap g d a off => Sys2Proof.Machine.execExmap g d a off s
  | .setsBase g sr a b => Sys2Proof.Machine.execSetsBase g sr a b s
  | .setsDim g sr a b => Sys2Proof.Machine.execSetsDim g sr a b s
  | .setsFmt g ty sr a => Sys2Proof.Machine.execSetsFmt g ty sr a s
  | .setsScl g sr a b => Sys2Proof.Machine.execSetsScl g sr a b s
  | .setsXp g sr xp => Sys2Proof.Machine.execSetsXp g sr xp s
  | .setsMc g sr a => Sys2Proof.Machine.execSetsMc g sr a s
  | .setsHdl g sr h => Sys2Proof.Machine.execSetsHdl g sr h s
  | .setsClr g sr => Sys2Proof.Machine.execSetsClr g sr s
  | .gets g a sr h b => Sys2Proof.Machine.execGets g a sr h b s
  | .copyin g sr h sgr gate xp => Sys2Proof.Machine.execCopyin g sr h sgr gate xp s
  | .copyout g sr h sgr gate => Sys2Proof.Machine.execCopyout g sr h sgr gate s
  | .copyk g a h b sgr gate => Sys2Proof.Machine.execCopyk g a h b sgr gate s
  | .copyd g a h b sgr gate => Sys2Proof.Machine.execCopyd g a h b sgr gate s
  | .copylin g a h b sgr gate xp => Sys2Proof.Machine.execCopylin g a h b sgr gate xp s
  | .gath g a sr h b gate xp => Sys2Proof.Machine.execGath g a sr h b gate xp s
  | .gathmc g sr h b gate xp => Sys2Proof.Machine.execGathmc g sr h b gate xp s
  | .scat g a sr h b gate xp => Sys2Proof.Machine.execScat g a sr h b gate xp s
  | .scatadd g ty a sr h b gate xp => Sys2Proof.Machine.execScatadd g ty a sr h b gate xp s
  | .gexp g a b gate => Sys2Proof.Machine.execGexp g a b gate s
  | .garr g a b gate => Sys2Proof.Machine.execGarr g a b gate s
  | .gwait g a gate => Sys2Proof.Machine.execGwait g a gate s
  | .ginit g a gate => Sys2Proof.Machine.execGinit g a gate s
  | .hwait g h a => Sys2Proof.Machine.execHwait g h a s
  | .hset g h a b => Sys2Proof.Machine.execHset g h a b s
  | .hfree g h => Sys2Proof.Machine.execHfree g h s
  | .nzscan g sr h b => Sys2Proof.Machine.execNzscan g sr h b s
  | .thrset g a b => Sys2Proof.Machine.execThrset g a b s
  | .dmrd g a b => Sys2Proof.Machine.execDmrd g a b s
  | .tlget g a b => Sys2Proof.Machine.execTlget g a b s
  | .tlstat g a b => Sys2Proof.Machine.execTlstat g a b s
  | .tlack g a b => Sys2Proof.Machine.execTlack g a b s
  | .rngtk g sp3 d a => Sys2Proof.Machine.execRngtk g sp3 d a s
  | .rngput g sp3 d a b n => Sys2Proof.Machine.execRngput g sp3 d a b n s
  | .rngget g sp3 d a n => Sys2Proof.Machine.execRngget g sp3 d a n s
  | .rngeos g sp3 a b => Sys2Proof.Machine.execRngeos g sp3 a b s
  | .rngstat g sp3 d a => Sys2Proof.Machine.execRngstat g sp3 d a s
  | .qpush g a q => Sys2Proof.Machine.execQpush g a q s
  | .qpop g d q => Sys2Proof.Machine.execQpop g d q s
  | .qpeek g d q => Sys2Proof.Machine.execQpeek g d q s
  | .qpopp g d q => Sys2Proof.Machine.execQpopp g d q s
  | .vaddF g ty vd va vb => Sys2Proof.Machine.execVaddF g ty vd va vb s
  | .vsubF g ty vd va vb => Sys2Proof.Machine.execVsubF g ty vd va vb s
  | .vmulF g ty vd va vb => Sys2Proof.Machine.execVmulF g ty vd va vb s
  | .vfma g ty vd va vb vc => Sys2Proof.Machine.execVfma g ty vd va vb vc s
  | .vfms g ty vd va vb vc => Sys2Proof.Machine.execVfms g ty vd va vb vc s
  | .vfnma g ty vd va vb vc => Sys2Proof.Machine.execVfnma g ty vd va vb vc s
  | .vminF g ty vd va vb => Sys2Proof.Machine.execVminF g ty vd va vb s
  | .vmaxF g ty vd va vb => Sys2Proof.Machine.execVmaxF g ty vd va vb s
  | .vabsF g ty vd va => Sys2Proof.Machine.execVabsF g ty vd va s
  | .vneg g ty vd va => Sys2Proof.Machine.execVneg g ty vd va s
  | .vdiv g ty vd va vb => Sys2Proof.Machine.execVdiv g ty vd va vb s
  | .vsqrt g ty vd va => Sys2Proof.Machine.execVsqrt g ty vd va s
  | .vaddI g ty vd va vb => Sys2Proof.Machine.execVaddI g ty vd va vb s
  | .vsubI g ty vd va vb => Sys2Proof.Machine.execVsubI g ty vd va vb s
  | .vmulI g ty vd va vb => Sys2Proof.Machine.execVmulI g ty vd va vb s
  | .vmulh g ty vd va vb => Sys2Proof.Machine.execVmulh g ty vd va vb s
  | .vand g ty vd va vb => Sys2Proof.Machine.execVand g ty vd va vb s
  | .vor g ty vd va vb => Sys2Proof.Machine.execVor g ty vd va vb s
  | .vxor g ty vd va vb => Sys2Proof.Machine.execVxor g ty vd va vb s
  | .vandn g ty vd va vb => Sys2Proof.Machine.execVandn g ty vd va vb s
  | .vsll g ty vd va vb => Sys2Proof.Machine.execVsll g ty vd va vb s
  | .vsrl g ty vd va vb => Sys2Proof.Machine.execVsrl g ty vd va vb s
  | .vsra g ty vd va vb => Sys2Proof.Machine.execVsra g ty vd va vb s
  | .vminI g ty vd va vb => Sys2Proof.Machine.execVminI g ty vd va vb s
  | .vmaxI g ty vd va vb => Sys2Proof.Machine.execVmaxI g ty vd va vb s
  | .vabsI g ty vd va => Sys2Proof.Machine.execVabsI g ty vd va s
  | .vcmpEq g ty pd va vb el => Sys2Proof.Machine.execVcmpEq g ty pd va vb el s
  | .vcmpNe g ty pd va vb el => Sys2Proof.Machine.execVcmpNe g ty pd va vb el s
  | .vcmpLt g ty pd va vb el => Sys2Proof.Machine.execVcmpLt g ty pd va vb el s
  | .vcmpLe g ty pd va vb el => Sys2Proof.Machine.execVcmpLe g ty pd va vb el s
  | .vcmpGt g ty pd va vb el => Sys2Proof.Machine.execVcmpGt g ty pd va vb el s
  | .vcmpGe g ty pd va vb el => Sys2Proof.Machine.execVcmpGe g ty pd va vb el s
  | .vclass g ty pd va mask el => Sys2Proof.Machine.execVclass g ty pd va mask el s
  | .cvtRne g ty sty vd va pt => Sys2Proof.Machine.execCvtRne g ty sty vd va pt s
  | .cvtRtz g ty sty vd va pt => Sys2Proof.Machine.execCvtRtz g ty sty vd va pt s
  | .cvtRup g ty sty vd va pt => Sys2Proof.Machine.execCvtRup g ty sty vd va pt s
  | .cvtRdn g ty sty vd va pt => Sys2Proof.Machine.execCvtRdn g ty sty vd va pt s
  | .cvtSat g ty sty vd va pt => Sys2Proof.Machine.execCvtSat g ty sty vd va pt s
  | .vpack g ty sty vd va vc => Sys2Proof.Machine.execVpack g ty sty vd va vc s
  | .vunpack g ty sty vd va => Sys2Proof.Machine.execVunpack g ty sty vd va s
  | .vexp2 g ty vd va => Sys2Proof.Machine.execVexp2 g ty vd va s
  | .vlog2 g ty vd va => Sys2Proof.Machine.execVlog2 g ty vd va s
  | .vrcp g ty vd va => Sys2Proof.Machine.execVrcp g ty vd va s
  | .vrsqrt g ty vd va => Sys2Proof.Machine.execVrsqrt g ty vd va s
  | .vsig g ty vd va => Sys2Proof.Machine.execVsig g ty vd va s
  | .vtanh g ty vd va => Sys2Proof.Machine.execVtanh g ty vd va s
  | .vbcast g vd xa => Sys2Proof.Machine.execVbcast g vd xa s
  | .vlane g xd va xb => Sys2Proof.Machine.execVlane g xd va xb s
  | .vperm g vd va vb => Sys2Proof.Machine.execVperm g vd va vb s
  | .vrot g vd va xb => Sys2Proof.Machine.execVrot g vd va xb s
  | .vshl g vd va xb => Sys2Proof.Machine.execVshl g vd va xb s
  | .vredadd g ty vd va => Sys2Proof.Machine.execVredadd g ty vd va s
  | .vredmax g ty vd va => Sys2Proof.Machine.execVredmax g ty vd va s
  | .vredmin g ty vd va => Sys2Proof.Machine.execVredmin g ty vd va s
  | .vscan g ty vd va => Sys2Proof.Machine.execVscan g ty vd va s
  | .vsel g vd va vb pc => Sys2Proof.Machine.execVsel g vd va vb pc s
  | .vmov g vd va => Sys2Proof.Machine.execVmov g vd va s
  | .vld g sp ty vd xa xb => Sys2Proof.Machine.execVld g sp ty vd xa xb s
  | .vst g sp ty xa xb vc => Sys2Proof.Machine.execVst g sp ty xa xb vc s
  | .vldi g sp ty vd xa vb => Sys2Proof.Machine.execVldi g sp ty vd xa vb s
  | .vsti g sp ty xa vb vc => Sys2Proof.Machine.execVsti g sp ty xa vb vc s
  | .vldb g vd sa xb n => Sys2Proof.Machine.execVldb g vd sa xb n s
  | .vmrg g ty vd va vb pc => Sys2Proof.Machine.execVmrg g ty vd va vb pc s
  | .visect g ty vd va vb pc => Sys2Proof.Machine.execVisect g ty vd va vb pc s
  | .vunion g ty vd va vb pc => Sys2Proof.Machine.execVunion g ty vd va vb pc s
  | .vthr g ty vd va => Sys2Proof.Machine.execVthr g ty vd va s
  | .vcmpr g ty vd va xc => Sys2Proof.Machine.execVcmpr g ty vd va xc s
  | .vexpd g ty vd va pc => Sys2Proof.Machine.execVexpd g ty vd va pc s
  | .vnzidx g ty vd va xc => Sys2Proof.Machine.execVnzidx g ty vd va xc s
  | .vqnt g vd va vb => Sys2Proof.Machine.execVqnt g vd va vb s
  | .vdqnt g vd va vb => Sys2Proof.Machine.execVdqnt g vd va vb s
  | .vamax g vd va => Sys2Proof.Machine.execVamax g vd va s
  | .vbscl g vd va => Sys2Proof.Machine.execVbscl g vd va s
  | .mma g ty acc sa breg sgr => Sys2Proof.Machine.execMma g ty acc sa breg sgr s
  | .mmas g ty acc sa breg sgr => Sys2Proof.Machine.execMmas g ty acc sa breg sgr s
  | .mmag g ty acc sa breg sgr si so => Sys2Proof.Machine.execMmag g ty acc sa breg sgr si so s
  | .mmak g ty acc sa breg sgr si => Sys2Proof.Machine.execMmak g ty acc sa breg sgr si s
  | .mlease g => Sys2Proof.Machine.execMlease g s
  | .mrel g => Sys2Proof.Machine.execMrel g s
  | .mldb g ty sa breg form => Sys2Proof.Machine.execMldb g ty sa breg form s
  | .mzero g ty acc => Sys2Proof.Machine.execMzero g ty acc s
  | .maccd g acc src => Sys2Proof.Machine.execMaccd g acc src s
  | .mrd g acc sa => Sys2Proof.Machine.execMrd g acc sa s
  | .mwr g ty acc sa => Sys2Proof.Machine.execMwr g ty acc sa s
  | .mchk g acc => Sys2Proof.Machine.execMchk g acc s
  | .escale g acc sa mode => Sys2Proof.Machine.execEscale g acc sa mode s
  | .ebias g acc sa mode => Sys2Proof.Machine.execEbias g acc sa mode s
  | .erelu g acc => Sys2Proof.Machine.execErelu g acc s
  | .esig g acc => Sys2Proof.Machine.execEsig g acc s
  | .esilu g acc => Sys2Proof.Machine.execEsilu g acc s
  | .emul g acc src => Sys2Proof.Machine.execEmul g acc src s
  | .eadd g acc src => Sys2Proof.Machine.execEadd g acc src s
  | .econv g ty acc sat => Sys2Proof.Machine.execEconv g ty acc sat s
  | .swb g sr h sgr gate => Sys2Proof.Machine.execSwb g sr h sgr gate s
  | .swbacc g ty a sr gate => Sys2Proof.Machine.execSwbacc g ty a sr gate s
  | .swbnm g ty a sr b gate => Sys2Proof.Machine.execSwbnm g ty a sr b gate s
  | .swbz g ty a sr gate => Sys2Proof.Machine.execSwbz g ty a sr gate s
  | .sckstat g a => Sys2Proof.Machine.execSckstat g a s

end Sys2Proof.Machine
end

