-- ==== Sys2Proof/Machine/Fetch.lean ====
section
/-! DEFINITION. Instruction fetch: words through the instruction buffer, the words of a block with the checks of its encodings, and
what the moving stream does next (R122, R126, R173, R196, R288 to R290). -/

namespace Sys2Proof.Machine

/-- How a fetch ends. -/
inductive Fetched where
  /-- the words of a block, or its words up to the first that fails, with EVAL of that one -/
  | block (ws : List W32) (illegal : Option W64) (s : State)
  /-- the first word is no header -/
  | bad (ev : W64) (s : State)
  | trap (code : Nat) (ev : W64) (s : State)
  | wait (s : State)
  | hole (die addr : Nat)

/-- A 16 KiB instruction buffer holds 4,096 words; the oldest leave (R122). -/
def bufPut (st : EStream) (a : Nat) (w : W32) : EStream := { st with ibuf := ((a, w) :: st.ibuf).take 4096 }

/-- What one word's fetch gives. -/
inductive Word1 where
  | ok (w : W32) (s : State)
  | stop (f : Fetched)

/-- A word of the running body as the replay sees it (R145, R196). -/
def bodyWord (st : EStream) (a : Nat) : Option W32 :=
  if st.loop.run && st.loop.inBody (BitVec.ofNat 64 a) then (st.body.find? fun w => w.1 == a).map (·.2) else none
/-- A word fetched from memory: it enters the buffer, and the body if it is one of the running body's. -/
def gotWord (st : EStream) (a : Nat) (w : W32) : EStream :=
  let st := bufPut st a w
  if st.loop.run && st.loop.inBody (BitVec.ofNat 64 a) then { st with body := (a, w) :: st.body } else st

/-- One word at an address (R155, R31, R167, R173, R256); a word of the instruction buffer with an error is fetched again (R255). -/
def fetchWord (s : State) (a : Nat) : Word1 :=
  let (bad, s) := cacheRead s (ibufKey s.cur a) 4
  let s := if bad then s.modMe fun st => { st with ibuf := st.ibuf.filter fun w => w.1 != a } else s
  match (bodyWord s.me a).orElse fun _ => bufWord s.me a with
  | some w => .ok w s
  | none =>
    let ev := BitVec.ofNat 64 a
    match checkAddr s s.cur s.my.cid .g a 4 false with
    | some (c, v) => .stop (.trap c v s)
    | none =>
      if !reaches s (dieOf s.cur.core) (a / 2 ^ 45) 4 then .stop (.wait (s.held .memory))
      else
      match gRead s.who a 4 .ex s with
      | .ok (bs, _, bad) s =>
        if bad then .stop (.trap cPOISON ev s)
        else
          let w := BitVec.ofNat 32 (leNat bs)
          .ok w (s.modMe fun st => gotWord st a w)
      | .error .prot s => .stop (.trap cPROT ev s)
      | .error (.fault b r rg) s =>
        match raiseFault s s.my.cid b r (rg.kind 7) with
        | (none, s) => .stop (.trap cXLATE ev s)
        | (some w, s) => .stop (.wait ((s.modMe fun st => { st with fwait := some (w, a) }).held .memory))
      | .error (.exhausted _) s => .stop (.trap cPROT ev s)
      | .error .link s => .stop (.wait (s.held .memory))
      | .error (.hole d p) _ => .stop (.hole d p)

/-- Whether a word has the major of an exit (R126). -/
def isExit (w : W32) : Bool := w.extractLsb' 21 6 == 2
def isHeader (w : W32) : Bool := w.extractLsb' 21 6 == 1 && !w.getLsbD 27

noncomputable section

/-- Whether the words of one instruction may stand where they do: an encoding of the stream's engine, an exit in an exit position and
nowhere else (R126, R289). -/
def wordOk (eng : Eng) (exitPos : Bool) (ws : List W32) : Bool :=
  match decode ws with
  | .ok (i, _) => i.legalIn eng && isExit (ws.headD 0) == exitPos
  | .error _ => false

/-- The instructions of a block from word k on, n of them, nx + 1 exits last. -/
def fetchBody (pc : W64) (nx : Nat) : Nat → Nat → List W32 → State → Fetched
  | 0, _, ws, s => .block ws none s
  | n + 1, k, ws, s =>
    match fetchWord s (wordAddr pc k) with
    | .stop f => f
    | .ok w s =>
      if wordsOf w = 2 then
        match fetchWord s (wordAddr pc (k + 1)) with
        | .stop f => f
        | .ok w2 s =>
          if wordOk s.cur.eng (n ≤ nx) [w, w2] then fetchBody pc nx n (k + 2) (ws ++ [w, w2]) s
          else .block ws (some (illopEval [w, w2])) s
      else if wordOk s.cur.eng (n ≤ nx) [w] then fetchBody pc nx n (k + 1) (ws ++ [w]) s
      else .block ws (some (illopEval [w])) s

/-- The block at the moving stream's pc; of a task whose stream set is still to be read, that set (R87). -/
def fetchBlock (s : State) : Fetched :=
  if s.my.unread then
    match loadSet s s.cur.core s.cur.slot with
    | .next s => .wait s
    | .fault (.physHole d p) => .hole d p
    | .refused _ => .wait s
  else
  let pc := s.me.pc
  match fetchWord s pc.toNat with
  | .stop f => f
  | .ok w s =>
    if !isHeader w then .bad (w.zeroExtend 64) s
    else
      match decode [w] with
      | .error _ => .bad (w.zeroExtend 64) s
      | .ok _ => fetchBody pc (w.extractLsb' 14 2).toNat ((w.extractLsb' 16 5).toNat + 1) 1 [w] s

end

/-- An atomic or erase of the stream whose fault is not resolved holds it at its block boundary (R173). -/
def boundaryHeld (s : State) : Bool :=
  s.mine.any fun e => e.wait.isSome && (match e.acc with | .amo _ _ _ _ d => d != 0 | .erase => true | _ => false)

/-- A stream that can do nothing: retired, of an empty slot, or stopped at its block boundary (R123, R124, R247). -/
def idle (s : State) : Bool := !s.my.live || !s.me.live || (s.me.blk.isNone && s.me.stopped)

/-- A stream that a pre-emption request stops (R151): at its block boundary, or with its block held at a wait that it breaks. -/
def stopping (s : State) : Bool := s.my.preempt && !s.my.unread && (if s.me.blk.isNone then true else heldOpen s s.cur)
/-- What it does: a held block is discarded at once; at the boundary the next block is decoded, and a trap that its encoding meets comes
first (R294). -/
noncomputable def stopNow (s : State) : State :=
  if s.me.blk.isSome then discardBlock s s.cur
  else if s.me.looked || !s.me.deferred.isEmpty || s.me.fwait.isSome then s
  else
    match fetchBlock s with
    | .bad ev _ | .block _ (some ev) _ => trapAt s s.cur cILLOP ev false
    | .block _ none _ | .trap _ _ _ | .wait _ | .hole _ _ => s.modMe fun st => { st with looked := true }

/-- A trap met at a fetch (R173, R256). -/
def fetchTrap (s : State) (code : Nat) (ev : W64) : State :=
  if code = cPOISON then soften s s.cur cPOISON ev false else trapAt s s.cur code ev false

end Sys2Proof.Machine
end

