-- ==== Sys2Proof/Machine/Step.lean ====
section
/-! DEFINITION. One step of the device: the next happening, turn or passing of time that State.inputs lists; with none listed, the
oldest access, replay or command that can be performed, else the turn of the current stream (notes/assumptions/1.md). -/

namespace Sys2Proof.Machine

noncomputable section

/-- The words of the instruction the moving stream issues next. -/
def State.issueWords (s : State) : List W32 := match s.blk with | some b => b.words | none => []

/-- The turn of the moving stream: its next instruction, its block's commit, a trap due, or the fetch of its next block. -/
def turn (s : State) : Out :=
  if idle s then .next s
  else if stopping s then .next (stopNow s)
  else
    match s.blk with
    | some b =>
      if s.me.fwait.isSome then .next (s.held .memory)
      else if b.words.isEmpty then exec .blockCommit s
      else
        match decode b.words with
        | .ok (i, _) => exec i s
        | .error _ => .next (trapAt s s.cur cILLOP (illopEval b.words) false)
    | none =>
      if !s.me.deferred.isEmpty then exec .deferredTrap s
      else if boundaryHeld s || s.me.fwait.isSome then .next (s.held .memory)
      else
        match fetchBlock s with
        | .trap c ev s => .next (fetchTrap s c ev)
        | .bad ev s => .next (trapAt s s.cur cILLOP ev false)
        | .wait s => .next s
        | .hole d p => .fault (.physHole d p)
        | .block ws ill s =>
          match decode ws with
          | .ok (i, _) => exec i (s.modMe fun st => { st with fetched := some ws, illegal := ill })
          | .error _ => .next (trapAt s s.cur cILLOP (illopEval ws) false)

/-- What the memory system and the command queues do by themselves, oldest first. -/
def background (s : State) : Option Instr :=
  match s.paths.find? (fun e => eligible s e || meetsFull s e) with
  | some e => some (.memPerform e.uid)
  | none =>
    match s.logs.find? fun l => replayable s l && linked s l.e with
    | some l => some (.sideLogReplay l.e.r.core l.e.uid)
    | none => (queueMove s).orElse fun _ => leaseMove s

/-- One step. Listed time counts in TIMEBASE before READY too, which sets it to 0 (R14; DESIGN CHOICE, notes/assumptions/105.md). -/
def step (s : State) : Out :=
  match s.inputs with
  | .event i :: ms => exec i { s with inputs := ms }
  | .run r :: ms => turn { s with inputs := ms, cur := r }
  | .time c n :: ms => .next { s with inputs := ms, cycle := s.cycle + c, timebase := s.timebase + BitVec.ofNat 64 n }
  | [] =>
    match background s with
    | some i => exec i s
    | none => turn s

/-- The engine whose streams may hold an instruction, the first of A, M, V, S. -/
def engFor (ws : List W32) : Eng :=
  match decode ws with
  | .ok (i, _) => (Eng.all.find? fun e => i.legalIn e).getD .a
  | .error _ => .a

/-- Filler for the block of a header alone: nop words and, last, done exits. -/
def fillBody (ni nx : Nat) : List W32 := List.replicate (ni - nx) 0x02600000#32 ++ List.replicate (nx + 1) 0x005FC000#32

/-- A state in which the next step issues the instruction of bits w (notes/assumptions/10.md): a header at the pc of stream A of slot 0
of core 0, any other instruction as the rest of the open block of a stream whose engine may hold it. -/
def State.withFetchWord (s : State) (nbits w : Nat) : State :=
  let w := w % 2 ^ nbits
  let w0 : W32 := BitVec.ofNat 32 w
  let w1 : W32 := BitVec.ofNat 32 (w / 2 ^ 32)
  let ws := if wordsOf w0 = 2 then [w0, w1] else [w0]
  let e := engFor ws
  let s := { s with cur := ⟨0, 0, e⟩ }
  let s := s.modMy fun t => { t with live := true, preempt := false }
  if isHeader w0 then
    let ni := (w0.extractLsb' 16 5).toNat
    let nx := (w0.extractLsb' 14 2).toNat
    let body := fillBody ni nx
    s.modMe fun st => { st with
      live := true, stopped := false, blk := none, deferred := [], fwait := none
      ibuf := (List.range (body.length + 1)).map fun k => (wordAddr st.pc k, (w0 :: body).getD k 0) }
  else
    s.modMe fun st => { st with
      live := true, stopped := false, fwait := none
      blk := some { hdr := st.pc, size := 1 + ws.length, words := ws, x0 := st.x, p0 := st.p, v0 := s.my.v, mon0 := st.mon, armed := false
                    counted := [], taken := [], effs := [], exits := [], ringDone := false, evRel := false, began := none
                    timeout := false } }

end

end Sys2Proof.Machine
end

