-- ==== Sys2Proof/Safety.lean ====
section
/-! DEFINITION. What counts as a safe run: no access reaches a physical address that has no memory, and no step lacks a meaning. When
an instruction of the open block issues, what its issue leaves beside its own effect, and what its effect leaves alone. -/

namespace Sys2Proof.Safety

open Sys2Proof.Machine

/-- A step that ends neither in a fault nor in a refusal. -/
def StepSafe (s : State) : Prop := ∃ t, step s = .next t

/-- k steps, each of them safe. -/
def RunSafe : Nat → State → Prop
  | 0, _ => True
  | k + 1, s => ∃ t, step s = .next t ∧ RunSafe k t

/-- No context has been killed for a program fault (R102, R246). -/
def NoProgramFault (s : State) : Prop := ∀ k ∈ s.kills, k.status ≠ 0x11

end Sys2Proof.Safety

namespace Sys2Proof

/-! ## Guards (R274) -/

/-- The guard of a 64-bit instruction; a 32-bit one and a happening have none. -/
def Instr.guard : Instr → Option Guard
  | .cmpiEq g .. | .cmpiNe g .. | .cmpiLtS g .. | .cmpiLtN g .. | .cmpiGeS g .. | .cmpiGeN g .. | .sel g .. | .rdc g .. | .wrc g .. |
    .swpc g .. | .setc g .. | .clrc g .. | .loopn g .. | .lstride g .. | .loopgo g .. | .loopbrk g .. | .rdvset g .. | .rdvwait g .. |
    .mon g .. | .mwait g .. | .mclr g .. | .spawn g .. | .spawnr g .. | .evsig g .. | .evwait g .. | .joindec g .. | .yield g .. |
    .tself g .. | .stgadv g .. | .stgjmp g .. | .waitl g .. | .stgrd g .. | .abort g .. | .abchk g .. | .abrd g .. | .segb g .. |
    .sege g .. | .ld g .. | .st g .. | .amoAdd g .. | .amoAnd g .. | .amoOr g .. | .amoXor g .. | .amoMinS g .. | .amoMinN g .. |
    .amoMaxS g .. | .amoMaxN g .. | .amoSwap g .. | .amoCas g .. | .fence g .. | .xfence g .. | .ptfence g .. | .tlbinv g .. | .ldx g
    .. | .erase g .. | .extest g .. | .exmap g .. | .setsBase g .. | .setsDim g .. | .setsFmt g .. | .setsScl g .. | .setsXp g .. |
    .setsMc g .. | .setsHdl g .. | .setsClr g .. | .gets g .. | .copyin g .. | .copyout g .. | .copyk g .. | .copyd g .. | .copylin g
    .. | .gath g .. | .gathmc g .. | .scat g .. | .scatadd g .. | .gexp g .. | .garr g .. | .gwait g .. | .ginit g .. | .hwait g .. |
    .hset g .. | .hfree g .. | .nzscan g .. | .thrset g .. | .dmrd g .. | .tlget g .. | .tlstat g .. | .tlack g .. | .rngtk g .. |
    .rngput g .. | .rngget g .. | .rngeos g .. | .rngstat g .. | .qpush g .. | .qpop g .. | .qpeek g .. | .qpopp g .. | .vaddF g .. |
    .vsubF g .. | .vmulF g .. | .vfma g .. | .vfms g .. | .vfnma g .. | .vminF g .. | .vmaxF g .. | .vabsF g .. | .vneg g .. | .vdiv g
    .. | .vsqrt g .. | .vaddI g .. | .vsubI g .. | .vmulI g .. | .vmulh g .. | .vand g .. | .vor g .. | .vxor g .. | .vandn g .. |
    .vsll g .. | .vsrl g .. | .vsra g .. | .vminI g .. | .vmaxI g .. | .vabsI g .. | .vcmpEq g .. | .vcmpNe g .. | .vcmpLt g .. |
    .vcmpLe g .. | .vcmpGt g .. | .vcmpGe g .. | .vclass g .. | .cvtRne g .. | .cvtRtz g .. | .cvtRup g .. | .cvtRdn g .. | .cvtSat g
    .. | .vpack g .. | .vunpack g .. | .vexp2 g .. | .vlog2 g .. | .vrcp g .. | .vrsqrt g .. | .vsig g .. | .vtanh g .. | .vbcast g ..
    | .vlane g .. | .vperm g .. | .vrot g .. | .vshl g .. | .vredadd g .. | .vredmax g .. | .vredmin g .. | .vscan g .. | .vsel g .. |
    .vmov g .. | .vld g .. | .vst g .. | .vldi g .. | .vsti g .. | .vldb g .. | .vmrg g .. | .visect g .. | .vunion g .. | .vthr g ..
    | .vcmpr g .. | .vexpd g .. | .vnzidx g .. | .vqnt g .. | .vdqnt g .. | .vamax g .. | .vbscl g .. | .mma g .. | .mmas g .. | .mmag
    g .. | .mmak g .. | .mlease g .. | .mrel g .. | .mldb g .. | .mzero g .. | .maccd g .. | .mrd g .. | .mwr g .. | .mchk g .. |
    .escale g .. | .ebias g .. | .erelu g .. | .esig g .. | .esilu g .. | .emul g .. | .eadd g .. | .econv g .. | .swb g .. | .swbacc
    g .. | .swbnm g .. | .swbz g .. | .sckstat g .. => some g
  | .powerGood .. | .pcieFundamentalReset .. | .packageReset .. | .dieSelfTestDone .. | .getVersion .. | .getCapabilities .. |
    .negotiateAlgorithms .. | .getDigests .. | .getCertificate .. | .challenge .. | .getMeasurements .. | .keyExchange .. | .finish ..
    | .spdmResponseTimeout .. | .keyinstall .. | .dieBringupDone .. | .flitReceive .. | .flitAck .. | .rolloverStart .. | .dierstWrite
    .. | .dieResetScrubDone .. | .glitchAlarm .. | .meshBreach .. | .powerWindow .. | .clockRaise .. | .thermalTrip .. |
    .hbmSelfRefresh .. | .shellGate .. | .bar4Read .. | .bar4Write .. | .kickWrite .. | .taskRecordFetch .. | .replayRecord .. |
    .patchRecord .. | .reservedRecord .. | .completionPost .. | .completionIrqTimer .. | .crheadWrite .. | .crsizeWrite .. |
    .mdctlRunSet .. | .mdctlRunClear .. | .mdctlExact .. | .mdctlRefine .. | .auprodReread .. | .accessUnitDecode .. | .pictureOutput
    .. | .relcntReread .. | .cmuPass .. | .dispatchTurn .. | .ageExpiry .. | .stealRequest .. | .quantumExpiry .. | .preemptSave .. |
    .taskResume .. | .taskEnd .. | .leaseGrant .. | .leaseCap .. | .abortLineArrival .. | .blockCommit .. | .deferredTrap .. |
    .markerRetire .. | .mwaitTimeout .. | .commandComplete .. | .handleFull .. | .handleFree .. | .hstallTimeout .. | .memPerform .. |
    .viewServe .. | .viewFill .. | .viewDrop .. | .fqresRetry .. | .fqresFatal .. | .sideLogReplay .. | .tlbcmdWrite .. |
    .tlbInvalidateDone .. | .kcfgApply .. | .ctxkillWrite .. | .killDrainEnd .. | .birthRetry .. | .l2Evict .. | .teRingPoll .. |
    .teNop .. | .tePict .. | .teTransp .. | .teFconv .. | .teRecomp .. | .teCbload .. | .teBadop .. | .teRequestComplete .. |
    .snaptrgWrite .. | .snapinEdge .. | .snapshotLatch .. | .snaparmWrite .. | .scrubPass .. | .registerWrite .. | .softError .. |
    .blockHeader .. | .jump .. | .call .. | .ret .. | .done .. | .add .. | .sub .. | .and .. | .or .. | .xor .. | .andn .. | .sll .. |
    .srl .. | .sra .. | .minS .. | .minN .. | .maxS .. | .maxN .. | .clz .. | .popc .. | .addW .. | .subW .. | .addi .. | .andi .. |
    .ori .. | .xori .. | .slli .. | .srli .. | .srai .. | .liw .. | .lih .. | .cmpEq .. | .cmpNe .. | .cmpLtS .. | .cmpLtN .. |
    .cmpGeS .. | .cmpGeN .. | .pand .. | .por .. | .pxor .. | .pandn .. | .pnot .. | .pmov .. | .pall .. | .pnone .. | .ppop .. |
    .pfirst .. | .mul .. | .mulhS .. | .mulhN .. | .divS .. | .divN .. | .remS .. | .remN .. | .mulW .. | .divWS .. | .divWN .. |
    .remWS .. | .remWN .. | .nop .. | .trap .. | .eret .. | .brk .. | .kill .. | .post .. | .await .. | .mark .. | .dsync .. => none

/-- Whether the predicate of a guarded instruction masks lanes, as that of a VV word does. -/
def Instr.masksLanes : Instr → Bool
  | .vaddF .. | .vsubF .. | .vmulF .. | .vfma .. | .vfms .. | .vfnma .. | .vminF .. | .vmaxF .. | .vabsF .. | .vneg .. | .vdiv .. |
    .vsqrt .. | .vaddI .. | .vsubI .. | .vmulI .. | .vmulh .. | .vand .. | .vor .. | .vxor .. | .vandn .. | .vsll .. | .vsrl .. |
    .vsra .. | .vminI .. | .vmaxI .. | .vabsI .. | .vcmpEq .. | .vcmpNe .. | .vcmpLt .. | .vcmpLe .. | .vcmpGt .. | .vcmpGe .. |
    .vclass .. | .cvtRne .. | .cvtRtz .. | .cvtRup .. | .cvtRdn .. | .cvtSat .. | .vpack .. | .vunpack .. | .vexp2 .. | .vlog2 .. |
    .vrcp .. | .vrsqrt .. | .vsig .. | .vtanh .. | .vbcast .. | .vlane .. | .vperm .. | .vrot .. | .vshl .. | .vredadd .. | .vredmax
    .. | .vredmin .. | .vscan .. | .vsel .. | .vmov .. | .vld .. | .vst .. | .vldi .. | .vsti .. | .vldb .. | .vmrg .. | .visect .. |
    .vunion .. | .vthr .. | .vcmpr .. | .vexpd .. | .vnzidx .. | .vqnt .. | .vdqnt .. | .vamax .. | .vbscl .. => true
  | .cmpiEq .. | .cmpiNe .. | .cmpiLtS .. | .cmpiLtN .. | .cmpiGeS .. | .cmpiGeN .. | .sel .. | .rdc .. | .wrc .. | .swpc .. | .setc
    .. | .clrc .. | .loopn .. | .lstride .. | .loopgo .. | .loopbrk .. | .rdvset .. | .rdvwait .. | .mon .. | .mwait .. | .mclr .. |
    .spawn .. | .spawnr .. | .evsig .. | .evwait .. | .joindec .. | .yield .. | .tself .. | .stgadv .. | .stgjmp .. | .waitl .. |
    .stgrd .. | .abort .. | .abchk .. | .abrd .. | .segb .. | .sege .. | .ld .. | .st .. | .amoAdd .. | .amoAnd .. | .amoOr .. |
    .amoXor .. | .amoMinS .. | .amoMinN .. | .amoMaxS .. | .amoMaxN .. | .amoSwap .. | .amoCas .. | .fence .. | .xfence .. | .ptfence
    .. | .tlbinv .. | .ldx .. | .erase .. | .extest .. | .exmap .. | .setsBase .. | .setsDim .. | .setsFmt .. | .setsScl .. | .setsXp
    .. | .setsMc .. | .setsHdl .. | .setsClr .. | .gets .. | .copyin .. | .copyout .. | .copyk .. | .copyd .. | .copylin .. | .gath ..
    | .gathmc .. | .scat .. | .scatadd .. | .gexp .. | .garr .. | .gwait .. | .ginit .. | .hwait .. | .hset .. | .hfree .. | .nzscan
    .. | .thrset .. | .dmrd .. | .tlget .. | .tlstat .. | .tlack .. | .rngtk .. | .rngput .. | .rngget .. | .rngeos .. | .rngstat .. |
    .qpush .. | .qpop .. | .qpeek .. | .qpopp .. | .mma .. | .mmas .. | .mmag .. | .mmak .. | .mlease .. | .mrel .. | .mldb .. |
    .mzero .. | .maccd .. | .mrd .. | .mwr .. | .mchk .. | .escale .. | .ebias .. | .erelu .. | .esig .. | .esilu .. | .emul .. |
    .eadd .. | .econv .. | .swb .. | .swbacc .. | .swbnm .. | .swbz .. | .sckstat .. | .powerGood .. | .pcieFundamentalReset .. |
    .packageReset .. | .dieSelfTestDone .. | .getVersion .. | .getCapabilities .. | .negotiateAlgorithms .. | .getDigests .. |
    .getCertificate .. | .challenge .. | .getMeasurements .. | .keyExchange .. | .finish .. | .spdmResponseTimeout .. | .keyinstall ..
    | .dieBringupDone .. | .flitReceive .. | .flitAck .. | .rolloverStart .. | .dierstWrite .. | .dieResetScrubDone .. | .glitchAlarm
    .. | .meshBreach .. | .powerWindow .. | .clockRaise .. | .thermalTrip .. | .hbmSelfRefresh .. | .shellGate .. | .bar4Read .. |
    .bar4Write .. | .kickWrite .. | .taskRecordFetch .. | .replayRecord .. | .patchRecord .. | .reservedRecord .. | .completionPost ..
    | .completionIrqTimer .. | .crheadWrite .. | .crsizeWrite .. | .mdctlRunSet .. | .mdctlRunClear .. | .mdctlExact .. | .mdctlRefine
    .. | .auprodReread .. | .accessUnitDecode .. | .pictureOutput .. | .relcntReread .. | .cmuPass .. | .dispatchTurn .. | .ageExpiry
    .. | .stealRequest .. | .quantumExpiry .. | .preemptSave .. | .taskResume .. | .taskEnd .. | .leaseGrant .. | .leaseCap .. |
    .abortLineArrival .. | .blockCommit .. | .deferredTrap .. | .markerRetire .. | .mwaitTimeout .. | .commandComplete .. |
    .handleFull .. | .handleFree .. | .hstallTimeout .. | .memPerform .. | .viewServe .. | .viewFill .. | .viewDrop .. | .fqresRetry
    .. | .fqresFatal .. | .sideLogReplay .. | .tlbcmdWrite .. | .tlbInvalidateDone .. | .kcfgApply .. | .ctxkillWrite .. |
    .killDrainEnd .. | .birthRetry .. | .l2Evict .. | .teRingPoll .. | .teNop .. | .tePict .. | .teTransp .. | .teFconv .. | .teRecomp
    .. | .teCbload .. | .teBadop .. | .teRequestComplete .. | .snaptrgWrite .. | .snapinEdge .. | .snapshotLatch .. | .snaparmWrite ..
    | .scrubPass .. | .registerWrite .. | .softError .. | .blockHeader .. | .jump .. | .call .. | .ret .. | .done .. | .add .. | .sub
    .. | .and .. | .or .. | .xor .. | .andn .. | .sll .. | .srl .. | .sra .. | .minS .. | .minN .. | .maxS .. | .maxN .. | .clz .. |
    .popc .. | .addW .. | .subW .. | .addi .. | .andi .. | .ori .. | .xori .. | .slli .. | .srli .. | .srai .. | .liw .. | .lih .. |
    .cmpEq .. | .cmpNe .. | .cmpLtS .. | .cmpLtN .. | .cmpGeS .. | .cmpGeN .. | .pand .. | .por .. | .pxor .. | .pandn .. | .pnot .. |
    .pmov .. | .pall .. | .pnone .. | .ppop .. | .pfirst .. | .mul .. | .mulhS .. | .mulhN .. | .divS .. | .divN .. | .remS .. | .remN
    .. | .mulW .. | .divWS .. | .divWN .. | .remWS .. | .remWN .. | .nop .. | .trap .. | .eret .. | .brk .. | .kill .. | .post .. |
    .await .. | .mark .. | .dsync .. => false

end Sys2Proof

namespace Sys2Proof.Machine

/-! ## Issue (R133, R144, R274, R339) -/

/-- Predicate registers of the moving stream hold no error (R255). -/
def PredsClean (s : State) (ps : List R5) : Prop :=
  ∀ p ∈ ps, eccRead s (predKey s.cur p.toNat) 8 = s ∧ badWord s (predKey s.cur p.toNat) 8 = false ∧ eccClean s (predKey s.cur p.toNat) 8 = s
/-- Stream registers of the moving slot hold no error (R255). -/
def SregsClean (s : State) (is : List (BitVec 4)) : Prop :=
  ∀ i ∈ is, eccRead s (sregKey s.cur.core s.cur.slot i.toNat) 64 = s ∧ badWord s (sregKey s.cur.core s.cur.slot i.toNat) 64 = false

/-- The moving stream has an open block, the LI condition and the predicate hold, no register is awaited, every token the word takes is
there, and no x or predicate register it names holds an error. -/
structure Issuing (s : State) (f : Sync) (pred : R5) (li : BitVec 4) (u : Uses) : Prop where
  opened : s.blk.isSome = true
  li : liHolds s.my s.me li = true
  list : listHits s (Uses.ofPred pred) = false ∧ listHits s u = false
  free : hazard s (Uses.ofPred pred) = false ∧ hazard s u = false
  regs : readRegs s u = s ∧ regsBad s u = false
  preds : PredsClean s ((Uses.ofPred pred).ps ++ u.ps)
  pred : predHolds s.me pred = true
  toks : ∀ k ∈ waitToks s.cur.eng f, s.my.tok k ≠ 0

/-- The same of a 32-bit word, which has no guard, and of a guarded one. -/
def Issues32 (s : State) (f : Sync) (u : Uses) : Prop := Issuing s f 31 0 u
def Issues64 (s : State) (g : Guard) (u : Uses) : Prop := Issuing s g.sync g.pred g.li u
/-- The same of a guarded one that reads stream registers. -/
def IssuesS (s : State) (g : Guard) (u : Uses) (is : List (BitVec 4)) : Prop := Issues64 s g u ∧ SregsClean s is

/-- No source row holds an error (R255). -/
def SourcesClean (s : State) (rd : List R6) : Prop :=
  ∀ v ∈ rd, eccRead s (rowKey s.cur.core (2048 * s.cur.slot + v.toNat) 0 0) 256 = s ∧
    badWord s (rowKey s.cur.core (2048 * s.cur.slot + v.toNat) 0 0) 256 = false

/-- A VV word, whose predicate masks lanes and never stops it. -/
def IssuesVV (s : State) (g : Guard) (u : Uses) (rd : List R6) : Prop :=
  Issuing s g.sync 31 g.li { u with ps := if g.pred = 31 then u.ps else g.pred :: u.ps } ∧ SourcesClean s rd

/-- What an issue leaves of a state in which the instruction has had its effect: its tokens are taken, its signals stand for the
commit, and the block goes on to its next word. -/
def State.issued (s : State) (f : Sync) : State := (s.tokens f).next

/-! ## Frames -/

/-- Tasks apart, and what an acquire of a core touches, all is as it was. -/
def SameDevice (s t : State) : Prop := t = { s with tasks := t.tasks, views := t.views }

/-- In the moving task every register is as it was but the x, p and v registers named: control registers, accumulators, stream
registers, handles, gates, event counters and queues, and the registers of the other streams. -/
structure KeptBut (xs ps : List R5) (vs : List R6) (s t : State) : Prop where
  device : SameDevice s t
  x : ∀ a, a ∉ xs → t.x a = s.x a
  p : ∀ a, a ∉ ps → t.p a = s.p a
  v : ∀ a, a ∉ vs → t.v a = s.v a
  c : t.my.c = s.my.c
  acc : t.my.acc = s.my.acc
  sregs : t.my.s = s.my.s
  h : t.my.h = s.my.h
  gates : t.my.g = s.my.g
  e : t.my.e = s.my.e
  q : t.my.q = s.my.q
  loop : t.me.loop = s.me.loop
  others : ∀ g, g ≠ s.cur.eng → (t.my.stm g).x = (s.my.stm g).x ∧ (t.my.stm g).p = (s.my.stm g).p ∧ (t.my.stm g).pc = (s.my.stm g).pc
  tasks : ∀ c k, slotKey c k ≠ slotKey s.cur.core s.cur.slot →
    (t.task c k).c = (s.task c k).c ∧ (t.task c k).v = (s.task c k).v ∧ (t.task c k).acc = (s.task c k).acc ∧
    ∀ g, ((t.task c k).stm g).x = ((s.task c k).stm g).x ∧ ((t.task c k).stm g).p = ((s.task c k).stm g).p

/-- Nothing the moving stream started is still out: no access on its paths, no queued command, no effect of its block. -/
structure State.Quiet (s : State) : Prop where
  opened : s.blk.isSome = true
  paths : s.mine = []
  queue : s.me.cq = []
  effs : s.effs = []

/-! ## Vector registers -/

/-- The flags that the active lanes raise. -/
def laneFlags (s : State) (pred : R5) (f : Nat → W32 × Fl) : Fl := orFlags ((List.range 64).map fun l => if laneOn s pred l then (f l).2 else 0)

/-- After an instruction, the active lanes of v[vd] hold the given results and its other lanes what they held; VSTAT has gained the
flags of the active lanes; every other vector register, every x and p register and all of memory are as they were. -/
structure LanesWritten (s t : State) (pred : R5) (vd : R6) (f : Nat → W32 × Fl) : Prop where
  lanes : ∀ l, l < 64 → laneAt (t.v vd) l = if laneOn s pred l then (f l).1 else laneAt (s.v vd) l
  rows : ∀ v, v ≠ vd → t.v v = s.v v
  x : ∀ a, t.x a = s.x a
  p : ∀ a, t.p a = s.p a
  vstat : t.csr 0x006 = s.csr 0x006 ||| (laneFlags s pred f &&& csrMask 0x006)
  mem : t.mem = s.mem

/-- The same of an instruction that writes every lane of v[vd], whatever its mask. -/
structure RowWritten (s t : State) (vd : R6) (f : Nat → W32) (fl : Fl) : Prop where
  lanes : ∀ l, l < 64 → laneAt (t.v vd) l = f l
  rows : ∀ v, v ≠ vd → t.v v = s.v v
  x : ∀ a, t.x a = s.x a
  p : ∀ a, t.p a = s.p a
  vstat : t.csr 0x006 = s.csr 0x006 ||| (fl &&& csrMask 0x006)
  mem : t.mem = s.mem

/-! ## Queue records -/

/-- The record that stands next in a stream's queue has been read in the stream's context (R51): the stream is enabled, its queue is
neither empty nor stopped, and the die of the record takes part. -/
structure HeadRead (s u : State) (stream : Nat) (h : Head) : Prop where
  range : stream < 128
  ctx : enabledCtx s stream = some h.cid
  more : (hst s stream).sqhead ≠ (hst s stream).kick
  open_ : pkgHeld s = false
  runs : (hst s stream).sqstat.getLsbD 2 = false ∧ (hst s stream).stall = false ∧ (hst s stream).qwait = none
  seq : h.seq = (hst s stream).sqhead
  fn : h.fn = coverOf (hst s stream) h.seq
  read : ∃ bs ex bad, let a := bits (hst s stream).sqbase.toNat 6 42 * 64 + 64 * (h.seq.toNat % 2 ^ sqLog s stream)
    a / 2 ^ 45 % 8 ≤ 3 ∧ trusted s (a / 2 ^ 45 % 8) = true ∧ gRead (hostWho h.cid) (a % 2 ^ 48) 64 .rd s = .ok (bs, ex, bad) u ∧
    h.word = BitVec.ofNat 512 (leNat bs)

/-- The next request of a transform ring has been read at its turn, with its tag (R217, R218), its header's LOG2 in range. -/
structure RequestRead (s u : State) (ring : Nat) (q : Req) (tag : W32) : Prop where
  turn : teTurn s (ringDie s ring) = some ring
  ctx : q.cid = ringCid s ring ∧ q.die = ringDie s ring
  tag : tag = BitVec.ofNat 32 (bits q.d 256 32)
  read : ∃ x v, teReadN (ringWho s ring) (ringHdr s ring) 64 (s.teTook ring) = .ok x v ∧
    teReadN (ringWho s ring) (recordAt s ring x) 64 v = .ok q.d u ∧ 4 ≤ bits x 64 4 ∧ bits x 64 4 ≤ 12

end Sys2Proof.Machine
end

