-- ==== Sys2Proof/Certificates/Slice0/Obligations.lean ====
section
/-! DEFINITION. The statements for the provers: what an instruction or a happening does when it completes, what it leaves alone, when
it traps, and what holds of every state. A statement of several rules is the conjunction of the statements of each, under Rule. -/

open Sys2Proof Sys2Proof.Machine

/-- R341: every ALU operation issues and writes x[d] from x[a] and x[b]. -/
def Rule.AluResults : Prop :=
  ∀ (s : State) (f : Sync) (d a b : R5), Issues32 s f ⟨[d, a, b], [], [], [a, b]⟩ →
    exec (.add f d a b) s = .next ((s.setX d (s.x a + s.x b)).issued f) ∧
    exec (.sub f d a b) s = .next ((s.setX d (s.x a - s.x b)).issued f) ∧
    exec (.and f d a b) s = .next ((s.setX d (s.x a &&& s.x b)).issued f) ∧
    exec (.or f d a b) s = .next ((s.setX d (s.x a ||| s.x b)).issued f) ∧
    exec (.xor f d a b) s = .next ((s.setX d (s.x a ^^^ s.x b)).issued f) ∧
    exec (.andn f d a b) s = .next ((s.setX d (s.x a &&& ~~~(s.x b))).issued f) ∧
    exec (.sll f d a b) s = .next ((s.setX d (s.x a <<< ((s.x b).toNat % 64))).issued f) ∧
    exec (.srl f d a b) s = .next ((s.setX d (s.x a >>> ((s.x b).toNat % 64))).issued f) ∧
    exec (.sra f d a b) s = .next ((s.setX d ((s.x a).sshiftRight ((s.x b).toNat % 64))).issued f) ∧
    exec (.minS f d a b) s = .next ((s.setX d (if (s.x a).toInt < (s.x b).toInt then s.x a else s.x b)).issued f) ∧
    exec (.minN f d a b) s = .next ((s.setX d (if (s.x a).toNat < (s.x b).toNat then s.x a else s.x b)).issued f) ∧
    exec (.maxS f d a b) s = .next ((s.setX d (if (s.x a).toInt < (s.x b).toInt then s.x b else s.x a)).issued f) ∧
    exec (.maxN f d a b) s = .next ((s.setX d (if (s.x a).toNat < (s.x b).toNat then s.x b else s.x a)).issued f) ∧
    exec (.addW f d a b) s = .next ((s.setX d (((s.x a + s.x b).extractLsb' 0 32).signExtend 64)).issued f) ∧
    exec (.subW f d a b) s = .next ((s.setX d (((s.x a - s.x b).extractLsb' 0 32).signExtend 64)).issued f)

/-- R341: clz writes the number of leading zero bits of x[a], popc the number of its one bits. -/
def Rule.CountResults : Prop :=
  ∀ (s : State) (f : Sync) (d a : R5), Issues32 s f ⟨[d, a], [], [], [a]⟩ →
    (∃ n : Nat, exec (.clz f d a) s = .next ((s.setX d (BitVec.ofNat 64 n)).issued f) ∧ n ≤ 64 ∧
      (∀ i, 64 - n ≤ i → i < 64 → (s.x a).getLsbD i = false) ∧ (n < 64 → (s.x a).getLsbD (63 - n) = true)) ∧
    exec (.popc f d a) s =
      .next ((s.setX d (BitVec.ofNat 64 ((List.range 64).filter fun i => (s.x a).getLsbD i).length)).issued f)

/-- R342, R343: the immediate operations issue and write x[d]. -/
def Rule.ImmediateResults : Prop :=
  (∀ (s : State) (f : Sync) (d a : R5) (imm : BitVec 11) (sh : BitVec 6), Issues32 s f ⟨[d, a], [], [], [a]⟩ →
    exec (.addi f d a imm) s = .next ((s.setX d (s.x a + imm.signExtend 64)).issued f) ∧
    exec (.andi f d a imm) s = .next ((s.setX d (s.x a &&& imm.signExtend 64)).issued f) ∧
    exec (.ori f d a imm) s = .next ((s.setX d (s.x a ||| imm.signExtend 64)).issued f) ∧
    exec (.xori f d a imm) s = .next ((s.setX d (s.x a ^^^ imm.signExtend 64)).issued f) ∧
    exec (.slli f d a sh) s = .next ((s.setX d (s.x a <<< sh.toNat)).issued f) ∧
    exec (.srli f d a sh) s = .next ((s.setX d (s.x a >>> sh.toNat)).issued f) ∧
    exec (.srai f d a sh) s = .next ((s.setX d ((s.x a).sshiftRight sh.toNat)).issued f)) ∧
  (∀ (s : State) (f : Sync) (d : R5) (imm : W32), Issues32 s f ⟨[d], [], [], []⟩ →
    exec (.liw f d imm) s = .next ((s.setX d (imm.signExtend 64)).issued f)) ∧
  (∀ (s : State) (f : Sync) (d : R5) (imm : W32), Issues32 s f ⟨[d], [], [], [d]⟩ →
    exec (.lih f d imm) s = .next ((s.setX d (imm ++ (s.x d).extractLsb' 0 32)).issued f))

/-- R346, R347: select and multiply issue and write x[d]. -/
def Rule.SelectMultiplyResults : Prop :=
  (∀ (s : State) (g : Guard) (d a b c : R5), Issues64 s g ⟨[d, a, b], [c], [], [a, b]⟩ →
    exec (.sel g d a b c) s = .next ((s.setX d (if (s.p c).getLsbD 0 then s.x a else s.x b)).issued g.sync)) ∧
  (∀ (s : State) (f : Sync) (d a b : R5), Issues32 s f ⟨[d, a, b], [], [], [a, b]⟩ →
    exec (.mul f d a b) s = .next ((s.setX d (s.x a * s.x b)).issued f) ∧
    exec (.mulhS f d a b) s = .next ((s.setX d (BitVec.ofInt 64 ((s.x a).toInt * (s.x b).toInt / 2 ^ 64))).issued f) ∧
    exec (.mulhN f d a b) s = .next ((s.setX d (BitVec.ofNat 64 ((s.x a).toNat * (s.x b).toNat / 2 ^ 64))).issued f) ∧
    exec (.mulW f d a b) s =
      .next ((s.setX d (((s.x a).extractLsb' 0 32 * (s.x b).extractLsb' 0 32).signExtend 64)).issued f))

/-- ALU, immediate, select and multiply instructions issue and write x[d] as their rules give: Rule.AluResults, Rule.CountResults,
Rule.ImmediateResults, Rule.SelectMultiplyResults. -/
def Obligations.ScalarResults : Prop := Rule.AluResults ∧ Rule.CountResults ∧ Rule.ImmediateResults ∧ Rule.SelectMultiplyResults

/-- R344: a compare writes 64 ones to p[d] when it holds, and 64 zeros when it does not. -/
def Rule.CompareResults : Prop :=
  (∀ (s : State) (f : Sync) (d a b : R5), Issues32 s f ⟨[a, b], [d], [], [a, b]⟩ →
    let r (c : Prop) [Decidable c] : W64 := if c then BitVec.allOnes 64 else 0
    exec (.cmpEq f d a b) s = .next ((s.setP d (r (s.x a = s.x b))).issued f) ∧
    exec (.cmpNe f d a b) s = .next ((s.setP d (r (s.x a ≠ s.x b))).issued f) ∧
    exec (.cmpLtS f d a b) s = .next ((s.setP d (r ((s.x a).toInt < (s.x b).toInt))).issued f) ∧
    exec (.cmpLtN f d a b) s = .next ((s.setP d (r ((s.x a).toNat < (s.x b).toNat))).issued f) ∧
    exec (.cmpGeS f d a b) s = .next ((s.setP d (r ((s.x b).toInt ≤ (s.x a).toInt))).issued f) ∧
    exec (.cmpGeN f d a b) s = .next ((s.setP d (r ((s.x b).toNat ≤ (s.x a).toNat))).issued f)) ∧
  (∀ (s : State) (g : Guard) (d a : R5) (imm : BitVec 14), Issues64 s g ⟨[a], [d], [], [a]⟩ →
    let r (c : Prop) [Decidable c] : W64 := if c then BitVec.allOnes 64 else 0
    let i : W64 := imm.signExtend 64
    exec (.cmpiEq g d a imm) s = .next ((s.setP d (r (s.x a = i))).issued g.sync) ∧
    exec (.cmpiNe g d a imm) s = .next ((s.setP d (r (s.x a ≠ i))).issued g.sync) ∧
    exec (.cmpiLtS g d a imm) s = .next ((s.setP d (r ((s.x a).toInt < i.toInt))).issued g.sync) ∧
    exec (.cmpiLtN g d a imm) s = .next ((s.setP d (r ((s.x a).toNat < i.toNat))).issued g.sync) ∧
    exec (.cmpiGeS g d a imm) s = .next ((s.setP d (r (i.toInt ≤ (s.x a).toInt))).issued g.sync) ∧
    exec (.cmpiGeN g d a imm) s = .next ((s.setP d (r (i.toNat ≤ (s.x a).toNat))).issued g.sync))

/-- R345: the predicate operations issue and write p[d]; ppop writes x[d]. -/
def Rule.PredicateResults : Prop :=
  (∀ (s : State) (f : Sync) (d a b : R5), Issues32 s f ⟨[], [d, a, b], [], []⟩ →
    exec (.pand f d a b) s = .next ((s.setP d (s.p a &&& s.p b)).issued f) ∧
    exec (.por f d a b) s = .next ((s.setP d (s.p a ||| s.p b)).issued f) ∧
    exec (.pxor f d a b) s = .next ((s.setP d (s.p a ^^^ s.p b)).issued f) ∧
    exec (.pandn f d a b) s = .next ((s.setP d (s.p a &&& ~~~(s.p b))).issued f)) ∧
  (∀ (s : State) (f : Sync) (d a : R5), Issues32 s f ⟨[], [d, a], [], []⟩ →
    exec (.pnot f d a) s = .next ((s.setP d (~~~(s.p a))).issued f) ∧
    exec (.pmov f d a) s = .next ((s.setP d (s.p a)).issued f) ∧
    exec (.pall f d a) s = .next ((s.setP d (if s.p a = BitVec.allOnes 64 then BitVec.allOnes 64 else 0)).issued f) ∧
    exec (.pnone f d a) s = .next ((s.setP d (if s.p a = 0 then BitVec.allOnes 64 else 0)).issued f) ∧
    exec (.pfirst f d a) s = .next ((s.setP d (if s.p a ≠ 0 then BitVec.allOnes 64 else 0)).issued f)) ∧
  (∀ (s : State) (f : Sync) (d a : R5), Issues32 s f ⟨[d], [a], [], []⟩ →
    exec (.ppop f d a) s =
      .next ((s.setX d (BitVec.ofNat 64 ((List.range 64).filter fun i => (s.p a).getLsbD i).length)).issued f))

/-- Compares and predicate operations issue and write p[d] (ppop: x[d]): Rule.CompareResults, Rule.PredicateResults. -/
def Obligations.CompareAndPredicate : Prop := Rule.CompareResults ∧ Rule.PredicateResults

/-- R348: division rounds toward zero, the remainder keeps the dividend's sign; a divisor of zero gives a quotient of all ones and a
remainder equal to the dividend. -/
def Rule.DivideResults : Prop :=
  ∀ (s : State) (f : Sync) (d a b : R5), Issues32 s f ⟨[d, a, b], [], [], [a, b]⟩ →
    let x := s.x a
    let y := s.x b
    let xw := x.extractLsb' 0 32
    let yw := y.extractLsb' 0 32
    ((s.csr 0x00B).getLsbD 0 = false ∨ y ≠ 0 →
    exec (.divS f d a b) s = .next ((s.setX d (if y = 0 then BitVec.allOnes 64 else BitVec.ofInt 64 (x.toInt.tdiv y.toInt))).issued f) ∧
    exec (.divN f d a b) s = .next ((s.setX d (if y = 0 then BitVec.allOnes 64 else BitVec.ofNat 64 (x.toNat / y.toNat))).issued f) ∧
    exec (.remS f d a b) s = .next ((s.setX d (if y = 0 then x else BitVec.ofInt 64 (x.toInt.tmod y.toInt))).issued f) ∧
    exec (.remN f d a b) s = .next ((s.setX d (if y = 0 then x else BitVec.ofNat 64 (x.toNat % y.toNat))).issued f)) ∧
    ((s.csr 0x00B).getLsbD 0 = false ∨ yw ≠ 0 →
    exec (.divWS f d a b) s = .next ((s.setX d
      ((if yw = 0 then BitVec.allOnes 32 else BitVec.ofInt 32 (xw.toInt.tdiv yw.toInt)).signExtend 64)).issued f) ∧
    exec (.divWN f d a b) s = .next ((s.setX d
      ((if yw = 0 then BitVec.allOnes 32 else BitVec.ofNat 32 (xw.toNat / yw.toNat)).signExtend 64)).issued f) ∧
    exec (.remWS f d a b) s = .next ((s.setX d
      ((if yw = 0 then xw else BitVec.ofInt 32 (xw.toInt.tmod yw.toInt)).signExtend 64)).issued f) ∧
    exec (.remWN f d a b) s = .next ((s.setX d
      ((if yw = 0 then xw else BitVec.ofNat 32 (xw.toNat % yw.toNat)).signExtend 64)).issued f))

/-- R348: with TRAPEN.DIVZ set, a divisor of zero traps DIVZ with EVAL the dividend. -/
def Rule.DivideByZeroTraps : Prop :=
  ∀ (s : State) (f : Sync) (d a b : R5), Issues32 s f ⟨[d, a, b], [], [], [a, b]⟩ → (s.csr 0x00B).getLsbD 0 = true →
    (s.x b = 0 → ∀ i ∈ [Instr.divS f d a b, .divN f d a b, .remS f d a b, .remN f d a b],
      exec i s = .next (trapAt s s.cur 0x03 (s.x a) false)) ∧
    ((s.x b).extractLsb' 0 32 = 0 → ∀ i ∈ [Instr.divWS f d a b, .divWN f d a b, .remWS f d a b, .remWN f d a b],
      exec i s = .next (trapAt s s.cur 0x03 (s.x a) false))

/-- Division and remainder: results, a zero divisor, and the DIVZ trap: Rule.DivideResults, Rule.DivideByZeroTraps. -/
def Obligations.DivideResults : Prop := Rule.DivideResults ∧ Rule.DivideByZeroTraps

/-- Frame of the scalar results: an ALU, immediate, multiply, divide or select instruction leaves every register but x[d], a compare or
predicate operation every register but p[d], and both all of memory. -/
def Obligations.ScalarFrame : Prop :=
  (∀ (s t : State) (f : Sync) (d a b : R5), Issues32 s f ⟨[d, a, b], [], [], [a, b]⟩ →
    (s.csr 0x00B).getLsbD 0 = false ∨ (s.x b).extractLsb' 0 32 ≠ 0 →
    ∀ i ∈ [Instr.add f d a b, .sub f d a b, .and f d a b, .or f d a b, .xor f d a b, .andn f d a b, .sll f d a b, .srl f d a b,
      .sra f d a b, .minS f d a b, .minN f d a b, .maxS f d a b, .maxN f d a b, .addW f d a b, .subW f d a b, .mul f d a b,
      .mulhS f d a b, .mulhN f d a b, .mulW f d a b, .divS f d a b, .divN f d a b, .remS f d a b, .remN f d a b, .divWS f d a b,
      .divWN f d a b, .remWS f d a b, .remWN f d a b],
      exec i s = .next t → KeptBut [d] [] [] s t) ∧
  (∀ (s t : State) (f : Sync) (d a : R5) (imm : BitVec 11) (sh : BitVec 6), Issues32 s f ⟨[d, a], [], [], [a]⟩ →
    ∀ i ∈ [Instr.clz f d a, .popc f d a, .addi f d a imm, .andi f d a imm, .ori f d a imm, .xori f d a imm, .slli f d a sh,
      .srli f d a sh, .srai f d a sh],
      exec i s = .next t → KeptBut [d] [] [] s t) ∧
  (∀ (s t : State) (f : Sync) (d a b : R5), Issues32 s f ⟨[a, b], [d], [], [a, b]⟩ →
    ∀ i ∈ [Instr.cmpEq f d a b, .cmpNe f d a b, .cmpLtS f d a b, .cmpLtN f d a b, .cmpGeS f d a b, .cmpGeN f d a b],
      exec i s = .next t → KeptBut [] [d] [] s t) ∧
  (∀ (s t : State) (f : Sync) (d a b : R5), Issues32 s f ⟨[], [d, a, b], [], []⟩ →
    ∀ i ∈ [Instr.pand f d a b, .por f d a b, .pxor f d a b, .pandn f d a b], exec i s = .next t → KeptBut [] [d] [] s t) ∧
  (∀ (s t : State) (f : Sync) (d a : R5), Issues32 s f ⟨[], [d, a], [], []⟩ →
    ∀ i ∈ [Instr.pnot f d a, .pmov f d a, .pall f d a, .pnone f d a, .pfirst f d a], exec i s = .next t → KeptBut [] [d] [] s t) ∧
  (∀ (s t : State) (g : Guard) (d a b c : R5), Issues64 s g ⟨[d, a, b], [c], [], [a, b]⟩ →
    exec (.sel g d a b c) s = .next t → KeptBut [d] [] [] s t) ∧
  (∀ (s t : State) (g : Guard) (d a : R5) (imm : BitVec 14), Issues64 s g ⟨[a], [d], [], [a]⟩ →
    ∀ i ∈ [Instr.cmpiEq g d a imm, .cmpiNe g d a imm, .cmpiLtS g d a imm, .cmpiLtN g d a imm, .cmpiGeS g d a imm, .cmpiGeN g d a imm],
      exec i s = .next t → KeptBut [] [d] [] s t)

/-- R274: a guarded instruction other than a VV one, of whatever form, whose LI condition holds and whose predicate register is there and
reads 0 leaves its block with no other effect and no trap. -/
def Rule.PredicateSkips : Prop :=
  ∀ (s : State) (i : Instr) (g : Guard), i.guard = some g → i.masksLanes = false → s.blk.isSome = true →
    liHolds s.my s.me g.li = true →
    listHits s (Uses.ofPred g.pred) = false → hazard s (Uses.ofPred g.pred) = false → PredsClean s (Uses.ofPred g.pred).ps →
    predHolds s.me g.pred = false →
    exec i s = .next s.next

/-- R274, R276: a guarded instruction of whatever form, VV or not, whose LI condition fails leaves its block with no other effect; the
predicate of a VV instruction stops nothing. -/
def Rule.LoopConditionSkips : Prop :=
  ∀ (s : State) (i : Instr) (g : Guard), i.guard = some g → s.blk.isSome = true → liHolds s.my s.me g.li = false →
    exec i s = .next s.next

/-- An instruction whose predicate or loop condition fails is skipped with no effect: Rule.PredicateSkips, Rule.LoopConditionSkips. -/
def Obligations.Skips : Prop := Rule.PredicateSkips ∧ Rule.LoopConditionSkips

/-- R339: while an access that writes one of its registers is out, an instruction is held where it stands, every register kept. -/
def Rule.AwaitedRegisterHolds : Prop :=
  ∀ (s : State) (f : Sync) (d a b : R5), s.blk.isSome = true → listHits s ⟨[d, a, b], [], [], [a, b]⟩ = false →
    hazard s ⟨[d, a, b], [], [], [a, b]⟩ = true →
    ∀ i ∈ [Instr.add f d a b, .sub f d a b, .mul f d a b, .divS f d a b],
      exec i s = .next (s.held .memory) ∧ KeptBut [] [] [] s (s.held .memory) ∧ (s.held .memory).me.pc = s.me.pc

/-- R133, R135: an instruction with a wait flag whose token count is 0 is held, as long as the sender of every such counter runs or has
a token on its way. -/
def Rule.TokenWaitHolds : Prop :=
  ∀ (s : State) (f : Sync), s.Quiet →
    (∃ k ∈ waitToks s.cur.eng f, s.my.tok k = 0) →
    (∀ k ∈ waitToks s.cur.eng f, s.my.tok k = 0 →
      (s.my.stm (tokSender k)).live = true ∨ (s.paths.any fun x => x.tid == s.my.tid && x.acc == .token k) = true) →
    exec (.nop f) s = .next (s.held .token)

/-- R135: once the sender of an empty counter has retired with no token on its way, the wait traps HSTALL with EVAL 0x100 + that
counter. -/
def Rule.TokenWaitStalls : Prop :=
  ∀ (s : State) (f : Sync) (k : Nat), s.Quiet →
    (waitToks s.cur.eng f).find? (fun k => s.my.tok k == 0 && (!(s.my.stm (tokSender k)).live &&
      !s.paths.any fun x => x.tid == s.my.tid && x.acc == .token k)) = some k →
    exec (.nop f) s = .next (trapAt s s.cur 0x0E (BitVec.ofNat 64 (0x100 + k)) false)

/-- What holds an instruction at issue: an awaited register, a token not sent; and when a token wait stalls: Rule.AwaitedRegisterHolds,
Rule.TokenWaitHolds, Rule.TokenWaitStalls. -/
def Obligations.Held : Prop := Rule.AwaitedRegisterHolds ∧ Rule.TokenWaitHolds ∧ Rule.TokenWaitStalls

/-- R314, R249: the SYS instructions issue; trap and brk take TRAPI at issue, kill ends the context, and eret stands for the commit in the
stream that its level serves, and is ILLOP elsewhere. -/
def Rule.SystemResults : Prop :=
  (∀ (s : State) (f : Sync), Issues32 s f ⟨[], [], [], []⟩ →
    exec (.nop f) s = .next (s.issued f) ∧
    exec (.kill f) s = .next (kill s s.my.cid 0x11) ∧
    (s.my.c.tl ≠ 0 → s.my.trapEng = s.cur.eng → exec (.eret f) s = .next ((s.addEff .eret).issued f)) ∧
    (s.my.c.tl = 0 ∨ s.my.trapEng ≠ s.cur.eng →
      exec (.eret f) s = .next (trapAt s s.cur 0x01 (s.headWord.zeroExtend 64) false))) ∧
  (∀ (s : State) (f : Sync) (a : R5), Issues32 s f ⟨[a], [], [], [a]⟩ →
    exec (.trap f a) s = .next (trapAt s s.cur 0x0F (0#1 ++ (s.x a).extractLsb' 0 63) false) ∧
    exec (.brk f a) s = .next (trapAt s s.cur 0x0F (1#1 ++ (s.x a).extractLsb' 0 63) false))

/-- R316, R317: a CSR write stands for the commit, swpc, setc and clrc return the old value. Of NBV, the value that the write would leave
is checked at issue: a VER neither 1 nor 2 traps ILLOP with that value. -/
def Rule.CsrResults : Prop :=
  (∀ (s : State) (g : Guard) (d : R5) (n : BitVec 14), Issues64 s g ⟨[d], [], [], []⟩ →
    exec (.rdc g d n) s = .next ((s.setX d (s.csr n.toNat)).issued g.sync)) ∧
  (∀ (s : State) (g : Guard) (a : R5) (n : BitVec 14), Issues64 s g ⟨[a], [], [], [a]⟩ →
    (n.toNat ≠ 4 ∨ s.x a &&& 0xFF = 1 ∨ s.x a &&& 0xFF = 2 →
      exec (.wrc g a n) s = .next ((s.addEff (.csr n.toNat (s.x a))).issued g.sync)) ∧
    (n.toNat = 4 → s.x a &&& 0xFF ≠ 1 → s.x a &&& 0xFF ≠ 2 →
      exec (.wrc g a n) s = .next (trapAt s s.cur 0x01 (s.x a &&& 0xFF) false))) ∧
  (∀ (s : State) (g : Guard) (d a : R5) (n : BitVec 14), Issues64 s g ⟨[d, a], [], [], [a]⟩ →
    let old := s.csr n.toNat
    let ok (new : W64) : Prop := n.toNat ≠ 4 ∨ new &&& 0xFF = 1 ∨ new &&& 0xFF = 2
    let ver (new : W64) : Out := .next (trapAt s s.cur 0x01 (new &&& 0xFF) false)
    (ok (s.x a) → exec (.swpc g d a n) s = .next (((s.setX d old).addEff (.csr n.toNat (s.x a))).issued g.sync)) ∧
    (ok (old ||| s.x a) → exec (.setc g d a n) s = .next (((s.setX d old).addEff (.csrOr n.toNat (s.x a))).issued g.sync)) ∧
    (ok (old &&& ~~~(s.x a)) → exec (.clrc g d a n) s = .next (((s.setX d old).addEff (.csrAnd n.toNat (s.x a))).issued g.sync)) ∧
    (¬ ok (s.x a) → exec (.swpc g d a n) s = ver (s.x a)) ∧
    (¬ ok (old ||| s.x a) → exec (.setc g d a n) s = ver (old ||| s.x a)) ∧
    (¬ ok (old &&& ~~~(s.x a)) → exec (.clrc g d a n) s = ver (old &&& ~~~(s.x a))))

/-- R127, R291: a control register write is seen by later reads of its block: the writable bits hold the value written; of the
registers below 0x100 the other bits are unchanged. LC0 to LC5 and RDV, whose reads are of live state, stand apart. -/
def Rule.CsrWriteSeenInBlock : Prop :=
  ∀ (s : State) (n : Nat) (v : W64), s.blk.isSome = true → ¬ (0x020 ≤ n ∧ n ≤ 0x025) → n ≠ 0x031 →
    (s.addEff (.csr n v)).csr n &&& csrMask n = v &&& csrMask n ∧
    (n < 0x100 → (s.addEff (.csr n v)).csr n &&& ~~~(csrMask n) = s.csr n &&& ~~~(csrMask n))

/-- nop, trap, eret, brk, kill and the control register instructions: Rule.SystemResults, Rule.CsrResults, Rule.CsrWriteSeenInBlock. -/
def Obligations.SystemAndControlRegisters : Prop := Rule.SystemResults ∧ Rule.CsrResults ∧ Rule.CsrWriteSeenInBlock

/-- R319, R320, R143: at TL0 the loop instructions stand for the commit, loopgo only while RUN is 0; at TL1 and TL2, or with RUN set,
ILLOP. -/
def Obligations.LoopResults : Prop :=
  ∀ (s : State) (g : Guard) (a d : R5) (lvl ent : BitVec 3) (cnt : BitVec 11) (str : BitVec 8) (len : BitVec 14),
    let ill : Out := .next (trapAt s s.cur 0x01 (s.headWord.zeroExtend 64) false)
    (Issues64 s g ⟨[a], [], [], [a]⟩ →
      (s.my.c.tl = 0 →
        exec (.loopn g a lvl cnt) s =
          .next ((s.addEff (.lc lvl.toNat ((s.x a).extractLsb' 0 32 + cnt.zeroExtend 32))).issued g.sync) ∧
        exec (.lstride g d a lvl ent str) s = .next ((s.addEff (.stride ent.toNat
          (if lvl = 0 then ⟨0, 0, 0⟩ else ⟨lvl, d, s.x a + str.signExtend 64⟩))).issued g.sync)) ∧
      (s.my.c.tl ≠ 0 → exec (.loopn g a lvl cnt) s = ill ∧ exec (.lstride g d a lvl ent str) s = ill)) ∧
    (Issues64 s g ⟨[], [], [], []⟩ →
      (s.my.c.tl = 0 →
        exec (.loopbrk g) s = .next ((s.addEff .loopbrk).issued g.sync) ∧
        (s.me.loop.run = false → exec (.loopgo g len) s = .next ((s.addEff (.loopgo len.toNat)).issued g.sync)) ∧
        (s.me.loop.run = true → exec (.loopgo g len) s = ill)) ∧
      (s.my.c.tl ≠ 0 → exec (.loopbrk g) s = ill ∧ exec (.loopgo g len) s = ill))

/-- R246, R247, R251, R154: taking a trap at TL0 with TVEC.EN set: the block is discarded, and the unissued blocks of the task's other
streams, held or not (the model's reading, notes/assumptions/96.md);
CAUSE1, EPC1 and EVAL1 are written, TL becomes 1, the stream goes to the vector of the code, and the other streams stop. -/
def Rule.TrapEntry : Prop :=
  ∀ (s : State) (r : Ref) (code : Nat) (eval : W64) (deferred : Bool),
    let u := discardBlock s r
    let v := discardOthers u r
    let t := v.task r.core r.slot
    dueBefore (u.task r.core r.slot) r.eng = none → (u.task r.core r.slot).c.tl = 0 →
    t.c.tl = 0 → t.c.tvec.getLsbD 0 = true → t.c.snapctl.getLsbD 0 = false →
    let t' := (trapAt s r code eval deferred).task r.core r.slot
    t'.c.tl = 1 ∧
    t'.c.cause1 = BitVec.ofNat 64 (code + 2 ^ 8 * r.eng.idx.val + if deferred then 2 ^ 10 else 0) ∧
    t'.c.epc1 = (t.stm r.eng).pc &&& 0x0000_FFFF_FFFF_FFFF ∧ t'.c.eval1 = eval ∧
    (t'.stm r.eng).pc = (t.c.tvec &&& 0x0000_FFFF_FFFF_F000) + BitVec.ofNat 64 (64 * code) ∧
    (∀ e, e ≠ r.eng → (t'.stm e).stopped = true ∧ (t'.stm e).pc = (t.stm e).pc) ∧
    t'.trapEng = r.eng ∧
    (∀ e, (t'.stm e).x = (t.stm e).x ∧ (t'.stm e).p = (t.stm e).p) ∧
    (trapAt s r code eval deferred).mem = v.mem

/-- R247: the same at TL1 (notes/assumptions/96.md) in the stream whose trap that level serves, into the second bank. -/
def Rule.TrapEntryNested : Prop :=
  ∀ (s : State) (r : Ref) (code : Nat) (eval : W64) (deferred : Bool),
    let u := discardBlock s r
    let t := (discardOthers u r).task r.core r.slot
    (u.task r.core r.slot).c.tl = 1 → (u.task r.core r.slot).trapEng = r.eng →
    t.c.tl = 1 → t.c.tvec.getLsbD 0 = true → t.c.snapctl.getLsbD 0 = false →
    let t' := (trapAt s r code eval deferred).task r.core r.slot
    t'.c.tl = 2 ∧
    t'.c.cause2 = BitVec.ofNat 64 (code + 2 ^ 8 * r.eng.idx.val + if deferred then 2 ^ 10 else 0) ∧
    t'.c.epc2 = (t.stm r.eng).pc &&& 0x0000_FFFF_FFFF_FFFF ∧ t'.c.eval2 = eval ∧
    t'.c.cause1 = t.c.cause1 ∧ t'.c.epc1 = t.c.epc1 ∧ t'.c.eval1 = t.c.eval1 ∧
    (t'.stm r.eng).pc = (t.c.tvec &&& 0x0000_FFFF_FFFF_F000) + BitVec.ofNat 64 (64 * code)

/-- R246: a trap at TL2, or with TVEC.EN 0, kills the context with status 0x11. R250: a trap of a stream that another's trap has stopped
discards its block and is met again later; the trap of an earlier stream that is due as well is taken in its place. -/
def Rule.TrapKills : Prop :=
  ∀ (s : State) (r : Ref) (code : Nat) (eval : W64) (deferred : Bool),
    let u := discardBlock s r
    let w := u.task r.core r.slot
    let v := discardOthers u r
    let t := v.task r.core r.slot
    (dueBefore w r.eng = none → w.c.tl = 0 ∨ w.trapEng = r.eng → t.c.tl ≥ 2 ∨ t.c.tvec.getLsbD 0 = false →
      trapAt s r code eval deferred = kill v t.cid 0x11) ∧
    (w.c.tl ≠ 0 → w.trapEng ≠ r.eng → trapAt s r code eval deferred = u) ∧
    (∀ e d, dueBefore w r.eng = some (e, d) → trapAt s r code eval deferred =
      trapEntry (u.modSt ⟨r.core, r.slot, e⟩ fun st => { st with deferred := st.deferred.tail }) ⟨r.core, r.slot, e⟩ d.code d.eval true)

/-- Taking a trap at TL0 and TL1, and the kill of a trap at TL2 or without a vector: Rule.TrapEntry, Rule.TrapEntryNested, Rule.TrapKills.
-/
def Obligations.TrapEntries : Prop := Rule.TrapEntry ∧ Rule.TrapEntryNested ∧ Rule.TrapKills

/-- R249: a trap return resumes the stream at EPCn and lowers TL by one; at TL0 the other streams run again. Nothing else of the task
changes. -/
def Rule.TrapReturn : Prop :=
  ∀ (t : Task) (e : Eng), t.c.tl = 1 ∨ t.c.tl = 2 →
    let t' := trapReturn t e
    t'.c = { t.c with tl := t.c.tl - 1 } ∧
    (t'.stm e).pc = (if t.c.tl = 2 then t.c.epc2 else t.c.epc1) ∧
    (∀ g, (t'.stm g).x = (t.stm g).x ∧ (t'.stm g).p = (t.stm g).p ∧ (g ≠ e → (t'.stm g).pc = (t.stm g).pc)) ∧
    (∀ g, (t'.stm g).stopped = if t.c.tl = 1 then false else (t.stm g).stopped) ∧
    t'.v = t.v ∧ t'.acc = t.acc ∧ t'.s = t.s ∧ t'.h = t.h ∧ t'.e = t.e ∧ t'.q = t.q ∧ t'.tk = t.tk

/-- R248, R250, R268: at a block boundary at TL0 the first trap that waits is taken, its CAUSE marked as deferred; of several streams' that
are due that of the first in the order A, M, V, S. At TL1 and TL2 it goes on waiting. What deferredTrap answers. -/
def Rule.DeferredTrapTaken : Prop :=
  ∀ (s : State) (d : Deferred) (ds : List Deferred), s.blk = none → s.me.deferred = d :: ds → s.me.stopped = false → s.me.live = true →
    (s.my.c.tl ≠ 0 → exec .deferredTrap s = .next s) ∧
    (s.my.c.tl = 0 → dueBefore s.my s.cur.eng = none →
      exec .deferredTrap s = .next (trapAt (s.modMe fun st => { st with deferred := ds }) s.cur d.code d.eval true)) ∧
    (∀ e d', s.my.c.tl = 0 → dueBefore s.my s.cur.eng = some (e, d') →
      exec .deferredTrap s = .next (trapAt (s.modSt ⟨s.cur.core, s.cur.slot, e⟩ fun st => { st with deferred := st.deferred.tail })
        ⟨s.cur.core, s.cur.slot, e⟩ d'.code d'.eval true))

/-- Return from a trap, and the taking of a deferred trap at a block boundary: Rule.TrapReturn, Rule.DeferredTrapTaken. -/
def Obligations.TrapReturns : Prop := Rule.TrapReturn ∧ Rule.DeferredTrapTaken

/-- R322, R323, R325, R334, R335, R337, R328: the instructions that act at their block's commit issue with that effect standing there. -/
def Rule.CommitEffectResults : Prop :=
  (∀ (s : State) (f : Sync) (e : R5) (n : BitVec 16), Issues32 s f ⟨[], [], [], []⟩ →
    exec (.post f e n) s = .next ((s.addEff (.entry (sigEntry s (.post e.toNat n.toNat)))).issued f) ∧
    exec (.mark f n) s = .next ((s.addEff (.cmd (newCmd s (.mark n)))).issued f)) ∧
  (∀ (s : State) (g : Guard) (a : R5) (mask : BitVec 4) (num : BitVec 10) (imm : BitVec 14), Issues64 s g ⟨[a], [], [], [a]⟩ →
    exec (.rdvset g a mask num) s = .next ((s.addEff (.csr 0x031
      (0#43 ++ 1#1 ++ mask ++ ((s.x a).extractLsb' 0 16 + num.zeroExtend 16)))).issued g.sync) ∧
    exec (.evsig g a imm) s =
      .next ((s.addEff (.entry (sigEntry s (.evsig (((s.x a).toNat + imm.toNat) % 65536))))).issued g.sync)) ∧
  (∀ (s : State) (g : Guard), Issues64 s g ⟨[], [], [], []⟩ →
    exec (.mclr g) s = .next ((s.addEff .mclr).issued g.sync) ∧
    exec (.yield g) s = .next ((s.addEff .yield).issued g.sync) ∧
    (s.my.abgrp ≠ 0 → exec (.abort g) s = .next ((s.addEff .abort).issued g.sync)) ∧
    (s.my.abgrp = 0 → exec (.abort g) s = .next (trapAt s s.cur 0x01 0 false)))

/-- R334: joindec of a key whose reserved bits are zero, and which names a node of the task's own graph or a plain task, stands for
the commit; any other key, with a reserved bit set, of a node in a task that is none, or of a node beyond NNODE, traps ILLOP with it. -/
def Rule.JoindecResults : Prop :=
  ∀ (s : State) (g : Guard) (a : R5), Issues64 s g ⟨[a], [], [], [a]⟩ →
    let k := s.x a
    (k.extractLsb' 39 24 = 0 → (k.getLsbD 63 = true → s.my.isNode = true ∧ (k.extractLsb' 0 16).toNat < nnode s s.my) →
      exec (.joindec g a) s = .next ((s.addEff (.entry (sigEntry s (.joindec k)))).issued g.sync)) ∧
    (k.extractLsb' 39 24 ≠ 0 ∨ (k.getLsbD 63 = true ∧ (s.my.isNode = false ∨ nnode s s.my ≤ (k.extractLsb' 0 16).toNat)) →
      exec (.joindec g a) s = .next (trapAt s s.cur 0x01 k false))

/-- Instructions whose effect is listed at issue and made at the block's commit: Rule.CommitEffectResults, Rule.JoindecResults. -/
def Obligations.CommitEffects : Prop := Rule.CommitEffectResults ∧ Rule.JoindecResults

/-- R322: await holds until its counter is at least n, and then takes n of it, to be given back should the block be discarded. -/
def Rule.AwaitTakes : Prop :=
  ∀ (s : State) (f : Sync) (e : R5) (n : BitVec 16) (he : e.toNat < 16), Issues32 s f ⟨[], [], [], []⟩ →
    (n.toNat ≤ s.my.e[e.toNat] →
      exec (.await f e n) s = .next ((((s.modMy fun t => { t with e := t.e.set e.toNat (s.my.e[e.toNat] - n.toNat) }).modBlk fun b =>
        { b with taken := b.taken ++ [.event e.toNat n.toNat] }).acquire .core).issued f)) ∧
    (s.my.e[e.toNat] < n.toNat → exec (.await f e n) s = .next (s.held .event))

/-- R334, R94, R95, R96: evwait takes one count of its event and goes on, to be signalled again should the block be discarded. With no
count its stream joins the waiters of the event, in the overflow area once its die's event table is full; with no slot free there it waits
in its instruction and FULL of its tenant's function is set (whose area, what waits and when FULL is set are the model's reading,
notes/assumptions/95.md and 47.md). No other event changes. -/
def Rule.EventWait : Prop :=
  ∀ (s : State) (g : Guard) (a : R5) (imm : BitVec 14), Issues64 s g ⟨[a], [], [], [a]⟩ →
    (∀ b, s.blk = some b → b.evRel = false) →
    let name := ((s.x a).toNat + imm.toNat) % 65536
    let w : Waiter := .stream s.cur s.my.tid
    let named (e : Event) : Bool := e.cid == s.my.cid && e.name == name
    let put (o : Option Event) : State := { s with events := s.events.filterMap fun x => if named x then o else some x }
    (∀ e, s.events.find? named = some e → isWaiter s s.my.cid name w = false →
      (0 < e.count → e.hw = [] → e.ovf = [] →
        exec (.evwait g a imm) s = .next ((((put (if e.count = 1 then none else some { e with count := e.count - 1 })).modBlk fun b =>
          { b with taken := b.taken ++ [.evwait name] }).acquire .package).issued g.sync)) ∧
      (e.count = 0 → e.spilt = false → e.hw.length < 4 →
        exec (.evwait g a imm) s = .next ((put (some { e with hw := e.hw ++ [w] })).held .event)) ∧
      (e.count = 0 → e.spilt = true ∨ 4 ≤ e.hw.length → slotFree s s.my.cid = true →
        exec (.evwait g a imm) s = .next ((put (some { e with ovf := e.ovf ++ [w] })).held .event)) ∧
      (e.count = 0 → e.spilt = true ∨ 4 ≤ e.hw.length → slotFree s s.my.cid = false →
        exec (.evwait g a imm) s = .next ((armFull s s.my.cid).held .event))) ∧
    (s.events.find? named = none → tableFull s name = false → exec (.evwait g a imm) s = .next
      (({ s with events := s.events ++ [⟨s.my.cid, name, 0, [w], [], false⟩] } : State).held .event)) ∧
    (s.events.find? named = none → tableFull s name = true → slotFree s s.my.cid = true → exec (.evwait g a imm) s = .next
      (({ s with events := s.events ++ [⟨s.my.cid, name, 0, [], [w], true⟩] } : State).held .event)) ∧
    (s.events.find? named = none → tableFull s name = true → slotFree s s.my.cid = false → exec (.evwait g a imm) s = .next
      ((armFull s s.my.cid).held .event))

/-- await and evwait take what they wait for, or hold: Rule.AwaitTakes, Rule.EventWait. -/
def Obligations.AwaitAndEventWait : Prop := Rule.AwaitTakes ∧ Rule.EventWait

/-- R139: rdvwait passes once the rendezvous has fired; with ARM clear it traps HSTALL with EVAL 0x200. -/
def Rule.RendezvousWait : Prop :=
  ∀ (s : State) (g : Guard), Issues64 s g ⟨[], [], [], []⟩ →
    (s.view.c.rdv.getLsbD 21 = true → exec (.rdvwait g) s = .next ((s.acquire .core).issued g.sync)) ∧
    (s.view.c.rdv.getLsbD 21 = false → s.view.c.rdv.getLsbD 20 = false →
      exec (.rdvwait g) s = .next (trapAt s s.cur 0x0E 0x200 false)) ∧
    (s.view.c.rdv.getLsbD 21 = false → s.view.c.rdv.getLsbD 20 = true →
      (∃ e : Eng, s.view.c.rdv.getLsbD (16 + e.idx.val) = true ∧ s.view.rdvArr.getLsbD e.idx.val = false ∧ (s.my.stm e).live = true) →
      exec (.rdvwait g) s = .next (s.held .rendezvous))

/-- R148: dsync at level 0 passes once what the stream entered before it is performed, and at TL1 and TL2 is ILLOP. At level 1 the
members are the task's live streams; at levels 2 to 4 the cores that DOM names, and a core that is none traps ILLOP with DOM. -/
def Rule.DsyncResults : Prop :=
  ∀ (s : State) (f : Sync) (n : BitVec 16), Issues32 s f ⟨[], [], [], []⟩ →
    (s.my.c.tl ≠ 0 → exec (.dsync f n) s = .next (trapAt s s.cur 0x01 (n.zeroExtend 64) false)) ∧
    (s.my.c.tl = 0 → n = 0 →
      (before s s.my.tid s.uid (some s.cur.eng) = false → exec (.dsync f n) s = .next ((s.acquire .core).issued f)) ∧
      (before s s.my.tid s.uid (some s.cur.eng) = true → exec (.dsync f n) s = .next (s.held .dsync))) ∧
    (s.my.c.tl = 0 → 2 ≤ n.toNat → s.cur.core ∉ domCores s.view.c.dom s.cur.core n.toNat →
      exec (.dsync f n) s = .next (trapAt s s.cur 0x01 s.view.c.dom false))

/-- R147, R148: a member's dsync at levels 1 to 4. The first of a phase arrives and waits; a later one arrives and waits, and traps ILLOP
with its DOM, recorded all the same, where at levels 2 to 4 that differs from the first's. One that has arrived waits until the phase is
complete, and then passes with PH of its level inverted; the last to pass ends the phase. What has passed is noted, for a block that is
discarded. -/
def Rule.DsyncPhases : Prop :=
  ∀ (s : State) (f : Sync) (n : BitVec 16) (ps qs : List Phase), Issues32 s f ⟨[], [], [], []⟩ → s.my.c.tl = 0 →
    let lvl := n.toNat
    let core := s.cur.core
    let dom := s.view.c.dom
    let members := if lvl = 1 then (Eng.all.filter fun e => (s.my.stm e).live).map fun e => e.idx.val else domCores dom core lvl
    let me := if lvl = 1 then s.cur.eng.idx.val else core
    let id := if lvl = 1 then 16 + s.my.tid
      else (dom.extractLsb' 36 4).toNat + 2 ^ 32 * (if lvl = 2 then eightOf core else if lvl = 3 then dieOf core else 0)
    let sc : Scope := if lvl = 1 then .core else if lvl = 2 then .eight else if lvl = 3 then .die else .package
    let same (p : Phase) : Prop := p.cid = s.my.cid ∧ p.id = id ∧ p.lvl = lvl
    let differs (p : Phase) : Prop := 2 ≤ lvl ∧ p.dom ≠ dom &&& 0xFF_FFFF_FFFF
    1 ≤ lvl → lvl ≤ 4 → lvl = 1 ∨ core ∈ members → (∀ p ∈ ps ++ qs, ¬ same p) →
    (s.phases = ps → exec (.dsync f n) s = .next (({ s with
      uid := s.uid + 1
      phases := ps ++ [(⟨s.my.cid, id, lvl, dom &&& 0xFF_FFFF_FFFF, [(me, s.my.tid, s.uid)], []⟩ : Phase)] } : State).held .dsync)) ∧
    (∀ p, same p → s.phases = ps ++ p :: qs → p.passed = [] → (∀ a ∈ p.arrived, a.1 ≠ me) →
      let p' : Phase := { p with arrived := p.arrived ++ [(me, s.my.tid, s.uid)] }
      let u : State := { s with uid := s.uid + 1, phases := ps ++ p' :: qs }
      (¬ differs p → exec (.dsync f n) s = .next (u.held .dsync)) ∧
      (differs p → exec (.dsync f n) s = .next (trapAt u s.cur 0x01 dom false))) ∧
    (∀ p, same p → s.phases = ps ++ p :: qs → (∃ a ∈ p.arrived, a.1 = me) → me ∉ p.passed →
      let p' : Phase := { p with passed := me :: p.passed }
      let flip (t : Task) : Task := if 2 ≤ lvl then { t with c := { t.c with dom := t.c.dom ^^^ ((1 : W64) <<< (38 + lvl)) } } else t
      (differs p → exec (.dsync f n) s = .next (trapAt s s.cur 0x01 dom false)) ∧
      (¬ differs p → phaseDone s p members = false → p.passed = [] →
        exec (.dsync f n) s = .next (({ s with uid := s.uid + 1 } : State).held .dsync)) ∧
      (¬ differs p → phaseDone s p members = true ∨ p.passed ≠ [] →
        exec (.dsync f n) s = .next ((((({ s with
          phases := ps ++ (if p.arrived.length ≤ p.passed.length + 1 then [] else [p']) ++ qs } : State).modMy flip).modBlk fun b =>
            { b with taken := b.taken ++ [.dsync p' me] }).acquire sc).issued f)))

/-- rdvwait and dsync at every level: when they arrive, pass, hold and trap: Rule.RendezvousWait, Rule.DsyncResults, Rule.DsyncPhases. -/
def Obligations.RendezvousAndDsync : Prop := Rule.RendezvousWait ∧ Rule.DsyncResults ∧ Rule.DsyncPhases

/-- R140, R328, R127: mon watches the 256-byte line of its address from its issue on, its block having armed anew, over an mclr that
stands earlier in the block; one outside .g, .k and .d traps PROT, and one whose address fails a check takes its trap. mclr stands for the
commit. -/
def Rule.MonitorSets : Prop :=
  (∀ (s : State) (g : Guard) (a : R5) (sp3 : BitVec 3) (off : BitVec 14), Issues64 s g ⟨[a], [], [], [a]⟩ →
    let ad := (s.x a + off.signExtend 64).toNat
    (∀ sp, monSpace sp3 = some sp → checkAddr s s.cur s.my.cid sp ad 1 false = none →
      exec (.mon g a sp3 off) s =
        .next ((s.modMe fun st => { st with
          mon := some ⟨sp, monLine s s.cur sp ad, false⟩
          blk := st.blk.map fun b => { b with armed := true, effs := b.effs.filter (· != .mclr) } }).issued g.sync)) ∧
    (∀ sp c v, monSpace sp3 = some sp → checkAddr s s.cur s.my.cid sp ad 1 false = some (c, v) →
      exec (.mon g a sp3 off) s = .next (trapAt s s.cur c v false)) ∧
    (sp3 ≠ 0 → sp3 ≠ 2 → sp3 ≠ 3 → exec (.mon g a sp3 off) s = .next (trapAt s s.cur 0x07 (BitVec.ofNat 64 ad) false))) ∧
  (∀ (s : State) (g : Guard), Issues64 s g ⟨[], [], [], []⟩ → exec (.mclr g) s = .next ((s.addEff .mclr).issued g.sync))

/-- R141: mwait wakes with 3 with no monitor set, with 1 once it has triggered, with 2 at a time of 0 cycles; the monitor is then
cleared. Otherwise it is held. -/
def Rule.MonitorWait : Prop :=
  ∀ (s : State) (g : Guard) (d a : R5), Issues64 s g ⟨[d, a], [], [], [a]⟩ →
    let woke (c : W64) : State := ((s.setX d c).modMe fun st =>
      { st with mon := none, blk := st.blk.map fun b => { b with began := none, timeout := false } }).issued g.sync
    (s.me.mon = none → exec (.mwait g d a) s = .next (woke 3)) ∧
    (∀ m, s.me.mon = some m → m.trig = true → exec (.mwait g d a) s = .next (woke 1)) ∧
    (∀ m, s.me.mon = some m → m.trig = false → s.x a = 0 → exec (.mwait g d a) s = .next (woke 2)) ∧
    (∀ m b, s.me.mon = some m → m.trig = false → s.x a ≠ 0 → s.blk = some b → b.timeout = false →
      exec (.mwait g d a) s = .next ((s.modBlk fun b => { b with began := some (b.began.getD s.cycle) }).held .monitor))

/-- R141: a held mwait whose x[a] cycles have passed is marked to wake with code 2; before that nothing changes. What mwaitTimeout
answers. -/
def Rule.MonitorTimeout : Prop :=
  ∀ (s : State) (r : Ref) (b : Block) (c0 : Nat), (s.stm r).blk = some b → (s.stm r).hold = .monitor → b.began = some c0 →
    let a : R5 := (b.words.headD 0).extractLsb' 11 5
    (((s.stm r).rx a).toNat ≤ s.cycle - c0 →
      exec (.mwaitTimeout r) s = .next (s.modSt r fun st => { st with blk := some { b with timeout := true } })) ∧
    (s.cycle - c0 < ((s.stm r).rx a).toNat → exec (.mwaitTimeout r) s = .next s)

/-- mon, mclr, mwait and the time-out of mwait: Rule.MonitorSets, Rule.MonitorWait, Rule.MonitorTimeout. -/
def Obligations.Monitors : Prop := Rule.MonitorSets ∧ Rule.MonitorWait ∧ Rule.MonitorTimeout

/-- R332: spawn and spawnr read their record at issue as a strong load of 64 bytes, and their entry enters at the commit and acts as it is
performed (the model's reading, notes/assumptions/38.md); a record that is not 64-byte aligned traps ALIGN. As the read returns, a record that is refused traps ILLOP with its address, a spawnr of a task that has 16
implicit successors traps ILLOP 17, and any other traps nothing. -/
def Rule.SpawnResults : Prop :=
  (∀ (s : State) (g : Guard) (d a : R5), Issues64 s g ⟨[d, a], [], [], [a]⟩ →
    let sent (r : Bool) : State := ((s.load 1 .strong .core .g 0 (s.x a).toNat 64 (.spawn r d (s.x a))).addEff
      (.entry { sigEntry s (.spawn r 0 d) with uid := s.uid })).issued g.sync
    ((s.x a).extractLsb' 0 6 = 0 → checkAddr s s.cur s.my.cid .g (s.x a).toNat 64 false = none →
      exec (.spawn g d a) s = .next (sent false) ∧
      exec (.spawnr g d a) s = .next (sent true)) ∧
    ((s.x a).extractLsb' 0 6 ≠ 0 → ∀ i ∈ [Instr.spawn g d a, .spawnr g d a],
      exec i s = .next (trapAt s s.cur 0x05 (s.x a) false))) ∧
  (∀ (s u : State) (uid : Nat) (e : Entry) (r : Bool) (d : R5) (a : W64) (bs : List Byte) (ex : Bool), entryOf s uid = some e →
    eligible s e = true → e.acc = .load (.spawn r d a) → e.sp = .g → e.ord = .strong →
    gRead e.who e.addr e.n .rd s = .ok (bs, ex, false) u →
    let refused := spawnRefused (u.task e.r.core e.r.slot) r (BitVec.ofNat 512 (leNat (patch bs e.ovl)))
    let z := u.dropEntry e
    (refused = true → exec (.memPerform uid) s = .next (trapAt z e.r 0x01 a false)) ∧
    (refused = false → r = true → 16 ≤ successorsBefore z e → exec (.memPerform uid) s = .next (trapAt z e.r 0x01 17 false)) ∧
    (refused = false → (r = true → successorsBefore z e < 16) → ∃ t, exec (.memPerform uid) s = .next t ∧
      (t.task e.r.core e.r.slot).c = (u.task e.r.core e.r.slot).c ∧ (t.stm e.r).x = (u.stm e.r).x ∧ t.paths = z.paths))

/-- R330, R337, R117: the reads of the task's own key, of its abort line and of its stage counters write x[d]. -/
def Rule.TaskReads : Prop :=
  ∀ (s : State) (g : Guard) (d : R5) (imm : BitVec 14), Issues64 s g ⟨[d], [], [], []⟩ →
    exec (.tself g d) s = .next ((s.setX d (if s.my.isNode then 1#1 ++ BitVec.ofNat 63 s.my.node
      else BitVec.ofNat 64 (s.my.seq.toNat + 2 ^ 32 * s.my.stream))).issued g.sync) ∧
    exec (.abrd g d) s = .next ((s.setX d (if abortRaised s s.cur.core s.my then 1 else 0)).issued g.sync) ∧
    (s.my.staged = true → exec (.stgrd g d imm) s = .next ((s.setX d (BitVec.ofNat 64
      (((if imm = 0 then stageC s s.my s.my.c.iter.toNat else stageLeft s s.my s.my.c.iter.toNat)).getD 0xFFFF))).issued g.sync)) ∧
    (s.my.staged = false → exec (.stgrd g d imm) s = .next (trapAt s s.cur 0x11 0 false))

/-- spawn, spawnr, tself, abrd and stgrd: Rule.SpawnResults, Rule.TaskReads. -/
def Obligations.SpawnAndTaskReads : Prop := Rule.SpawnResults ∧ Rule.TaskReads

/-- R117, R118: in a staged task stgadv and stgjmp stand for the commit with the value they give the counter, a jump below the counter
traps STAGEERR, and waitl passes, an acquire, at the first instance, for a value of 0, or once the counter to its left is high enough; in
any other task they trap STAGEERR with EVAL 0. -/
def Rule.StageResults : Prop :=
  ∀ (s : State) (g : Guard) (a : R5) (imm : BitVec 14), Issues64 s g ⟨[a], [], [], [a]⟩ →
    let v := (s.x a + imm.zeroExtend 64).toNat
    let i := s.my.c.iter.toNat
    (s.my.staged = false → ∀ k ∈ [Instr.stgadv g a imm, .stgjmp g a imm, .waitl g a imm],
      exec k s = .next (trapAt s s.cur 0x11 0 false)) ∧
    (s.my.staged = true →
      exec (.stgadv g a imm) s = .next ((s.addEff (.stage 0 ((stageC s s.my i).getD 0 + v))).issued g.sync) ∧
      ((∀ c, stageC s s.my i = some c → c ≤ v) → exec (.stgjmp g a imm) s = .next ((s.addEff (.stage 1 v)).issued g.sync)) ∧
      (∀ c, stageC s s.my i = some c → v < c →
        exec (.stgjmp g a imm) s = .next (trapAt s s.cur 0x11 (BitVec.ofNat 64 v) false)) ∧
      (∀ c, i ≠ s.my.ilo → v ≠ 0 → stageLeft s s.my i = some c → c < v → exec (.waitl g a imm) s = .next (s.held .stage)) ∧
      (i = s.my.ilo ∨ v = 0 ∨ (∀ c, stageLeft s s.my i = some c → v ≤ c) → exec (.waitl g a imm) s =
        .next ((s.acquire (leftScope s s.my i)).issued g.sync)))

/-- R150, R337: a raised line sampled by abchk ends the task; otherwise it passes. -/
def Rule.AbortSample : Prop :=
  ∀ (s : State) (g : Guard), Issues64 s g ⟨[], [], [], []⟩ →
    ((s.my.c.tl ≠ 0 ∨ abortRaised s s.cur.core s.my = false) → exec (.abchk g) s = .next (s.issued g.sync)) ∧
    (s.my.c.tl = 0 → abortRaised s s.cur.core s.my = true →
      exec (.abchk g) s = .next (abortTask s s.cur.core s.cur.slot) ∧
      ((abortTask s s.cur.core s.cur.slot).task s.cur.core s.cur.slot).aborted = true ∧
      ∀ e, (((abortTask s s.cur.core s.cur.slot).task s.cur.core s.cur.slot).stm e).live = false)

/-- R338, R263: segb reads its entry, 16-byte aligned, at issue; sege of a segment whose count and CRC match ends it at the commit;
outside a segment, or at TL1 and TL2, ILLOP. -/
def Rule.SegmentResults : Prop :=
  (∀ (s : State) (g : Guard) (a : R5) (off : BitVec 14), Issues64 s g ⟨[a], [], [], [a]⟩ →
    let ad := s.x a + off.signExtend 64
    (s.my.c.tl = 0 → s.me.seg = none → ad.extractLsb' 0 4 = 0 → checkAddr s s.cur s.my.cid .g ad.toNat 16 false = none →
      exec (.segb g a off) s = .next (((s.load 1 .strong .core .g 0 ad.toNat 16 .segb).addEff (.segb s.uid 0)).issued g.sync)) ∧
    (s.my.c.tl = 0 → s.me.seg = none → ad.extractLsb' 0 4 ≠ 0 → exec (.segb g a off) s = .next (trapAt s s.cur 0x05 ad false)) ∧
    (s.my.c.tl ≠ 0 ∨ s.me.seg.isSome = true →
      exec (.segb g a off) s = .next (trapAt s s.cur 0x01 (s.headWord.zeroExtend 64) false))) ∧
  (∀ (s : State) (g : Guard), Issues64 s g ⟨[], [], [], []⟩ →
    (∀ sg, s.my.c.tl = 0 → s.me.seg = some sg → sg.count = sg.ent.extractLsb' 0 32 → sg.crc ^^^ 0xFFFFFFFF = sg.ent.extractLsb' 32 32 →
      exec (.sege g) s = .next ((s.addEff .sege).issued g.sync)) ∧
    (s.my.c.tl ≠ 0 ∨ s.me.seg = none → exec (.sege g) s = .next (trapAt s s.cur 0x01 (s.headWord.zeroExtend 64) false)))

/-- Stage instructions, the abort sample, and segments: Rule.StageResults, Rule.AbortSample, Rule.SegmentResults. -/
def Obligations.StagesAbortsSegments : Prop := Rule.StageResults ∧ Rule.AbortSample ∧ Rule.SegmentResults

/-- R128, R311, R312: every exit issues and stands for the end of its block; call writes x31 and return reads it. -/
def Rule.ExitResults : Prop :=
  ∀ (s : State) (f : Sync) (pred : R5) (disp : BitVec 14),
    let uses (xs rs : List R5) : Uses := ⟨xs, if pred = 31 then [] else [pred], [], rs⟩
    let out (kind : BitVec 2) (disp : BitVec 14) : State :=
      (s.modBlk fun b => { b with exits := b.exits ++ [(pred, kind, disp, s.headWord)] }).issued f
    (Issues32 s f (uses [] []) →
      exec (.jump f pred disp) s = .next (out 0 disp) ∧ exec (.done f pred) s = .next (out 3 0)) ∧
    (Issues32 s f (uses [31] []) → exec (.call f pred disp) s = .next (out 1 disp)) ∧
    (Issues32 s f (uses [31] [31]) → exec (.ret f pred) s = .next (out 2 0))

/-- R128, R129: a block of jumps, calls and returns alone, its instructions issued and its loads returned, commits by its one true exit: a
jump goes to the header plus its displacement in words, a call also writes x31 the address after the block, a return goes to x31, and done
retires the stream. What blockCommit answers. -/
def Rule.BlockCommits : Prop :=
  ∀ (s : State) (b : Block) (e : R5 × BitVec 2 × BitVec 14 × W32),
    s.blk = some b → b.words = [] → b.effs = [] → trueExits s.me b = [e] → s.me.seg = none → s.me.loop.run = false → s.me.deferred = [] →
    (s.paths.any fun x => x.tid == s.my.tid && x.r.eng == s.cur.eng && x.inBlock) = false → s.me.cq.length ≤ 16 →
    PredsClean s (b.exits.map (·.1)) →
    (e.2.1 = 2 → (s.me.rx 31).extractLsb' 0 2 = 0) →
    ∃ t, exec .blockCommit s = .next t ∧ t.blk = none ∧
      t.me.pc = (if e.2.1 = 3 then s.me.pc else if e.2.1 = 2 then s.x 31 else b.hdr + e.2.2.1.signExtend 64 * 4) ∧
      t.me.live = (if e.2.1 = 3 then false else s.me.live) ∧
      (∀ a, t.x a = if e.2.1 = 1 ∧ a = 31 then b.hdr + BitVec.ofNat 64 (4 * b.size) else s.x a) ∧
      (∀ a, t.p a = s.p a) ∧ t.mem = s.mem ∧ t.my.c = s.my.c ∧ t.my.v = s.my.v

/-- R128: with none or more than one of its exits true, a block whose instructions have issued traps EXITERR with their number. What
blockCommit answers. -/
def Rule.ExitErrors : Prop :=
  ∀ (s : State) (b : Block), s.blk = some b → b.words = [] →
    (s.paths.any fun x => x.tid == s.my.tid && x.r.eng == s.cur.eng && x.inBlock) = false →
    PredsClean s (b.exits.map (·.1)) → (trueExits s.me b).length ≠ 1 →
    exec .blockCommit s = .next (trapAt s s.cur 0x04 (BitVec.ofNat 64 (trueExits s.me b).length) false)

/-- Exits, the commit of a block, and exits of which not exactly one holds: Rule.ExitResults, Rule.BlockCommits, Rule.ExitErrors. -/
def Obligations.ExitsAndCommit : Prop := Rule.ExitResults ∧ Rule.BlockCommits ∧ Rule.ExitErrors

/-- R125, R133: a fetched block whose encodings stand, whose line is not raised and whose tokens are there, opens: its size and words
are the fetched ones, its registers before it are kept for a discard, and its tokens are taken. -/
def Rule.BlockOpens : Prop :=
  ∀ (s : State) (f : Sync) (ni : BitVec 5) (nx : BitVec 2) (ac : Bool) (ws : List W32),
    s.blk = none → s.me.fetched = some ws → s.my.live = true → s.me.live = true → s.me.stopped = false →
    ((s.my.c.tl ≠ 0 ∨ abortRaised s s.cur.core s.my = false) ∨ (s.me.first = false ∧ ac = false)) →
    s.me.illegal = none → (s.my.c.tl ≠ 0 ∨ straddles s.me.loop s.me.pc ws.length = false) →
    (∀ k ∈ waitToks s.cur.eng f, s.my.tok k ≠ 0) →
    exec (.blockHeader f ni nx ac) s = .next (openBlock s f ws) ∧
    ∃ b, (openBlock s f ws).blk = some b ∧ b.hdr = s.me.pc ∧ b.size = ws.length ∧ b.words = ws.tail ∧ b.x0 = s.me.x ∧ b.p0 = s.me.p

/-- R126, R145, R135, R150, R154: a block with a bad encoding traps ILLOP with that word, one that straddles a loop body's end with its
header, one whose wait can never end HSTALL; only then a raised line ends the task. -/
def Rule.BlockHeaderStops : Prop :=
  ∀ (s : State) (f : Sync) (ni : BitVec 5) (nx : BitVec 2) (ac : Bool) (ws : List W32),
    s.blk = none → s.me.fetched = some ws → s.my.live = true → s.me.live = true → s.me.stopped = false →
    let dead (k : Nat) : Bool := s.my.tok k == 0 && (!(s.my.stm (tokSender k)).live &&
      !s.paths.any fun x => x.tid == s.my.tid && x.acc == .token k)
    (∀ ev, s.me.illegal = some ev → exec (.blockHeader f ni nx ac) s = .next (trapAt s s.cur 0x01 ev false)) ∧
    (s.me.illegal = none → s.my.c.tl = 0 → straddles s.me.loop s.me.pc ws.length = true →
      exec (.blockHeader f ni nx ac) s = .next (trapAt s s.cur 0x01 ((ws.headD 0).zeroExtend 64) false)) ∧
    (s.me.illegal = none → s.my.c.tl ≠ 0 ∨ straddles s.me.loop s.me.pc ws.length = false →
      (∀ k, (waitToks s.cur.eng f).find? dead = some k →
        exec (.blockHeader f ni nx ac) s = .next (trapAt s s.cur 0x0E (BitVec.ofNat 64 (0x100 + k)) false)) ∧
      (s.my.c.tl = 0 → abortRaised s s.cur.core s.my = true → (s.me.first = true ∨ ac = true) →
        (waitToks s.cur.eng f).find? dead = none →
        exec (.blockHeader f ni nx ac) s = .next (abortTask s s.cur.core s.cur.slot)))

/-- A block header opens its block, or stops where its rule says so: Rule.BlockOpens, Rule.BlockHeaderStops. -/
def Obligations.BlockHeaders : Prop := Rule.BlockOpens ∧ Rule.BlockHeaderStops

/-- R130, R334: a discarded block leaves the stream's registers, and the vector registers of a V stream, as they were before it; the pc is
that of its header, the block is gone, and no byte of memory differs. The tokens and event counts it took are back in their counters, the
queue values it took are back at the front of their queues in order, and each count its evwait took is signalled again. Of the control
registers DOM alone may change, by the phases of a dsync that it had passed. -/
def Obligations.DiscardRestores : Prop :=
  ∀ (s : State) (r : Ref) (b : Block), (s.stm r).blk = some b →
    let t := discard s r
    let t0 := s.task r.core r.slot
    let t1 := t.task r.core r.slot
    (t.stm r).x = b.x0 ∧ (t.stm r).p = b.p0 ∧ (t.stm r).pc = b.hdr ∧ (t.stm r).blk = none ∧
    t1.v = (if r.eng = .v then b.v0 else t0.v) ∧ t.mem = s.mem ∧
    t0.c = { t1.c with dom := t0.c.dom } ∧ ((∀ p me, Taken.dsync p me ∉ b.taken) → t1.c = t0.c) ∧
    (∀ k (h : k < 8), t1.tk[k] = t0.tk[k] + b.taken.count (.token k) ∧
      t1.q[k] = (b.taken.filterMap fun | .queue q v => if q = k then some v else none | _ => none) ++ t0.q[k]) ∧
    (∀ k (h : k < 16), t1.e[k] = t0.e[k] + (b.taken.map fun | .event e n => if e = k then n else 0 | _ => 0).sum) ∧
    discardBlock s r = (b.taken.filterMap fun | .evwait n => some n | _ => none).foldl (fun s n => signalEvent s t0.cid n) t ∧
    (∀ e ∈ t.paths, e ∈ s.paths ∧ ¬ (e.tid = t0.tid ∧ e.r.eng = r.eng ∧ e.inBlock = true))

/-- R349, R350: a load whose address passes its checks issues and its access enters a path; the value is written when it is performed.
A failed check traps, the alignment check after the others. -/
def Rule.LoadIssues : Prop :=
  ∀ (s : State) (g : Guard) (sp : Space) (w : BitVec 3) (o : Order) (sc : Scope) (d a : R5) (off : BitVec 14),
    Issues64 s g ⟨[d, a], [], [], [a]⟩ →
    let ad := s.x a + off.signExtend 64
    let chk := checkAddr s s.cur s.my.cid sp ad.toNat (widthOf w) false
    (chk = none → ad.toNat % widthOf w = 0 → exec (.ld g sp w o sc d a off) s =
      .next ((s.load (if o = .weak then 0 else 1) o sc sp 0 ad.toNat (widthOf w) (.x d w)).issued g.sync)) ∧
    (chk = none → ad.toNat % widthOf w ≠ 0 → exec (.ld g sp w o sc d a off) s = .next (trapAt s s.cur 0x05 ad false)) ∧
    (∀ c v, chk = some (c, v) → exec (.ld g sp w o sc d a off) s = .next (trapAt s s.cur c v false))

/-- R349, R351, R352: at TL0, and for local addresses at any level, a store or an atomic whose address passes its checks issues, and its
access, holding the registers' values at issue, enters a path at the commit. -/
def Rule.StoreIssues : Prop :=
  (∀ (s : State) (g : Guard) (sp : Space) (w : BitVec 3) (o : Order) (sc : Scope) (a b : R5) (off : BitVec 14),
    Issues64 s g ⟨[a, b], [], [], [a, b]⟩ →
    let ad := s.x a + off.signExtend 64
    checkAddr s s.cur s.my.cid sp ad.toNat (widthOf w) false = none → ad.toNat % widthOf w = 0 → (s.my.c.tl = 0 ∨ sp ≠ .g) →
    exec (.st g sp w o sc a b off) s = .next ((s.addEff (.entry (mkEntry s (if o = .weak then 0 else 1) o sc sp 0 ad.toNat (widthOf w)
      (.store (toBytes (widthOf w) (s.x b).toNat))))).issued g.sync)) ∧
  (∀ (s : State) (g : Guard) (w64 : Bool) (sp : Space) (o : Order) (sc : Scope) (d a b : R5) (off : BitVec 11),
    let n := if w64 then 8 else 4
    let ad := s.x a + off.signExtend 64
    checkAddr s s.cur s.my.cid sp ad.toNat n false = none → ad.toNat % n = 0 → (s.my.c.tl = 0 ∨ sp ≠ .g ∨ d ≠ 0) →
    let out (op : AmoOp) : State :=
      (s.addEff (.entry (mkEntry s 1 o sc sp 0 ad.toNat n (.amo op w64 (s.x b) (s.x d) d)))).issued g.sync
    (Issues64 s g ⟨[d, a, b], [], [], [a, b]⟩ →
    exec (.amoAdd g w64 sp o sc d a b off) s = .next (out .add) ∧
    exec (.amoAnd g w64 sp o sc d a b off) s = .next (out .and) ∧
    exec (.amoOr g w64 sp o sc d a b off) s = .next (out .or) ∧
    exec (.amoXor g w64 sp o sc d a b off) s = .next (out .xor) ∧
    exec (.amoMinS g w64 sp o sc d a b off) s = .next (out .minS) ∧
    exec (.amoMinN g w64 sp o sc d a b off) s = .next (out .minN) ∧
    exec (.amoMaxS g w64 sp o sc d a b off) s = .next (out .maxS) ∧
    exec (.amoMaxN g w64 sp o sc d a b off) s = .next (out .maxN) ∧
    exec (.amoSwap g w64 sp o sc d a b off) s = .next (out .swap)) ∧
    (Issues64 s g ⟨[d, a, b], [], [], [d, a, b]⟩ → exec (.amoCas g w64 sp o sc d a b off) s = .next (out .cas)))

/-- R192, R354, R355: fence and xfence stand for the commit; ptfence passes in an MGMT context once the stream's stores are performed,
and the walkers of the dies in its scope read them from then on; tlbinv invalidates there at issue; outside one both trap PRIV with the head word. -/
def Rule.FenceResults : Prop :=
  (∀ (s : State) (g : Guard) (sc : Scope) (src dst : BitVec 6), Issues64 s g ⟨[], [], [], []⟩ →
    exec (.fence g sc) s = .next ((s.addEff (.entry (sigEntry s (.fence sc)))).issued g.sync) ∧
    exec (.xfence g src dst) s = .next ((s.addEff (.entry (sigEntry s (.xfence src dst)))).issued g.sync) ∧
    (ctxMgmt s (dieOf s.cur.core) s.my.cid = true → storesOut s = false → exec (.ptfence g sc) s = .next ((s.showStores sc).issued g.sync)) ∧
    (ctxMgmt s (dieOf s.cur.core) s.my.cid = true → storesOut s = true → exec (.ptfence g sc) s = .next (s.held .memory)) ∧
    (ctxMgmt s (dieOf s.cur.core) s.my.cid = false →
      exec (.ptfence g sc) s = .next (trapAt s s.cur 0x02 (s.headWord.zeroExtend 64) false))) ∧
  (∀ (s : State) (g : Guard) (a b : R5) (all : BitVec 1), Issues64 s g ⟨[a, b], [], [], [a, b]⟩ →
    let die := ((s.x a).extractLsb' 45 3).toNat
    (ctxMgmt s (dieOf s.cur.core) s.my.cid = true → die ≤ 3 → exec (.tlbinv g a b all) s =
      .next ((invalidate s die ((s.x b).extractLsb' 0 12).toNat
        (if all = 1 then none else some ((s.x a).extractLsb' 21 27).toNat)).issued g.sync)) ∧
    (ctxMgmt s (dieOf s.cur.core) s.my.cid = true → 3 < die → exec (.tlbinv g a b all) s = .next (trapAt s s.cur 0x07 (s.x a) false)) ∧
    (ctxMgmt s (dieOf s.cur.core) s.my.cid = false →
      exec (.tlbinv g a b all) s = .next (trapAt s s.cur 0x02 (s.headWord.zeroExtend 64) false)))

/-- R356: the sparse-existence accesses issue on any address that passes its checks. -/
def Rule.ExistenceIssues : Prop :=
  ∀ (s : State) (g : Guard) (d a c : R5) (off : BitVec 14),
    let ad := s.x a + off.signExtend 64
    (Issues64 s g ⟨[d, a], [c], [], [a]⟩ → checkAddr s s.cur s.my.cid .g ad.toNat 8 false = none → ad.toNat % 8 = 0 →
      exec (.ldx g d a c off) s = .next ((s.load 1 .strong .core .g 0 ad.toNat 8 (.ldx d c)).issued g.sync)) ∧
    (checkAddr s s.cur s.my.cid .g ad.toNat 1 false = none →
      (Issues64 s g ⟨[a], [], [], [a]⟩ →
        exec (.erase g a off) s = .next ((s.addEff (.entry (mkEntry s 1 .strong .core .g 0 ad.toNat 1 .erase))).issued g.sync)) ∧
      (Issues64 s g ⟨[a], [c], [], [a]⟩ →
        exec (.extest g a c off) s = .next ((s.load 1 .strong .core .g 0 ad.toNat 1 (.extest c)).issued g.sync)) ∧
      (Issues64 s g ⟨[d, a], [], [], [a]⟩ →
        exec (.exmap g d a off) s = .next ((s.load 1 .strong .core .g 0 ad.toNat 1 (.exmap d)).issued g.sync)))

/-- Frame of the issue of a memory instruction: no register, and no byte of memory, is changed before its access is performed. -/
def Rule.MemoryIssueFrame : Prop :=
  ∀ (s t : State) (f : Sync) (a : R5) (ord : Order) (sc : Scope) (sp : Space) (path lane ad n : Nat) (dst : LoadDst) (e : Entry),
    t = (s.load path ord sc sp lane ad n dst).issued f ∨ t = (s.addEff (.entry e)).issued f →
    t.x a = s.x a ∧ t.p a = s.p a ∧ (∀ v, t.v v = s.v v) ∧ t.my.c = s.my.c ∧ t.my.acc = s.my.acc ∧ t.my.h = s.my.h ∧
    t.my.s = s.my.s ∧ t.my.e = s.my.e ∧ t.my.q = s.my.q ∧ (∀ k, t.byte k = s.byte k)

/-- Loads, stores, atomics, fences and existence instructions at issue, with their traps and frame: Rule.LoadIssues, Rule.StoreIssues,
Rule.FenceResults, Rule.ExistenceIssues, Rule.MemoryIssueFrame. -/
def Obligations.MemoryIssues : Prop := Rule.LoadIssues ∧ Rule.StoreIssues ∧ Rule.FenceResults ∧ Rule.ExistenceIssues ∧ Rule.MemoryIssueFrame

/-- R183, R350: a load of the core's own scratchpad, or of a lane's memory, is performed at its home: x[d] gets the bytes there, with the
block's own earlier stores in their place, extended as its width says; its entry leaves, no other register of the stream and no byte of
memory changes. What memPerform answers. -/
def Rule.LocalLoadPerformed : Prop :=
  ∀ (s : State) (uid : Nat) (e : Entry) (d : R5) (w : BitVec 3), entryOf s uid = some e → eligible s e = true →
    e.acc = .load (.x d w) → e.sp = .c ∨ e.sp = .l →
    let k := localKey s e.r e.sp e.lane e.addr
    homePoison (eccRead s k e.n) k e.n = false →
    ∃ t, exec (.memPerform uid) s = .next t ∧
      (∀ a, (t.stm e.r).rx a = if a = d ∧ d ≠ 0 then extendLoad w (patch (s.read k e.n) e.ovl) else (s.stm e.r).rx a) ∧
      (t.stm e.r).p = (s.stm e.r).p ∧ (∀ f ∈ t.paths, f.uid ≠ e.uid) ∧ t.mem = s.mem

/-- R183, R350: the same of a load of global space whose translation succeeds and whose bytes are not poisoned. What memPerform answers.
-/
def Rule.GlobalLoadPerformed : Prop :=
  ∀ (s u : State) (uid : Nat) (e : Entry) (d : R5) (w : BitVec 3) (bs : List Byte) (ex : Bool), entryOf s uid = some e →
    eligible s e = true → e.acc = .load (.x d w) → e.sp = .g → gRead e.who e.addr e.n .rd s = .ok (bs, ex, false) u →
    ∃ t, exec (.memPerform uid) s = .next t ∧
      (∀ a, (t.stm e.r).rx a = if a = d ∧ d ≠ 0 then extendLoad w (patch bs e.ovl) else (u.stm e.r).rx a) ∧
      (∀ f ∈ t.paths, f.uid ≠ e.uid) ∧ t.mem = u.mem

/-- A load performed in a scratchpad or in global memory gives its register the bytes read: Rule.LocalLoadPerformed,
Rule.GlobalLoadPerformed. -/
def Obligations.LoadsPerformed : Prop := Rule.LocalLoadPerformed ∧ Rule.GlobalLoadPerformed

/-- R183, R351: a store to the core's own scratchpad, or to a lane's memory, writes its bytes at their place, and every other byte reads
as before; its entry leaves and no register changes. R197: of a task that is saved meanwhile, one to a lane's memory reaches the rows that
its save frame holds, and one to .c goes to its bank unless another context has taken the slot; no other byte changes. What memPerform
answers. -/
def Rule.LocalStorePerformed : Prop :=
  ∀ (s : State) (uid : Nat) (e : Entry) (bs : List Byte), entryOf s uid = some e → eligible s e = true → e.acc = .store bs →
    e.sp = .c ∨ e.sp = .l →
    let k := localKey s e.r e.sp e.lane e.addr
    let taken := tget 0 s.slotCid (slotKey e.r.core e.r.slot) ≠ e.cid + 1
    ∃ t, exec (.memPerform uid) s = .next t ∧
      (e.away s = false ∨ (e.sp = .c ∧ ¬ taken) →
        (∀ i, i < bs.length → t.byte (k + i) = bs.getD i 0) ∧ ∀ a, a < k ∨ k + bs.length ≤ a → t.byte a = s.byte a) ∧
      (e.away s = true → e.sp = .l ∨ taken → t.mem = s.mem) ∧
      (e.away s = true → e.sp = .l →
        let at_ := k - rowKey e.r.core (2048 * e.r.slot) 0 0
        (t.jobs.map fun j => (j.t.tid, j.rows)) = s.jobs.map fun j =>
          (j.t.tid, if j.t.tid = e.tid ∧ liveRow j.t (at_ / 256) = true then writeKeys j.rows at_ bs else j.rows)) ∧
      (∀ f ∈ t.paths, f.uid ≠ e.uid) ∧
      (∀ c i g, ((t.task c i).stm g).x = ((s.task c i).stm g).x ∧ ((t.task c i).stm g).p = ((s.task c i).stm g).p ∧
        (t.task c i).v = (s.task c i).v)

/-- R183, R351, R60: a store to global space that translates, of a task that stages nothing, writes its bytes at their home, and every
other byte reads as the translation left it; one that a peer answers with an error is lost, with APERR set. What memPerform answers. -/
def Rule.GlobalStorePerformed : Prop :=
  ∀ (s u : State) (uid k : Nat) (e : Entry) (bs : List Byte) (ex : Bool), entryOf s uid = some e → eligible s e = true →
    e.acc = .store bs → e.sp = .g → logBlocks s e = false → locate e.who e.addr bs.length .wr s = .ok (.at k, ex) u →
    e.who.stager u = none →
    ∃ t, exec (.memPerform uid) s = .next t ∧ (∀ f ∈ t.paths, f.uid ≠ e.uid) ∧
      (peerFails u k bs.length = false → (∀ i, i < bs.length → t.byte (k + i) = bs.getD i 0) ∧
        ∀ a, a < k ∨ k + bs.length ≤ a → t.byte a = u.byte a) ∧
      (peerFails u k bs.length = true → tenantOf u e.cid < 8 → t.mem = u.mem ∧ (fnAt t (tenantOf u e.cid + 1)).crstat.getLsbD 1 = true)

/-- A store performed changes exactly its bytes: Rule.LocalStorePerformed, Rule.GlobalStorePerformed. -/
def Obligations.StoresPerformed : Prop := Rule.LocalStorePerformed ∧ Rule.GlobalStorePerformed

/-- R352: the new value of each atomic and what it writes to x[d], over the bytes of its width; cas writes only on equality. -/
def Rule.AtomicValues : Prop :=
  ∀ (w64 : Bool) (bs : List Byte) (v e : W64),
    let n := if w64 then 64 else 32
    bs.length = n / 8 →
    let old : BitVec n := BitVec.ofNat n (leNat bs)
    let x : BitVec n := v.setWidth n
    let out (b : BitVec n) : Option (List Byte) × W64 := (some (toBytes (n / 8) b.toNat), old.signExtend 64)
    amoBytes .add w64 bs v e = out (old + x) ∧ amoBytes .and w64 bs v e = out (old &&& x) ∧
    amoBytes .or w64 bs v e = out (old ||| x) ∧ amoBytes .xor w64 bs v e = out (old ^^^ x) ∧
    amoBytes .minS w64 bs v e = out (if x.toInt < old.toInt then x else old) ∧
    amoBytes .minN w64 bs v e = out (if x.toNat < old.toNat then x else old) ∧
    amoBytes .maxS w64 bs v e = out (if old.toInt < x.toInt then x else old) ∧
    amoBytes .maxN w64 bs v e = out (if old.toNat < x.toNat then x else old) ∧
    amoBytes .swap w64 bs v e = out x ∧
    amoBytes .cas w64 bs v e = (if old = e.setWidth n then out x else (none, old.signExtend 64))

/-- R183, R352: an atomic on the core's own scratchpad writes the new value where there is one and returns the old to x[d], in one step;
every other byte reads as before. R197: one of a task that is saved, whose slot another context has taken, changes no byte. What
memPerform answers. -/
def Rule.AtomicPerformed : Prop :=
  ∀ (s : State) (uid : Nat) (e : Entry) (op : AmoOp) (w64 : Bool) (v ev : W64) (d : R5), entryOf s uid = some e → eligible s e = true →
    e.acc = .amo op w64 v ev d → e.sp = .c → e.who.stager s = none →
    let k := localKey s e.r e.sp e.lane e.addr
    let old := s.read k e.n
    (e.away s = true → tget 0 s.slotCid (slotKey e.r.core e.r.slot) ≠ e.cid + 1 →
      ∃ t, exec (.memPerform uid) s = .next t ∧ t.mem = s.mem ∧ ∀ f ∈ t.paths, f.uid ≠ e.uid) ∧
    (e.away s = false → (s.task e.r.core e.r.slot).tid = e.tid → homePoison (eccRead s k e.n) k e.n = false →
    ∃ t, exec (.memPerform uid) s = .next t ∧
      (∀ a, (t.stm e.r).rx a = if a = d ∧ d ≠ 0 then (amoBytes op w64 old v ev).2 else (s.stm e.r).rx a) ∧
      (∀ bs, (amoBytes op w64 old v ev).1 = some bs → (∀ i, i < bs.length → t.byte (k + i) = bs.getD i 0) ∧
        ∀ a, a < k ∨ k + bs.length ≤ a → t.byte a = s.byte a) ∧
      ((amoBytes op w64 old v ev).1 = none → t.mem = s.mem) ∧
      (∀ f ∈ t.paths, f.uid ≠ e.uid))

/-- The values of the atomic operations, and an atomic performed at its home: Rule.AtomicValues, Rule.AtomicPerformed. -/
def Obligations.Atomics : Prop := Rule.AtomicValues ∧ Rule.AtomicPerformed

/-- R131, R136, R371, R195: a signal is performed: the token, the event count or the queue entry arrives at the task, the signal's entry
leaves, and no memory and no register changes. What memPerform answers. -/
def Obligations.SignalPerformed : Prop :=
  ∀ (s : State) (uid : Nat) (e : Entry), entryOf s uid = some e → eligible s e = true → (s.task e.r.core e.r.slot).tid = e.tid →
    let t0 := s.task e.r.core e.r.slot
    let done (f : Task → Task) : State := (s.dropEntry e).modTask e.r.core e.r.slot f
    (∀ k (h : k < 8), e.acc = .token k →
      exec (.memPerform uid) s = .next (done fun t => { t with tk := t.tk.set k (t0.tk[k] + 1) })) ∧
    (∀ ev n (h : ev < 16), e.acc = .post ev n →
      exec (.memPerform uid) s = .next (done fun t => { t with e := t.e.set ev (t0.e[ev] + n) })) ∧
    (∀ q v (h : q < 8), e.acc = .qpush q v →
      exec (.memPerform uid) s = .next (done fun t => { t with q := t.q.set q (t0.q[q] ++ [v]) }))

/-- R183, R188, R255: a weak load that a view-cache copy of its issuing core can answer takes its bytes from the copy, unless they hold an
error, when the copy leaves, to be fetched again; a copy taken holds the home's bytes; a copy dropped is gone, and neither changes memory. What viewServe, viewFill, viewDrop answer. -/
def Obligations.ViewCaches : Prop :=
  (∀ (s : State) (uid : Nat) (e : Entry) (d : R5) (w : BitVec 3) (v : View), entryOf s uid = some e → e.acc = .load (.x d w) →
    viewOf s e.r.core e.cid (e.addr / 64) = some v → unheld s e = true → e.path = 0 → e.ord = .weak → e.sp = .g →
    (e.addr + e.n - 1) / 64 = e.addr / 64 → viewable s e.cid e.addr = true → e.who.stager s = none →
    let copy := cacheRead s (viewKey e.r.core e.cid (e.addr / 64) + e.addr % 64 / 4 * 4) (e.addr % 4 + e.n)
    (copy.1 = false → ∃ t, exec (.viewServe uid) s = .next t ∧ t.mem = s.mem ∧
      ∀ a, (t.stm e.r).rx a =
        if a = d ∧ d ≠ 0 then extendLoad w (patch ((v.data.drop (e.addr % 64)).take e.n) e.ovl) else (s.stm e.r).rx a) ∧
    (copy.1 = true → ∃ t, exec (.viewServe uid) s = .next t ∧ t.mem = s.mem ∧ viewOf t e.r.core e.cid (e.addr / 64) = none ∧
      t.paths = s.paths ∧ t.pkg = copy.2.pkg)) ∧
  (∀ (s : State) (core cid addr k : Nat), core < 96 → viewable s cid addr = true → ctxValid s (addr / 2 ^ 45) cid = true →
    reaches s (dieOf core) (addr / 2 ^ 45) 64 = true → peekKey s cid (64 * (addr / 64)) = some k → k % 2 ^ 40 < hbmBytes →
    homePoison (homeFetch (travel s (dieOf core) (addr / 2 ^ 45) 64) k 64) k 64 = false →
    ∃ t, exec (.viewFill core cid addr) s = .next t ∧ t.mem = s.mem ∧
      viewOf t core cid (addr / 64) = some ⟨core, cid, addr / 64, s.read k 64⟩) ∧
  (∀ (s : State) (core cid addr : Nat), ∃ t, exec (.viewDrop core cid addr) s = .next t ∧ t.mem = s.mem ∧
    viewOf t core cid (addr / 64) = none ∧ ∀ v ∈ s.views, ¬ (v.core = core ∧ v.cid = cid ∧ v.line = addr / 64) → v ∈ t.views)

/-- R171, R172: a retry by the PF frees the tag: no record and no access holds it any more, and no byte of memory changes; of another
function it does nothing. A fatal answer frees the tag and ends what waits on it, oldest first: accesses, logged entries, fetches (R173),
queue records (R447) and transform requests (R220), and what saved tasks hold (the model's choice, notes/assumptions/83.md). What
fqresRetry, fqresFatal answer. -/
def Rule.FaultAnswers : Prop :=
  (∀ (s : State) (tag : Nat), (∃ f ∈ s.faults, f.tag = tag) →
    ∃ t, exec (.fqresRetry 0 tag) s = .next t ∧ (∀ f ∈ t.faults, f.tag ≠ tag) ∧ (∀ e ∈ t.paths, e.wait ≠ some tag) ∧
      (∀ l ∈ t.logs, l.e.wait ≠ some tag) ∧ t.paths.length = s.paths.length ∧ t.mem = s.mem) ∧
  (∀ (s : State) (tag : Nat), (∃ f ∈ s.faults, f.tag = tag) →
    let u := freeTag s tag
    let v := fatalRings tag (fetchErrs (fatalFetch tag (fatalLogs tag u.logs (fatalPaths tag u.paths u))) [tag])
    exec (.fqresFatal 0 tag) s = .next (v.jobs.foldl (fatalJob tag) v)) ∧
  (∀ (s : State) (fn tag : Nat), fn ≠ 0 → exec (.fqresRetry fn tag) s = .next s ∧ exec (.fqresFatal fn tag) s = .next s)

/-- R176, R180: a logged store that may be replayed, its entry without an error, is performed at its home and leaves the log; a write to the line of a region's
descriptor lets the births that wait on it be tried again. What sideLogReplay, birthRetry answer. -/
def Rule.LogReplay : Prop :=
  (∀ (s u : State) (core uid k : Nat) (l : LogEnt) (bs : List Byte) (ex : Bool),
    s.logs.find? (fun l => l.e.uid == uid && l.e.r.core == core) = some l → replayable s l = true → linked s l.e = true →
    l.e.acc = .store bs → peerFails u k bs.length = false →
    eccRead s (logKey core uid) 80 = s → badWord s (logKey core uid) 80 = false →
    locate l.e.who l.e.addr bs.length .wr s = .ok (.at k, ex) u → l.e.who.stager u = none →
    ∃ t, exec (.sideLogReplay core uid) s = .next t ∧ (∀ i, i < bs.length → t.byte (k + i) = bs.getD i 0) ∧
      (∀ a, a < k ∨ k + bs.length ≤ a → t.byte a = u.byte a) ∧ ∀ m ∈ t.logs, m.e.uid ≠ l.e.uid) ∧
  (∀ (s u : State) (cid die reg k : Nat),
    structKey cid die (die * 2 ^ 45 + bits (ctxEntry s die cid) 128 45 + 64 * reg) .rd s = .ok k u → s.dirty.contains (k / 256) = true →
    ∃ t, exec (.birthRetry cid die reg) s = .next t ∧ (∀ e ∈ t.paths, e.wait ≠ some (0x10000 + k / 256)) ∧
      t.dirty.contains (k / 256) = false ∧ t.mem = s.mem)

/-- The answer to a fault record, and the replay of a logged access: Rule.FaultAnswers, Rule.LogReplay. -/
def Obligations.FaultAnswers : Prop := Rule.FaultAnswers ∧ Rule.LogReplay

/-- R170: a TLBCMD write of the PF that names a C-die queues the invalidation of its page, or of all pages with bit 63 set; when the
oldest completes, no TLB entry and no view of it is left on that die. What tlbcmdWrite, tlbInvalidateDone answer. -/
def Rule.Invalidation : Prop :=
  (∀ (s : State) (v : W64), (v.extractLsb' 45 3).toNat < 4 → exec (.tlbcmdWrite 0 v) s = .next { s with
    invals := s.invals ++ [⟨(v.extractLsb' 45 3).toNat, (v.extractLsb' 48 12).toNat,
      if v.getLsbD 63 then none else some (v.extractLsb' 21 27).toNat⟩] }) ∧
  (∀ (s : State) (fn : Nat) (v : W64), fn ≠ 0 → exec (.tlbcmdWrite fn v) s = .next s) ∧
  (∀ (s : State) (i : Inval) (is : List Inval), s.invals = i :: is →
    ∃ t, exec .tlbInvalidateDone s = .next t ∧ t.invals = is ∧ t.mem = s.mem ∧
      (∀ e ∈ t.tlb, ¬ (e.die = i.die ∧ e.cid = i.cid ∧ (i.page = none ∨ i.page = some e.page))) ∧
      (∀ v ∈ t.views, ¬ (v.line * 64 / 2 ^ 45 = i.die ∧ v.cid = i.cid ∧ (i.page = none ∨ i.page = some (v.line * 64 / 2 ^ 21)))) ∧
      (∀ e ∈ s.tlb, e.die ≠ i.die ∨ e.cid ≠ i.cid → e ∈ t.tlb))

/-- R164: a pending KCFG value takes effect while no task is resident on the eight, with its reserved bits dropped; with a task there,
nothing changes. What kcfgApply answers. -/
def Rule.LayoutApplied : Prop :=
  ∀ (s : State) (eight : Nat), tget 0 s.kcfgNew eight ≠ 0 →
    ((s.tasks.any fun e => e.1 / 4 / 8 == eight && e.2.live) = false →
      ∃ t, exec (.kcfgApply eight) s = .next t ∧ kcfgOf t eight = tget 0 s.kcfgNew eight &&& 0x8FFF_000F ∧
        tget 0 t.kcfgNew eight = 0 ∧ t.tasks = s.tasks ∧
        (∀ k, k < coreKey (8 * eight) 0 ∨ coreKey (8 * eight + 8) 0 ≤ k → t.byte k = s.byte k)) ∧
    ((s.tasks.any fun e => e.1 / 4 / 8 == eight && e.2.live) = true → exec (.kcfgApply eight) s = .next s)

/-- Translation invalidation, and the application of a scratchpad layout: Rule.Invalidation, Rule.LayoutApplied. -/
def Obligations.InvalidationAndLayout : Prop := Rule.Invalidation ∧ Rule.LayoutApplied

/-- R252 to R254 (the first four steps of a drain are one step, notes/assumptions/42.md, the model's choice): a CTXKILL write of the PF with GO set kills a valid context with status 0x10, of which no task, job, access, log entry,
fault record or translation is left; any other write does nothing. At the end of a drain its records are reported, nothing of it stays in
the device, and with no reset, trip or hold to follow no more happens. What ctxkillWrite, killDrainEnd answer. -/
def Rule.ContextKills : Prop :=
  (∀ (s : State) (v : W64), v.getLsbD 15 = true → ctxValid s 0 (v.extractLsb' 0 12).toNat = true → s.kills = [] →
    let cid := (v.extractLsb' 0 12).toNat
    ∃ t, exec (.ctxkillWrite 0 v) s = .next t ∧
      (∀ e ∈ t.tasks, ¬ (e.2.cid = cid ∧ e.2.live = true)) ∧ (∀ j ∈ t.jobs, j.t.cid ≠ cid) ∧ (∀ e ∈ t.paths, e.cid ≠ cid) ∧
      (∀ l ∈ t.logs, l.e.cid ≠ cid) ∧ (∀ f ∈ t.faults, f.cid ≠ cid) ∧ (∀ e ∈ t.tlb, e.cid ≠ cid) ∧ (∀ x ∈ t.views, x.cid ≠ cid) ∧
      (∃ k ∈ t.kills, k.cid = cid ∧ k.status = 0x10)) ∧
  (∀ (s : State) (fn : Nat) (v : W64), fn ≠ 0 ∨ v.getLsbD 15 = false → exec (.ctxkillWrite fn v) s = .next s) ∧
  (∀ (s : State), s.kills = [] → exec .killDrainEnd s = .next s) ∧
  (∀ (s : State) (k : Kill), s.kills = [k] → k.recs = [] → s.pkg.tripping = false → s.pkg.holding = false →
    (∀ d, d < 4 → (dieAt s d).rst = none) → ∃ t, exec .killDrainEnd s = .next t ∧ t.kills = [] ∧
    (∀ a ∈ t.arms, a.cid ≠ k.cid) ∧ (∀ e ∈ t.events, e.cid ≠ k.cid) ∧ t.mem = s.mem)

/-- R253: the kill of a context does not reach another: its tasks, jobs, accesses, translations and copies are as they were, but for
waits on a tag or log entry that the kill has freed. -/
def Rule.KillLeavesOthers : Prop :=
  ∀ (s : State) (cid status : Nat), s.kills = [] →
    let t := kill s cid status
    (∀ core slot, (s.task core slot).cid ≠ cid →
      (t.task core slot).c = (s.task core slot).c ∧ (t.task core slot).v = (s.task core slot).v ∧
      (t.task core slot).live = (s.task core slot).live ∧ (t.task core slot).stg = (s.task core slot).stg ∧
      ∀ e, ((t.task core slot).stm e).x = ((s.task core slot).stm e).x ∧ ((t.task core slot).stm e).p = ((s.task core slot).stm e).p ∧
        ((t.task core slot).stm e).pc = ((s.task core slot).stm e).pc ∧ ((t.task core slot).stm e).blk = ((s.task core slot).stm e).blk ∧
        ((t.task core slot).stm e).cq = ((s.task core slot).stm e).cq) ∧
    (∀ e ∈ s.paths, e.cid ≠ cid → e ∈ t.paths ∨ { e with wait := none } ∈ t.paths) ∧
    (∀ j ∈ s.jobs, j.t.cid ≠ cid → ∃ k ∈ t.jobs, k.t.tid = j.t.tid ∧ k.st = j.st ∧ k.q = j.q ∧ k.t.c = j.t.c ∧ k.t.v = j.t.v) ∧
    (∀ e ∈ s.tlb, e.cid ≠ cid → e ∈ t.tlb) ∧ (∀ v ∈ s.views, v.cid ≠ cid → v ∈ t.views) ∧ t.fns = s.fns ∧
    ((∀ i, i < 128 → (hst s i).qwait = none) → t.msix = s.msix)

/-- A kill ends its context's tasks and leaves the other contexts': Rule.ContextKills, Rule.KillLeavesOthers. -/
def Obligations.KillsIsolate : Prop := Rule.ContextKills ∧ Rule.KillLeavesOthers

/-- R198, R357: each set writes its own fields of the stream register, at the commit, and leaves the register's other bits. An operand
outside its range traps ILLOP with that operand, of sets.base and sets.dim x[a] first; sets.mc is checked only where it sets MCV (the
model's reading, notes/assumptions/34.md). -/
def Rule.StreamRegisterSets : Prop :=
  ∀ (s : State) (g : Guard) (i : BitVec 4) (a b h : R5) (ty : Ty) (xp : BitVec 2),
    let reads (us : List R5) : Prop := IssuesS s g ⟨us, [], [], us⟩ [i]
    let v := s.sreg i
    let x := s.x a
    let y := s.x b
    let out (w : BitVec 512) : State := (s.addEff (.setS i w)).issued g.sync
    let ill (e : W64) : Out := .next (trapAt s s.cur 0x01 e false)
    let field (w : BitVec 512) (lo n : Nat) : BitVec n := w.extractLsb' lo n
    let fits (x : W64) : Prop := x = (x.extractLsb' 0 48).signExtend 64
    (reads [a, b] → x.extractLsb' 48 16 = 0 → y.extractLsb' 3 61 = 0 → ∃ w, exec (.setsBase g i a b) s = .next (out w) ∧
      field w 0 48 = x.extractLsb' 0 48 ∧ field w 48 3 = y.extractLsb' 0 3 ∧ field w 51 461 = field v 51 461) ∧
    (reads [a, b] → x.extractLsb' 48 16 ≠ 0 → exec (.setsBase g i a b) s = ill x) ∧
    (reads [a, b] → x.extractLsb' 48 16 = 0 → y.extractLsb' 3 61 ≠ 0 → exec (.setsBase g i a b) s = ill y) ∧
    (reads [a, b] → x.extractLsb' 18 46 = 0 → fits y →
      ∃ w, exec (.setsDim g i a b) s = .next (out w) ∧
      let k := (x.extractLsb' 16 2).toNat
      field w (144 + 64 * k) 16 = x.extractLsb' 0 16 ∧ field w (160 + 64 * k) 48 = y.extractLsb' 0 48 ∧
      field w 0 (144 + 64 * k) = field v 0 (144 + 64 * k) ∧
      field w (208 + 64 * k) (304 - 64 * k) = field v (208 + 64 * k) (304 - 64 * k)) ∧
    (reads [a, b] → x.extractLsb' 18 46 ≠ 0 → exec (.setsDim g i a b) s = ill x) ∧
    (reads [a, b] → x.extractLsb' 18 46 = 0 → ¬ fits y → exec (.setsDim g i a b) s = ill y) ∧
    (reads [a] → (x.extractLsb' 0 7).toNat ≤ 64 → x.getLsbD 7 = false → x.extractLsb' 16 48 = 0 →
      ∃ w, exec (.setsFmt g ty i a) s = .next (out w) ∧
      field w 51 5 = ty.code ∧ field w 64 7 = x.extractLsb' 0 7 ∧ field w 72 8 = x.extractLsb' 8 8 ∧ field w 0 51 = field v 0 51 ∧
      field w 56 8 = field v 56 8 ∧ field w 80 432 = field v 80 432) ∧
    (reads [a] → 64 < (x.extractLsb' 0 7).toNat ∨ x.getLsbD 7 = true ∨ x.extractLsb' 16 48 ≠ 0 → exec (.setsFmt g ty i a) s = ill x) ∧
    (reads [a, b] → ∃ w, exec (.setsScl g i a b) s = .next (out w) ∧ field w 80 48 = x.extractLsb' 0 48 ∧ field w 128 16 = y.extractLsb' 0 16 ∧
      field w 0 80 = field v 0 80 ∧ field w 144 368 = field v 144 368) ∧
    (reads [] → ∃ w, exec (.setsXp g i xp) s = .next (out w) ∧ field w 56 2 = xp ∧ field w 0 56 = field v 0 56 ∧
      field w 58 454 = field v 58 454) ∧
    (reads [a] → (x.getLsbD 11 = true → 1 ≤ (x.extractLsb' 0 4).toNat ∧ (x.extractLsb' 0 4).toNat ≤ 8 ∧ (x.extractLsb' 4 3).toNat ≤ 6) →
      ∃ w, exec (.setsMc g i a) s = .next (out w) ∧ field w 400 1 = x.extractLsb' 11 1 ∧ field w 401 4 = x.extractLsb' 0 4 ∧
      field w 405 3 = x.extractLsb' 4 3 ∧ field w 408 3 = x.extractLsb' 8 3 ∧ field w 0 400 = field v 0 400 ∧
      field w 411 101 = field v 411 101) ∧
    (reads [a] → x.getLsbD 11 = true → x.extractLsb' 0 4 = 0 ∨ 8 < (x.extractLsb' 0 4).toNat ∨ 6 < (x.extractLsb' 4 3).toNat →
      exec (.setsMc g i a) s = ill x) ∧
    (reads [] → ∃ w, exec (.setsHdl g i h) s = .next (out w) ∧ field w 58 5 = h ∧ field w 63 1 = 1 ∧ field w 0 58 = field v 0 58 ∧
      field w 64 448 = field v 64 448) ∧
    (Issues64 s g ⟨[], [], [], []⟩ → exec (.setsClr g i) s = .next (out 0))

/-- R358, R366, R368, R367: reads of stream registers, handles, dropped magnitude, ring headers and change-mask lists issue. gets chooses
its word by x[b][3:0] alone (the model's reading, notes/assumptions/92.md). -/
def Rule.AccessReads : Prop :=
  ∀ (s : State) (g : Guard) (i : BitVec 4) (a b h : R5) (sp3 : BitVec 3), Issues64 s g ⟨[a, b], [], [], [b]⟩ →
    let n := ((s.x b).extractLsb' 0 4).toNat
    (n < 8 → SregsClean s [i] → exec (.gets g a i h b) s = .next ((s.setX a ((s.sreg i).extractLsb' (64 * n) 64)).issued g.sync)) ∧
    (8 ≤ n → n < 10 → exec (.gets g a i h b) s = .next ((s.setX a ((s.hreg h).extractLsb' (64 * (n - 8)) 64)).issued g.sync)) ∧
    (10 ≤ n → exec (.gets g a i h b) s = .next (trapAt s s.cur 0x01 (s.x b) false)) ∧
    exec (.dmrd g a b) s = .next ((s.setX a (s.csr (0x140 + ((s.x b).extractLsb' 0 6).toNat))).issued g.sync) ∧
    (∀ sp, ringSpace sp3 = some sp → checkAddr s s.cur s.my.cid sp (s.x b).toNat 64 false = none → (s.x b).toNat % 64 = 0 →
      exec (.rngstat g sp3 a b) s = .next ((s.load 1 .strong .core sp 0 (s.x b).toNat 16 (.ring a)).issued g.sync)) ∧
    (checkAddr s s.cur s.my.cid .g (s.x b).toNat 8 false = none → (s.x b).toNat % 8 = 0 →
      exec (.tlget g a b) s = .next ((s.load 2 .weak .core .g 0 (s.x b).toNat 8 (.tl 0 a)).issued g.sync)) ∧
    (checkAddr s s.cur s.my.cid .g (s.x b).toNat 64 false = none → (s.x b).toNat % 64 = 0 →
      exec (.tlstat g a b) s = .next ((s.load 2 .weak .core .g 0 (s.x b).toNat 64 (.tl 1 a)).issued g.sync) ∧
      exec (.tlack g a b) s = .next ((s.load 2 .weak .core .g 0 (s.x b).toNat 64 (.tl 2 a)).issued g.sync))

/-- Stream registers are set and read: Rule.StreamRegisterSets, Rule.AccessReads. -/
def Obligations.StreamRegisters : Prop := Rule.StreamRegisterSets ∧ Rule.AccessReads

/-- R359 to R361, R202: a copy into a FREE handle, or out of a FULL one, whose checks pass issues with one command, which reads the bytes
of its source and writes those of its destination; into a handle that is not FREE, or out of one that is not FULL, it is held. A reserved
SGR and a space code above 3 trap ILLOP; then the ends of the layout, or the length and address of a linear copy, are checked, and the
handle last. -/
def Rule.CopyResults : Prop :=
  (∀ (s : State) (g : Guard) (i : BitVec 4) (h : R5) (sgr xp : BitVec 2) (gate : BitVec 6), IssuesS s g ⟨[], [], [], []⟩ [i] →
    let v := s.sreg i
    let ends := layoutEnds v
    let n := layoutN v * sBlen v
    let traps (c : Nat) (e : W64) : Prop :=
      exec (.copyin g i h sgr gate xp) s = .next (trapAt s s.cur c e false) ∧
      exec (.copyout g i h sgr gate) s = .next (trapAt s s.cur c e false)
    let c : Cmd := { newCmd s .copy with s1 := v, sgr := sgr, gate := gate.toNat }
    (sgr = 1 → traps 0x01 (s.headWord.zeroExtend 64)) ∧
    (sgr ≠ 1 → 4 ≤ sSp v → traps 0x01 (i.zeroExtend 64)) ∧
    (∀ sp, sgr ≠ 1 → sSp v < 4 ∧ codeSpace (sSp v) = some sp →
      (∀ k e, endsTrap s sp ends.1 ends.2 true = some (k, e) → traps k e) ∧
      (∀ k e, endsTrap s sp ends.1 ends.2 true = none → handleTrap s h n = some (k, e) → traps k e) ∧
      (endsTrap s sp ends.1 ends.2 true = none → handleTrap s h n = none →
        (s.my.hst h = 0 → exec (.copyin g i h sgr gate xp) s = .next ((s.addEff (.cmd { c with
          prod := some h, gateCore := bufHome s h
          ents := layoutEntries s 2 sp v (.cread 0) ++ bufEntries s 2 h n (.cwrite 0) })).issued g.sync)) ∧
        (s.my.hst h ≠ 0 → ∃ t, exec (.copyin g i h sgr gate xp) s = .next t ∧ t.me.hold = .handle ∧ KeptBut [] [] [] s t) ∧
        (s.my.hst h = 2 → exec (.copyout g i h sgr gate) s = .next (((s.acquire .package).addEff (.cmd { c with
          cons := [h], gateCore := gateHome s sp (sBase v)
          ents := bufEntries s 2 h n (.cread 0) ++ layoutEntries s 2 sp v (.cwrite 0) })).issued g.sync)) ∧
        (s.my.hst h ≠ 2 → ∃ t, exec (.copyout g i h sgr gate) s = .next t ∧ t.me.hold = .handle ∧ KeptBut [] [] [] s t)))) ∧
  (∀ (s : State) (g : Guard) (a h b : R5) (sgr xp : BitVec 2) (gate : BitVec 6), Issues64 s g ⟨[a, b], [], [], [a, b]⟩ →
    let n := (s.x b).toNat
    let ad := (s.x a).toNat
    let c : Cmd := { newCmd s .copy with sgr := sgr, gate := gate.toNat }
    let ends (sp : Space) : Option (Nat × W64) := (endsTrap s sp ad (s.x a + s.x b - 1).toNat true).orElse fun _ => handleTrap s h n
    let out (sp : Space) : State := ((s.acquire .package).addEff (.cmd { c with
      cons := [h], gateCore := gateHome s sp ad
      ents := bufEntries s 2 h n (.cread 0) ++ spanEntries s 2 sp ad n 0 (.cwrite 0) })).issued g.sync
    let forms := [(Instr.copyk g a h b sgr gate, Space.k, 2), (.copyd g a h b sgr gate, .d, 2), (.copylin g a h b sgr gate xp, .g, 0)]
    (∀ f ∈ forms,
      (sgr = 1 → exec f.1 s = .next (trapAt s s.cur 0x01 (s.headWord.zeroExtend 64) false)) ∧
      (sgr ≠ 1 → n = 0 ∨ n % 64 ≠ 0 → exec f.1 s = .next (trapAt s s.cur 0x05 (s.x b) false)) ∧
      (sgr ≠ 1 → n ≠ 0 → n % 64 = 0 → ad % 64 ≠ 0 → exec f.1 s = .next (trapAt s s.cur 0x05 (s.x a) false)) ∧
      (sgr ≠ 1 → n ≠ 0 → n % 64 = 0 → ad % 64 = 0 →
        (∀ k e, ends f.2.1 = some (k, e) → exec f.1 s = .next (trapAt s s.cur k e false)) ∧
        (ends f.2.1 = none → s.my.hst h ≠ f.2.2 → ∃ t, exec f.1 s = .next t ∧ t.me.hold = .handle ∧ KeptBut [] [] [] s t))) ∧
    (sgr ≠ 1 → n ≠ 0 → n % 64 = 0 → ad % 64 = 0 →
      (ends .k = none → s.my.hst h = 2 → exec (.copyk g a h b sgr gate) s = .next (out .k)) ∧
      (ends .d = none → s.my.hst h = 2 → exec (.copyd g a h b sgr gate) s = .next (out .d)) ∧
      (ends .g = none → s.my.hst h = 0 → exec (.copylin g a h b sgr gate xp) s = .next ((s.addEff (.cmd { c with
        prod := some h, gateCore := bufHome s h
        ents := spanEntries s 2 .g ad n 0 (.cread 0) ++ bufEntries s 2 h n (.cwrite 0) })).issued g.sync))))

/-- Copies at issue: the command queued, the hold for their handle, and where they trap: Rule.CopyResults. -/
def Obligations.Copies : Prop := Rule.CopyResults

/-- R207 to R209: a gather, scatter or scatter-add of a well-formed table, index list and handle issues with one command over the rows
whose index is in range; gathmc with one over the elements of its tile inside the layer. -/
def Rule.TableResults : Prop :=
  (∀ (s : State) (g : Guard) (ty : Ty) (a h b : R5) (i : BitVec 4) (gate : BitVec 6) (xp : BitVec 2),
    IssuesS s g ⟨[a, b], [], [], [a, b]⟩ [i] → s.soft = [] → s.poison = [] → s.mine = [] →
    let v := s.sreg i
    let rowB := sSize v 0
    let n := (s.x b).toNat
    let la := (s.x a).toNat
    sSp v = 0 → rowB % 4 = 0 → 4 ≤ rowB → rowB ≤ 4096 → 0 < n → n ≤ 256 → la % 4 = 0 →
    checkAddr s s.cur s.my.cid .c la (4 * n) false = none →
    let idx := indexList s .c la n
    let rows := ((List.range n).filter fun k => idx.getD k 0 < sSize v 1).map fun k => (k, rowAddr v (idx.getD k 0))
    (∀ r ∈ rows, checkAddr s s.cur s.my.cid .g r.2 rowB false = none) → handleTrap s h (n * rowB) = none →
    let c : Cmd := { newCmd s .copy with
      s1 := v, idx := idx.map (BitVec.ofNat 32), gate := gate.toNat, xs := [BitVec.ofNat 64 (n - rows.length), h.zeroExtend 64] }
    (s.my.hst h = 0 → exec (.gath g a i h b gate xp) s = .next ((s.addEff (.cmd { c with
      prod := some h, gateCore := bufHome s h
      ents := (rows.flatMap fun r => spanEntries s 3 .g r.2 rowB (r.1 * rowB) (.cread 0)) ++
        bufEntries s 3 h (n * rowB) (.cwrite 0) })).issued g.sync)) ∧
    (s.my.hst h = 2 → exec (.scat g a i h b gate xp) s = .next (((s.acquire .package).addEff (.cmd { c with
      cons := [h]
      ents := bufEntries s 3 h (n * rowB) (.cread 0) ++
        (rows.flatMap fun r => spanEntries s 3 .g r.2 rowB (r.1 * rowB) (.cwrite 0)) })).issued g.sync)) ∧
    (s.my.hst h = 2 → ty = .f32 ∨ ty = .s32 ∨ ty = .n32 →
      exec (.scatadd g ty a i h b gate xp) s = .next (((s.acquire .package).addEff (.cmd { c with
        cons := [h]
        ents := bufEntries s 3 h (n * rowB) (.cread 0) ++
          (rows.flatMap fun r => addEntries s r.2 rowB (r.1 * rowB) ty) })).issued g.sync))) ∧
  (∀ (s : State) (g : Guard) (h b : R5) (i : BitVec 4) (gate : BitVec 6) (xp : BitVec 2), IssuesS s g ⟨[b], [], [], [b]⟩ [i] →
    let v := s.sreg i
    let e := s.x b
    let cs := tileCoords v e
    let inside (c : Int × Int) : Bool := decide (0 ≤ c.1 ∧ c.1 < sSize v 1 ∧ 0 ≤ c.2 ∧ c.2 < sSize v 0)
    let good := (List.range cs.length).filterMap fun p => if inside (cs.getD p (0, 0)) then
      some (p, at64 (sBase v) ((cs.getD p (0, 0)).1 * sStride v 1 + (cs.getD p (0, 0)).2 * sStride v 0)) else none
    sSp v = 0 → v.getLsbD 400 = true → (e.extractLsb' 16 2 = 0 ∨ e.extractLsb' 16 2 = 2) → e.extractLsb' 22 2 = 0 →
    (∀ r ∈ good, checkAddr s s.cur s.my.cid .g r.2 (sBlen v) false = none) → handleTrap s h (cs.length * sBlen v) = none →
    s.my.hst h = 0 →
    exec (.gathmc g i h b gate xp) s = .next ((s.addEff (.cmd { newCmd s .copy with
      s1 := v, gate := gate.toNat, prod := some h, gateCore := bufHome s h
      ents := (good.flatMap fun r => spanEntries s 3 .g r.2 (sBlen v) (r.1 * sBlen v) (.cread 0)) ++
        bufEntries s 3 h (cs.length * sBlen v) (.cwrite 0) })).issued g.sync))

/-- R365, R366: a scan of .c or .k elements into a FREE handle issues with one command that reads every element and writes the list;
thrset stands for the commit. -/
def Rule.ScanResults : Prop :=
  (∀ (s : State) (g : Guard) (i : BitVec 4) (h b : R5) (ty : Ty) (sp : Space), IssuesS s g ⟨[b], [], [], [b]⟩ [i] →
    let v := s.sreg i
    let n := (s.x b).toNat
    (sSp v = 1 ∧ sp = .c ∨ sSp v = 2 ∧ sp = .k) → typeOf (v.extractLsb' 51 5) = .ok ty → scanTy ty = true → n ≤ 65536 →
    let sz := ty.bits / 8
    let st : Int := if sStride v 0 = 0 then sz else sStride v 0
    (n ≠ 0 → endsTrap s sp (at64 (sBase v) (min 0 ((n - 1 : Nat) * st))) (at64 (sBase v) (max 0 ((n - 1 : Nat) * st) + sz - 1)) false = none) →
    handleTrap s h (4 * (n + 1)) = none → s.my.hst h = 0 →
    exec (.nzscan g i h b) s = .next ((s.addEff (.cmd { newCmd s (.scan ty n ((s.csr 0x008).extractLsb' 0 6).toNat) with
      s1 := v, prod := some h
      ents := ((List.range n).flatMap fun k : Nat => spanEntries s 2 sp (at64 (sBase v) ((k : Nat) * st)) sz (k * sz) (.cread 0)) ++
        bufEntries s 2 h (4 * (n + 1)) (fun p => .cwrite 0 (2 ^ 24 + p)) })).issued g.sync)) ∧
  (∀ (s : State) (g : Guard) (a b : R5), Issues64 s g ⟨[a, b], [], [], [a, b]⟩ →
    ((s.x a).toNat ≤ 63 → (s.x b).extractLsb' 32 32 = 0 → exec (.thrset g a b) s =
      .next (((s.addEff (.csr (0x100 + (s.x a).toNat) (s.x b))).addEff (.csr 0x008 (s.x a))).issued g.sync)) ∧
    (63 < (s.x a).toNat → exec (.thrset g a b) s = .next (trapAt s s.cur 0x01 (s.x a) false)) ∧
    ((s.x a).toNat ≤ 63 → (s.x b).extractLsb' 32 32 ≠ 0 → exec (.thrset g a b) s = .next (trapAt s s.cur 0x01 (s.x b) false)))

/-- Gathers, scatters, scatter-adds, nzscan and thrset at issue: Rule.TableResults, Rule.ScanResults. -/
def Obligations.TablesAndScan : Prop := Rule.TableResults ∧ Rule.ScanResults

/-- R205, R206, R363, R364, R202: gate and handle instructions whose operands are in range issue and stand for the commit; a wait passes
once its gate's phase or its handle's state is the one asked for, and is held otherwise. The model's readings: garr's check sees the gate of
the task resident then with the arrivals due there (notes/assumptions/54.md), and hset's ALIGN comes first (notes/assumptions/24.md). -/
def Rule.GateHandleResults : Prop :=
  ∀ (s : State) (g : Guard) (a b h : R5) (gate : BitVec 6),
    let reads (us : List R5) : Prop := Issues64 s g ⟨us, [], [], us⟩
    let x := s.x a
    let y := s.x b
    let k := gate.toNat
    let core := 8 * eightOf s.cur.core + x.toNat
    (reads [a, b] → x.toNat ≤ 7 → y.toNat ≤ 65535 → (gateView s k).cnt x.toNat + y.toNat ≤ 65535 →
      exec (.gexp g a b gate) s = .next ((s.addEff (.gexp k x.toNat y.toNat)).issued g.sync)) ∧
    (reads [a, b] → x.toNat ≤ 7 → y.toNat ≤ 65535 → 65535 < (gateView s k).cnt x.toNat + y.toNat →
      exec (.gexp g a b gate) s = .next (trapAt s s.cur 0x0A (gate.zeroExtend 64) false)) ∧
    (reads [a, b] → x.toNat ≤ 7 → 0 < y.toNat → y.toNat ≤ 65535 →
      (core = s.cur.core ∧ -65536 ≤ gateDue s core s.cur.slot k (inEight s.cur.core) - y.toNat) ∨
        (core ≠ s.cur.core ∧ gateSlot s core s.my.cid ((s.view.c.dom.extractLsb' 36 4).toNat) = none) →
      exec (.garr g a b gate) s =
        .next ((s.addEff (.entry (sigEntry s (.garr core k (inEight s.cur.core) y.toNat)))).issued g.sync)) ∧
    (reads [a, b] → x.toNat ≤ 7 → 0 < y.toNat → y.toNat ≤ 65535 → core = s.cur.core →
      gateDue s core s.cur.slot k (inEight s.cur.core) - y.toNat < -65536 →
      exec (.garr g a b gate) s = .next (trapAt s s.cur 0x0A (gate.zeroExtend 64) false)) ∧
    (reads [a] → (s.my.gate k).ph ≠ x.getLsbD 0 → exec (.gwait g a gate) s = .next ((s.acquire .package).passed.issued g.sync)) ∧
    (reads [a] → (s.my.gate k).ph = x.getLsbD 0 → exec (.gwait g a gate) s = .next (s.held .gate)) ∧
    (reads [a] → x.toNat ≤ 255 → exec (.ginit g a gate) s = .next ((s.addEff (.ginit k (x.extractLsb' 0 8))).issued g.sync)) ∧
    (reads [a] → 255 < x.toNat → exec (.ginit g a gate) s = .next (trapAt s s.cur 0x01 x false)) ∧
    (reads [a] → x.toNat ≤ 3 → s.my.hst h = x.toNat →
      exec (.hwait g h a) s = .next ((if x = 2 then s.acquire .package else s).passed.issued g.sync)) ∧
    (reads [a] → x.toNat ≤ 3 → s.my.hst h ≠ x.toNat → ∃ t, exec (.hwait g h a) s = .next t ∧ t.me.hold = .handle ∧ KeptBut [] [] [] s t) ∧
    (reads [a] → 3 < x.toNat → exec (.hwait g h a) s = .next (trapAt s s.cur 0x01 x false)) ∧
    (reads [a, b] → x.extractLsb' 0 6 = 0 → x.extractLsb' 27 37 = 0 → y.extractLsb' 0 6 = 0 → y.extractLsb' 24 8 = 0 →
      y.extractLsb' 35 29 = 0 → s.my.hst h = 0 → exec (.hset g h a b) s =
        .next ((s.addEff (.hset h (x.extractLsb' 0 27) (y.extractLsb' 0 24) (y.extractLsb' 32 3))).issued g.sync)) ∧
    (reads [a, b] → x.extractLsb' 0 6 ≠ 0 → exec (.hset g h a b) s = .next (trapAt s s.cur 0x05 x false)) ∧
    (reads [] → exec (.hfree g h) s = .next ((s.addEff (.hfree h)).issued g.sync))

/-- R205: an expectation, then arrivals of its number, invert a gate's phase, and the producer's count returns to what it was; a gate
with counts left keeps its phase. -/
def Rule.GatePhases : Prop :=
  ∀ (gt : Gate) (p n : Nat), p < 8 → 0 < n → n ≤ 65535 → gt.mask.getLsbD p = true → gt.cnt p = 0 →
    (∀ q, q < 8 → q ≠ p → gt.mask.getLsbD q = true → gt.cnt q = 0) →
    (gt.expect p n).ph = gt.ph ∧ (gt.expect p n).cnt p = n ∧
    ∃ g', (gt.expect p n).arrive p n = some g' ∧ g'.ph = !gt.ph ∧ g'.armd = false ∧ g'.cnt p = 0

/-- Gates and handles: setting, waiting, arrival and phase: Rule.GateHandleResults, Rule.GatePhases. -/
def Obligations.Gates : Prop := Rule.GateHandleResults ∧ Rule.GatePhases

/-- R370, R371: a push stands for the commit; a pop takes the oldest value of its queue and an empty queue holds it; a peek leaves the
queue. -/
def Rule.QueueResults : Prop :=
  ∀ (s : State) (g : Guard) (d a q : R5) (hq : q.toNat < 8),
    (Issues64 s g ⟨[a], [], [], [a]⟩ →
      exec (.qpush g a q) s = .next ((s.addEff (.entry (sigEntry s (.qpush q.toNat (s.x a))))).issued g.sync)) ∧
    (∀ v vs, s.my.q[q.toNat] = v :: vs →
      let took : State := ((s.modMy fun t => { t with q := t.q.set q.toNat vs }).modBlk fun b =>
        { b with taken := b.taken ++ [.queue q.toNat v] }).acquire .core
      (Issues64 s g ⟨[d], [], [], []⟩ → exec (.qpop g d q) s = .next ((took.setX d v).issued g.sync) ∧
        exec (.qpeek g d q) s = .next ((s.setX d v).issued g.sync)) ∧
      (Issues64 s g ⟨[], [d], [], []⟩ → exec (.qpopp g d q) s = .next ((took.setP d v).issued g.sync))) ∧
    (s.my.q[q.toNat] = [] →
      (Issues64 s g ⟨[d], [], [], []⟩ → ∀ i ∈ [Instr.qpop g d q, .qpeek g d q], exec i s = .next (s.held .token)) ∧
      (Issues64 s g ⟨[], [d], [], []⟩ → exec (.qpopp g d q) s = .next (s.held .token)))

/-- R211, R369: a ring operation, alone in its block with exits without waits, on an aligned ring its context may reach, with one true
exit and its turn come, is performed in one step (the one step, the order of the checks and the EVAL of 0 without a ticket are the model's
reading, notes/assumptions/28.md): it answers as the operation does, writes x[d], and its block commits. An operation
that cannot proceed holds its instruction, and one that is wrong traps RINGERR with its ticket; with no true exit or several, it traps
EXITERR with their number and performs nothing. -/
def Rule.RingResults : Prop :=
  ∀ (s : State) (g : Guard) (sp3 : BitVec 3) (sp : Space) (d a b : R5) (n : BitVec 14) (rel acq : Bool) (slot : Option Nat) (us : List R5)
    (op : Ring → State → RingOut) (tkt : State → Nat) (i : Instr),
    Issues64 s g ⟨d :: us, [], [], us⟩ → ringAlone s = true → ringSpace sp3 = some sp → (s.x a).toNat % 64 = 0 →
    let rb := (s.x a).toNat
    let t32 (s : State) : Nat := ((s.x b).extractLsb' 0 32).toNat
    let c := 64 * n.toNat
    (i = .rngtk g sp3 d a ∧ us = [a] ∧ op = ringTake ∧ slot = none ∧ rel = false ∧ acq = false ∧ tkt = fun _ => 0) ∨
      (i = .rngput g sp3 d a b n ∧ us = [a, b] ∧ (op = fun r s' => ringPut r (t32 s') (s'.read (localKey s' s'.cur .c 0 c) 64) s') ∧
        slot = some c ∧ rel = true ∧ acq = false ∧ tkt = t32) ∨
      (i = .rngget g sp3 d a n ∧ us = [a] ∧ (op = fun r s' => ringGet r c s') ∧ slot = some c ∧ rel = false ∧ acq = true ∧
        tkt = fun _ => 0) ∨
      (i = .rngeos g sp3 a b ∧ d = 0 ∧ us = [a, b] ∧ (op = fun r s' => ringEos r (t32 s') s') ∧ slot = none ∧ rel = false ∧ acq = false ∧
        tkt = t32) →
    let r := ringAt (claimPart s sp s.my.cid rb 64) s.cur sp rb
    let sc : Scope := if sp = .k then .eight else if rb / 2 ^ 25 = dieOf s.cur.core then .die else .package
    let e : Entry := { mkEntry s 1 (if rel then .release else if acq then .acquire else .strong) sc sp 0 rb r.bytes
      (.amo .add true 0 0 0) with uid := s.uid }
    checkAddr s s.cur s.my.cid sp rb 64 false = none → checkAddr s s.cur s.my.cid sp (rb + r.bytes - 1) 1 false = none →
    (slot.isSome = true → checkAddr s s.cur s.my.cid .c c 64 false = none) →
    (∀ bl, s.blk = some bl → PredsClean s ((bl.words.drop 2).map fun w => (exitOf w).1)) →
    (ringExits s ≠ 1 → exec i s = .next (trapAt s s.cur 0x04 (BitVec.ofNat 64 (ringExits s)) false)) ∧
    (ringExits s = 1 → eligible { s with paths := s.paths ++ [e] } e = true → s.soft = [] → s.poison = [] → bits r.h 97 4 < 13 →
    let w := atBank s e
    let u := e.who.harden w
    (op r u = .err → exec i s = .next (trapAt s s.cur 0x10 (BitVec.ofNat 64 (tkt s)) false)) ∧
    (op r u = .wait → exec i s = .next (w.held .token)) ∧
    (∀ v y, op r u = .ok v y →
      let k := match s.blk with | some b => b.words.length - 2 | none => 0
      let z := runExits k ((((if acq then y.acquire sc else y).setX d v).tokens g.sync).next)
      (∀ bl, z.blk = some bl → exitTrap z.my s.cur.eng bl = none → (commitBlock z s.cur).blk = none →
        exec i s = .next (commitBlock z s.cur))))

/-- Queues between streams, and rings in shared memory: Rule.QueueResults, Rule.RingResults. -/
def Obligations.QueuesAndRings : Prop := Rule.QueueResults ∧ Rule.RingResults

/-- R227: a finite value that its type holds exactly is its own rounding, in every mode, with no flag. -/
def Rule.ExactRounds : Prop :=
  ∀ (ty : Ty) (rm : Nat) (sat neg : Bool) (v m : Nat) (e : Int), ty.isFloat = true → v < 2 ^ ty.bits → fpOf ty v = .fin neg m e →
    convTo ty rm sat (fpOf ty v) = (v, 0)

/-- R374, R231, R379: the floating-point operations issue and write each element of each active lane the result of its elements under
FPMODE, whose flags join VSTAT. -/
def Rule.VectorFloatResults : Prop :=
  ∀ (s : State) (g : Guard) (ty : Ty) (vd va vb vc : R6),
    let el (v : R6) (l j : Nat) : Nat := elem ty (laneAt (s.v v) l) j
    let x (v : R6) (l j : Nat) : Fp := fpOf ty (el v l j)
    let writes (i : Instr) (f : Nat → Nat → Nat × Fl) : Prop :=
      ∃ t, exec i s = .next t ∧ LanesWritten s t g.pred vd fun l => mapElems ty fun j => f l j
    let r := s.rm
    let z := s.sat8
    (IssuesVV s g ⟨[], [], [vd, va, vb], []⟩ [va, vb] →
      writes (.vaddF g ty vd va vb) (fun l j => fAdd ty r z (x va l j) (x vb l j)) ∧
      writes (.vsubF g ty vd va vb) (fun l j => fAdd ty r z (x va l j) (fpNeg (x vb l j))) ∧
      writes (.vmulF g ty vd va vb) (fun l j => fMul ty r z (x va l j) (x vb l j)) ∧
      writes (.vdiv g ty vd va vb) (fun l j => fDiv ty r z (x va l j) (x vb l j)) ∧
      writes (.vminF g ty vd va vb) (fun l j => fMinMax ty false (el va l j) (el vb l j)) ∧
      writes (.vmaxF g ty vd va vb) (fun l j => fMinMax ty true (el va l j) (el vb l j))) ∧
    (IssuesVV s g ⟨[], [], [vd, va, vb, vc], []⟩ [va, vb, vc] →
      writes (.vfma g ty vd va vb vc) (fun l j => fFma ty r z (x va l j) (x vb l j) (x vc l j)) ∧
      writes (.vfms g ty vd va vb vc) (fun l j => fFma ty r z (x va l j) (x vb l j) (fpNeg (x vc l j))) ∧
      writes (.vfnma g ty vd va vb vc) (fun l j => fFma ty r z (fpNeg (x va l j)) (x vb l j) (x vc l j))) ∧
    (IssuesVV s g ⟨[], [], [vd, va], []⟩ [va] →
      writes (.vabsF g ty vd va) (fun l j => (el va l j % ty.signBit, 0)) ∧
      writes (.vneg g ty vd va) (fun l j =>
        (if ty.signBit ≤ el va l j then el va l j - ty.signBit else el va l j + ty.signBit, 0)) ∧
      writes (.vsqrt g ty vd va) (fun l j => fSqrt ty r z (x va l j)) ∧
      writes (.vexp2 g ty vd va) (fun l j => fExp2 ty r z (x va l j)) ∧
      writes (.vlog2 g ty vd va) (fun l j => fLog2 ty r z (x va l j)) ∧
      writes (.vrcp g ty vd va) (fun l j => fRcp ty r z (x va l j)) ∧
      writes (.vrsqrt g ty vd va) (fun l j => fRsqrt ty r z (x va l j)) ∧
      writes (.vsig g ty vd va) (fun l j => fSig ty r z (x va l j)) ∧
      writes (.vtanh g ty vd va) (fun l j => fTanh ty r z (x va l j)))

/-- Rounding to a type, and the floating-point vector instructions, the transcendental functions among them: Rule.ExactRounds,
Rule.VectorFloatResults. -/
def Obligations.FloatingPoint : Prop := Rule.ExactRounds ∧ Rule.VectorFloatResults

/-- R375: the integer operations issue and write each element of each active lane the result modulo the element's width, with no
flag. -/
def Rule.VectorIntegerResults : Prop :=
  ∀ (s : State) (g : Guard) (ty : Ty) (vd va vb : R6),
    let el (v : R6) (l j : Nat) : Nat := elem ty (laneAt (s.v v) l) j
    let i (v : R6) (l j : Nat) : Int := iVal ty (el v l j)
    let writes (k : Instr) (f : Nat → Nat → Nat) : Prop :=
      ∃ t, exec k s = .next t ∧ LanesWritten s t g.pred vd fun l => mapElems ty fun j => (f l j, 0)
    let w := ty.bits
    (IssuesVV s g ⟨[], [], [vd, va, vb], []⟩ [va, vb] →
      writes (.vaddI g ty vd va vb) (fun l j => intBits ty (i va l j + i vb l j)) ∧
      writes (.vsubI g ty vd va vb) (fun l j => intBits ty (i va l j - i vb l j)) ∧
      writes (.vmulI g ty vd va vb) (fun l j => intBits ty (i va l j * i vb l j)) ∧
      writes (.vmulh g ty vd va vb) (fun l j => intBits ty (i va l j * i vb l j / (2 ^ w : Nat))) ∧
      writes (.vand g ty vd va vb) (fun l j => el va l j &&& el vb l j) ∧
      writes (.vor g ty vd va vb) (fun l j => el va l j ||| el vb l j) ∧
      writes (.vxor g ty vd va vb) (fun l j => el va l j ^^^ el vb l j) ∧
      writes (.vandn g ty vd va vb) (fun l j => el va l j &&& (2 ^ w - 1 - el vb l j)) ∧
      writes (.vsll g ty vd va vb) (fun l j => el va l j * 2 ^ (el vb l j % w) % 2 ^ w) ∧
      writes (.vsrl g ty vd va vb) (fun l j => el va l j / 2 ^ (el vb l j % w)) ∧
      writes (.vsra g ty vd va vb) (fun l j => intBits ty (i va l j / (2 ^ (el vb l j % w) : Nat))) ∧
      writes (.vminI g ty vd va vb) (fun l j => intBits ty (min (i va l j) (i vb l j))) ∧
      writes (.vmaxI g ty vd va vb) (fun l j => intBits ty (max (i va l j) (i vb l j)))) ∧
    (IssuesVV s g ⟨[], [], [vd, va], []⟩ [va] →
      writes (.vabsI g ty vd va) (fun l j => intBits ty (i va l j).natAbs))

/-- R226, R372: a lane packed from elements holds each of them at its place, cut to its width. -/
def Rule.PackedElements : Prop :=
  ∀ (ty : Ty) (xs : List Nat) (j : Nat), ty.bits * ty.epl ≤ 32 → xs.length ≤ ty.epl → j < xs.length →
    elem ty (packLane ty xs) j = xs.getD j 0 % 2 ^ ty.bits

/-- Integer vector instructions on packed elements: Rule.VectorIntegerResults, Rule.PackedElements. -/
def Obligations.VectorIntegers : Prop := Rule.VectorIntegerResults ∧ Rule.PackedElements

/-- R376, R372: a comparison writes the bits of p[pd] of its active lanes, of one element of each, and leaves the others; a class test
likewise. No vector register and no memory changes. -/
def Rule.VectorCompareResults : Prop :=
  ∀ (s : State) (g : Guard) (ty : Ty) (pd : R5) (va vb el : R6), pd.toNat < 24 →
    let a (l : Nat) : Nat := elem ty (laneAt (s.v va) l) el.toNat
    let b (l : Nat) : Nat := elem ty (laneAt (s.v vb) l) el.toNat
    let writes (i : Instr) (c : Nat → Prop) : Prop := ∃ t, exec i s = .next t ∧
      (∀ l, l < 64 → laneOn s g.pred l = true → ((t.p pd).getLsbD l = true ↔ c l)) ∧
      (∀ l, l < 64 → laneOn s g.pred l = false → (t.p pd).getLsbD l = (s.p pd).getLsbD l) ∧
      (∀ q, q ≠ pd → t.p q = s.p q) ∧ (∀ v, t.v v = s.v v) ∧ (∀ r, t.x r = s.x r) ∧ t.mem = s.mem
    (IssuesVV s g ⟨[], [pd], [va, vb], []⟩ [va, vb] →
      (ty.isFloat = false →
        writes (.vcmpEq g ty pd va vb el) (fun l => iVal ty (a l) = iVal ty (b l)) ∧
        writes (.vcmpNe g ty pd va vb el) (fun l => iVal ty (a l) ≠ iVal ty (b l)) ∧
        writes (.vcmpLt g ty pd va vb el) (fun l => iVal ty (a l) < iVal ty (b l)) ∧
        writes (.vcmpLe g ty pd va vb el) (fun l => iVal ty (a l) ≤ iVal ty (b l)) ∧
        writes (.vcmpGt g ty pd va vb el) (fun l => iVal ty (b l) < iVal ty (a l)) ∧
        writes (.vcmpGe g ty pd va vb el) (fun l => iVal ty (b l) ≤ iVal ty (a l))) ∧
      (ty.isFloat = true →
        let x (l : Nat) : Fp := fpOf ty (a l)
        let y (l : Nat) : Fp := fpOf ty (b l)
        writes (.vcmpEq g ty pd va vb el) (fun l => fpEq (x l) (y l) = true) ∧
        writes (.vcmpNe g ty pd va vb el) (fun l => fpEq (x l) (y l) = false) ∧
        writes (.vcmpLt g ty pd va vb el) (fun l => fpLt (x l) (y l) false = true) ∧
        writes (.vcmpLe g ty pd va vb el) (fun l => fpLt (x l) (y l) false = true ∨ fpEq (x l) (y l) = true) ∧
        writes (.vcmpGt g ty pd va vb el) (fun l => fpLt (y l) (x l) false = true) ∧
        writes (.vcmpGe g ty pd va vb el) (fun l => fpLt (y l) (x l) false = true ∨ fpEq (x l) (y l) = true))) ∧
    (IssuesVV s g ⟨[], [pd], [va], []⟩ [va] → writes (.vclass g ty pd va vb el) (fun l => classIn ty vb (a l) = true))

/-- R377, R378: a conversion writes the elements of its part of each active lane, converted by its mode; vpack joins two sources in one
lane and vunpack spreads one over two registers. The flags of a conversion are as the model reads R228 and R378 (notes/assumptions/35.md).
-/
def Rule.VectorConvertResults : Prop :=
  ∀ (s : State) (g : Guard) (ty sty : Ty) (vd va vc pt : R6),
    let lane (rm : Nat) (sat : Bool) (l : Nat) : W32 × Fl := cvtLane ty sty rm sat pt.toNat (laneAt (s.v vd) l) (laneAt (s.v va) l)
    let writes (i : Instr) (rm : Nat) (sat : Bool) : Prop := ∃ t, exec i s = .next t ∧ LanesWritten s t g.pred vd (lane rm sat)
    (IssuesVV s g ⟨[], [], [vd, va], []⟩ [vd, va] →
      writes (.cvtRne g ty sty vd va pt) 0 s.sat8 ∧ writes (.cvtRtz g ty sty vd va pt) 1 s.sat8 ∧
      writes (.cvtRup g ty sty vd va pt) 2 s.sat8 ∧ writes (.cvtRdn g ty sty vd va pt) 3 s.sat8 ∧
      writes (.cvtSat g ty sty vd va pt) 0 true) ∧
    (IssuesVV s g ⟨[], [], [vd, va, vc], []⟩ [va, vc] → ∃ t, exec (.vpack g ty sty vd va vc) s = .next t ∧
      LanesWritten s t g.pred vd fun l => mapElems ty fun j => convTo ty s.rm s.sat8 (fpOf sty
        (if j < sty.epl then elem sty (laneAt (s.v va) l) j else elem sty (laneAt (s.v vc) l) (j - sty.epl)))) ∧
    (IssuesVV s g ⟨[], [], [vd, vd + 1, va], []⟩ [va] → ∃ t, exec (.vunpack g ty sty vd va) s = .next t ∧
      let half (k l : Nat) : W32 := (mapElems ty fun j => convTo ty s.rm s.sat8 (fpOf sty (elem sty (laneAt (s.v va) l) (k * ty.epl + j)))).1
      (∀ l, l < 64 → laneOn s g.pred l = true → laneAt (t.v vd) l = half 0 l ∧ laneAt (t.v (vd + 1)) l = half 1 l) ∧
      (∀ l, l < 64 → laneOn s g.pred l = false →
        laneAt (t.v vd) l = laneAt (s.v vd) l ∧ laneAt (t.v (vd + 1)) l = laneAt (s.v (vd + 1)) l) ∧
      (∀ v, v ≠ vd → v ≠ vd + 1 → t.v v = s.v v) ∧ t.mem = s.mem)

/-- Vector compares, vclass, conversions, vpack and vunpack: Rule.VectorCompareResults, Rule.VectorConvertResults. -/
def Obligations.VectorComparesAndConversions : Prop := Rule.VectorCompareResults ∧ Rule.VectorConvertResults

/-- R380, R251: whole lanes are moved as each instruction says, active ones only; vlane reads one lane. A shift past its range traps ILLOP
with the head word, a lane number past its range with that number. -/
def Rule.LaneMoves : Prop :=
  ∀ (s : State) (g : Guard) (vd va vb : R6) (xa pc : R5),
    let writes (i : Instr) (f : Nat → W32) : Prop := ∃ t, exec i s = .next t ∧ LanesWritten s t g.pred vd fun l => (f l, 0)
    let a (l : Nat) : W32 := laneAt (s.v va) l
    let n := (s.x xa).toNat
    (IssuesVV s g ⟨[xa], [], [vd], [xa]⟩ [] → writes (.vbcast g vd xa) (fun _ => (s.x xa).extractLsb' 0 32)) ∧
    (IssuesVV s g ⟨[], [], [vd, va, vb], []⟩ [va, vb] →
      writes (.vperm g vd va vb) (fun l => a ((laneAt (s.v vb) l).toNat % 64))) ∧
    (IssuesVV s g ⟨[], [pc], [vd, va, vb], []⟩ [va, vb] →
      writes (.vsel g vd va vb pc) (fun l => if (s.p pc).getLsbD l then a l else laneAt (s.v vb) l)) ∧
    (IssuesVV s g ⟨[], [], [vd, va], []⟩ [va] → writes (.vmov g vd va) a) ∧
    (IssuesVV s g ⟨[xa], [], [vd, va], [xa]⟩ [va] →
      writes (.vrot g vd va xa) (fun l => a ((l + n) % 64)) ∧
      (n ≤ 64 → writes (.vshl g vd va xa) (fun l => if n ≤ l then a (l - n) else 0)) ∧
      (64 < n → exec (.vshl g vd va xa) s = .next (trapAt s s.cur 0x01 (s.headWord.zeroExtend 64) false))) ∧
    (∀ xd : R5, IssuesVV s g ⟨[xd, xa], [], [va], [xa]⟩ [va] →
      (n ≤ 63 → exec (.vlane g xd va xa) s = .next ((s.setX xd ((a n).zeroExtend 64)).issued g.sync)) ∧
      (63 < n → exec (.vlane g xd va xa) s = .next (trapAt s s.cur 0x01 (s.x xa) false)))

/-- R381, R233: a reduction gives every lane the value of its pairwise tree over the 64 lanes, inactive ones giving the identity; vscan
gives lane l the running sum up to it. -/
def Rule.ReductionResults : Prop :=
  ∀ (s : State) (g : Guard) (ty : Ty) (vd va : R6), IssuesVV s g ⟨[], [], [vd, va], []⟩ [va] →
    let col (ident j : Nat) : List Nat := (List.range 64).map fun l => if laneOn s g.pred l then elem ty (laneAt (s.v va) l) j else ident
    let js := List.range ty.epl
    let all (op : Nat → Nat → Nat × Fl) (ident : Nat) (i : Instr) : Prop := ∃ t, exec i s = .next t ∧
      RowWritten s t vd (fun _ => packLane ty (js.map fun j => (reduceTree op 6 (col ident j)).1))
        (orFlags (js.map fun j => (reduceTree op 6 (col ident j)).2))
    all (redAdd ty) (if ty.isFloat then ty.signBit else 0) (.vredadd g ty vd va) ∧
    all (redMax ty) (if ty.isFloat then ty.infBits true else intBits ty ty.iMin) (.vredmax g ty vd va) ∧
    all (redMin ty) (if ty.isFloat then ty.infBits false else intBits ty ty.iMax) (.vredmin g ty vd va) ∧
    (let scan (j : Nat) : List Nat × Fl := match col (if ty.isFloat then ty.signBit else 0) j with
        | [] => ([], 0)
        | x :: xs => (x :: (scanSum (redAdd ty) x xs).1, (scanSum (redAdd ty) x xs).2)
      ∃ t, exec (.vscan g ty vd va) s = .next t ∧
        RowWritten s t vd (fun l => packLane ty (js.map fun j => (scan j).1.getD l 0)) (orFlags (js.map fun j => (scan j).2)))

/-- Lane moves, reductions and scans: Rule.LaneMoves, Rule.ReductionResults. -/
def Obligations.LaneMovesAndReductions : Prop := Rule.LaneMoves ∧ Rule.ReductionResults

/-- R382, R383: a vector access whose active lanes all pass their checks issues with one entry for each, ascending; the first lane that
fails traps with its own address. A lane of a load that would meet a translation fault lets the load issue, unless a later lane traps:
then the load waits for that fault's answer, or traps XLATE where there can be none. In .l, behind a list command of its own block, an
access traps ILLOP (R388). -/
def Rule.VectorMemoryResults : Prop :=
  ∀ (s : State) (g : Guard) (sp : Space) (ty : Ty) (vd vb : R6) (xa xb : R5),
    let ls := activeLanes s g.pred
    let w := memW ty
    let illop (i : Instr) : Prop := lanesBusy s sp = true → exec i s = .next (trapAt s s.cur 0x01 (s.headWord.zeroExtend 64) false)
    let loads (i : Instr) (ad : Nat → W64) : Prop := illop i ∧ (lanesBusy s sp = false →
      ((∀ l ∈ ls, ∀ c v, loadCheck s sp w (ad l) ≠ some (.trap c v)) → exec i s =
        .next ((ls.foldl (fun t l => t.load 0 .weak .core sp (laneOf sp l) (ad l).toNat w (.vlane vd l ty)) s).issued g.sync)) ∧
      (∀ pre l post c v, ls = pre ++ l :: post → (∀ k ∈ pre, loadCheck s sp w (ad k) = none) → loadCheck s sp w (ad l) = some (.trap c v) →
        exec i s = .next (trapAt s s.cur c v false)) ∧
      (∀ pre k mid l post c v a r rg, ls = pre ++ k :: (mid ++ l :: post) → (∀ j ∈ pre, loadCheck s sp w (ad j) = none) →
        loadCheck s sp w (ad k) = some (.miss a r rg) → (∀ j ∈ mid, ∀ c v, loadCheck s sp w (ad j) ≠ some (.trap c v)) →
        loadCheck s sp w (ad l) = some (.trap c v) →
        (∀ f u, raiseFault s s.my.cid a r (rg.kind 0) = (some f, u) →
          exec i s = .next ((u.modMe fun st => { st with fwait := some (f, (ad k).toNat) }).held .memory)) ∧
        (∀ u, raiseFault s s.my.cid a r (rg.kind 0) = (none, u) → exec i s = .next (trapAt s s.cur 0x06 (ad k) false))))
    let stores (i : Instr) (ad : Nat → W64) : Prop := illop i ∧ (lanesBusy s sp = false → s.my.c.tl = 0 ∨ sp ≠ .g →
      ((∀ l ∈ ls, formAddr s sp (ad l) 0 w = .ok (ad l).toNat) → exec i s =
        .next ((ls.foldl (fun t l => t.addEff (.entry (mkEntry s 0 .weak .core sp (laneOf sp l) (ad l).toNat w
          (.store (toBytes w (laneAt (s.v vd) l).toNat))))) s).issued g.sync)) ∧
      (∀ pre l post c v, ls = pre ++ l :: post → (∀ k ∈ pre, formAddr s sp (ad k) 0 w = .ok (ad k).toNat) →
        formAddr s sp (ad l) 0 w = .error (c, v) → exec i s = .next (trapAt s s.cur c v false)))
    let strided (l : Nat) : W64 := s.x xa + BitVec.ofNat 64 l * s.x xb
    let indexed (l : Nat) : W64 := s.x xa + (laneAt (s.v vb) l).zeroExtend 64
    (IssuesVV s g ⟨[xa, xb], [], [vd], [xa, xb]⟩ [] → loads (.vld g sp ty vd xa xb) strided) ∧
    (IssuesVV s g ⟨[xa, xb], [], [vd], [xa, xb]⟩ [vd] → stores (.vst g sp ty xa xb vd) strided) ∧
    (IssuesVV s g ⟨[xa], [], [vd, vb], [xa]⟩ [vb] → loads (.vldi g sp ty vd xa vb) indexed) ∧
    (IssuesVV s g ⟨[xa], [], [vb, vd], [xa]⟩ [vb, vd] → stores (.vsti g sp ty xa vb vd) indexed)

/-- R385, R372: vldb of a FULL handle acquires and issues one load of 256 bytes for each of its rows, of which the active lanes are
written; of a handle that is not FULL it is held, before its length is checked (the model's reading, notes/assumptions/26.md), and through
a register with SP 5 to 7 or without a handle it traps ILLOP (R198). -/
def Rule.BufferLoadResults : Prop :=
  ∀ (s : State) (g : Guard) (vd n : R6) (sa : BitVec 4) (xb : R5) (sp : Space),
    IssuesVV s g ⟨[xb], [], (List.range n.toNat).map fun i => vd + BitVec.ofNat 6 i, [xb]⟩ [] → SregsClean s [sa] →
    let v := s.sreg sa
    let h := sHdl v
    let off := 256 * (s.x xb).toNat
    let mask : W64 := if g.pred = 31 then BitVec.allOnes 64 else s.p g.pred
    (sSp v < 5 → v.getLsbD 63 = true → s.my.hst h = 2 → handleTrap s h (off + 256 * n.toNat) = none → hSpace (s.hreg h) = some sp →
      exec (.vldb g vd sa xb n) s = .next ((((List.range n.toNat).foldl (fun t i =>
        t.load 0 .weak .core sp 0 (hBase (s.hreg h) + off + 256 * i) 256 (.vrow (vd + BitVec.ofNat 6 i) mask)) (s.acquire .package)).addEff
          (.drain h)).issued g.sync)) ∧
    (∀ c e, sSp v < 5 → v.getLsbD 63 = true → s.my.hst h = 2 → handleTrap s h (off + 256 * n.toNat) = some (c, e) →
      exec (.vldb g vd sa xb n) s = .next (trapAt s s.cur c e false)) ∧
    (sSp v < 5 → v.getLsbD 63 = true → s.my.hst h ≠ 2 → ∃ t, exec (.vldb g vd sa xb n) s = .next t ∧ t.me.hold = .handle ∧ KeptBut [] [] [] s t) ∧
    (5 ≤ sSp v ∨ v.getLsbD 63 = false → exec (.vldb g vd sa xb n) s = .next (trapAt s s.cur 0x01 (sa.zeroExtend 64) false))

/-- Vector loads and stores, and vldb: Rule.VectorMemoryResults, Rule.BufferLoadResults. -/
def Obligations.VectorMemory : Prop := Rule.VectorMemoryResults ∧ Rule.BufferLoadResults

/-- R386 to R388: a sparse-list instruction whose active lanes' descriptors pass their checks issues with one command over the two
lists and the output of each active lane; a failed check traps. -/
def Rule.SparseListResults : Prop :=
  ∀ (s : State) (g : Guard) (ty : Ty) (vd va vb : R6) (pc : R5), IssuesVV s g ⟨[], [pc], [vd, va, vb], []⟩ [vd, va, vb] →
    let ls := activeLanes s g.pred
    let chk (l : Nat) : Option (Nat × W64) := listTrap (laneAt (s.v va) l) (laneAt (s.v vb) l) (laneAt (s.v vd) l)
    let issues (op : BitVec 2) (i : Instr) : Prop :=
      ((∀ l ∈ ls, chk l = none) → ∃ t c, exec i s = .next t ∧ t = (s.addEff (.cmd c)).issued g.sync ∧
        c.op = .list op ty vd va vb pc (ls.foldl (fun m l => m ||| (1 : W64) <<< l) 0) ∧
        (∀ l ∈ ls, ∀ k, k < 2 * dCnt (laneAt (s.v va) l) →
          mkEntry s 0 .weak .core .l l (dOff (laneAt (s.v va) l) + 4 * k) 4 (.cread 0 (listPos l 0 + 4 * k)) ∈ c.ents) ∧
        (∀ l ∈ ls, ∀ k, k < 2 * dCnt (laneAt (s.v vd) l) →
          mkEntry s 0 .weak .core .l l (dOff (laneAt (s.v vd) l) + 4 * k) 4 (.cwrite 0 (listPos l 2 + 4 * k)) ∈ c.ents)) ∧
      (∀ l c v, ls.head? = some l → chk l = some (c, v) → exec i s = .next (trapAt s s.cur c v false))
    issues 0 (.vmrg g ty vd va vb pc) ∧ issues 1 (.visect g ty vd va vb pc) ∧ issues 2 (.vunion g ty vd va vb pc)

/-- R389, R390, R239: the threshold zeroes the elements that count as zero; compression moves the lanes that do not to the front in order
and gives their number, vnzidx lists their numbers, and expansion undoes it by a predicate. -/
def Rule.ThresholdResults : Prop :=
  (∀ (s : State) (g : Guard) (ty : Ty) (vd va : R6), IssuesVV s g ⟨[], [], [vd, va], []⟩ [va] →
    let e (l j : Nat) : Nat := elem ty (laneAt (s.v va) l) j
    ∃ t, exec (.vthr g ty vd va) s = .next t ∧ (∀ l, l < 64 → laneAt (t.v vd) l = if laneOn s g.pred l then
        packLane ty ((List.range ty.epl).map fun j => if (countsZero ty s.thr (e l j)).1 then 0 else e l j)
        else laneAt (s.v vd) l) ∧
      (∀ v, v ≠ vd → t.v v = s.v v) ∧ t.mem = s.mem) ∧
  (∀ (s : State) (g : Guard) (ty : Ty) (vd va : R6) (xc : R5), IssuesVV s g ⟨[xc], [], [vd, va], []⟩ [va] →
    let live := (List.range 64).filter fun l => !(countsZero ty s.thr (laneAt (s.v va) l).toNat).1
    (∃ t, exec (.vcmpr g ty vd va xc) s = .next t ∧
      (∀ l, l < 64 → laneAt (t.v vd) l = if l < live.length then laneAt (s.v va) (live.getD l 0) else 0) ∧
      (xc ≠ 0 → t.x xc = BitVec.ofNat 64 live.length) ∧ (∀ v, v ≠ vd → t.v v = s.v v) ∧ (∀ a, a ≠ xc → t.x a = s.x a) ∧ t.mem = s.mem) ∧
    (∃ t, exec (.vnzidx g ty vd va xc) s = .next t ∧
      (∀ l, l < 64 → laneAt (t.v vd) l = if l < live.length then BitVec.ofNat 32 (live.getD l 0) else 64) ∧
      (xc ≠ 0 → t.x xc = BitVec.ofNat 64 live.length) ∧ (∀ v, v ≠ vd → t.v v = s.v v) ∧ (∀ a, a ≠ xc → t.x a = s.x a) ∧ t.mem = s.mem)) ∧
  (∀ (s : State) (g : Guard) (ty : Ty) (vd va : R6) (pc : R5), IssuesVV s g ⟨[], [pc], [vd, va], []⟩ [va] →
    ∃ t, exec (.vexpd g ty vd va pc) s = .next t ∧ RowWritten s t vd (fun l => if (s.p pc).getLsbD l then
      laneAt (s.v va) ((List.range l).filter fun k => (s.p pc).getLsbD k).length else 0) 0)

/-- R391, R392, R235: quantising writes eight codes and scales from eight blocks of eight lanes, dequantising the 64 products, vamax each
block's greatest magnitude, and vbscl the scale code of a magnitude. -/
def Rule.QuantiseResults : Prop :=
  ∀ (s : State) (g : Guard) (vd va vb : R6),
    let band := bandScale (s.v vb)
    (IssuesVV s g ⟨[], [], [vd, va, vb], []⟩ [va, vb] →
      (let blk (b : Nat) : Nat × List Nat × Bool × Bool × Bool := quant8 ((List.range 8).map fun i =>
          fpOf .f32 (fDiv .f32 0 false (fpOf .f32 (laneAt (s.v va) (8 * b + i)).toNat) band.1).1)
        ∃ t, exec (.vqnt g vd va vb) s = .next t ∧
          (∀ b, b < 8 → laneAt (t.v vd) b = packLane .e2m1 (blk b).2.1) ∧
          (∀ k, k < 2 → laneAt (t.v vd) (8 + k) = packLane .n8 ((List.range 4).map fun i => (blk (4 * k + i)).1)) ∧
          (∀ l, 10 ≤ l → l < 64 → laneAt (t.v vd) l = 0) ∧ (∀ v, v ≠ vd → t.v v = s.v v) ∧ t.mem = s.mem) ∧
      (let r (l : Nat) : Nat × Fl := mul3 (fpOf .e2m1 (elem .e2m1 (laneAt (s.v va) (l / 8)) (l % 8)))
          (fpOf .e3m5 (elem .n8 (laneAt (s.v va) (8 + l / 8 / 4)) (l / 8 % 4))) band.1
        ∃ t, exec (.vdqnt g vd va vb) s = .next t ∧
          RowWritten s t vd (fun l => BitVec.ofNat 32 (r l).1) (band.2 ||| orFlags ((List.range 64).map fun l => (r l).2)))) ∧
    (IssuesVV s g ⟨[], [], [vd, va], []⟩ [va] →
      (∃ t, exec (.vamax g vd va) s = .next t ∧ RowWritten s t vd
        (fun l => BitVec.ofNat 32 ((List.range 8).foldl (fun m i => max m (magBits (laneAt (s.v va) (8 * (l / 8) + i)))) 0))
        (if (List.range 64).any fun l => (fpOf .f32 (laneAt (s.v va) l).toNat).isNan then fNV else 0)) ∧
      (∃ t, exec (.vbscl g vd va) s = .next t ∧ LanesWritten s t g.pred vd fun l =>
        match fpOf .f32 (laneAt (s.v va) l).toNat with
        | .nan => (0, fNV)
        | .inf n => if n then (0, fNV) else (0xFF, 0)
        | .fin n m e => if n && m ≠ 0 then (0, fNV) else (BitVec.ofNat 32 (scaleFor (magQ (.fin false m e))).1, 0)))

/-- Sparse lists, thresholds, compaction and quantisation: Rule.SparseListResults, Rule.ThresholdResults, Rule.QuantiseResults. -/
def Obligations.SparseAndQuantised : Prop := Rule.SparseListResults ∧ Rule.ThresholdResults ∧ Rule.QuantiseResults

/-- R119, R399 to R408: under the lease a shell command or B load whose checks pass, its bytes of memory within reach, issues with one
command, which takes its stream register's value, and through the handle of a fetched operand, then FREE; a failed check traps, in the
order of R399, the addresses after its five checks (the model's reading, notes/assumptions/103.md), and without the lease it traps LEASEERR.
A B load of e2m1 checks its scales as notes/assumptions/91.md reads R234. -/
def Rule.ShellResults : Prop :=
  ∀ (s : State) (g : Guard) (ty : Ty) (acc : BitVec 3) (sa si so : BitVec 4) (breg : BitVec 12) (sgr : BitVec 2) (form : BitVec 4),
    Issues64 s g ⟨[], [], [], []⟩ →
    let v := s.sreg sa
    let out (c : Cmd) : Host.Outcome State Fault Refusal :=
      .next ((s.addEff (.cmd (if fetched v then { c with prod := some (sHdl v) } else c))).issued g.sync)
    let trap (c : Nat) (e : W64) : Host.Outcome State Fault Refusal := .next (trapAt s s.cur c e false)
    let held : Prop := (shellAt s s.cur.core).holder = some s.cur.core
    let reach (c : Cmd) : Prop := entsTrap s c.ents = none
    let clear (n : Nat) (c : Cmd) : Prop := regTrap s sa false (some ty) = none ∧ mmaAccTrap s ty acc = none ∧
      operandTrap s sa true (scalesOf ty) = none ∧ imageTrap s sa n = none ∧ reach c
    let cmd (fn : BitVec 2) : Cmd := mmaCmd s fn ty acc sa breg sgr 1 []
    let gathered : Cmd := mmaCmd s 2 ty acc sa breg sgr 1 (rowList s si ++ rowList s so)
    let loaded : Cmd := { newCmd s (.mldb ty breg.toNat form.toNat) with s1 := v, ents := loadEntries s v ty form.toNat }
    let free : Prop := fetched v = true → s.my.hst (sHdl v) = 0
    (SregsClean s [sa, si, so] → held → s.soft = [] → s.poison = [] → s.mine = [] → regTrap s sa true (some ty) = none →
      regTrap s si true none = none →
      regTrap s so true none = none → mmaAccTrap s ty acc = none → operandTrap s sa true (scalesOf ty) = none →
      listAlign s si = none → listAlign s so = none → listTrap64 s si = none → listTrap64 s so = none → reach gathered →
      exec (.mmag g ty acc sa breg sgr si so) s = .next ((s.addEff (.cmd gathered)).issued g.sync)) ∧
    (SregsClean s [sa] →
    (held → free → clear (imageLen ty) (cmd 0) → exec (.mma g ty acc sa breg sgr) s = out (cmd 0)) ∧
    (held → free → clear (2 * imageLen ty) (cmd 1) → exec (.mmas g ty acc sa breg sgr) s = out (cmd 1)) ∧
    (∀ c e, regTrap s sa false (some ty) = some (c, e) → exec (.mma g ty acc sa breg sgr) s = trap c e) ∧
    (clear (imageLen ty) (cmd 0) → ¬ held → (shellAt s s.cur.core).reqs = [] → exec (.mma g ty acc sa breg sgr) s = trap 0x12 0) ∧
    (held → free → ¬ (form ≠ 0 ∧ breg = 4095) → regTrap s sa false (some ty) = none →
      operandTrap s sa true (scalesOf ty) = none → sStrideN v 3 % 8 = 0 → imageTrap s sa (loadLen ty form.toNat) = none →
      reach loaded → exec (.mldb g ty sa breg form) s = out loaded) ∧
    (form ≠ 0 → breg = 4095 → exec (.mldb g ty sa breg form) s = trap 0x01 4095))

/-- R404, R407, R409: mmak of a count in range issues with a command of that many steps, and of 0 with none; mlease with the lease held
passes and cancels pending releases, which stand again should its block be discarded (R130; the model's reading,
notes/assumptions/76.md), and without it is requested and held; mrel, mzero and maccd always issue. -/
def Rule.ShellControlResults : Prop :=
  (∀ (s : State) (g : Guard) (ty : Ty) (acc : BitVec 3) (sa si : BitVec 4) (breg : BitVec 12) (sgr : BitVec 2),
    IssuesS s g ⟨[si.zeroExtend 5], [], [], [si.zeroExtend 5]⟩ [sa] →
    let v := s.sreg sa
    let n := (s.x (si.zeroExtend 5)).toNat
    (shellAt s s.cur.core).holder = some s.cur.core → regTrap s sa false (some ty) = none → mmaAccTrap s ty acc = none →
    operandTrap s sa true (scalesOf ty) = none → imageTrap s sa (imageLen ty) = none →
    (n = 0 → exec (.mmak g ty acc sa breg sgr si) s = .next ((s.addEff (.cmd (mmaCmd s 3 ty acc sa breg sgr 0 []))).issued g.sync)) ∧
    (n ≠ 0 → breg.toNat + n ≤ 4096 → (sgr = 0 → n ≤ 256) → entsTrap s (mmaCmd s 3 ty acc sa breg sgr n []).ents = none → (fetched v = true → s.my.hst (sHdl v) = 0) →
      exec (.mmak g ty acc sa breg sgr si) s = .next ((s.addEff (.cmd (if fetched v then
        { mmaCmd s 3 ty acc sa breg sgr n [] with prod := some (sHdl v) } else mmaCmd s 3 ty acc sa breg sgr n []))).issued g.sync)) ∧
    (n ≠ 0 → 4096 < breg.toNat + n →
      exec (.mmak g ty acc sa breg sgr si) s = .next (trapAt s s.cur 0x01 (s.x (si.zeroExtend 5)) false))) ∧
  (∀ (s : State) (g : Guard) (ty : Ty) (acc : BitVec 3) (src : BitVec 4), Issues64 s g ⟨[], [], [], []⟩ →
    let sh := shellAt s s.cur.core
    (sh.holder = some s.cur.core → exec (.mlease g) s = .next ((cancelRel s).issued g.sync)) ∧
    (s.cur.core < 96 → sh.holder ≠ some s.cur.core → sh.reqs = [] → ∃ t, exec (.mlease g) s = .next t ∧ t.me.hold = .lease ∧
      (shellAt t s.cur.core).reqs = [s.cur.core] ∧ (shellAt t s.cur.core).holder = sh.holder ∧ t.mem = s.mem ∧
      (∀ a, t.x a = s.x a) ∧ t.me.pc = s.me.pc) ∧
    exec (.mrel g) s = .next ((s.addEff (.cmd (newCmd s .mrel))).issued g.sync) ∧
    exec (.mzero g ty acc) s = .next ((s.addEff (.cmd (newCmd s (.mzero acc ty)))).issued g.sync) ∧
    exec (.maccd g acc src) s = .next ((s.addEff (.cmd (newCmd s (.maccd acc (src.extractLsb' 0 3))))).issued g.sync))

/-- Shell commands at issue, and the control of shell and accumulators: Rule.ShellResults, Rule.ShellControlResults. -/
def Obligations.ShellCommands : Prop := Rule.ShellResults ∧ Rule.ShellControlResults

/-- R410, R411, R413: accumulator moves and epilogue steps whose checks pass issue with one command; a tile of converted type, or an s32
tile in a float step, traps ILLOP with the accumulator; mchk holds while a command of the stream that is queued, or stands in its open
block, names its accumulator (how a hold in its own block ends, and the hold's code, are the model's reading, notes/assumptions/90.md and
32.md), and else passes when every column agrees with its checksum word, and takes CHKERR with the lowest column that does not. -/
def Obligations.AccumulatorResults : Prop :=
  ∀ (s : State) (g : Guard) (ty : Ty) (acc : BitVec 3) (sa : BitVec 4) (mode : BitVec 4), Issues64 s g ⟨[], [], [], []⟩ →
    let v := s.sreg sa
    let b : BitVec 3 := sa.extractLsb' 0 3
    let x := accView s acc
    let y := accView s b
    let out (c : Cmd) : Host.Outcome State Fault Refusal := .next ((s.addEff (.cmd c)).issued g.sync)
    let bad : Host.Outcome State Fault Refusal := .next (trapAt s s.cur 0x01 (acc.zeroExtend 64) false)
    (SregsClean s [sa] → regTrap s sa true none = none → operandTrap s sa false 0 = none →
      (entsTrap s (accEntries s v (.cwrite 0)) = none →
        exec (.mrd g acc sa) s = out { newCmd s (.mrd acc) with s1 := v, ents := accEntries s v (.cwrite 0) }) ∧
      (entsTrap s (accEntries s v (.cread 0)) = none →
        exec (.mwr g ty acc sa) s = out { newCmd s (.mwr acc ty) with s1 := v, ents := accEntries s v (.cread 0) })) ∧
    (x.1 = x.2 →
      (SregsClean s [sa] → mode ≠ 3 → regTrap s sa true none = none → entsTrap s (epiReads s v mode.toNat) = none →
        exec (.escale g acc sa mode) s = out (epiCmd s 0 acc 0 .f32 mode.toNat v (epiReads s v mode.toNat))) ∧
      (mode = 3 → exec (.escale g acc sa mode) s = out (epiCmd s 0 acc 0 .f32 3 v [])) ∧
      (SregsClean s [sa] → regTrap s sa true none = none → entsTrap s (epiReads s v mode.toNat) = none →
        exec (.ebias g acc sa mode) s = out (epiCmd s 1 acc 0 .f32 mode.toNat v (epiReads s v mode.toNat))) ∧
      exec (.erelu g acc) s = out (epiCmd s 2 acc 0 .f32 0 0 []) ∧
      (x.1 ≠ .s32 → exec (.esig g acc) s = out (epiCmd s 3 acc 0 .f32 0 0 []) ∧
        exec (.esilu g acc) s = out (epiCmd s 4 acc 0 .f32 0 0 [])) ∧
      (x.1 = .s32 → exec (.esig g acc) s = bad ∧ exec (.esilu g acc) s = bad) ∧
      (y = x → exec (.emul g acc sa) s = out (epiCmd s 5 acc b .f32 0 0 []) ∧
        exec (.eadd g acc sa) s = out (epiCmd s 6 acc b .f32 0 0 [])) ∧
      (y ≠ x → exec (.emul g acc sa) s = bad ∧ exec (.eadd g acc sa) s = bad) ∧
      (convOk x.1 ty = true → exec (.econv g ty acc sa) s =
        out (epiCmd s 7 acc 0 ty (if sa.getLsbD 0 || (s.csr 0x005).getLsbD 2 then 1 else 0) 0 [])) ∧
      (convOk x.1 ty = false → exec (.econv g ty acc sa) s = bad)) ∧
    (x.1 ≠ x.2 → exec (.erelu g acc) s = bad ∧ exec (.esig g acc) s = bad ∧ exec (.esilu g acc) s = bad ∧ exec (.emul g acc sa) s = bad ∧
      exec (.eadd g acc sa) s = bad ∧ exec (.econv g ty acc sa) s = bad ∧ exec (.escale g acc sa 3) s = bad) ∧
    ((s.cmds.any fun op => op.accs.contains acc) = true → exec (.mchk g acc) s = .next (s.held .queueFull)) ∧
    ((s.cmds.any fun op => op.accs.contains acc) = false → s.soft = [] →
      ((s.my.accu acc).verify = (none, 0) → exec (.mchk g acc) s = .next (s.issued g.sync)) ∧
      (∀ n, (s.my.accu acc).verify = (some n, 0) →
        exec (.mchk g acc) s = .next (chkFail s s.cur (n + 64 * acc.toNat) false)))

/-- R416 to R420, R422: swb writes a FULL handle out by its stream register; swbacc, swbz and swbnm of an accumulator that no queued M
command names form their writes from it at issue, and issue with one command over the rows, the 64-byte pieces not all of whose written
bytes are zero, or the kept values and their metadata; sckstat reads SCK once no command of the stream is queued. That the accumulator and
SAT8 are taken at issue, and what EVAL an ALIGN trap has, are the model's reading, notes/assumptions/37.md; the holds' code is that of
notes/assumptions/32.md. -/
def Obligations.StoreEngineResults : Prop :=
  (∀ (s : State) (g : Guard) (i : BitVec 4) (h : R5) (sgr : BitVec 2) (gate : BitVec 6) (sp : Space), IssuesS s g ⟨[], [], [], []⟩ [i] →
    let v := s.sreg i
    let n := layoutN v * sBlen v
    (storeSpace s i = none → exec (.swb g i h sgr gate) s = .next (trapAt s s.cur 0x01 (i.zeroExtend 64) false)) ∧
    (storeSpace s i = some sp → endsTrap s sp (layoutEnds v).1 (layoutEnds v).2 true = none → handleTrap s h n = none →
      (s.my.hst h = 2 → exec (.swb g i h sgr gate) s = .next (((s.acquire .package).addEff (.cmd { newCmd s .swb with
        s1 := v, sgr := sgr, gate := gate.toNat, gateCore := gateHome s sp (sBase v), cons := [h]
        ents := bufEntries s 5 h n (.cread 0) ++ layoutEntries s 5 sp v (.cwrite 0) })).issued g.sync)) ∧
      (s.my.hst h ≠ 2 → ∃ t, exec (.swb g i h sgr gate) s = .next t ∧ t.me.hold = .handle ∧ KeptBut [] [] [] s t))) ∧
  (∀ (s : State) (g : Guard) (ty : Ty) (a b : R5) (i : BitVec 4) (gate : BitVec 6) (sp : Space),
    let v := s.sreg i
    let w := ty.bits / 8
    let acc : BitVec 3 := (s.x a).extractLsb' 0 3
    let t := s.my.accu acc
    let vals := storeTile t ty ((s.csr 0x005).getLsbD 2)
    let writes (fn : BitVec 2) (form : W64) (ps : List Piece) : Host.Outcome State Fault Refusal :=
      .next ((s.addEff (.cmd { newCmd s (.swbAcc fn acc ty) with
        s1 := v, gate := gate.toNat, gateCore := gateHome s sp (sBase v)
        xs := [match (storeVerify t ty vals.1).1 with | some n => BitVec.ofNat 64 (n + 1) | none => 0,
          BitVec.ofNat 64 (storeVerify t ty vals.1).2, vals.2, s.x a, form, if (s.csr 0x005).getLsbD 2 then 1 else 0]
        buf := ps.flatMap fun p => (List.range p.bytes.length).map fun k => (p.pos + k, p.bytes.getD k 0)
        ents := ps.flatMap fun p => spanEntries s 5 sp p.addr p.bytes.length p.pos (.cwrite 0) })).issued g.sync)
    let reach (ps : List Piece) : Prop := ∀ p ∈ ps, checkAddr s s.cur s.my.cid sp p.addr p.bytes.length true = none
    SregsClean s [i] → storeSpace s i = some sp → s.my.mtask = true → (s.x a).toNat ≤ 7 →
    ((s.my.stm .m).cq.any fun c => c.op.accs.contains acc) = false → storeOk t ty = true → sBase v % w = 0 → sStrideN v 1 % w = 0 →
    (Issues64 s g ⟨[a], [], [], [a]⟩ → reach (rowPieces v w vals.1) →
      exec (.swbacc g ty a i gate) s = writes 1 0 (rowPieces v w vals.1) ∧
      exec (.swbz g ty a i gate) s = writes 3 0 (nonzeroPieces (rowPieces v w vals.1))) ∧
    (Issues64 s g ⟨[a, b], [], [], [a, b]⟩ → (s.x b).toNat ≤ 1 → sStrideN v 2 % 4 = 0 → sStrideN v 3 % 4 = 0 →
      reach (nmPieces v ty (s.x b).toNat vals.1) →
      exec (.swbnm g ty a i b gate) s = writes 2 (s.x b) (nmPieces v ty (s.x b).toNat vals.1))) ∧
  (∀ (s : State) (g : Guard) (a : R5), Issues64 s g ⟨[a], [], [], []⟩ →
    (s.me.cq = [] → exec (.sckstat g a) s = .next ((s.setX a s.my.sck).issued g.sync)) ∧
    (s.me.cq ≠ [] → exec (.sckstat g a) s = .next (s.held .queueFull)))

/-- R23, R24: power-good, a fundamental PCIe reset and a package reset begin a full bring-up: nothing is resident, queued or out, every
register but the fused ones is at its reset value, the dies are in RESET if the firmware verifies and FUSED if it does not, and device
memory reads zero. Which registers are fused is the model's reading (notes/assumptions/67.md). What powerGood, pcieFundamentalReset,
packageReset answer. -/
def Rule.PowerOnResults : Prop :=
  ∀ (s : State) (ok : Bool), ∃ t, (∀ i ∈ [Instr.powerGood ok, .pcieFundamentalReset ok, .packageReset ok], exec i s = .next t) ∧
    (∀ d, d < 4 → dieAt t d = { Die.empty with
      st := if ok then .reset else .fused, idKey := (dieAt s d).idKey, serial := (dieAt s d).serial, chain := (dieAt s d).chain
      chainLen := (dieAt s d).chainLen }) ∧
    t.tasks = [] ∧ t.jobs = [] ∧ t.paths = [] ∧ t.arms = [] ∧ t.events = [] ∧ t.replays = [] ∧ t.kills = [] ∧ t.logs = [] ∧
    t.fns = State.reset.fns ∧ t.strm = [] ∧ t.sch = State.reset.sch ∧ t.links = State.reset.links ∧ t.ctxtbl = 0 ∧ t.strmap = [] ∧
    t.ctxmap = [] ∧ t.timebase = 0 ∧ t.snap = State.reset.snap ∧ t.pkg.ready = false ∧ t.pkg.mhz = 2900 ∧ t.pkg.pwrlim = 600 ∧
    t.pkg.devid = s.pkg.devid ∧ t.pkg.almpol = s.pkg.almpol ∧ t.pkg.bindList = s.pkg.bindList ∧ t.pkg.rootHash = s.pkg.rootHash ∧
    t.pkg.manifest = s.pkg.manifest ∧ t.pkg.idKey = s.pkg.idKey ∧ t.pkg.serial = s.pkg.serial ∧ t.pkg.fwOk = ok ∧
    (∀ k, k < 7 * 2 ^ 40 → t.byte k = 0) ∧ (∀ k, 7 * 2 ^ 40 ≤ k → t.byte k = s.byte k)

/-- R33, R37: a direction takes its first key where both ends have their secured sessions, and the last key of a link to the M-die makes
its die TRUSTED (in the model's reading of which links can carry data and when DIEUP follows, notes/assumptions/65.md); R23: a TRUSTED die comes up with HBM that reads zero, and with the last die that is awaited the package is READY. What
keyinstall, dieBringupDone answer. -/
def Rule.LinkKeyResults : Prop :=
  (∀ (s : State) (l dir key : Nat), l < 4 → dir < 2 → pkgHeld s = false → s.pkg.fwOk = true → (dieAt s l).st = .attesting →
    (dieAt s l).step = 9 → (dieAt s l).rst = none → ringKeyed s l = true → ((linkAt s l).dir dir).key = none →
    let u := s.modLink l fun k => k.setDir dir { LinkDir.empty with key := some key }
    (((linkAt s l).dir (1 - dir)).key = none → exec (.keyinstall l dir key) s = .next u) ∧
    (((linkAt s l).dir (1 - dir)).key.isSome = true →
      exec (.keyinstall l dir key) s = .next (u.modDie l fun x => { x with st := .trusted, att := 0, keys := 1 }))) ∧
  (∀ (s : State) (l dir key : Nat), 8 ≤ l ∨ 2 ≤ dir ∨ pkgHeld s = true ∨ ((linkAt s l).dir dir).key.isSome = true →
    exec (.keyinstall l dir key) s = .next s) ∧
  (∀ (s : State) (d : Nat), d < 4 → (dieAt s d).st = .trusted → (dieAt s d).rst = none → (dieAt s d).up = false → pkgHeld s = false →
    ∃ t, exec (.dieBringupDone d) s = .next t ∧ (dieAt t d).up = true ∧ (dieAt t d).st = .trusted ∧
      (linkAt t d).up = linkReady s d ∧
      (∀ k, t.byte k = if hbmKey d 0 ≤ k ∧ k < hbmKey (d + 1) 0 then 0 else s.byte k) ∧
      t.tasks = s.tasks ∧ t.jobs = s.jobs ∧ t.paths = s.paths ∧
      (s.pkg.fwOk = true → (∀ e, e < 4 → e ≠ d → (dieAt s e).up = true ∨ (dieAt s e).st = .quarantined) → t.pkg.ready = true))

/-- Power-on, resets of the package, and link keys: Rule.PowerOnResults, Rule.LinkKeyResults. -/
def Obligations.PowerOnAndKeys : Prop := Rule.PowerOnResults ∧ Rule.LinkKeyResults

/-- R26 to R30: a die whose self-test and scrub are done begins attestation; a response in its order and in time, its check passed,
advances the die by one step, whose request goes out at once; a failed check or a late response ends the attempt, in RESET with its
number, and the third in QUARANTINED; a response out of order changes nothing. The chain comes in portions of 1,024 bytes, each a request of
its own. What a die signs verifies if its identity key is that of the leaf it sent. How messages, keys and certificates stand is the
model's choice (notes/assumptions/64.md, 93.md). What dieSelfTestDone, getVersion, getCapabilities, negotiateAlgorithms, getDigests, getCertificate, challenge,
getMeasurements, keyExchange, finish, spdmResponseTimeout answer. -/
def Rule.AttestationResults : Prop :=
  (∀ (s : State) (d : Nat), (dieAt s d).st = .reset → (dieAt s d).scrub = false → (dieAt s d).rst = none → pkgHeld s = false →
    s.pkg.fwOk = true → exec (.dieSelfTestDone d) s = .next (s.modDie d fun x => { x with
      st := .attesting, step := 0, portions := 0, reqAt := s.timebase.toNat })) ∧
  (∀ (s : State) (d : Nat) (f5 : BitVec 5) (f6 : BitVec 6) (vs ms : List Nat) (dig : Nat), d < 4 → (dieAt s d).st = .attesting →
    (dieAt s d).rst = none →
    let x := dieAt s d
    let n := x.step
    let late := respLate s d
    let last : Prop := x.allPortions ≤ x.portions + 1
    let to_ (k : Nat) (f : Die → Die) : Host.Outcome State Fault Refusal :=
      .next (s.modDie d fun x => f { x with step := k, reqAt := s.timebase.toNat })
    let failed : Host.Outcome State Fault Refusal := .next (attestFail s d)
    (late = false →
      (n = 0 → vs.contains 0x13 = true → exec (.getVersion d vs) s = to_ 1 id) ∧
      (n = 1 → f6 = 0x3F → exec (.getCapabilities d f6) s = to_ 2 id) ∧
      (n = 2 → f5 = 0x1F → exec (.negotiateAlgorithms d f5) s = to_ 3 id) ∧
      (n = 3 → exec (.getDigests d (some dig)) s = to_ 4 fun x => { x with digest := dig }) ∧
      (∀ r i l, n = 4 → ¬ last → exec (.getCertificate d dig r i l) s = to_ 4 fun x => { x with portions := x.portions + 1 }) ∧
      (∀ r i l, n = 4 → last → dig = x.digest → x.chain = [r, i, l] → r.signer = r.key → i.signer = r.key → l.signer = i.key →
        r.digest = s.pkg.rootHash → l.part = 0x0960 → s.pkg.bindList[d]? = some l.serial →
        exec (.getCertificate d dig r i l) s = to_ 5 fun x => { x with leafKey := l.key, portions := 0 }) ∧
      (x.idKey = x.leafKey →
        (n = 5 → exec (.challenge d true) s = to_ 6 id) ∧
        (n = 6 → ms = s.pkg.manifest → ms.length = 4 → ms[3]? = some 0 → exec (.getMeasurements d true ms) s = to_ 7 id) ∧
        (n = 7 → exec (.keyExchange d true) s = to_ 8 id)) ∧
      (n = 8 → exec (.finish d true) s = to_ 9 id) ∧
      exec (.spdmResponseTimeout d) s = .next s) ∧
    (n = 0 → vs.contains 0x13 = false → exec (.getVersion d vs) s = failed) ∧
    (∀ r i l, n = 4 → last → dig ≠ x.digest ∨ x.chain ≠ [r, i, l] ∨ r.signer ≠ r.key ∨ i.signer ≠ r.key ∨ l.signer ≠ i.key ∨ r.digest ≠ s.pkg.rootHash ∨
      l.part ≠ 0x0960 ∨ s.pkg.bindList[d]? ≠ some l.serial → exec (.getCertificate d dig r i l) s = failed) ∧
    (∀ r i l, n = 4 → late = true → exec (.getCertificate d dig r i l) s = failed) ∧
    (n = 5 → exec (.challenge d false) s = failed) ∧
    (n = 5 → x.idKey ≠ x.leafKey → exec (.challenge d true) s = failed) ∧
    (late = true → n = 0 → exec (.getVersion d vs) s = failed) ∧
    (late = true → n < 9 → exec (.spdmResponseTimeout d) s = failed) ∧
    (n ≠ 0 → exec (.getVersion d vs) s = .next s)) ∧
  (∀ (s : State) (d : Nat), d < 4 →
    let t := attestFail s d
    (∀ l ∈ linksOf d, linkAt t l = Link.empty) ∧
    ((dieAt s d).att < 2 → (dieAt t d).st = .reset ∧ (dieAt t d).att = (dieAt s d).att + 1 ∧ t.tasks = s.tasks ∧ t.mem = s.mem) ∧
    (2 ≤ (dieAt s d).att → s.pkg.almpol ≤ 1 → (dieAt t d).st = .quarantined ∧ (dieAt t d).att = 3))

/-- R10, R34 to R37: an intact flit of the count that is due, whose tag verifies under the key its KEYSEQ names, is accepted, counted and
stands for its acknowledgement; the 1,024th accepted under the next key ends a rollover, and at ROLLCTL.FLITS × 2^32 one begins; a flit
that fails its tag is counted, and at its fourth failure in a row the link goes down and the alarm is raised; what is not intact changes
nothing. A rollover changes the sender's key once none is under way, and waits while one is, behind those that wait; the oldest
begins as the one under way ends. Keys, tags and the numbers of links are the model's choice (notes/assumptions/5.md, 65.md). What flitReceive, flitAck, rolloverStart
answer. -/
def Rule.FlitResults : Prop :=
  ∀ (s : State) (l dir count key : Nat) (fl : Flit) (tag : BitVec 128), l < 8 → dir < 2 → (linkAt s l).up = true →
    let d := (linkAt s l).dir dir
    let set (x : LinkDir) : Host.Outcome State Fault Refusal := .next (s.modLink l fun k => k.setDir dir x)
    let fits (key : Nat) : Prop := d.keyFor fl.keyseq = some key ∧ tagHolds key l dir count fl tag = true
    let fails : Nat := if d.failed = count then d.fails + 1 else 1
    let lim := s.pkg.rollctl * 2 ^ 32
    (fits key → fl.keyseq = d.keyseq → count = d.flits → d.replay.length < 64 → d.flits + 1 < 2 ^ 40 →
      let sent := d.replay ++ [s.cycle]
      (d.rolling = false → d.waiting = [] → d.flits + 1 < lim → exec (.flitReceive l dir count true fl tag) s =
        set { d with fails := 0, flits := d.flits + 1, replay := sent, accepted := 0 }) ∧
      (d.rolling = false → d.waiting = [] → lim ≤ d.flits + 1 → ∃ t, exec (.flitReceive l dir count true fl tag) s = .next t ∧
        let e := (linkAt t l).dir dir
        e.rolling = true ∧ e.keyseq = !d.keyseq ∧ e.flits = 0 ∧ e.key = d.key ∧ e.nextKey = some (Config.drbgKey s.free)) ∧
      (d.rolling = true → d.accepted + 1 < 1024 → exec (.flitReceive l dir count true fl tag) s =
        set { d with fails := 0, flits := d.flits + 1, replay := sent, accepted := d.accepted + 1 }) ∧
      (d.rolling = true → 1024 ≤ d.accepted + 1 → d.waiting = [] → d.flits + 1 < lim → exec (.flitReceive l dir count true fl tag) s =
        set { d with
          fails := 0, flits := d.flits + 1, replay := sent, accepted := 0, key := d.nextKey, nextKey := none, rolling := false }) ∧
      (∀ k ks, d.rolling = true → 1024 ≤ d.accepted + 1 → d.waiting = k :: ks → exec (.flitReceive l dir count true fl tag) s =
        set { d with
          fails := 0, flits := 0, replay := sent, accepted := 0, key := d.nextKey, nextKey := some k, keyseq := !d.keyseq, waiting := ks })) ∧
    ((∀ k, ¬ fits k) → fails < 4 → exec (.flitReceive l dir count true fl tag) s = set { d with fails := fails, failed := count }) ∧
    ((∀ k, ¬ fits k) → 4 ≤ fails → exec (.flitReceive l dir count true fl tag) s =
      .next (raiseAlarm (s.modLink l fun k => { k.setDir dir { d with fails := 0 } with up := false }) 3 (linkBlame l))) ∧
    exec (.flitReceive l dir count false fl tag) s = .next s ∧
    exec (.flitAck l dir) s = set { d with replay := d.replay.tail } ∧
    (d.rolling = false → exec (.rolloverStart l dir key) s = set { d with
      nextKey := some key, keyseq := !d.keyseq, flits := 0, accepted := 0, rolling := true }) ∧
    (d.rolling = true → exec (.rolloverStart l dir key) s = set { d with waiting := d.waiting ++ [key] })

/-- Attestation of a die, and flits, acknowledgements and rollover on a link: Rule.AttestationResults, Rule.FlitResults. -/
def Obligations.AttestationAndFlits : Prop := Rule.AttestationResults ∧ Rule.FlitResults

/-- R38 to R40: for every state and operands dierstWrite completes: of the PF, of a TRUSTED die not in reset, it kills the die's contexts
and takes the die out of use, and once no kill drains its links lose their keys and its scrub begins; any other write changes nothing.
dieResetScrubDone completes: the die under scrub enters the state its reset ends in, with every byte of its HBM and SRAMs zero and every
other byte as before. glitchAlarm and meshBreach complete: the alarm is logged with the die it blames, and then the policy's action is
taken; policy 0 does no more, and policy 1 takes the die out of use to be QUARANTINED, noted with its cycle and the contexts it kills for an
alarm that arrives with it. Which dies an alarm takes is the model's reading (notes/assumptions/94.md), and so is a second write that
names a die whose reset is under way (notes/assumptions/105.md). -/
def Rule.DieResetResults : Prop :=
  (∀ (s : State) (fn : Nat) (v : W64), ∃ t, exec (.dierstWrite fn v) s = .next t ∧
    let d := (v.extractLsb' 0 3).toNat
    (fn = 0 → d < 4 → pkgHeld s = false → (dieAt s d).st = .trusted → (dieAt s d).rst = none →
      (dieAt t d).rst = some .reset ∧ (dieAt t d).up = false ∧ (dieAt t d).step = 0 ∧
      (s.kills = [] → dieContexts s d = [] → (dieAt t d).scrub = true ∧ t.kills = [] ∧ ∀ l ∈ linksOf d, linkAt t l = Link.empty)) ∧
    (fn ≠ 0 ∨ 4 ≤ d ∨ pkgHeld s = true ∨ (dieAt s d).st ≠ .trusted → t = s)) ∧
  (∀ (s : State) (d : Nat), ∃ t, exec (.dieResetScrubDone d) s = .next t ∧
    (d < 4 → (dieAt s d).scrub = true → (dieAt t d).scrub = false ∧ (dieAt t d).rst = none ∧
      (dieAt t d).st = (dieAt s d).rst.getD (dieAt s d).st ∧
      (∀ k, t.byte k = if dieKeys d k then 0 else s.byte k) ∧ (∀ e ∈ t.tlb, e.die ≠ d) ∧ t.tasks = s.tasks ∧ t.fns = s.fns) ∧
    (4 ≤ d ∨ (dieAt s d).scrub = false → t = s)) ∧
  (∀ (s : State) (d : Nat),
    let alarm (bit : Nat) : State := { s with pkg := { s.pkg with
      almstat := (s.pkg.almstat &&& 0xF) ||| (1#7 <<< bit) ||| (BitVec.ofNat 7 d <<< 4) } }
    let out (i : Instr) (bit : Nat) : Prop := ∃ t, exec i s = .next t ∧
      (4 < d → t = s) ∧
      (d ≤ 4 → (s.pkg.almpol = 0 ∨ pkgHeld s = true → t = alarm bit) ∧
        (s.pkg.almpol = 1 → pkgHeld s = false → d < 4 → (dieAt s d).st ≠ .quarantined → (dieAt s d).st ≠ .fused →
          (dieAt s d).rst ≠ some .quarantined →
          t = resetDie { alarm bit with pkg := { (alarm bit).pkg with alarm := some (s.cycle, d, dieContexts (alarm bit) d) } } d 0x12
            .quarantined ∧ (dieAt t d).rst = some .quarantined ∧ (dieAt t d).up = false) ∧
        (s.pkg.almpol ≠ 0 → pkgHeld s = false → s.pkg.almpol ≠ 1 ∨ d = 4 → t = eraseAndHold (alarm bit)))
    out (.glitchAlarm d) 0 ∧ out (.meshBreach d) 1)

/-- R15 to R20: for every state and operands these complete. powerWindow keeps a window's readings, and the clock falls one step of 145 MHz
to no less than 1,450 when the power passes its limit or a sensor its threshold; clockRaise raises it one step after ten windows at or
below 95 % of the limit; thermalTrip at a trip point kills every context, and once no kill drains TRIP is set and the dies are held in
RESET (that READY then falls, and how a window's end and a trip come, are the model's, notes/assumptions/66.md); hbmSelfRefresh refreshes a
stack without an access for 10 ms (which bytes a stack holds is notes/assumptions/68.md), and shellGate gates a shell without a lease or a request for 256 cycles. -/
def Rule.PowerResults : Prop :=
  (∀ (s : State) (w c m h : Nat), ∃ t, exec (.powerWindow w c m h) s = .next t ∧
    let hot : Prop := s.pkg.dieThr ≤ c ∨ s.pkg.hbmThr ≤ h
    t.pkg.pwrnow = min w 0xFFFF ∧ t.pkg.tempC = min c 0xFF ∧ t.pkg.tempM = min m 0xFF ∧ t.pkg.tempH = min h 0xFF ∧
    ((s.pkg.pwrlim < w ∨ hot) → 1450 < s.pkg.mhz → t.pkg.mhz = s.pkg.mhz - 145) ∧
    (¬ (s.pkg.pwrlim < w ∨ hot) ∨ s.pkg.mhz ≤ 1450 → t.pkg.mhz = s.pkg.mhz) ∧
    (t.pkg.throttle = true ↔ hot ∨ s.pkg.dieThr ≤ m) ∧
    t.pkg.low = (if 100 * w ≤ 95 * s.pkg.pwrlim then s.pkg.low + 1 else 0) ∧ t.pkg.pwrlim = s.pkg.pwrlim ∧ t.pkg.dies = s.pkg.dies ∧
    t.mem = s.mem ∧ t.tasks = s.tasks) ∧
  (∀ (s : State), ∃ t, exec .clockRaise s = .next t ∧
    (10 ≤ s.pkg.low → s.pkg.mhz < 2900 → s.pkg.tempC < s.pkg.dieThr → s.pkg.tempH < s.pkg.hbmThr → t = { s with pkg := { s.pkg with
      low := 0, mhz := s.pkg.mhz + 145, capped := s.pkg.capped && decide (s.pkg.mhz + 145 < 2900) } }) ∧
    (s.pkg.low < 10 ∨ 2900 ≤ s.pkg.mhz ∨ s.pkg.dieThr ≤ s.pkg.tempC ∨ s.pkg.hbmThr ≤ s.pkg.tempH → t = s)) ∧
  (∀ (s : State) (c m h : Nat), ∃ t, exec (.thermalTrip c m h) s = .next t ∧
    (110 ≤ c ∨ 110 ≤ m ∨ 95 ≤ h → (t.pkg.trip = true ∨ t.pkg.tripping = true) ∧
      (s.kills = [] → allContexts s = [] → t.pkg.trip = true ∧ t.pkg.ready = false ∧
        t.tasks = [] ∧ t.jobs = [] ∧ t.paths = [] ∧ t.logs = [] ∧
        ∀ d, d < 4 → (dieAt t d).up = false ∧ ((dieAt t d).st = .reset ∨ (dieAt t d).st = .quarantined))) ∧
    (c < 110 → m < 110 → h < 95 → t = s)) ∧
  (∀ (s : State) (k : Nat), ∃ t, exec (.hbmSelfRefresh k) s = .next t ∧
    (k < 8 → 10000000 ≤ s.timebase.toNat - tget 0 s.pkg.stackAt k →
      t = { s with pkg := { s.pkg with selfRefresh := s.pkg.selfRefresh ||| (1#8 <<< k) } }) ∧
    (8 ≤ k ∨ s.timebase.toNat - tget 0 s.pkg.stackAt k < 10000000 → t = s)) ∧
  (∀ (s : State) (k : Nat), ∃ t, exec (.shellGate k) s = .next t ∧
    (∀ hk : k < 12, s.shells[k].holder = none → s.shells[k].reqs = [] → 256 ≤ s.cycle - s.shells[k].grantAt →
      t = { s with pkg := { s.pkg with shellGated := s.pkg.shellGated ||| (1#12 <<< k) } }) ∧
    (∀ hk : k < 12, s.shells[k].holder ≠ none ∨ s.shells[k].reqs ≠ [] ∨ s.cycle - s.shells[k].grantAt < 256 → t = s) ∧ (12 ≤ k → t = s))

/-- Single-die reset, alarms, power and temperature: Rule.DieResetResults, Rule.PowerResults. -/
def Obligations.DieResetAndPower : Prop := Rule.DieResetResults ∧ Rule.PowerResults

/-- R46: through the physical window the PF reads and writes HBM of a TRUSTED die, once the links on the way can take the access and until
then not (R10); a virtual access whose pieces translate answers with their bytes; what the aperture refuses reads as an Unsupported Request
and writes nothing, with APERR and vector 1. Until READY, and while only management traffic continues, a read answers zeros (R23, R20).
That a write in that hold is dropped, that poisoned bytes are answered as they stand, the flits an access counts and the list of answers
are the model's choice (notes/assumptions/100.md, 65.md, 62.md). What bar4Read, bar4Write answer. -/
def Rule.ApertureResults : Prop :=
  (∀ (s : State) (fn off n : Nat), fn ≤ 8 → winOpen s = false →
    exec (.bar4Read fn off n) s = .next { s with replies := s.replies ++ [(fn, some (List.replicate n 0))] }) ∧
  (∀ (s : State) (fn off : Nat) (data : List Byte), pkgHeld s = true → exec (.bar4Write fn off data) s = .next s) ∧
  (∀ (s : State) (off n d p : Nat), winOpen s = true → aperture s 0 off = .phys d p → reaches s 4 d n = true → p + n ≤ hbmBytes →
    s.soft = [] → ∃ t, exec (.bar4Read 0 off n) s = .next t ∧ t.replies = s.replies ++ [(0, some (s.read (hbmKey d p) n))] ∧ t.mem = s.mem) ∧
  (∀ (s : State) (off d p : Nat) (data : List Byte), pkgHeld s = false → aperture s 0 off = .phys d p →
    reaches s 4 d data.length = true → p + data.length ≤ hbmBytes → ∃ t, exec (.bar4Write 0 off data) s = .next t ∧ (∀ i, i < data.length → t.byte (hbmKey d p + i) = data.getD i 0) ∧
      (∀ k, k < hbmKey d p ∨ hbmKey d p + data.length ≤ k → t.byte k = s.byte k) ∧ t.replies = s.replies) ∧
  (∀ (s : State) (fn off n d p : Nat) (data : List Byte), fn ≤ 8 → aperture s fn off = .phys d p →
    (winOpen s = true → reaches s 4 d n = false → exec (.bar4Read fn off n) s = .next s) ∧
    (reaches s 4 d data.length = false → exec (.bar4Write fn off data) s = .next s)) ∧
  (∀ (s u : State) (fn off n c a : Nat) (bs : List Byte), fn ≤ 8 → winOpen s = true → aperture s fn off = .virt c a →
    readPieces (hostWho c) (cutPages a n) s = .ok bs u →
    exec (.bar4Read fn off n) s = .next { u with replies := u.replies ++ [(fn, some bs)] }) ∧
  (∀ (s u : State) (fn off c a : Nat) (data : List Byte), fn ≤ 8 → pkgHeld s = false → aperture s fn off = .virt c a →
    writePieces (hostWho c) (cutPages a data.length) data s = .ok () u → exec (.bar4Write fn off data) s = .next u) ∧
  (∀ (s : State) (fn off n : Nat) (data : List Byte), fn ≤ 8 → aperture s fn off = .bad →
    (winOpen s = true → exec (.bar4Read fn off n) s = .next { apErr s fn with replies := (apErr s fn).replies ++ [(fn, none)] }) ∧
    (pkgHeld s = false → exec (.bar4Write fn off data) s = .next (apErr s fn))) ∧
  (∀ (s : State) (fn : Nat), fn ≤ 8 → (apErr s fn).msix = s.msix ++ [(fn, 1)] ∧ (fnAt (apErr s fn) fn).crstat.getLsbD 1 = true ∧
    (apErr s fn).mem = s.mem)

/-- R3, R4, R21, R22, R41, R47 to R49: a host write of a register with no behaviour of its own stores its writable fields, clamped as its
table gives, for the functions that may write it; another function's write, or one to a hole, changes nothing; a stream's registers take
no write while only management traffic continues, and read zero then and until READY (R20, R23; in the model's reading,
notes/assumptions/63.md, 100.md). What registerWrite answers. -/
def Rule.RegisterResults : Prop :=
  ∀ (s : State) (v : W64),
    let writes (fn bar off : Nat) (x : W64) : Prop := ∃ t, exec (.registerWrite fn bar off v) s = .next t ∧ hostRead t fn bar off = x ∧
      t.mem = s.mem ∧ t.tasks = s.tasks ∧ t.jobs = s.jobs
    let f (lo n : Nat) : Nat := (v.extractLsb' lo n).toNat
    writes 0 0 0x10 (BitVec.ofNat 64 (max 150 (min 600 (f 0 16)))) ∧
    writes 0 0 0x38 (BitVec.ofNat 64 (max 60 (min 100 (f 0 8)) + max 60 (min 85 (f 16 8)) * 2 ^ 16)) ∧
    writes 0 0 0x60 (BitVec.ofNat 64 (max 1 (f 0 8))) ∧
    writes 0 0 0x90 (BitVec.ofNat 64 (max 1 (f 0 8))) ∧
    writes 0 0 0xB8 (v &&& 0xF_FFFF) ∧
    (∀ fn, fn ≤ 8 → writes fn 0 0x1000 (v &&& 0xFF) ∧ writes fn 0 0x1008 (v &&& 0xFFFF_FFFF_FFFF_F000) ∧
      writes fn 0 0x1030 (BitVec.ofNat 64 (max 1 (f 0 16) + f 16 16 * 2 ^ 16)) ∧ writes fn 0 0x1038 (v &&& 0x0000_FFFF_FFFF_F000) ∧
      writes fn 0 0x10D8 (v &&& 0x8FFF)) ∧
    writes 0 0 0x1058 (v &&& 0xF_FFFC_0000) ∧ writes 0 0 0x1060 (v &&& 7) ∧ writes 0 0 0x1068 (v &&& 0xFFFF_FFFF_FFFF_F000) ∧
    writes 0 0 0x10D0 (v &&& 0xFFF) ∧
    (∀ i, i < 128 → writes 0 0 (0x1500 + 2 * i) (v &&& 0x8FFF)) ∧
    (∀ fn i, mayUse s fn i = true → winOpen s = true → writes fn 2 (64 * i) (v &&& 0x0000_FFFF_FFFF_FFC0)) ∧
    (∀ fn off, fn ≠ 0 → off < 0x1000 ∨ (0x1040 < off ∧ off ≠ 0x10D8) → exec (.registerWrite fn 0 off v) s = .next s) ∧
    (∀ fn i off, mayUse s fn i = false ∨ pkgHeld s = true → i < 2 ^ 20 → off < 64 → exec (.registerWrite fn 2 (64 * i + off) v) s = .next s) ∧
    exec (.registerWrite 0 0 0x08 v) s = .next s

/-- Host accesses through BAR4, and host register writes: Rule.ApertureResults, Rule.RegisterResults. -/
def Obligations.AperturesAndRegisters : Prop := Rule.ApertureResults ∧ Rule.RegisterResults

/-- R50: a KICK value that does not run back, nor past the queue's size beyond SQHEAD, is taken; any other leaves KICK, and sets KERR and
the function's kick error with vector 1; a stream the function may not use, or that is not enabled, ignores the write, and so does every
stream while only management traffic continues (R20; in the model's reading, notes/assumptions/100.md). Which context and tenant a stream
has, and in whose function KERR stands, is the model's choice too (notes/assumptions/62.md). What kickWrite answers. -/
def Rule.KickResults : Prop :=
  ∀ (s : State) (fn stream : Nat) (v : W64), fn ≤ 8 →
    let h := hst s stream
    let k : W32 := v.extractLsb' 0 32
    (mayUse s fn stream = false ∨ enabledCtx s stream = none ∨ pkgHeld s = true → exec (.kickWrite fn stream v) s = .next s) ∧
    (mayUse s fn stream = true → (enabledCtx s stream).isSome = true → pkgHeld s = false →
      let good : Prop := (k - h.kick).toNat < 2 ^ 31 ∧ (k - h.sqhead).toNat ≤ 2 ^ sqLog s stream
      ∃ t, exec (.kickWrite fn stream v) s = .next t ∧ t.mem = s.mem ∧ t.tasks = s.tasks ∧ t.jobs = s.jobs ∧
        (∀ i, i ≠ stream → hst t i = hst s i) ∧ (hst t stream).sqhead = h.sqhead ∧
        (good → (hst t stream).kick = k ∧ t.msix = s.msix) ∧
        (¬ good → (hst t stream).kick = h.kick ∧ (hst t stream).sqstat.getLsbD 0 = true ∧ (fnAt t fn).crstat.getLsbD 2 = true ∧
          t.msix = s.msix ++ [(fn, 1)]))

/-- R51, R52, R89, R91, R97, R98, R54, R55: a record that has been read and stands next is taken by its kind: a good task record, with
room for its arm entry, is armed; a good replay record swaps the generations of its template and arms its nodes; a patch writes its bytes
in the inactive generation's block of its node; a bad record, or one of the reserved kind, is refused with its status; while only
management traffic continues no record is read (R20). How a record or a template that cannot be read for good ends, a node beyond the
template's, and the poison of what is read are the model's choice (notes/assumptions/59.md, 100.md, 105.md). What taskRecordFetch,
replayRecord, patchRecord, reservedRecord answer. -/
def Rule.RecordResults : Prop :=
  (∀ (s : State) (stream : Nat), pkgHeld s = true →
    ∀ i ∈ [Instr.taskRecordFetch stream, .replayRecord stream, .patchRecord stream, .reservedRecord stream], exec i s = .next s) ∧
  (∀ (s u : State) (stream : Nat) (h : Head), HeadRead s u stream h →
    let refused (t : State) (st : Nat) : Host.Outcome State Fault Refusal := .next (refuseRecord (takeHead t stream) stream st h)
    (h.f 510 2 = 0 →
      let t := taskOf u h.word h.cid h.seq h.fn true
      let bad : Prop := badRecord h.word = true ∨ h.f 256 7 ≠ stream ∨ h.f 288 16 ≠ 0xFFFF ∨ badTenant u stream h.fn (h.f 266 3) = true
      (bad → exec (.taskRecordFetch stream) s = refused u 3) ∧
      (¬ bad → armRoom u h.cid t.key none = true →
        exec (.taskRecordFetch stream) s = .next (armFetch (takeHead { u with uid := u.uid + 1 } stream) t)) ∧
      (¬ bad → armRoom u h.cid t.key none = false → exec (.taskRecordFetch stream) s = .next (armFull u h.cid)) ∧
      (∀ i ∈ [Instr.replayRecord stream, .patchRecord stream, .reservedRecord stream], exec i s = .next s)) ∧
    (h.f 510 2 = 3 → exec (.reservedRecord stream) s = refused u 3 ∧ exec (.taskRecordFetch stream) s = .next s) ∧
    (h.f 510 2 = 1 →
      let a := h.f 0 48
      let gid := h.f 64 16
      let named := u.modStrm stream fun x => { x with tmpl := tput 0 x.tmpl gid (a + 1) }
      (h.f 0 64 % 64 ≠ 0 ∨ h.f 48 16 ≠ 0 → exec (.replayRecord stream) s = refused named 4) ∧
      (∀ w tm ns, h.f 0 64 % 64 = 0 → h.f 48 16 = 0 →
        launchMem (hostWho h.cid) (fun _ ns => !(ns.zipIdx.any fun p => badNode u stream h.fn p.2 p.1)) a gid named = .ok (some (tm, ns)) w →
        nodesRoom u h.cid h.seq.toNat tm.nnode = true →
        exec (.replayRecord stream) s = .next (armNodes stream w.uid gid ((tm.nreplay + 1) % 256) (tm.pb (1 - tm.cur)) h.cid h.seq.toNat
          h.fn ns 0 (takeHead { w with
            uid := w.uid + 1
            replays := w.replays ++ [{
              id := w.uid, cid := h.cid, stream := stream, seq := h.seq, gid := gid, tmpl := a, gen := 1 - tm.cur, all := h.f 80 1 = 1
              left := tm.nnode, total := tm.nnode, status := 0 }] } stream)))) ∧
    (h.f 510 2 = 2 →
      let off := h.f 32 16
      let len := h.f 48 8
      let a := h.f 64 48
      (off % 8 ≠ 0 ∨ len % 8 ≠ 0 ∨ len < 8 ∨ 40 < len ∨ 256 < off + len → exec (.patchRecord stream) s = refused u 4) ∧
      (∀ v w tm, off % 8 = 0 → len % 8 = 0 → 8 ≤ len → len ≤ 40 → off + len ≤ 256 → a ≠ 0 → a % 64 = 0 →
        readTmpl (hostWho h.cid) a u = .ok tm v → tm.gid = h.f 0 16 → h.f 16 16 < tm.nnode →
        (v.replays.any fun r => r.cid == h.cid && r.tmpl == a && r.gen == 1 - tm.cur) = false →
        gWrite (hostWho h.cid) (tm.pb (1 - tm.cur) + 256 * h.f 16 16 + off) (toBytes len (h.f 128 (8 * len))) v = .ok () w →
        exec (.patchRecord stream) s = .next (takeHead w stream))))

/-- Kicks, and the fetch of task, replay, patch and reserved records: Rule.KickResults, Rule.RecordResults. -/
def Obligations.KicksAndRecords : Prop := Rule.KickResults ∧ Rule.RecordResults

/-- R56 to R59: with room in an enabled ring the oldest record of a function is written to its place, CRTAIL advances by one and, with the
count of CRIRQ reached, vector 0 is sent; with the ring full it waits and CRFULL stands. The timer sends the vector CRIRQ.USEC after the
first record not signalled; CRHEAD is taken up to CRTAIL; enabling a ring queues what was held, disabling it keeps kill records. The reserved
bits and the time of a record, when a request of CRIRQ.USEC ends, and that a ring that holds more than its size is full, are the model's choice (notes/assumptions/60.md, 61.md, 105.md). What
completionPost, completionIrqTimer, crheadWrite, crsizeWrite answer. -/
def Obligations.CompletionResults : Prop :=
  (∀ (s : State) (fn : Nat) (r : Record) (rs : List Record), fn ≤ 8 →
    let f := fnAt s fn
    let n := 2 ^ crLog f
    let k := busKey (bits f.crbase.toNat 12 52 * 4096 + 16 * (f.crtail.toNat % n))
    f.queue = r :: rs → crLog f ≠ 0 →
    ((f.crtail - f.crhead).toNat < n → ∃ t, exec (.completionPost fn) s = .next t ∧ (fnAt t fn).queue = rs ∧
      (fnAt t fn).crtail = f.crtail + 1 ∧ (fnAt t fn).crhead = f.crhead ∧
      t.read k 16 = recordBytes r (f.crtail.toNat / n) s.timebase ∧ (∀ a, a < k ∨ k + 16 ≤ a → t.byte a = s.byte a) ∧
      t.msix = (if bits f.crirq.toNat 0 16 ≤ f.unsig + 1 then s.msix ++ [(fn, 0)] else s.msix) ∧ t.tasks = s.tasks) ∧
    (n ≤ (f.crtail - f.crhead).toNat →
      exec (.completionPost fn) s = .next (s.modFn fn fun f => { f with crstat := f.crstat ||| 0x1 }))) ∧
  (∀ (s : State) (fn : Nat), let f := fnAt s fn
    let us := bits f.crirq.toNat 16 16
    (f.unsig ≠ 0 → us ≠ 0 → f.unsigAt + 1000 * us ≤ s.timebase.toNat →
      exec (.completionIrqTimer fn) s = .next ((s.modFn fn fun f => { f with unsig := 0 }).signalVec fn 0)) ∧
    (f.unsig = 0 ∨ us = 0 ∨ s.timebase.toNat < f.unsigAt + 1000 * us → exec (.completionIrqTimer fn) s = .next s)) ∧
  (∀ (s : State) (fn : Nat) (v : W64), let k : W32 := v.extractLsb' 0 32
    (((fnAt s fn).crtail - k).toNat < 2 ^ 31 → exec (.crheadWrite fn v) s = .next (s.modFn fn fun f => { f with crhead := k })) ∧
    (2 ^ 31 ≤ ((fnAt s fn).crtail - k).toNat → exec (.crheadWrite fn v) s = .next s)) ∧
  (∀ (s : State) (fn : Nat) (v : W64), fn ≤ 8 → let f := fnAt s fn
    let l := (v.extractLsb' 0 5).toNat
    ∃ t, exec (.crsizeWrite fn v) s = .next t ∧ (∀ g, g ≠ fn → fnAt t g = fnAt s g) ∧ t.mem = s.mem ∧
      (8 ≤ l ∧ l ≤ 20 → (fnAt t fn).crsize = BitVec.ofNat 64 l ∧ (fnAt t fn).queue = f.held ++ f.queue ∧ (fnAt t fn).held = []) ∧
      (¬ (8 ≤ l ∧ l ≤ 20) → (fnAt t fn).crsize = 0 ∧ (fnAt t fn).queue = [] ∧ (fnAt t fn).held = f.held ++ f.queue.filter (·.kill)))

/-- R107, R108, R99: a dispatch turn serves a task that waits at its core and may go there; with no class at its floor, one of the lowest
class that is ready, and of that class and its stream, one before which none stands; the task served leaves its queue. A task whose stream
set cannot be read counting as with an M stream, and the order of tasks alike, are the model's choice (notes/assumptions/105.md). -/
def Rule.TurnChoice : Prop :=
  ∀ (s u : State) (core : Nat) (j : Job), turnPick s core = some (j, u) →
    j ∈ s.jobs ∧ j.st = .ready ∧ j.q = core ∧ canDispatch s core j = true ∧ dieOk s (dieOf core) = true ∧
    (freeSlot s core).isSome = true ∧ (∀ k ∈ u.jobs, k.t.tid ≠ j.t.tid) ∧ u.mem = s.mem ∧ u.tasks = s.tasks ∧
    ((∀ c, c < 4 → tget 0 s.sch.sk (core * 4 + c) + 1 < floorOf s) →
      ∀ k ∈ queueOf s core, canDispatch s core k = true → j.t.cls ≤ k.t.cls) ∧
    (∀ k ∈ queueOf s core, canDispatch s core k = true → k.t.cls = j.t.cls → k.t.stream = j.t.stream → before99 k j = false)

/-- R87, R90, R93, R104, R153: a turn, with the registers of R104 as they now stand, that serves a new task whose stream set is read
dispatches it, with an acquire at package scope if joins, an event or a spawn made it READY: each stream starts at its entry, its window
and the task's arguments in x1 to x3, every other register zero; one that serves a pre-empted task restores what was saved. That tasks held
for an overflow slot try again first, that empty range tasks end first, that the acquire is made at the dispatch, and which event resumes a
saved task are the model's choice (notes/assumptions/95.md, 46.md, 104.md, 88.md). What dispatchTurn, taskResume answer. -/
def Rule.DispatchResults : Prop :=
  (∀ (s0 s1 w : State) (core slot : Nat) (j : Job) (es : List W64), let s := unstick s0
    emptyTurn s core = none →
    turnPick (latch s) core = some (j, s1) → freeSlot s core = some slot → j.t.saved = false →
    let o := openSlot s1 core slot j.t.cid
    let s2 := if j.t.acquires then o.dropViews core j.t.cid .package else o
    let u := settle (s2.setTask core slot { j.t with
      line := s2.aborts.any fun a => a.1 == j.t.cid && a.2.1 == j.t.abgrp, since := s2.cycle, unread := true, mtask := false, preempt := false
      st := (Vector.replicate 4 EStream.empty).set 0 { EStream.empty with live := true, first := true } }) core
    let t := u.task core slot
    let code := t.fld 0 48
    code / 2 ^ 45 ≤ 3 → trusted u (code / 2 ^ 45) = true → readSet t.cid code u = .ok (some es) w → (es.all (· == 0)) = false →
    exec (.dispatchTurn core) s0 = .next (w.setTask core slot (startAll t (Vector.ofFn fun i : Fin 4 => es.getD i.val 0)))) ∧
  (∀ (t : Task) (es : Vector W64 4) (e : Eng), let st := (startAll t es).stm e
    st.pc = es[e.idx] &&& 0x0000_FFFF_FFFF_FFFF ∧ st.live = (es[e.idx] != 0) ∧ st.blk = none ∧
    (∀ a, st.rx a = if a = 1 then BitVec.ofNat 64 (t.fld 384 64) else if a = 2 then BitVec.ofNat 64 (t.fld 64 48)
      else if a = 3 then t.pblk else 0) ∧ (∀ a : R5, a.toNat < 24 → st.rp a = 0)) ∧
  (∀ (s s1 : State) (core slot : Nat) (j : Job), turnPick (latch s) core = some (j, s1) → freeSlot s core = some slot → j.t.saved = true →
    ∃ t, exec (.taskResume core) s = .next t ∧ (t.task core slot).saved = false ∧ (t.task core slot).tid = j.t.tid ∧
      (∀ e, (t.task core slot).stm e = j.t.stm e) ∧ (t.task core slot).v = j.t.v ∧ (t.task core slot).c = j.t.c ∧
      (t.task core slot).acc = j.t.acc ∧ (∀ e ∈ j.paths, e.at core slot ∈ t.paths) ∧ t.jobs = s1.jobs)

/-- R106, R110: a task that has waited AGE cycles becomes stealable; an idle core takes, of the stealable tasks of its eight, one with the
earliest ready time; one that is not idle, or that asked in vain less than AGE cycles ago with no task queued in its eight since, takes
nothing. The levels of a request are the model's reading (notes/assumptions/58.md). What ageExpiry, stealRequest answer. -/
def Rule.StealResults : Prop :=
  (∀ (s : State) (core tid : Nat), ∃ t, exec (.ageExpiry core tid) s = .next t ∧ t.tasks = s.tasks ∧ t.mem = s.mem ∧
    t.jobs.length = s.jobs.length ∧
    (∀ j ∈ s.jobs, j.st = .ready → j.q = core → j.t.tid = tid → ageOf s ≤ s.cycle - j.t.since → { j with aged := true } ∈ t.jobs) ∧
    (∀ j ∈ s.jobs, j.q ≠ core ∨ j.t.tid ≠ tid ∨ s.cycle - j.t.since < ageOf s → j ∈ t.jobs)) ∧
  (∀ (s : State) (core : Nat), core < 96 → dieOk s (dieOf core) = true → (freeSlot s core).isSome = true → queueOf s core = [] →
    mayAsk s core = true → (∃ k ∈ s.jobs, stealable s core k = true ∧ k.q < 96 ∧ eightOf k.q = eightOf core) →
    ∃ j ∈ s.jobs, stealable s core j = true ∧ eightOf j.q = eightOf core ∧
      exec (.stealRequest core) s = .next (queued (actSync { s with jobs := (s.jobs.filter fun k => k.t.tid != j.t.tid) ++
        [{ j with q := core, aged := false, t := { j.t with since := s.cycle } }] } (dieOf j.q) j.t.cls) core j.t.cls) ∧
      ∀ k ∈ s.jobs, stealable s core k = true → k.q < 96 → eightOf k.q = eightOf core → j.t.readyAt ≤ k.t.readyAt) ∧
  (∀ (s : State) (core : Nat), core < 96 → dieOk s (dieOf core) = true → (freeSlot s core).isSome = true → queueOf s core = [] →
    mayAsk s core = true → (stealLevels s core).findSome? (askLevel s core) = none →
    exec (.stealRequest core) s = .next { s with sch := { s.sch with asked := tput 0 s.sch.asked core (s.cycle + 1) } }) ∧
  (∀ (s : State) (core : Nat), freeSlot s core = none ∨ queueOf s core ≠ [] ∨ mayAsk s core = false →
    exec (.stealRequest core) s = .next s)

/-- The choice of a dispatch turn, dispatch and resumption, and stealing: Rule.TurnChoice, Rule.DispatchResults, Rule.StealResults. -/
def Obligations.Dispatch : Prop := Rule.TurnChoice ∧ Rule.DispatchResults ∧ Rule.StealResults

/-- R109, R151, R152, R266: an expiry asks for the pre-emption of the task the cases of R109 name, one at a time on a core and only with a
save frame free; at its boundary the task is saved with the accesses of its split commands, its other committed accesses staying in their
paths, and returns READY to its core, or waits there for an overflow slot (R106); a request that finds no free frame any more is dropped.
Where a stream or a command may stop, and the dropped request, are the model's reading (notes/assumptions/55.md, 85.md, 99.md). What
quantumExpiry, preemptSave answer. -/
def Rule.PreemptionResults : Prop :=
  (∀ (s : State) (core : Nat), core < 96 → frameFree s (dieOf core) = true → ((residents s core).any fun e => e.2.preempt) = false →
    (∀ slot, victim s core = some slot →
      exec (.quantumExpiry core) s = .next (s.modTask core slot fun t => { t with preempt := true })) ∧
    (victim s core = none → exec (.quantumExpiry core) s = .next s)) ∧
  (∀ (s : State) (core : Nat), frameFree s (dieOf core) = false ∨ ((residents s core).any fun e => e.2.preempt) = true →
    exec (.quantumExpiry core) s = .next s) ∧
  (∀ (s : State) (core slot : Nat), savable s core slot = true →
    let d := Eng.all.foldl (fun s e => discardBlock s ⟨core, slot, e⟩) s
    ∃ t, exec (.preemptSave core slot) s = .next t ∧ (t.task core slot).live = false ∧
      (∀ e ∈ t.paths, e.tid = (s.task core slot).tid → e.saved = false) ∧
      ∃ j ∈ t.jobs, j.t.tid = (s.task core slot).tid ∧ j.t.saved = true ∧ j.q = core ∧ j.frame = some (dieOf core) ∧
        (j.st = .ready ∨ j.st = .returning) ∧ (queueLen t core < 64 → j.st = .ready) ∧
        j.t.c = (d.task core slot).c ∧ j.t.trec = (s.task core slot).trec ∧
        (∀ a : BitVec 3, j.t.accu a = if (d.task core slot).c.acclive.getLsbD a.toNat then (d.task core slot).accu a else Accu.empty)) ∧
  (∀ (s : State) (core slot : Nat), savable s core slot = false → (s.task core slot).preempt = false ∨ frameFree s (dieOf core) = true →
    exec (.preemptSave core slot) s = .next s) ∧
  (∀ (s : State) (core slot : Nat), (s.task core slot).preempt = true → frameFree s (dieOf core) = false →
    exec (.preemptSave core slot) s = .next (s.modTask core slot fun t => { t with preempt := false, yielded := false }))

/-- R93, R110, R111, R124: once every stream of a range part has retired, its next iteration starts every stream anew; a task that is done
has its staged lines written and its successor list read, leaves its core, and its successors, event and record follow; one whose
decrements find no overflow slot waits for it (R96), its list kept; a task not done goes on. When the frame is read and what waits whole are
the model's reading (notes/assumptions/57.md, 95.md), and so is a task that ends by its abort (notes/assumptions/56.md). What taskEnd
answers. -/
def Rule.TaskEndResults : Prop :=
  (∀ (s : State) (core slot : Nat), let t := s.task core slot
    t.live = true → t.unread = false → (∀ e, (t.stm e).live = false ∧ (t.stm e).deferred = []) → t.aborted = false → t.range = true →
    t.staged = false → t.c.iter.toNat + 1 < t.hi.toNat →
    exec (.taskEnd core slot) s =
      .next (s.setTask core slot (startAll { t with c := { t.c with iter := t.c.iter + 1, tl := 0 } } t.entries))) ∧
  (∀ (s u : State) (core slot : Nat) (l : List W64), let t := s.task core slot
    taskDone s t = true → (t.aborted = true ∨ t.range = false ∨ t.staged = true ∨ t.hi.toNat ≤ t.c.iter.toNat + 1) →
    let f := flushStage s ⟨core, slot, .a⟩ t.tid
    (t.list = some l ∧ u = f ∨ t.list = none ∧ readFrame (hostWho t.cid) (if releases f t then t.fld 64 48 else 0) f = .ok (some l) u) →
    (joinsFit t (endKeys u t l) u = true →
      let v := if t.mtask then dropLease u core else u
      let v := { v.setTask core slot Task.empty with hidden := showAll (fun h => h.tid == t.tid) v.hidden }
      let v := if t.staged then stageRetire v t.part t.c.iter.toNat t else v
      let w := finishTask v t (if t.aborted then 1 else 0) l
      exec (.taskEnd core slot) s = .next (actSync (payResidency w core t) (dieOf core) t.cls)) ∧
    (joinsFit t (endKeys u t l) u = false →
      exec (.taskEnd core slot) s = .next (armFull (u.modTask core slot fun t => { t with list := some l }) t.cid))) ∧
  (∀ (s : State) (t : Task) (st : Nat), t.isNode = false → t.succ = [] → t.fld 240 16 = 0 → (∀ p ∈ s.parts, p.key ≠ t.grp) →
    t.fn ≤ 8 → bits (fnAt s t.fn).crsize.toNat 0 5 ≠ 0 →
    (fnAt (finishTask s t st []) t.fn).queue = (fnAt s t.fn).queue ++ [⟨t.seq, 0xFFFF, t.stream, st, false⟩] ∧
    (finishTask s t st []).jobs = s.jobs ∧ (finishTask s t st []).mem = s.mem) ∧
  (∀ (s : State) (core slot : Nat), let t := s.task core slot
    t.range = false → taskDone s t = false → exec (.taskEnd core slot) s = .next s)

/-- Pre-emption and the end of a task: Rule.PreemptionResults, Rule.TaskEndResults. -/
def Obligations.PreemptionAndTaskEnd : Prop := Rule.PreemptionResults ∧ Rule.TaskEndResults

/-- R119: a free shell goes to a requesting core of its eight whose M task has the lowest class among them; a lease at its cap is renewed
when none requests and otherwise ends, its holder requesting again, but not in the middle of a command that may not be split; a grant
opens the shell's power gate (R16); R149: a raised line reaches a task of its group. When a cap is checked, where a command may lose its
lease and the delay of a line are the model's reading (notes/assumptions/76.md, 99.md, 44.md). What leaseGrant, leaseCap, abortLineArrival
answer. -/
def Obligations.LeaseResults : Prop :=
  (∀ (s : State) (k : Nat) (hk : k < 12), s.shells[k].holder = none →
    let asks (c : Nat) : Prop := c / 8 = k ∧ (c ∈ s.shells[k].reqs ∨ 96 + c ∈ s.shells[k].reqs)
    ((∃ c, asks c) → ∃ c t, asks c ∧ exec (.leaseGrant k) s = .next t ∧ t.shells[k].holder = some c ∧ t.shells[k].grantAt = s.cycle ∧
      t.shells[k].cmds = 0 ∧ t.pkg.shellGated.getLsbD k = false ∧ c ∉ t.shells[k].reqs ∧ (∀ d, asks d → coreClass s c ≤ coreClass s d) ∧
      (∀ (i : Nat) (hi : i < 12), i ≠ k → t.shells[i] = s.shells[i]) ∧ t.tasks = s.tasks ∧ t.mem = s.mem) ∧
    ((∀ c, ¬ asks c) → exec (.leaseGrant k) s = .next s)) ∧
  (∀ (s : State) (k c : Nat) (hk : k < 12), s.shells[k].holder = some c →
    let sh := s.shells[k]
    exec (.leaseGrant k) s = .next s ∧
    (sh.capped s.cycle = false ∨ midCommand s c = true → exec (.leaseCap k) s = .next s) ∧
    (sh.capped s.cycle = true → midCommand s c = false → sh.reqs = [] →
      exec (.leaseCap k) s = .next { s with shells := s.shells.set k { sh with cmds := 0, grantAt := s.cycle } }) ∧
    (sh.capped s.cycle = true → midCommand s c = false → sh.reqs ≠ [] → exec (.leaseCap k) s = .next { s with shells := s.shells.set k { sh with
      holder := none, cmds := 0, grantAt := s.cycle, last := c, reqs := sh.reqs ++ [96 + c] } })) ∧
  (∀ (s : State) (core slot : Nat), let t := s.task core slot
    let raised : Prop := t.live = true ∧ t.abgrp ≠ 0 ∧ ∃ a ∈ s.aborts, a.1 = t.cid ∧ a.2.1 = t.abgrp
    (raised → exec (.abortLineArrival core slot) s = .next (s.setTask core slot { t with line := true })) ∧
    (¬ raised → exec (.abortLineArrival core slot) s = .next s))

/-- R398, R202, R407, R409: the command at the head of a queue whose accesses are performed completes, its producer's handle FULL, its
consumers' FREE, and leaves the queue; mzero, maccd and mrel have their effect when they run, unless pre-emption stops them; a scan reads
its threshold once, as it starts (R365); the first step of an operand fetched through a handle takes the handle once it is FREE (R396); with
its reads still out, a command that has no K-steps does nothing. When counts and gate arrivals enter is the model's reading
(notes/assumptions/33.md, 75.md). What commandComplete answers. -/
def Rule.CommandResults : Prop :=
  (∀ (s : State) (r : Ref) (c : Cmd) (cs : List Cmd), (s.stm r).cq = c :: cs → s.soft = [] →
    let t := s.task r.core r.slot
    let ran (u : State) : Host.Outcome State Fault Refusal := .next (u.modCmd r c.id fun k => { k with phase := k.phase + 1 })
    let quiet : Prop := cmdReads s c.id = false ∧ cmdWrites s c.id = false
    (quiet → cmdFenced s r c = false → (c.op = .copy ∨ c.op = .swb) → c.gate = 0 → c.xs = [] → ∃ u, exec (.commandComplete r) s = .next u ∧
      (u.stm r).cq = cs.filter (fun k => k.id ≠ c.id) ∧ u.mem = s.mem ∧
      (∀ h, c.prod = some h → c.cons = [] → t.hPend.getLsbD h.toNat = false → (u.task r.core r.slot).hst h = 2) ∧
      (∀ h ∈ c.cons, (u.task r.core r.slot).hst h = 0) ∧
      (∀ e, ((u.task r.core r.slot).stm e).x = (t.stm e).x ∧ ((u.task r.core r.slot).stm e).p = (t.stm e).p)) ∧
    (∀ ty n l, c.op = .scan ty n l → c.phase = 0 → c.xs = [] →
      exec (.commandComplete r) s = .next (s.modCmd r c.id fun k => { k with xs := [tget 0 t.c.thr l] })) ∧
    (c.viaHandle = true → c.cons = [] → c.prod = none → c.phase < c.op.steps → t.hst (sHdl c.s1) = 0 →
      cmdStopped t (c :: cs) c (c.phase * 2 ^ 15) = false → readAhead s r c = false → exec (.commandComplete r) s =
        .next ((s.setTask r.core r.slot (t.setHState (sHdl c.s1) 1)).modCmd r c.id fun k => { k with prod := some (sHdl c.s1) })) ∧
    (cmdReads s c.id = false → c.phase = 0 → cmdStopped t (c :: cs) c 0 = false → readAhead s r c = false →
      (∀ a ty, c.op = .mzero a ty →
        exec (.commandComplete r) s = ran (s.setTask r.core r.slot (t.setAccu a { Accu.empty with aty := ty, oty := ty }))) ∧
      (∀ a b, c.op = .maccd a b → exec (.commandComplete r) s = ran (s.setTask r.core r.slot (t.setAccu a (t.accu b)))) ∧
      (c.op = .mrel → exec (.commandComplete r) s = ran (s.modShell r.core fun sh => sh.free s.cycle r.core))) ∧
    (cmdReads s c.id = true → thrDue c = none → (∀ fn ty a b n, c.op ≠ .mma fn ty a b n) → exec (.commandComplete r) s = .next s)) ∧
  (∀ (s : State) (r : Ref), (s.stm r).cq = [] → exec (.commandComplete r) s = .next s)

/-- R202, R203: a handle becomes FULL once its producer's writes are performed and FREE once its consumer's reads are, the handle of an
operand fetch FILLING, FULL and then read by its own step; a wait for a handle FREE for 2^20 cycles that no queued command will fill traps
HSTALL with 0x300 + the handle; a fetched operand's handle and gate arrivals are the model's reading (notes/assumptions/75.md, 43.md). What handleFull, handleFree, hstallTimeout answer. -/
def Rule.HandleStates : Prop :=
  (∀ (s : State) (core slot : Nat) (h : R5),
    (∀ r c, filled s core slot h = some (r, c) → c.viaHandle = false → c.gate = 0 →
      exec (.handleFull core slot h) s = .next (((s.modTask core slot fun t => (c.countOor t).fillH h s.cycle).modCmd r c.id fun k =>
        { k with prod := none, xs := [] }).modCmd r c.id fun k => { k with gate := 0 })) ∧
    (∀ r c, filled s core slot h = some (r, c) → c.viaHandle = true →
      exec (.handleFull core slot h) s = .next ((s.modTask core slot fun t => t.setHState h 2).modCmd r c.id fun k =>
        { k with prod := none, cons := [h] })) ∧
    (filled s core slot h = none → exec (.handleFull core slot h) s = .next s) ∧
    (∀ r c, drained s core slot h = some (r, c) →
      exec (.handleFree core slot h) s = .next ((s.modTask core slot fun t => (c.countOor t).freeH h s.cycle).modCmd r c.id fun k =>
        { k with cons := k.cons.filter (· != h), xs := if k.op == .copy then [] else k.xs })) ∧
    (drained s core slot h = none → exec (.handleFree core slot h) s = .next s)) ∧
  (∀ (t : Task) (h g : R5) (cycle : Nat), (t.freeH h cycle).hst h = 0 ∧ (t.hPend.getLsbD h.toNat = false → (t.fillH h cycle).hst h = 2) ∧
    (g ≠ h → (t.freeH h cycle).hst g = t.hst g ∧ (t.fillH h cycle).hst g = t.hst g)) ∧
  (∀ (s : State) (r : Ref) (h : R5), let t := s.task r.core r.slot
    let st := t.stm r.eng
    t.live = true → st.blk.isSome = true → st.hold = .handle → st.waitH = h.toNat + 1 → t.hst h = 0 →
    (∀ e, ∀ c ∈ (t.stm e).cq, c.prod ≠ some h ∧ ¬ (c.viaHandle = true ∧ c.phase < c.op.steps ∧ sHdl c.s1 = h)) → t.since ≤ s.cycle → tget 0 t.hSince h.toNat ≤ s.cycle + 1 →
    let since := max (tget 0 t.hSince h.toNat) (t.since + 1)
    (since + 2 ^ 20 ≤ s.cycle + 1 → exec (.hstallTimeout r) s = .next (trapAt s r 0x0E (BitVec.ofNat 64 (0x300 + h.toNat)) false)) ∧
    (s.cycle + 1 < since + 2 ^ 20 → exec (.hstallTimeout r) s = .next s))

/-- R137, R138, R192: a marker at the head of its engine's queue retires: its entry leaves, LM becomes its number, and a rendezvous of
that number that waits for the engine counts it in. What markerRetire answers. -/
def Rule.MarkerRetires : Prop :=
  ∀ (s : State) (r : Ref) (c : Cmd) (cs : List Cmd) (n : BitVec 16), (s.stm r).cq = c :: cs → c.op = .mark n →
    (cmdFenced s r c = true → exec (.markerRetire r) s = .next s) ∧
    (cmdFenced s r c = false → ∃ t, exec (.markerRetire r) s = .next t ∧ (t.stm r).cq = cs ∧ (t.stm r).lm = n.zeroExtend 32 ∧
      (∀ e, ((t.task r.core r.slot).stm e).x = ((s.task r.core r.slot).stm e).x) ∧ t.mem = s.mem ∧
      ((s.task r.core r.slot).c.rdv.getLsbD 20 = true → (s.task r.core r.slot).c.rdv.getLsbD (16 + r.eng.idx.val) = true →
        (s.task r.core r.slot).c.rdv.extractLsb' 0 16 = n →
        (t.task r.core r.slot).rdvArr = (s.task r.core r.slot).rdvArr ||| (1#4 <<< r.eng.idx.val)))

/-- Commands at the head of their queues, handles, and markers: Rule.CommandResults, Rule.HandleStates, Rule.MarkerRetires. -/
def Obligations.CommandsAndHandles : Prop := Rule.CommandResults ∧ Rule.HandleStates ∧ Rule.MarkerRetires

/-- R62, R64, R65, R67, R68: RUN set gives the stream an engine and reads the descriptor and its counts, once a picture that an earlier RUN
left unfinished is output; RUN cleared, EXACT and REFINE change their bits alone, for the functions that may write them; a running stream
reads AUPROD and RELCNT again once their line has been written. That a hold of the package drops these writes, and what a RUN set keeps of
the stream, are the model's choice (notes/assumptions/100.md, 72.md, 102.md, 105.md). What mdctlRunSet, mdctlRunClear, mdctlExact,
mdctlRefine, auprodReread, relcntReread answer. -/
def Rule.MediaControlResults : Prop :=
  (∀ (s : State) (fn i : Nat), mdWrite s fn i = true →
    let m := mediaOf s i
    let s0 := s.modMedia i fun m => { m with ctl := m.ctl ||| 1, opening := true }
    (m.running = false → m.stopping = true → exec (.mdctlRunSet fn i) s = .next s0) ∧
    (m.running = false → m.stopping = false → ∀ cid x u, streamCtx s i = some cid →
      let s1 := s0.modMedia i fun m => { m with
        used := m.base.toNat, first := true, stalled := false, opening := false, since := s.cycle, skipping := m.skipping && !m.fresh
        engine := some (pickEngine s0 i), pending := if m.fresh then [] else m.pending, units := if m.fresh then [] else m.units
        history := if m.fresh then [] else m.history, cmu := m.cmu.map fun j => { j with old := j.old || m.fresh }
        n := if m.fresh then 0 else m.n, fresh := false }
      startDesc i cid m.base.toNat s1 = .ok x u → (x.f 128 32 + 2 ^ 32 - x.f 160 32) % 2 ^ 32 ≤ 2 ^ x.qlog →
      exec (.mdctlRunSet fn i) s = .next (u.modMedia i fun m => { m with
        prod := BitVec.ofNat 32 (x.f 128 32), cons := BitVec.ofNat 32 (x.f 160 32), rel := BitVec.ofNat 32 (x.f 192 32) })) ∧
    (m.running = true → exec (.mdctlRunSet fn i) s = .next s ∧ exec (.mdctlRunClear fn i) s = .next (s.modMedia i fun m => { m with
      ctl := m.ctl &&& ~~~(1 : W64), opening := false, stopping := m.stopping || (!m.opening && m.cmu.isNone && !m.pending.isEmpty) })) ∧
    (m.running = false → exec (.mdctlRunClear fn i) s = .next s) ∧
    (∀ on, exec (.mdctlExact fn i on) s =
      .next (s.modMedia i fun m => { m with ctl := if on then m.ctl ||| 2 else m.ctl &&& ~~~(2 : W64) }))) ∧
  (∀ (s : State) (fn i : Nat) (on : Bool), mdWrite s fn i = false → exec (.mdctlRunSet fn i) s = .next s ∧
    exec (.mdctlRunClear fn i) s = .next s ∧ exec (.mdctlExact fn i on) s = .next s) ∧
  (∀ (s : State) (fn i : Nat) (on : Bool), i < 128 → pkgHeld s = false →
    exec (.mdctlRefine 0 i on) s = .next (s.modMedia i fun m => { m with ctl := if on then m.ctl ||| 4 else m.ctl &&& ~~~(4 : W64) }) ∧
    (fn ≠ 0 → exec (.mdctlRefine fn i on) s = .next s)) ∧
  (∀ (s w : State) (i cid p : Nat), let m := mediaOf s i
    streamCtx s i = some cid →
    (m.running = true → m.opening = false → m.auDue = true →
      mReadN cid (m.used + 16) 4 (s.modMedia i fun m => { m with auDue := false }) = .ok p w →
      (BitVec.ofNat 32 p - (mediaOf w i).cons).toNat ≤ 2 ^ (mediaOf w i).qlog →
      exec (.auprodReread i) s = .next (w.modMedia i fun m => { m with
        prod := BitVec.ofNat 32 p, since := if m.prod = m.cons then w.cycle else m.since })) ∧
    (m.running = true ∧ m.opening = false ∨ m.stopping = true → m.relDue = true →
      mReadN cid (m.used + 24) 4 (s.modMedia i fun m => { m with relDue := false }) = .ok p w →
      exec (.relcntReread i) s = .next (w.modMedia i fun m => { m with rel := BitVec.ofNat 32 p }))) ∧
  (∀ (s : State) (i : Nat), let m := mediaOf s i
    (m.opening = false ∨ m.stopping = true → m.running = false ∨ m.opening = true ∨ m.auDue = false →
      exec (.auprodReread i) s = .next s) ∧
    ((m.running = false ∨ m.opening = true) ∧ m.stopping = false ∨ m.relDue = false → exec (.relcntReread i) s = .next s))

/-- R61, R62, R66, R67, R73: the next access unit is read, AUCONS advances by one, the work area is used, and what decoding the stream up
to it gives follows: its pictures, a skipped picture, or the end of the stream; the same bitstream under the same CODEC gives the same
again. With none waiting, nothing happens. What a bitstream first met decodes to and what a decode does in the work area are operands, by
the model's choice (notes/assumptions/102.md, 72.md). What accessUnitDecode answers. -/
def Rule.DecodeResults : Prop :=
  (∀ (s a b c d0 d : State) (i cid e : Nat) (x : Desc) (bs : List Byte) (r0 : AuResult) (use : AuUse), let m := mediaOf s i
    i < 128 → m.running = true → m.opening = false → m.prod ≠ m.cons → streamCtx s i = some cid →
    let s1 := s.modMedia i fun m => { m with engine := some (pickEngine s i) }
    startDesc i cid m.used s1 = .ok x a → mReadN cid (x.f 64 48 + 16 * (m.cons.toNat % 2 ^ x.qlog)) 16 a = .ok e b →
    mRead cid (cutPages (bits e 0 48) (bits e 64 32)) b = .ok bs c →
    let units := bs :: m.history
    let r := decodedAs s1 x.codec units r0
    mWrite cid (m.used + 20) (toBytes 4 ((m.cons.toNat + 1) % 2 ^ 32))
      ((noteDecoded c x.codec units r).modMedia i fun m => { m with
        cons := m.cons + 1, since := c.cycle, history := units
        units := ((BitVec.ofNat 32 (bits e 96 32), m.ctl.getLsbD 2, use.srange) :: m.units).take 64 }) = .ok () d0 →
    workUses cid x use.work d0 = .ok () d →
    (∀ ps v, r = .pictures ps → takePictures i cid m.used x ps d = .ok () v →
      exec (.accessUnitDecode i r0 use) s = .next v) ∧
    (∀ v, r = .bitstreamError → addErr cid m.used 1 (d.modMedia i fun m => { m with stat := m.stat ||| 8, skipping := true }) = .ok () v →
      exec (.accessUnitDecode i r0 use) s = .next v) ∧
    (r = .unsupported → exec (.accessUnitDecode i r0 use) s = .next (mediaStop (d.modMedia i id) i 2))) ∧
  (∀ (s : State) (codec : Nat) (units : List (List Byte)) (r r' : AuResult), s.decoded = [] →
    decodedAs s codec units r = r ∧ decodedAs (noteDecoded s codec units r) codec units r' = r) ∧
  (∀ (s : State) (i : Nat) (r : AuResult) (use : AuUse), (mediaOf s i).running = false ∨ (mediaOf s i).opening = true ∨ (mediaOf s i).prod = (mediaOf s i).cons →
    exec (.accessUnitDecode i r use) s = .next s)

/-- R68 to R72: with its slot released the next picture's frame, tensors and record are written in turn; with no slot released it waits,
and STALL stands, until RELCNT is read again. R77 to R80: a pass over the picture's tensors decides its layers, then OUTCNT advances and
EVDONE is signalled. What a picture carries, the searched vectors at a fractional displacement, and a search without a previous picture are
the model's choice (notes/assumptions/72.md, 5.md, 102.md, 105.md). What pictureOutput, cmuPass answer. -/
def Rule.PictureResults : Prop :=
  (∀ (s u : State) (i cid : Nat) (o : OutPic) (os : List OutPic) (x : Desc), let m := mediaOf s i
    m.pending = o :: os → m.cmu = none → m.running = true ∧ m.opening = false ∨ m.stopping = true → streamCtx s i = some cid →
    startDesc i cid m.used s = .ok x u →
    let rel := if m.stalled then m.rel else BitVec.ofNat 32 (x.f 192 32)
    let s1 := u.modMedia i fun m => { m with rel := rel }
    let p := o.pic
    let k := m.n.toNat % x.slots
    let f := x.f 256 48 + k * x.fslot
    let bw := (p.w + 15) / 16
    let bh := (p.h + 15) / 16
    let used := (m.n - rel).toNat
    (x.slots ≤ used → exec (.pictureOutput i) s = .next (s1.modMedia i fun m => { m with stat := m.stat ||| 16, stalled := true })) ∧
    (∀ a b c d e, used < x.slots → badPicture x p = false →
      writeRows cid x.bps (depthOf p) x.pitch p.w (p.luma.take p.h) f s1 = .ok () a →
      writeRows cid x.bps (depthOf p) x.pitch (2 * ((p.w + 1) / 2)) (p.chroma.take ((p.h + 1) / 2)) (f + x.alh * x.pitch) a = .ok () b →
      writeTensor cid (4 * x.bw) (chunk bw bh ((motionTensor o m.last).map fun v => signedField 16 v.x + signedField 16 v.y * 2 ^ 16))
        (x.f 640 48 + k * x.tslot) b = .ok () c →
      writeTensor cid (4 * x.bw) (chunk bw bh (p.blocks.zipIdx.map fun b => residualOf p b.2 b.1)) (x.f 704 48 + k * x.tslot) c = .ok () d →
      mWrite cid (x.f 768 48 + 64 * k) (toBytes 64 (infoRecord m x o).toNat) d = .ok () e →
      exec (.pictureOutput i) s = .next (e.modMedia i fun m => { m with
        pending := os, first := false, last := some p, stopping := false, stalled := false
        cmu := some ⟨x.d, m.used, infoRecord m x o, false, e.cycle⟩ }))) ∧
  (∀ (s : State) (i : Nat), (mediaOf s i).pending = [] → exec (.pictureOutput i) s = .next s) ∧
  (∀ (s a0 a b c d : State) (i cid : Nat) (j : CmuJob) (ls : List (Nat × Nat)) (mv res : List Nat), let m := mediaOf s i
    m.cmu = some j → streamCtx s i = some cid →
    let x : Desc := ⟨j.desc⟩
    let info := j.info.toNat
    let n := bits info 32 32
    let k := n % x.slots
    let bw := (bits info 64 16 + 15) / 16
    let bh := (bits info 80 16 + 15) / 16
    readLayers cid x (List.range (x.f 24 7)) s = .ok ls a0 →
    readTensor cid (4 * x.bw) bw bh (x.f 640 48 + k * x.tslot) a0 = .ok mv a →
    readTensor cid (4 * x.bw) bw bh (x.f 704 48 + k * x.tslot) a = .ok res b →
    layerPasses cid x info (m.ctl.getLsbD 1) res (mv.map fun v => ⟨sInt 16 (v % 2 ^ 16), sInt 16 (v / 2 ^ 16)⟩)
      ls b = .ok () c →
    mWrite cid (j.base + 28) (toBytes 4 ((n + 1) % 2 ^ 32)) c = .ok () d →
    let e := d.modMedia i fun m => { m with n := if j.old then m.n else m.n + 1, cmu := none }
    exec (.cmuPass i) s = .next (if x.f 32 16 ≠ 0 then signalEvent e cid (x.f 32 16) else e)) ∧
  (∀ (s : State) (i : Nat), (mediaOf s i).cmu = none → exec (.cmuPass i) s = .next s)

/-- R77 to R79: a tile is recomputed for the first cause that holds, in their order, and for none it is reused where it stands or moved;
one not recomputed keeps its count and sum rising, and one that is has them zero, both under the layer's generation; the dominant vector
occurs most often, the first of those that do; a list entry and a mask hold the decisions. -/
def Rule.TileDecisions : Prop :=
  (∀ (l : Layer) (exact sc : Bool) (ty tx st : Nat) (res : List Nat) (mv : List Mv),
    let d := decideTile l exact sc ty tx st res mv
    let e := min res.sum 0xFFFFFFFE
    let dom := dominant mv
    let c := bits l.d 64 16
    let ox := roundTiesZero dom.x (4 * l.st)
    let oy := roundTiesZero dom.y (4 * l.st)
    let n := l.tp / l.st
    let aw := (l.w + l.st - 1) / l.st
    let ah := (l.h + l.st - 1) / l.st
    let inside : Prop := 0 ≤ (ty * n : Nat) + oy ∧ (ty * n : Nat) + oy + min n (ah - ty * n) ≤ ah ∧
      0 ≤ (tx * n : Nat) + ox ∧ (tx * n : Nat) + ox + min n (aw - tx * n) ≤ aw
    let cause (k : Nat) : Prop := k = 1 ∧ exact = true ∨ k = 2 ∧ sc = true ∨ k = 3 ∧ (st.testBit 40 = false ∨ bits st 48 8 ≠ l.gen) ∨
      k = 4 ∧ 0xFFFFFFFF ∈ res ∨ k = 5 ∧ bits l.d 32 32 < e ∨ k = 6 ∧ bits l.d 8 8 ≤ bits st 32 8 ∨
      k = 7 ∧ bits l.d 96 32 < min (bits st 0 32 + e) 0xFFFFFFFF ∨
      k = 8 ∧ (∃ v ∈ mv, c < (v.x - dom.x).natAbs ∨ c < (v.y - dom.y).natAbs) ∨ k = 9 ∧ ¬ (ox = 0 ∧ oy = 0) ∧ ¬ inside
    (∀ k, 1 ≤ k → (d.rsn = k ↔ cause k ∧ ∀ j, j < k → ¬ cause j)) ∧ (d.act = 0 ↔ d.rsn ≠ 0) ∧
    (d.act = 0 → d.ox = 0 ∧ d.oy = 0 ∧ d.st = 2 ^ 40 + l.gen * 2 ^ 48) ∧
    (d.act ≠ 0 → d.ox = ox ∧ d.oy = oy ∧ d.act = (if ox = 0 ∧ oy = 0 then 1 else 2) ∧
      bits d.st 0 32 = min (bits st 0 32 + e) 0xFFFFFFFF ∧ bits d.st 32 8 = min (bits st 32 8 + 1) 255 ∧
      d.st.testBit 40 = true ∧ bits d.st 48 8 = l.gen) ∧
    (ty < 256 → tx < 256 → let x := listEntry ty tx d
      bits x 0 8 = ty ∧ bits x 8 8 = tx ∧ bits x 16 2 = d.act ∧ bits x 18 4 = d.rsn ∧ bits x 22 2 = 0 ∧ bits x 24 8 = bits d.st 32 8 ∧
      bits x 32 16 = signedField 16 d.ox ∧ bits x 48 16 = signedField 16 d.oy)) ∧
  (∀ vs : List Mv, vs ≠ [] → dominant vs ∈ vs ∧ ∀ v ∈ vs, vs.count v ≤ vs.count (dominant vs) ∧
    (vs.count v = vs.count (dominant vs) → vs.idxOf (dominant vs) ≤ vs.idxOf v)) ∧
  (∀ (ts : List (Nat × Nat × TileAct)) (j : Nat), (maskBytes ts).length = (ts.length + 7) / 8 ∧ ∀ i, i < 8 → 8 * j + i < ts.length →
    ∃ t, ts[8 * j + i]? = some t ∧ ((maskBytes ts).getD j 0).getLsbD i = (t.2.2.act == 0))

/-- Media streams: control, access units, pictures, and change-mask decisions: Rule.MediaControlResults, Rule.DecodeResults,
Rule.PictureResults, Rule.TileDecisions. -/
def Obligations.MediaResults : Prop := Rule.MediaControlResults ∧ Rule.DecodeResults ∧ Rule.PictureResults ∧ Rule.TileDecisions

/-- R217 to R220: a served ring reads PROD and CONS again; the rings of a die with a request pending have their turns round robin; the next
request of the ring whose turn it is, read, does its operation's work and stands done with OK, BADARG where an argument is wrong, and BADOP
for OP 6 to 15; then its completion record is written, CONS advances and EV is signalled. Which arguments are wrong, what a failed record
leaves and a bilinear sample's order are the model's choice (notes/assumptions/71.md, 83.md, 5.md). What teRingPoll,
teNop, tePict, teTransp, teFconv, teRecomp, teCbload, teBadop, teRequestComplete answer. -/
def Obligations.TransformResults : Prop :=
  (∀ (s u : State) (ring p : Nat), ringServed s ring = true → (teOf s ring).wait = none →
    teReadN (ringWho s ring) (ringHdr s ring) 8 s = .ok p u →
    exec (.teRingPoll ring) s = .next (u.modTe ring fun t => { t with
      prod := some (BitVec.ofNat 32 (bits p 0 32)), cons := BitVec.ofNat 32 (bits p 32 32), since := if t.pending then t.since else s.cycle })) ∧
  (∀ (s : State) (die ring : Nat), teTurn s die = some ring → ringDie s ring = die ∧ ringReady s ring = true ∧
    ∀ r, r < 64 → ringDie s r = die → ringReady s r = true →
      (ring + 64 - tget 0 s.teLast die % 64) % 64 ≤ (r + 64 - tget 0 s.teLast die % 64) % 64) ∧
  (∀ (s u : State) (ring : Nat) (q : Req) (tag : W32), RequestRead s u ring q tag →
    let who : Who := (ringWho s ring)
    let ends (st : Nat) (t : State) : Host.Outcome State Fault Refusal := .next (t.teDone ring st tag)
    let op := bits q.d 0 4
    (op = 0 → exec (.teNop ring) s = ends 0 u) ∧
    (6 ≤ op → exec (.teBadop ring) s = ends 2 u) ∧
    (op = 1 → ∀ a b, q.sty = some a → q.dty = some b → a = .n8 ∨ a = .n16 → b = .f32 ∨ b = .f16 ∨ b = .bf16 ∨ b = .n8 → q.rm ≠ 3 → q.w ≠ 0 →
      q.h ≠ 0 → q.ow ≠ 0 → q.oh ≠ 0 → ∀ luma chroma v w t, readRows who a q.w q.spitch q.h q.src u = .ok luma v →
      readRows who a (2 * ((q.w + 1) / 2)) q.spitch ((q.h + 1) / 2) (q.src + (q.h + 15) / 16 * 16 * q.spitch) v = .ok chroma w →
      writeElems who b q.dpitch ((List.range q.oh).map fun oy => (List.range q.ow).flatMap fun ox => pictSample q a b luma chroma oy ox)
        q.dst w = .ok () t → exec (.tePict ring) s = ends 0 t) ∧
    (op = 2 → ∀ ty g v t, q.sty = some ty → q.dty = some ty → q.rm ≠ 3 → q.w ≠ 0 → q.h ≠ 0 →
      readRows who ty q.w q.spitch q.h q.src u = .ok g v →
      writeElems who ty q.dpitch ((List.range q.w).map fun x => (List.range q.h).map fun y => gridAt g y x) q.dst v = .ok () t →
      exec (.teTransp ring) s = ends 0 t) ∧
    (op = 3 → ∀ a b g v t, q.sty = some a → q.dty = some b → a ≠ .e3m5 → b ≠ .e3m5 → q.rm ≠ 3 → q.w ≠ 0 → q.h ≠ 0 →
      readRows who a q.w q.spitch q.h q.src u = .ok g v →
      writeElems who b q.dpitch (g.map fun r => r.map fun e => ((convTo b (if q.rm = 1 then 1 else 0) (q.rm == 2) (fpOf a e.1)).1, e.2))
        q.dst v = .ok () t → exec (.teFconv ring) s = ends 0 t) ∧
    (op = 4 → q.rm ≠ 3 → q.w ≠ 0 → q.dst % 512 = 0 → ∀ t, recompBlocks who q.w q.dst u = .ok () t → exec (.teRecomp ring) s = ends 0 t) ∧
    (op = 5 → q.rm ≠ 3 → q.cid < 1024 → ∀ bs t, teRead who q.src 256 u = .ok bs t →
      let k := q.die * 8192 + 2 * q.cid + q.f 16 1
      exec (.teCbload ring) s = ends 0 { t with
        books := tput [] t.books k (bs.map (·.1)), bookSt := tput 0 t.bookSt k (1 + 2 * (1 - bits (tget 0 t.bookSt k) 1 1)) }) ∧
    (op = 2 → q.rm = 3 → exec (.teTransp ring) s = ends 3 u) ∧ (op = 3 → q.rm = 3 → exec (.teFconv ring) s = ends 3 u) ∧
    (op = 1 → q.rm = 3 → exec (.tePict ring) s = ends 3 u)) ∧
  (∀ (s a b c : State) (ring st x : Nat) (tag : W32), ringServed s ring = true → (teOf s ring).wait = none →
    (teOf s ring).done = some (st, tag) →
    let w : Who := (ringWho s ring)
    teReadN w (ringHdr s ring) 64 s = .ok x a →
    let k := bits x 32 32
    let n := 2 ^ bits x 64 4
    teWrite w (bits x 96 48 + 16 * (k % n)) (clean (toBytes 16 (tag.toNat + st * 2 ^ 32 + (if k / n % 2 = 0 then 2 ^ 63 else 0) + k * 2 ^ 64)))
      a = .ok () b → teWrite w (ringHdr s ring + 4) (clean (toBytes 4 ((k + 1) % 2 ^ 32))) b = .ok () c →
    let d := (c.modTe ring fun t => { t with cons := BitVec.ofNat 32 (k + 1), since := c.cycle }).modTe ring fun t => { t with done := none }
    exec (.teRequestComplete ring) s = .next (if bits x 80 16 ≠ 0 then signalEvent d w.cid (bits x 80 16) else d)) ∧
  (∀ (s : State) (ring : Nat), (teOf s ring).pending = false ∨ (teOf s ring).wait.isSome = true ∨ (teOf s ring).done.isSome = true →
    ∀ i ∈ [Instr.teNop ring, .tePict ring, .teTransp ring, .teFconv ring, .teRecomp ring, .teCbload ring, .teBadop ring],
      exec i s = .next s) ∧
  (∀ (s : State) (ring : Nat), ringServed s ring = false → ∀ i ∈ [Instr.teRingPoll ring, .teNop ring, .tePict ring, .teTransp ring,
    .teFconv ring, .teRecomp ring, .teCbload ring, .teBadop ring], exec i s = .next s)

/-- R160, R212, R213, R255: a line that the L2 does not hold is not evicted; one that it holds leaves it, and no byte changes; with one of
a compressed page the other line of its block leaves too, the block is coded, a block of zeros as SEL 1, and where its form in HBM does
not decode the pieces not wholly valid in the L2 are poisoned. One changed bit of a stored word is corrected and counted when its piece is
scrubbed; two of one word poison the piece and are counted; a register file is not scrubbed. Where a store's words lie, what the scrub pass
counts, which line leaves and what a coder gives are the model's choice (notes/assumptions/69.md, 73.md, 97.md). What l2Evict, scrubPass,
softError answer. -/
def Rule.StorageResults : Prop :=
  (∀ (s : State) (die pa : Nat), die ≤ 3 → pa < hbmBytes →
    let l := hbmKey die pa / 256
    let st := cmpOf s (256 * l)
    let both := [l / 2 * 2, l / 2 * 2 + 1]
    let open_ (n i : Nat) : Prop := n ∈ both ∧ i < 4 ∧ (l2Line s n).valid.extractLsb' (64 * i) 64 ≠ BitVec.allOnes 64
    (inL2 s l = false → exec (.l2Evict die pa) s = .next s) ∧
    (inL2 s l = true → s.soft = [] →
      (st < 2 → ∃ t, exec (.l2Evict die pa) s = .next t ∧ t.mem = s.mem ∧ t.poison = s.poison ∧ t.blkMeta = s.blkMeta ∧
        t.l2 = s.l2.filter (fun x => !([l].contains x.line)) ∧ ((l2Line s l).dirty = 0 → t = { s with l2 := t.l2 })) ∧
      (2 ≤ st → ∃ t, exec (.l2Evict die pa) s = .next t ∧ t.mem = s.mem ∧ t.l2 = s.l2.filter (fun x => !(both.contains x.line)) ∧
        ((∀ i, i < 512 → s.byte (l / 2 * 512 + i) = 0) → tget 0 t.blkMeta (l / 2) = 1) ∧
        (∀ j, j ≠ l / 2 → tget 0 t.blkMeta j = tget 0 s.blkMeta j) ∧
        (blockBad s (256 * l) = false → t.poison = s.poison) ∧
        (blockBad s (256 * l) = true → (∀ n i, open_ n i → 4 * n + i ∈ t.poison) ∧
          ∀ p, p ∉ s.poison → (∀ n i, open_ n i → p ≠ 4 * n + i) → p ∉ t.poison)))) ∧
  (∀ (s : State) (die store a n : Nat), die < 4 → 4 < store → exec (.scrubPass die store a n) s = .next s) ∧
  (∀ (s : State) (die store a k b c : Nat), store ≤ 4 → die ≤ 3 → a % 64 = 0 → storedKey s die store a = some k → s.soft = [] →
    b < 512 → ∃ t u, exec (.softError die store a [b]) s = .next t ∧ t.mem = s.mem ∧ t.poison = s.poison ∧
      t.soft = [(k / 4 + b / 32, (1 : W32) <<< (b % 32))] ∧ exec (.scrubPass die store a 0) t = .next u ∧ u.soft = [] ∧ u.mem = s.mem ∧
      u.poison = s.poison ∧ u.pkg.eccCnt = min (s.pkg.eccCnt + 1) 0xFFFFFFFF ∧ u.pkg.eccUnc = s.pkg.eccUnc ∧
    (c < 512 → c ≠ b → c / 64 = b / 64 → ∃ t u, exec (.softError die store a [b, c]) s = .next t ∧
      exec (.scrubPass die store a 0) t = .next u ∧ u.soft = [] ∧ u.mem = s.mem ∧ (if store = 1 then k - 2 ^ 72 else k) / 64 ∈ u.poison ∧
      u.pkg.eccUnc = min (s.pkg.eccUnc + 1) 0xFFFFFFFF ∧ u.msix = s.msix ++ [(0, 3)]))

/-- R264, R265: a trigger stands for 256 ns and then latches every unit, in one step that changes nothing else; one that comes while a
snapshot is held or pending is counted; SNAPARM releases and arms again; SNAPDATA is zero beyond a record. The words of a record are the
model's reading (notes/assumptions/70.md). What snaptrgWrite, snapinEdge, snapshotLatch, snaparmWrite answer. -/
def Rule.SnapshotResults : Prop :=
  (∀ (s : State) (v : W64), (v.getLsbD 0 = true → exec (.snaptrgWrite 0 v) s = .next (s.fireSnap 0 0) ∧
      exec (.snaparmWrite 0 v) s = .next { s with snap := { s.snap with armed := true, held := false } }) ∧
    (v.getLsbD 0 = false → exec (.snaptrgWrite 0 v) s = .next s ∧ exec (.snaparmWrite 0 v) s = .next s) ∧
    (∀ fn, fn ≠ 0 → exec (.snaptrgWrite fn v) s = .next s ∧ exec (.snaparmWrite fn v) s = .next s)) ∧
  (∀ (s : State) (ns : Nat), (100 ≤ ns → exec (.snapinEdge ns) s = .next (s.fireSnap 1 0)) ∧ (ns < 100 → exec (.snapinEdge ns) s = .next s)) ∧
  (∀ (s : State) (src cid : Nat), (s.snap.armed = true → s.snap.held = false → s.snap.pend = none →
      s.fireSnap src cid = { s with snap := { s.snap with pend := some (s.timebase.toNat, src, cid) } }) ∧
    (s.snap.held = true → s.fireSnap src cid = { s with snap := { s.snap with miss := min (s.snap.miss + 1) 0xFFFF } })) ∧
  (∀ (s : State) (t0 src cid : Nat), s.snap.pend = some (t0, src, cid) →
    (s.timebase.toNat < t0 + 256 → exec .snapshotLatch s = .next s) ∧
    (t0 + 256 ≤ s.timebase.toNat → ∃ t, exec .snapshotLatch s = .next t ∧ t.snap.held = true ∧ t.snap.armed = false ∧ t.snap.src = src ∧
      t.snap.cid = cid ∧ t.snap.pend = none ∧ t = { s with free := t.free, snap := t.snap } ∧
      (∀ u i, u < 96 → i < 32 → tget 0 t.snap.recs (u * 32 + i) = BitVec.ofNat 64 ((coreWords s u).getD i 0)))) ∧
  (∀ (s : State), 32 ≤ bits s.snap.sel.toNat 12 8 → snapData s = 0) ∧
  (∀ (s : State), s.snap.pend = none → exec .snapshotLatch s = .next s)

/-- Compression at eviction, soft errors and scrubbing, and snapshots: Rule.StorageResults, Rule.SnapshotResults. -/
def Obligations.StorageAndSnapshots : Prop := Rule.StorageResults ∧ Rule.SnapshotResults

/-- R272 to R286, the worked encodings of spec/13, spec/15, spec/16: these words are these instructions, and these are none. -/
def Obligations.WorkedWordsDecode : Prop :=
  decode [0x0022_0000#32] = .ok (.blockHeader 0 2 0 false, []) ∧
  decode [0x0C05_3006#32, 0x0FC8_0010#32] = .ok (.ld ⟨0, 31, 0⟩ .g 6 .acquire .die 5 6 16, []) ∧
  decode [0x1063_2140#32] = .ok (.add 1 3 4 5, []) ∧
  decode [0x005F_C000#32] = .ok (.done 0 31, []) ∧
  decode [0x0043_3FFB#32] = .ok (.jump 0 3 (-5), []) ∧
  decode [0x0967_1234#32, 0x0000_5678#32] = .ok (.liw 0 7 0x1234_5678, []) ∧
  decode [0x0E00_8418#32, 0x0100_0403#32] = .ok (.vfma ⟨0, 2, 0⟩ .f32 1 2 3 4, []) ∧
  decode [0x0F48_4015#32, 0x0F94_0000#32] = .ok (.mma ⟨0, 31, 0⟩ .e2m1 2 1 5 1, []) ∧
  decode [0x0CE4_2194#32, 0x0F80_0700#32] = .ok (.gath ⟨0, 31, 0⟩ 4 2 3 5 7 0, []) ∧
  decode [0x0C05_3006#32, 0x1FC8_0010#32] = .error .tailNibble ∧
  decode [0x0C05_3006#32, 0x0FE8_0010#32] = .error .reservedValue ∧
  decode [0x0C05_3006#32, 0x0F88_0010#32] = .error .reservedValue ∧
  decode [0x0059_C000#32] = .error .reservedValue ∧
  decode [0x0000_0000#32] = .error .reservedMajor ∧ decode [0xFFFF_FFFF#32] = .error .reservedMajor ∧
  decode [0x0C05_3006#32] = .error .truncated

/-- R270 to R286: the words of a well-formed instruction, whatever words follow, decode to it with every operand as it was, and leave
those that follow. -/
def Obligations.DecodeOfEncode : Prop :=
  ∀ (i : Instr) (rest : List W32), i.wf = true → encode i ≠ [] → decode (encode i ++ rest) = .ok (i, rest)

/-- R122, R288: a step runs the decoded instruction. With nothing listed and nothing due in the background, or as the turn of a stream
that the inputs list, the step of a stream that is not idle is exec of the instruction its open block's words begin with, or of its commit
when they are used up, or of the header it has fetched with the block's words; a stream that a pre-emption request stops does not go on
(R151). A listed happening runs as itself, and listed time passes, before READY too. That inputs list what happens next, and that TIMEBASE
counts from the start, are the model's choice (notes/assumptions/1.md, 105.md). What blockCommit, deferredTrap answer. -/
def Rule.StepRunsDecodedInstruction : Prop :=
  (∀ (s : State), s.inputs = [] → background s = none → idle s = false → stopping s = false →
    (∀ b, s.blk = some b → s.me.fwait = none →
      (∀ i rest, decode b.words = .ok (i, rest) → step s = exec i s) ∧ (b.words = [] → step s = exec .blockCommit s)) ∧
    (s.blk = none → ∀ d ds, s.me.deferred = d :: ds → step s = exec .deferredTrap s) ∧
    (s.blk = none → s.me.deferred = [] → boundaryHeld s = false → s.me.fwait = none → ∀ ws ill u i rest,
      fetchBlock s = .block ws ill u → decode ws = .ok (i, rest) →
      step s = exec i (u.modMe fun st => { st with fetched := some ws, illegal := ill }))) ∧
  (∀ (s : State), s.inputs = [] → background s = none → idle s = true → step s = .next s) ∧
  (∀ (s : State), s.inputs = [] → background s = none → idle s = false → stopping s = true → step s = .next (stopNow s)) ∧
  (∀ (s : State) (i : Instr), s.inputs = [] → background s = some i → step s = exec i s) ∧
  (∀ (s : State) (r : Ref) (ms : List Move), s.inputs = .run r :: ms →
    let u : State := { s with inputs := ms, cur := r }
    idle u = false → stopping u = false → u.me.fwait = none → ∀ b i rest, u.blk = some b → decode b.words = .ok (i, rest) → step s = exec i u) ∧
  (∀ (s : State) (i : Instr) (ms : List Move), s.inputs = .event i :: ms → step s = exec i { s with inputs := ms }) ∧
  (∀ (s : State) (c n : Nat) (ms : List Move), s.inputs = .time c n :: ms →
    step s = .next { s with inputs := ms, cycle := s.cycle + c, timebase := s.timebase + BitVec.ofNat 64 n })

/-- R122, R126, R288, R289: a block is fetched word by word at its pc. With every word in the instruction buffer, a header of one
instruction and one exit, both legal for the engine, gives the block of its words; a first word that is no header gives ILLOP with it; a
bad instruction is found with its words. A word of the running loop body is the one that its first fetch gave (R145). A word that is not
in the buffer is read from memory in the task's context, low byte first. -/
def Rule.FetchReadsBlock : Prop :=
  (∀ (s : State) (h w e : W32), s.soft = [] → let seen (a : Nat) : Option W32 := (bodyWord s.me a).orElse fun _ => bufWord s.me a
    s.my.unread = false → seen s.me.pc.toNat = some h → seen (s.me.pc + 4).toNat = some w → seen (s.me.pc + 8).toNat = some e →
    (isHeader h = false → fetchBlock s = .bad (h.zeroExtend 64) s) ∧
    (decode [h] = .ok (.blockHeader (syncOf h) 1 0 (h.getLsbD 13), []) → ∀ i x, decode [w] = .ok (i, []) → i.legalIn s.cur.eng = true →
      isExit w = false → isExit e = true → decode [e] = .ok (x, []) → fetchBlock s = .block [h, w, e] none s) ∧
    (decode [h] = .ok (.blockHeader (syncOf h) 1 0 (h.getLsbD 13), []) → wordsOf w = 1 → (∀ i rest, decode [w] ≠ .ok (i, rest)) →
      fetchBlock s = .block [h, w] (some (w.zeroExtend 64)) s)) ∧
  (∀ (s u : State) (a : Nat) (bs : List Byte) (ex : Bool), s.soft = [] → bodyWord s.me a = none → bufWord s.me a = none →
    checkAddr s s.cur s.my.cid .g a 4 false = none → reaches s (dieOf s.cur.core) (a / 2 ^ 45) 4 = true →
    gRead s.who a 4 .ex s = .ok (bs, ex, false) u →
    ∃ t, fetchWord s a = .ok (BitVec.ofNat 32 (leNat bs)) t ∧ bufWord t.me a = some (BitVec.ofNat 32 (leNat bs)))

/-- A step runs the decoded instruction, and a fetch reads the block at the pc: Rule.StepRunsDecodedInstruction, Rule.FetchReadsBlock. -/
def Obligations.StepRunsDecodedInstruction : Prop := Rule.StepRunsDecodedInstruction ∧ Rule.FetchReadsBlock

/-- R21, R41, R47, R96, R104, R163, R254, R257, R265, R266: what the host reads after reset is what the register tables give. -/
def Obligations.ResetRegisters : Prop :=
  (∀ e ∈ [(0x08, 0), (0x10, 0x258), (0x18, 0), (0x20, 0xB54), (0x28, 0), (0x30, 0), (0x38, 0x55_0064), (0x40, 0), (0x48, 0), (0x50, 0),
      (0x58, 0), (0x60, 0x80), (0x68, 0), (0x78, 0), (0x80, 0), (0x88, 0), (0x90, 0x18), (0x98, 0), (0xA0, 1), (0xA8, 0), (0xB0, 0),
      (0xB8, 0), (0x1000, 0), (0x1008, 0), (0x1010, 0), (0x1018, 0), (0x1020, 0), (0x1028, 0), (0x1030, 1), (0x1038, 0), (0x1040, 0),
      (0x1048, 0x4000_2000), (0x1050, 0x1000), (0x1058, 0), (0x1060, 0), (0x1068, 0), (0x1070, 0), (0x1078, 0), (0x1080, 0), (0x1088, 0),
      (0x1090, 0), (0x1098, 0), (0x10A0, 0), (0x10A8, 0), (0x10B0, 0), (0x10B8, 0), (0x10C0, 0), (0x10C8, 0), (0x10D0, 0), (0x10D8, 0)],
    hostRead State.reset 0 0 e.1 = BitVec.ofNat 64 e.2) ∧
  (∀ k, k < 16 → hostRead State.reset 0 0 (0x1400 + 8 * k) = 0x0101_0101_0101_0101) ∧
  (∀ k, k < 8 → hostRead State.reset 0 0 (0x1100 + 8 * k) = 0) ∧ (∀ k, k < 32 → hostRead State.reset 0 0 (0x1200 + 8 * k) = 0) ∧
  (∀ k, k < 128 → hostRead State.reset 0 0 (0x1500 + 2 * k) = 0 ∧ hostRead State.reset 0 0 (0x1700 + 2 * k) = 0) ∧
  (∀ k, k < 12 → hostRead State.reset 0 0 (0x1600 + 8 * k) = 0) ∧
  (∀ i, i < 128 → ∀ off ∈ [0x00, 0x08, 0x10, 0x18, 0x20, 0x28, 0x30, 0x38], hostRead State.reset 0 2 (0x40 * i + off) = 0) ∧
  (∀ d, d < 4 → (dieAt State.reset d).st = .fused) ∧ Memory.wf State.reset = true

/-- Every step keeps the canonical form of memory: addresses rise and no byte listed is zero, what an unlisted byte reads as
(notes/assumptions/3.md). -/
def Obligations.StepKeepsMemoryForm : Prop :=
  ∀ (s t : State), Memory.wf s = true → step s = .next t → Memory.wf t = true
end

