-- ==== Sys2Proof/Laws/Exec.lean ====
section
/-! SUPPORT. exec of each constructor is its own meaning. -/

namespace Sys2Proof.Machine

open Sys2Proof

@[simp] theorem exec_powerGood (fwOk : Bool) (s : State) : exec (.powerGood fwOk) s = execPowerGood fwOk s := rfl
@[simp] theorem exec_pcieFundamentalReset (fwOk : Bool) (s : State) : exec (.pcieFundamentalReset fwOk) s = execPcieFundamentalReset fwOk s := rfl
@[simp] theorem exec_packageReset (fwOk : Bool) (s : State) : exec (.packageReset fwOk) s = execPackageReset fwOk s := rfl
@[simp] theorem exec_dieSelfTestDone (die : Nat) (s : State) : exec (.dieSelfTestDone die) s = execDieSelfTestDone die s := rfl
@[simp] theorem exec_getVersion (die : Nat) (versions : List Nat) (s : State) : exec (.getVersion die versions) s = execGetVersion die versions s := rfl
@[simp] theorem exec_getCapabilities (die : Nat) (flags : BitVec 6) (s : State) : exec (.getCapabilities die flags) s = execGetCapabilities die flags s := rfl
@[simp] theorem exec_negotiateAlgorithms (die : Nat) (selected : BitVec 5) (s : State) : exec (.negotiateAlgorithms die selected) s = execNegotiateAlgorithms die selected s := rfl
@[simp] theorem exec_getDigests (die : Nat) (slot0 : Option Nat) (s : State) : exec (.getDigests die slot0) s = execGetDigests die slot0 s := rfl
@[simp] theorem exec_getCertificate (die : Nat) (digest : Nat) (root : Cert) (inter : Cert) (leaf : Cert) (s : State) :
    exec (.getCertificate die digest root inter leaf) s = execGetCertificate die digest root inter leaf s := rfl
@[simp] theorem exec_challenge (die : Nat) (sigOk : Bool) (s : State) : exec (.challenge die sigOk) s = execChallenge die sigOk s := rfl
@[simp] theorem exec_getMeasurements (die : Nat) (sigOk : Bool) (ms : List Nat) (s : State) : exec (.getMeasurements die sigOk ms) s = execGetMeasurements die sigOk ms s := rfl
@[simp] theorem exec_keyExchange (die : Nat) (sigOk : Bool) (s : State) : exec (.keyExchange die sigOk) s = execKeyExchange die sigOk s := rfl
@[simp] theorem exec_finish (die : Nat) (verifyOk : Bool) (s : State) : exec (.finish die verifyOk) s = execFinish die verifyOk s := rfl
@[simp] theorem exec_spdmResponseTimeout (die : Nat) (s : State) : exec (.spdmResponseTimeout die) s = execSpdmResponseTimeout die s := rfl
@[simp] theorem exec_keyinstall (link : Nat) (dir : Nat) (key : Nat) (s : State) : exec (.keyinstall link dir key) s = execKeyinstall link dir key s := rfl
@[simp] theorem exec_dieBringupDone (die : Nat) (s : State) : exec (.dieBringupDone die) s = execDieBringupDone die s := rfl
@[simp] theorem exec_flitReceive (link : Nat) (dir : Nat) (count : Nat) (intact : Bool) (flit : Flit) (tag : BitVec 128) (s : State) :
    exec (.flitReceive link dir count intact flit tag) s = execFlitReceive link dir count intact flit tag s := rfl
@[simp] theorem exec_flitAck (link : Nat) (dir : Nat) (s : State) : exec (.flitAck link dir) s = execFlitAck link dir s := rfl
@[simp] theorem exec_rolloverStart (link : Nat) (dir : Nat) (key : Nat) (s : State) : exec (.rolloverStart link dir key) s = execRolloverStart link dir key s := rfl
@[simp] theorem exec_dierstWrite (fn : Nat) (v : W64) (s : State) : exec (.dierstWrite fn v) s = execDierstWrite fn v s := rfl
@[simp] theorem exec_dieResetScrubDone (die : Nat) (s : State) : exec (.dieResetScrubDone die) s = execDieResetScrubDone die s := rfl
@[simp] theorem exec_glitchAlarm (die : Nat) (s : State) : exec (.glitchAlarm die) s = execGlitchAlarm die s := rfl
@[simp] theorem exec_meshBreach (die : Nat) (s : State) : exec (.meshBreach die) s = execMeshBreach die s := rfl
@[simp] theorem exec_powerWindow (watts : Nat) (cdie : Nat) (mdie : Nat) (hbm : Nat) (s : State) : exec (.powerWindow watts cdie mdie hbm) s = execPowerWindow watts cdie mdie hbm s := rfl
@[simp] theorem exec_clockRaise (s : State) : exec .clockRaise s = execClockRaise s := rfl
@[simp] theorem exec_thermalTrip (cdie : Nat) (mdie : Nat) (hbm : Nat) (s : State) : exec (.thermalTrip cdie mdie hbm) s = execThermalTrip cdie mdie hbm s := rfl
@[simp] theorem exec_hbmSelfRefresh (stack : Nat) (s : State) : exec (.hbmSelfRefresh stack) s = execHbmSelfRefresh stack s := rfl
@[simp] theorem exec_shellGate (eight : Nat) (s : State) : exec (.shellGate eight) s = execShellGate eight s := rfl
@[simp] theorem exec_bar4Read (fn : Nat) (off : Nat) (n : Nat) (s : State) : exec (.bar4Read fn off n) s = execBar4Read fn off n s := rfl
@[simp] theorem exec_bar4Write (fn : Nat) (off : Nat) (data : List Byte) (s : State) : exec (.bar4Write fn off data) s = execBar4Write fn off data s := rfl
@[simp] theorem exec_kickWrite (fn : Nat) (stream : Nat) (v : W64) (s : State) : exec (.kickWrite fn stream v) s = execKickWrite fn stream v s := rfl
@[simp] theorem exec_taskRecordFetch (stream : Nat) (s : State) : exec (.taskRecordFetch stream) s = execTaskRecordFetch stream s := rfl
@[simp] theorem exec_replayRecord (stream : Nat) (s : State) : exec (.replayRecord stream) s = execReplayRecord stream s := rfl
@[simp] theorem exec_patchRecord (stream : Nat) (s : State) : exec (.patchRecord stream) s = execPatchRecord stream s := rfl
@[simp] theorem exec_reservedRecord (stream : Nat) (s : State) : exec (.reservedRecord stream) s = execReservedRecord stream s := rfl
@[simp] theorem exec_completionPost (fn : Nat) (s : State) : exec (.completionPost fn) s = execCompletionPost fn s := rfl
@[simp] theorem exec_completionIrqTimer (fn : Nat) (s : State) : exec (.completionIrqTimer fn) s = execCompletionIrqTimer fn s := rfl
@[simp] theorem exec_crheadWrite (fn : Nat) (v : W64) (s : State) : exec (.crheadWrite fn v) s = execCrheadWrite fn v s := rfl
@[simp] theorem exec_crsizeWrite (fn : Nat) (v : W64) (s : State) : exec (.crsizeWrite fn v) s = execCrsizeWrite fn v s := rfl
@[simp] theorem exec_mdctlRunSet (fn : Nat) (stream : Nat) (s : State) : exec (.mdctlRunSet fn stream) s = execMdctlRunSet fn stream s := rfl
@[simp] theorem exec_mdctlRunClear (fn : Nat) (stream : Nat) (s : State) : exec (.mdctlRunClear fn stream) s = execMdctlRunClear fn stream s := rfl
@[simp] theorem exec_mdctlExact (fn : Nat) (stream : Nat) (on : Bool) (s : State) : exec (.mdctlExact fn stream on) s = execMdctlExact fn stream on s := rfl
@[simp] theorem exec_mdctlRefine (fn : Nat) (stream : Nat) (on : Bool) (s : State) : exec (.mdctlRefine fn stream on) s = execMdctlRefine fn stream on s := rfl
@[simp] theorem exec_auprodReread (stream : Nat) (s : State) : exec (.auprodReread stream) s = execAuprodReread stream s := rfl
@[simp] theorem exec_accessUnitDecode (stream : Nat) (r : AuResult) (use : AuUse) (s : State) :
    exec (.accessUnitDecode stream r use) s = execAccessUnitDecode stream r use s := rfl
@[simp] theorem exec_pictureOutput (stream : Nat) (s : State) : exec (.pictureOutput stream) s = execPictureOutput stream s := rfl
@[simp] theorem exec_relcntReread (stream : Nat) (s : State) : exec (.relcntReread stream) s = execRelcntReread stream s := rfl
@[simp] theorem exec_cmuPass (stream : Nat) (s : State) : exec (.cmuPass stream) s = execCmuPass stream s := rfl
@[simp] theorem exec_dispatchTurn (core : Nat) (s : State) : exec (.dispatchTurn core) s = execDispatchTurn core s := rfl
@[simp] theorem exec_ageExpiry (core : Nat) (tid : Nat) (s : State) : exec (.ageExpiry core tid) s = execAgeExpiry core tid s := rfl
@[simp] theorem exec_stealRequest (core : Nat) (s : State) : exec (.stealRequest core) s = execStealRequest core s := rfl
@[simp] theorem exec_quantumExpiry (core : Nat) (s : State) : exec (.quantumExpiry core) s = execQuantumExpiry core s := rfl
@[simp] theorem exec_preemptSave (core : Nat) (slot : Nat) (s : State) : exec (.preemptSave core slot) s = execPreemptSave core slot s := rfl
@[simp] theorem exec_taskResume (core : Nat) (s : State) : exec (.taskResume core) s = execTaskResume core s := rfl
@[simp] theorem exec_taskEnd (core : Nat) (slot : Nat) (s : State) : exec (.taskEnd core slot) s = execTaskEnd core slot s := rfl
@[simp] theorem exec_leaseGrant (eight : Nat) (s : State) : exec (.leaseGrant eight) s = execLeaseGrant eight s := rfl
@[simp] theorem exec_leaseCap (eight : Nat) (s : State) : exec (.leaseCap eight) s = execLeaseCap eight s := rfl
@[simp] theorem exec_abortLineArrival (core : Nat) (slot : Nat) (s : State) : exec (.abortLineArrival core slot) s = execAbortLineArrival core slot s := rfl
@[simp] theorem exec_blockCommit (s : State) : exec .blockCommit s = execBlockCommit s := rfl
@[simp] theorem exec_deferredTrap (s : State) : exec .deferredTrap s = execDeferredTrap s := rfl
@[simp] theorem exec_markerRetire (r : Ref) (s : State) : exec (.markerRetire r) s = execMarkerRetire r s := rfl
@[simp] theorem exec_mwaitTimeout (r : Ref) (s : State) : exec (.mwaitTimeout r) s = execMwaitTimeout r s := rfl
@[simp] theorem exec_commandComplete (r : Ref) (s : State) : exec (.commandComplete r) s = execCommandComplete r s := rfl
@[simp] theorem exec_handleFull (core : Nat) (slot : Nat) (h : R5) (s : State) : exec (.handleFull core slot h) s = execHandleFull core slot h s := rfl
@[simp] theorem exec_handleFree (core : Nat) (slot : Nat) (h : R5) (s : State) : exec (.handleFree core slot h) s = execHandleFree core slot h s := rfl
@[simp] theorem exec_hstallTimeout (r : Ref) (s : State) : exec (.hstallTimeout r) s = execHstallTimeout r s := rfl
@[simp] theorem exec_memPerform (uid : Nat) (s : State) : exec (.memPerform uid) s = execMemPerform uid s := rfl
@[simp] theorem exec_viewServe (uid : Nat) (s : State) : exec (.viewServe uid) s = execViewServe uid s := rfl
@[simp] theorem exec_viewFill (core : Nat) (cid : Nat) (addr : Nat) (s : State) : exec (.viewFill core cid addr) s = execViewFill core cid addr s := rfl
@[simp] theorem exec_viewDrop (core : Nat) (cid : Nat) (addr : Nat) (s : State) : exec (.viewDrop core cid addr) s = execViewDrop core cid addr s := rfl
@[simp] theorem exec_fqresRetry (fn : Nat) (tag : Nat) (s : State) : exec (.fqresRetry fn tag) s = execFqresRetry fn tag s := rfl
@[simp] theorem exec_fqresFatal (fn : Nat) (tag : Nat) (s : State) : exec (.fqresFatal fn tag) s = execFqresFatal fn tag s := rfl
@[simp] theorem exec_sideLogReplay (core : Nat) (uid : Nat) (s : State) : exec (.sideLogReplay core uid) s = execSideLogReplay core uid s := rfl
@[simp] theorem exec_tlbcmdWrite (fn : Nat) (v : W64) (s : State) : exec (.tlbcmdWrite fn v) s = execTlbcmdWrite fn v s := rfl
@[simp] theorem exec_tlbInvalidateDone (s : State) : exec .tlbInvalidateDone s = execTlbInvalidateDone s := rfl
@[simp] theorem exec_kcfgApply (eight : Nat) (s : State) : exec (.kcfgApply eight) s = execKcfgApply eight s := rfl
@[simp] theorem exec_ctxkillWrite (fn : Nat) (v : W64) (s : State) : exec (.ctxkillWrite fn v) s = execCtxkillWrite fn v s := rfl
@[simp] theorem exec_killDrainEnd (s : State) : exec .killDrainEnd s = execKillDrainEnd s := rfl
@[simp] theorem exec_birthRetry (cid : Nat) (die : Nat) (reg : Nat) (s : State) : exec (.birthRetry cid die reg) s = execBirthRetry cid die reg s := rfl
@[simp] theorem exec_l2Evict (die : Nat) (paddr : Nat) (s : State) : exec (.l2Evict die paddr) s = execL2Evict die paddr s := rfl
@[simp] theorem exec_teRingPoll (ring : Nat) (s : State) : exec (.teRingPoll ring) s = execTeRingPoll ring s := rfl
@[simp] theorem exec_teNop (ring : Nat) (s : State) : exec (.teNop ring) s = execTeNop ring s := rfl
@[simp] theorem exec_tePict (ring : Nat) (s : State) : exec (.tePict ring) s = execTePict ring s := rfl
@[simp] theorem exec_teTransp (ring : Nat) (s : State) : exec (.teTransp ring) s = execTeTransp ring s := rfl
@[simp] theorem exec_teFconv (ring : Nat) (s : State) : exec (.teFconv ring) s = execTeFconv ring s := rfl
@[simp] theorem exec_teRecomp (ring : Nat) (s : State) : exec (.teRecomp ring) s = execTeRecomp ring s := rfl
@[simp] theorem exec_teCbload (ring : Nat) (s : State) : exec (.teCbload ring) s = execTeCbload ring s := rfl
@[simp] theorem exec_teBadop (ring : Nat) (s : State) : exec (.teBadop ring) s = execTeBadop ring s := rfl
@[simp] theorem exec_teRequestComplete (ring : Nat) (s : State) : exec (.teRequestComplete ring) s = execTeRequestComplete ring s := rfl
@[simp] theorem exec_snaptrgWrite (fn : Nat) (v : W64) (s : State) : exec (.snaptrgWrite fn v) s = execSnaptrgWrite fn v s := rfl
@[simp] theorem exec_snapinEdge (ns : Nat) (s : State) : exec (.snapinEdge ns) s = execSnapinEdge ns s := rfl
@[simp] theorem exec_snapshotLatch (s : State) : exec .snapshotLatch s = execSnapshotLatch s := rfl
@[simp] theorem exec_snaparmWrite (fn : Nat) (v : W64) (s : State) : exec (.snaparmWrite fn v) s = execSnaparmWrite fn v s := rfl
@[simp] theorem exec_scrubPass (die : Nat) (store : Nat) (addr : Nat) (errs : Nat) (s : State) : exec (.scrubPass die store addr errs) s = execScrubPass die store addr errs s := rfl
@[simp] theorem exec_registerWrite (fn : Nat) (bar : Nat) (off : Nat) (v : W64) (s : State) : exec (.registerWrite fn bar off v) s = execRegisterWrite fn bar off v s := rfl
@[simp] theorem exec_softError (die : Nat) (store : Nat) (addr : Nat) (bits : List Nat) (s : State) : exec (.softError die store addr bits) s = execSoftError die store addr bits s := rfl
@[simp] theorem exec_blockHeader (f : Sync) (ni : BitVec 5) (nx : BitVec 2) (ac : Bool) (s : State) : exec (.blockHeader f ni nx ac) s = execBlockHeader f ni nx ac s := rfl
@[simp] theorem exec_jump (f : Sync) (pred : R5) (disp : BitVec 14) (s : State) : exec (.jump f pred disp) s = execJump f pred disp s := rfl
@[simp] theorem exec_call (f : Sync) (pred : R5) (disp : BitVec 14) (s : State) : exec (.call f pred disp) s = execCall f pred disp s := rfl
@[simp] theorem exec_ret (f : Sync) (pred : R5) (s : State) : exec (.ret f pred) s = execRet f pred s := rfl
@[simp] theorem exec_done (f : Sync) (pred : R5) (s : State) : exec (.done f pred) s = execDone f pred s := rfl
@[simp] theorem exec_add (f : Sync) (d : R5) (a : R5) (b : R5) (s : State) : exec (.add f d a b) s = execAdd f d a b s := rfl
@[simp] theorem exec_sub (f : Sync) (d : R5) (a : R5) (b : R5) (s : State) : exec (.sub f d a b) s = execSub f d a b s := rfl
@[simp] theorem exec_and (f : Sync) (d : R5) (a : R5) (b : R5) (s : State) : exec (.and f d a b) s = execAnd f d a b s := rfl
@[simp] theorem exec_or (f : Sync) (d : R5) (a : R5) (b : R5) (s : State) : exec (.or f d a b) s = execOr f d a b s := rfl
@[simp] theorem exec_xor (f : Sync) (d : R5) (a : R5) (b : R5) (s : State) : exec (.xor f d a b) s = execXor f d a b s := rfl
@[simp] theorem exec_andn (f : Sync) (d : R5) (a : R5) (b : R5) (s : State) : exec (.andn f d a b) s = execAndn f d a b s := rfl
@[simp] theorem exec_sll (f : Sync) (d : R5) (a : R5) (b : R5) (s : State) : exec (.sll f d a b) s = execSll f d a b s := rfl
@[simp] theorem exec_srl (f : Sync) (d : R5) (a : R5) (b : R5) (s : State) : exec (.srl f d a b) s = execSrl f d a b s := rfl
@[simp] theorem exec_sra (f : Sync) (d : R5) (a : R5) (b : R5) (s : State) : exec (.sra f d a b) s = execSra f d a b s := rfl
@[simp] theorem exec_minS (f : Sync) (d : R5) (a : R5) (b : R5) (s : State) : exec (.minS f d a b) s = execMinS f d a b s := rfl
@[simp] theorem exec_minN (f : Sync) (d : R5) (a : R5) (b : R5) (s : State) : exec (.minN f d a b) s = execMinN f d a b s := rfl
@[simp] theorem exec_maxS (f : Sync) (d : R5) (a : R5) (b : R5) (s : State) : exec (.maxS f d a b) s = execMaxS f d a b s := rfl
@[simp] theorem exec_maxN (f : Sync) (d : R5) (a : R5) (b : R5) (s : State) : exec (.maxN f d a b) s = execMaxN f d a b s := rfl
@[simp] theorem exec_clz (f : Sync) (d : R5) (a : R5) (s : State) : exec (.clz f d a) s = execClz f d a s := rfl
@[simp] theorem exec_popc (f : Sync) (d : R5) (a : R5) (s : State) : exec (.popc f d a) s = execPopc f d a s := rfl
@[simp] theorem exec_addW (f : Sync) (d : R5) (a : R5) (b : R5) (s : State) : exec (.addW f d a b) s = execAddW f d a b s := rfl
@[simp] theorem exec_subW (f : Sync) (d : R5) (a : R5) (b : R5) (s : State) : exec (.subW f d a b) s = execSubW f d a b s := rfl
@[simp] theorem exec_addi (f : Sync) (d : R5) (a : R5) (imm : BitVec 11) (s : State) : exec (.addi f d a imm) s = execAddi f d a imm s := rfl
@[simp] theorem exec_andi (f : Sync) (d : R5) (a : R5) (imm : BitVec 11) (s : State) : exec (.andi f d a imm) s = execAndi f d a imm s := rfl
@[simp] theorem exec_ori (f : Sync) (d : R5) (a : R5) (imm : BitVec 11) (s : State) : exec (.ori f d a imm) s = execOri f d a imm s := rfl
@[simp] theorem exec_xori (f : Sync) (d : R5) (a : R5) (imm : BitVec 11) (s : State) : exec (.xori f d a imm) s = execXori f d a imm s := rfl
@[simp] theorem exec_slli (f : Sync) (d : R5) (a : R5) (sh : BitVec 6) (s : State) : exec (.slli f d a sh) s = execSlli f d a sh s := rfl
@[simp] theorem exec_srli (f : Sync) (d : R5) (a : R5) (sh : BitVec 6) (s : State) : exec (.srli f d a sh) s = execSrli f d a sh s := rfl
@[simp] theorem exec_srai (f : Sync) (d : R5) (a : R5) (sh : BitVec 6) (s : State) : exec (.srai f d a sh) s = execSrai f d a sh s := rfl
@[simp] theorem exec_liw (f : Sync) (d : R5) (imm : W32) (s : State) : exec (.liw f d imm) s = execLiw f d imm s := rfl
@[simp] theorem exec_lih (f : Sync) (d : R5) (imm : W32) (s : State) : exec (.lih f d imm) s = execLih f d imm s := rfl
@[simp] theorem exec_cmpEq (f : Sync) (d : R5) (a : R5) (b : R5) (s : State) : exec (.cmpEq f d a b) s = execCmpEq f d a b s := rfl
@[simp] theorem exec_cmpNe (f : Sync) (d : R5) (a : R5) (b : R5) (s : State) : exec (.cmpNe f d a b) s = execCmpNe f d a b s := rfl
@[simp] theorem exec_cmpLtS (f : Sync) (d : R5) (a : R5) (b : R5) (s : State) : exec (.cmpLtS f d a b) s = execCmpLtS f d a b s := rfl
@[simp] theorem exec_cmpLtN (f : Sync) (d : R5) (a : R5) (b : R5) (s : State) : exec (.cmpLtN f d a b) s = execCmpLtN f d a b s := rfl
@[simp] theorem exec_cmpGeS (f : Sync) (d : R5) (a : R5) (b : R5) (s : State) : exec (.cmpGeS f d a b) s = execCmpGeS f d a b s := rfl
@[simp] theorem exec_cmpGeN (f : Sync) (d : R5) (a : R5) (b : R5) (s : State) : exec (.cmpGeN f d a b) s = execCmpGeN f d a b s := rfl
@[simp] theorem exec_cmpiEq (g : Guard) (d : R5) (a : R5) (imm : BitVec 14) (s : State) : exec (.cmpiEq g d a imm) s = execCmpiEq g d a imm s := rfl
@[simp] theorem exec_cmpiNe (g : Guard) (d : R5) (a : R5) (imm : BitVec 14) (s : State) : exec (.cmpiNe g d a imm) s = execCmpiNe g d a imm s := rfl
@[simp] theorem exec_cmpiLtS (g : Guard) (d : R5) (a : R5) (imm : BitVec 14) (s : State) : exec (.cmpiLtS g d a imm) s = execCmpiLtS g d a imm s := rfl
@[simp] theorem exec_cmpiLtN (g : Guard) (d : R5) (a : R5) (imm : BitVec 14) (s : State) : exec (.cmpiLtN g d a imm) s = execCmpiLtN g d a imm s := rfl
@[simp] theorem exec_cmpiGeS (g : Guard) (d : R5) (a : R5) (imm : BitVec 14) (s : State) : exec (.cmpiGeS g d a imm) s = execCmpiGeS g d a imm s := rfl
@[simp] theorem exec_cmpiGeN (g : Guard) (d : R5) (a : R5) (imm : BitVec 14) (s : State) : exec (.cmpiGeN g d a imm) s = execCmpiGeN g d a imm s := rfl
@[simp] theorem exec_pand (f : Sync) (d : R5) (a : R5) (b : R5) (s : State) : exec (.pand f d a b) s = execPand f d a b s := rfl
@[simp] theorem exec_por (f : Sync) (d : R5) (a : R5) (b : R5) (s : State) : exec (.por f d a b) s = execPor f d a b s := rfl
@[simp] theorem exec_pxor (f : Sync) (d : R5) (a : R5) (b : R5) (s : State) : exec (.pxor f d a b) s = execPxor f d a b s := rfl
@[simp] theorem exec_pandn (f : Sync) (d : R5) (a : R5) (b : R5) (s : State) : exec (.pandn f d a b) s = execPandn f d a b s := rfl
@[simp] theorem exec_pnot (f : Sync) (d : R5) (a : R5) (s : State) : exec (.pnot f d a) s = execPnot f d a s := rfl
@[simp] theorem exec_pmov (f : Sync) (d : R5) (a : R5) (s : State) : exec (.pmov f d a) s = execPmov f d a s := rfl
@[simp] theorem exec_pall (f : Sync) (d : R5) (a : R5) (s : State) : exec (.pall f d a) s = execPall f d a s := rfl
@[simp] theorem exec_pnone (f : Sync) (d : R5) (a : R5) (s : State) : exec (.pnone f d a) s = execPnone f d a s := rfl
@[simp] theorem exec_ppop (f : Sync) (d : R5) (a : R5) (s : State) : exec (.ppop f d a) s = execPpop f d a s := rfl
@[simp] theorem exec_pfirst (f : Sync) (d : R5) (a : R5) (s : State) : exec (.pfirst f d a) s = execPfirst f d a s := rfl
@[simp] theorem exec_mul (f : Sync) (d : R5) (a : R5) (b : R5) (s : State) : exec (.mul f d a b) s = execMul f d a b s := rfl
@[simp] theorem exec_mulhS (f : Sync) (d : R5) (a : R5) (b : R5) (s : State) : exec (.mulhS f d a b) s = execMulhS f d a b s := rfl
@[simp] theorem exec_mulhN (f : Sync) (d : R5) (a : R5) (b : R5) (s : State) : exec (.mulhN f d a b) s = execMulhN f d a b s := rfl
@[simp] theorem exec_divS (f : Sync) (d : R5) (a : R5) (b : R5) (s : State) : exec (.divS f d a b) s = execDivS f d a b s := rfl
@[simp] theorem exec_divN (f : Sync) (d : R5) (a : R5) (b : R5) (s : State) : exec (.divN f d a b) s = execDivN f d a b s := rfl
@[simp] theorem exec_remS (f : Sync) (d : R5) (a : R5) (b : R5) (s : State) : exec (.remS f d a b) s = execRemS f d a b s := rfl
@[simp] theorem exec_remN (f : Sync) (d : R5) (a : R5) (b : R5) (s : State) : exec (.remN f d a b) s = execRemN f d a b s := rfl
@[simp] theorem exec_mulW (f : Sync) (d : R5) (a : R5) (b : R5) (s : State) : exec (.mulW f d a b) s = execMulW f d a b s := rfl
@[simp] theorem exec_divWS (f : Sync) (d : R5) (a : R5) (b : R5) (s : State) : exec (.divWS f d a b) s = execDivWS f d a b s := rfl
@[simp] theorem exec_divWN (f : Sync) (d : R5) (a : R5) (b : R5) (s : State) : exec (.divWN f d a b) s = execDivWN f d a b s := rfl
@[simp] theorem exec_remWS (f : Sync) (d : R5) (a : R5) (b : R5) (s : State) : exec (.remWS f d a b) s = execRemWS f d a b s := rfl
@[simp] theorem exec_remWN (f : Sync) (d : R5) (a : R5) (b : R5) (s : State) : exec (.remWN f d a b) s = execRemWN f d a b s := rfl
@[simp] theorem exec_sel (g : Guard) (d : R5) (a : R5) (b : R5) (c : R5) (s : State) : exec (.sel g d a b c) s = execSel g d a b c s := rfl
@[simp] theorem exec_rdc (g : Guard) (d : R5) (n : BitVec 14) (s : State) : exec (.rdc g d n) s = execRdc g d n s := rfl
@[simp] theorem exec_wrc (g : Guard) (a : R5) (n : BitVec 14) (s : State) : exec (.wrc g a n) s = execWrc g a n s := rfl
@[simp] theorem exec_swpc (g : Guard) (d : R5) (a : R5) (n : BitVec 14) (s : State) : exec (.swpc g d a n) s = execSwpc g d a n s := rfl
@[simp] theorem exec_setc (g : Guard) (d : R5) (a : R5) (n : BitVec 14) (s : State) : exec (.setc g d a n) s = execSetc g d a n s := rfl
@[simp] theorem exec_clrc (g : Guard) (d : R5) (a : R5) (n : BitVec 14) (s : State) : exec (.clrc g d a n) s = execClrc g d a n s := rfl
@[simp] theorem exec_nop (f : Sync) (s : State) : exec (.nop f) s = execNop f s := rfl
@[simp] theorem exec_trap (f : Sync) (a : R5) (s : State) : exec (.trap f a) s = execTrap f a s := rfl
@[simp] theorem exec_eret (f : Sync) (s : State) : exec (.eret f) s = execEret f s := rfl
@[simp] theorem exec_brk (f : Sync) (a : R5) (s : State) : exec (.brk f a) s = execBrk f a s := rfl
@[simp] theorem exec_kill (f : Sync) (s : State) : exec (.kill f) s = execKill f s := rfl
@[simp] theorem exec_loopn (g : Guard) (a : R5) (lvl : BitVec 3) (cnt : BitVec 11) (s : State) : exec (.loopn g a lvl cnt) s = execLoopn g a lvl cnt s := rfl
@[simp] theorem exec_lstride (g : Guard) (d : R5) (a : R5) (lvl : BitVec 3) (ent : BitVec 3) (str : BitVec 8) (s : State) : exec (.lstride g d a lvl ent str) s = execLstride g d a lvl ent str s := rfl
@[simp] theorem exec_loopgo (g : Guard) (len : BitVec 14) (s : State) : exec (.loopgo g len) s = execLoopgo g len s := rfl
@[simp] theorem exec_loopbrk (g : Guard) (s : State) : exec (.loopbrk g) s = execLoopbrk g s := rfl
@[simp] theorem exec_post (f : Sync) (e : R5) (n : BitVec 16) (s : State) : exec (.post f e n) s = execPost f e n s := rfl
@[simp] theorem exec_await (f : Sync) (e : R5) (n : BitVec 16) (s : State) : exec (.await f e n) s = execAwait f e n s := rfl
@[simp] theorem exec_mark (f : Sync) (n : BitVec 16) (s : State) : exec (.mark f n) s = execMark f n s := rfl
@[simp] theorem exec_rdvset (g : Guard) (a : R5) (mask : BitVec 4) (num : BitVec 10) (s : State) : exec (.rdvset g a mask num) s = execRdvset g a mask num s := rfl
@[simp] theorem exec_rdvwait (g : Guard) (s : State) : exec (.rdvwait g) s = execRdvwait g s := rfl
@[simp] theorem exec_dsync (f : Sync) (n : BitVec 16) (s : State) : exec (.dsync f n) s = execDsync f n s := rfl
@[simp] theorem exec_mon (g : Guard) (a : R5) (sp3 : BitVec 3) (off : BitVec 14) (s : State) : exec (.mon g a sp3 off) s = execMon g a sp3 off s := rfl
@[simp] theorem exec_mwait (g : Guard) (d : R5) (a : R5) (s : State) : exec (.mwait g d a) s = execMwait g d a s := rfl
@[simp] theorem exec_mclr (g : Guard) (s : State) : exec (.mclr g) s = execMclr g s := rfl
@[simp] theorem exec_spawn (g : Guard) (d : R5) (a : R5) (s : State) : exec (.spawn g d a) s = execSpawn g d a s := rfl
@[simp] theorem exec_spawnr (g : Guard) (d : R5) (a : R5) (s : State) : exec (.spawnr g d a) s = execSpawnr g d a s := rfl
@[simp] theorem exec_evsig (g : Guard) (a : R5) (imm : BitVec 14) (s : State) : exec (.evsig g a imm) s = execEvsig g a imm s := rfl
@[simp] theorem exec_evwait (g : Guard) (a : R5) (imm : BitVec 14) (s : State) : exec (.evwait g a imm) s = execEvwait g a imm s := rfl
@[simp] theorem exec_joindec (g : Guard) (a : R5) (s : State) : exec (.joindec g a) s = execJoindec g a s := rfl
@[simp] theorem exec_yield (g : Guard) (s : State) : exec (.yield g) s = execYield g s := rfl
@[simp] theorem exec_tself (g : Guard) (d : R5) (s : State) : exec (.tself g d) s = execTself g d s := rfl
@[simp] theorem exec_stgadv (g : Guard) (a : R5) (imm : BitVec 14) (s : State) : exec (.stgadv g a imm) s = execStgadv g a imm s := rfl
@[simp] theorem exec_stgjmp (g : Guard) (a : R5) (imm : BitVec 14) (s : State) : exec (.stgjmp g a imm) s = execStgjmp g a imm s := rfl
@[simp] theorem exec_waitl (g : Guard) (a : R5) (imm : BitVec 14) (s : State) : exec (.waitl g a imm) s = execWaitl g a imm s := rfl
@[simp] theorem exec_stgrd (g : Guard) (d : R5) (imm : BitVec 14) (s : State) : exec (.stgrd g d imm) s = execStgrd g d imm s := rfl
@[simp] theorem exec_abort (g : Guard) (s : State) : exec (.abort g) s = execAbort g s := rfl
@[simp] theorem exec_abchk (g : Guard) (s : State) : exec (.abchk g) s = execAbchk g s := rfl
@[simp] theorem exec_abrd (g : Guard) (d : R5) (s : State) : exec (.abrd g d) s = execAbrd g d s := rfl
@[simp] theorem exec_segb (g : Guard) (a : R5) (off : BitVec 14) (s : State) : exec (.segb g a off) s = execSegb g a off s := rfl
@[simp] theorem exec_sege (g : Guard) (s : State) : exec (.sege g) s = execSege g s := rfl
@[simp] theorem exec_ld (g : Guard) (sp : Space) (w : BitVec 3) (o : Order) (sc : Scope) (d : R5) (a : R5) (off : BitVec 14) (s : State) : exec (.ld g sp w o sc d a off) s = execLd g sp w o sc d a off s := rfl
@[simp] theorem exec_st (g : Guard) (sp : Space) (w : BitVec 3) (o : Order) (sc : Scope) (a : R5) (b : R5) (off : BitVec 14) (s : State) : exec (.st g sp w o sc a b off) s = execSt g sp w o sc a b off s := rfl
@[simp] theorem exec_amoAdd (g : Guard) (w64 : Bool) (sp : Space) (o : Order) (sc : Scope) (d : R5) (a : R5) (b : R5) (off : BitVec 11) (s : State) : exec (.amoAdd g w64 sp o sc d a b off) s = execAmoAdd g w64 sp o sc d a b off s := rfl
@[simp] theorem exec_amoAnd (g : Guard) (w64 : Bool) (sp : Space) (o : Order) (sc : Scope) (d : R5) (a : R5) (b : R5) (off : BitVec 11) (s : State) : exec (.amoAnd g w64 sp o sc d a b off) s = execAmoAnd g w64 sp o sc d a b off s := rfl
@[simp] theorem exec_amoOr (g : Guard) (w64 : Bool) (sp : Space) (o : Order) (sc : Scope) (d : R5) (a : R5) (b : R5) (off : BitVec 11) (s : State) : exec (.amoOr g w64 sp o sc d a b off) s = execAmoOr g w64 sp o sc d a b off s := rfl
@[simp] theorem exec_amoXor (g : Guard) (w64 : Bool) (sp : Space) (o : Order) (sc : Scope) (d : R5) (a : R5) (b : R5) (off : BitVec 11) (s : State) : exec (.amoXor g w64 sp o sc d a b off) s = execAmoXor g w64 sp o sc d a b off s := rfl
@[simp] theorem exec_amoMinS (g : Guard) (w64 : Bool) (sp : Space) (o : Order) (sc : Scope) (d : R5) (a : R5) (b : R5) (off : BitVec 11) (s : State) : exec (.amoMinS g w64 sp o sc d a b off) s = execAmoMinS g w64 sp o sc d a b off s := rfl
@[simp] theorem exec_amoMinN (g : Guard) (w64 : Bool) (sp : Space) (o : Order) (sc : Scope) (d : R5) (a : R5) (b : R5) (off : BitVec 11) (s : State) : exec (.amoMinN g w64 sp o sc d a b off) s = execAmoMinN g w64 sp o sc d a b off s := rfl
@[simp] theorem exec_amoMaxS (g : Guard) (w64 : Bool) (sp : Space) (o : Order) (sc : Scope) (d : R5) (a : R5) (b : R5) (off : BitVec 11) (s : State) : exec (.amoMaxS g w64 sp o sc d a b off) s = execAmoMaxS g w64 sp o sc d a b off s := rfl
@[simp] theorem exec_amoMaxN (g : Guard) (w64 : Bool) (sp : Space) (o : Order) (sc : Scope) (d : R5) (a : R5) (b : R5) (off : BitVec 11) (s : State) : exec (.amoMaxN g w64 sp o sc d a b off) s = execAmoMaxN g w64 sp o sc d a b off s := rfl
@[simp] theorem exec_amoSwap (g : Guard) (w64 : Bool) (sp : Space) (o : Order) (sc : Scope) (d : R5) (a : R5) (b : R5) (off : BitVec 11) (s : State) : exec (.amoSwap g w64 sp o sc d a b off) s = execAmoSwap g w64 sp o sc d a b off s := rfl
@[simp] theorem exec_amoCas (g : Guard) (w64 : Bool) (sp : Space) (o : Order) (sc : Scope) (d : R5) (a : R5) (b : R5) (off : BitVec 11) (s : State) : exec (.amoCas g w64 sp o sc d a b off) s = execAmoCas g w64 sp o sc d a b off s := rfl
@[simp] theorem exec_fence (g : Guard) (sc : Scope) (s : State) : exec (.fence g sc) s = execFence g sc s := rfl
@[simp] theorem exec_xfence (g : Guard) (src : BitVec 6) (dst : BitVec 6) (s : State) : exec (.xfence g src dst) s = execXfence g src dst s := rfl
@[simp] theorem exec_ptfence (g : Guard) (sc : Scope) (s : State) : exec (.ptfence g sc) s = execPtfence g sc s := rfl
@[simp] theorem exec_tlbinv (g : Guard) (a : R5) (b : R5) (all : BitVec 1) (s : State) : exec (.tlbinv g a b all) s = execTlbinv g a b all s := rfl
@[simp] theorem exec_ldx (g : Guard) (d : R5) (a : R5) (c : R5) (off : BitVec 14) (s : State) : exec (.ldx g d a c off) s = execLdx g d a c off s := rfl
@[simp] theorem exec_erase (g : Guard) (a : R5) (off : BitVec 14) (s : State) : exec (.erase g a off) s = execErase g a off s := rfl
@[simp] theorem exec_extest (g : Guard) (a : R5) (c : R5) (off : BitVec 14) (s : State) : exec (.extest g a c off) s = execExtest g a c off s := rfl
@[simp] theorem exec_exmap (g : Guard) (d : R5) (a : R5) (off : BitVec 14) (s : State) : exec (.exmap g d a off) s = execExmap g d a off s := rfl
@[simp] theorem exec_setsBase (g : Guard) (sr : BitVec 4) (a : R5) (b : R5) (s : State) : exec (.setsBase g sr a b) s = execSetsBase g sr a b s := rfl
@[simp] theorem exec_setsDim (g : Guard) (sr : BitVec 4) (a : R5) (b : R5) (s : State) : exec (.setsDim g sr a b) s = execSetsDim g sr a b s := rfl
@[simp] theorem exec_setsFmt (g : Guard) (ty : Ty) (sr : BitVec 4) (a : R5) (s : State) : exec (.setsFmt g ty sr a) s = execSetsFmt g ty sr a s := rfl
@[simp] theorem exec_setsScl (g : Guard) (sr : BitVec 4) (a : R5) (b : R5) (s : State) : exec (.setsScl g sr a b) s = execSetsScl g sr a b s := rfl
@[simp] theorem exec_setsXp (g : Guard) (sr : BitVec 4) (xp : BitVec 2) (s : State) : exec (.setsXp g sr xp) s = execSetsXp g sr xp s := rfl
@[simp] theorem exec_setsMc (g : Guard) (sr : BitVec 4) (a : R5) (s : State) : exec (.setsMc g sr a) s = execSetsMc g sr a s := rfl
@[simp] theorem exec_setsHdl (g : Guard) (sr : BitVec 4) (h : R5) (s : State) : exec (.setsHdl g sr h) s = execSetsHdl g sr h s := rfl
@[simp] theorem exec_setsClr (g : Guard) (sr : BitVec 4) (s : State) : exec (.setsClr g sr) s = execSetsClr g sr s := rfl
@[simp] theorem exec_gets (g : Guard) (a : R5) (sr : BitVec 4) (h : R5) (b : R5) (s : State) : exec (.gets g a sr h b) s = execGets g a sr h b s := rfl
@[simp] theorem exec_copyin (g : Guard) (sr : BitVec 4) (h : R5) (sgr : BitVec 2) (gate : BitVec 6) (xp : BitVec 2) (s : State) : exec (.copyin g sr h sgr gate xp) s = execCopyin g sr h sgr gate xp s := rfl
@[simp] theorem exec_copyout (g : Guard) (sr : BitVec 4) (h : R5) (sgr : BitVec 2) (gate : BitVec 6) (s : State) : exec (.copyout g sr h sgr gate) s = execCopyout g sr h sgr gate s := rfl
@[simp] theorem exec_copyk (g : Guard) (a : R5) (h : R5) (b : R5) (sgr : BitVec 2) (gate : BitVec 6) (s : State) : exec (.copyk g a h b sgr gate) s = execCopyk g a h b sgr gate s := rfl
@[simp] theorem exec_copyd (g : Guard) (a : R5) (h : R5) (b : R5) (sgr : BitVec 2) (gate : BitVec 6) (s : State) : exec (.copyd g a h b sgr gate) s = execCopyd g a h b sgr gate s := rfl
@[simp] theorem exec_copylin (g : Guard) (a : R5) (h : R5) (b : R5) (sgr : BitVec 2) (gate : BitVec 6) (xp : BitVec 2) (s : State) : exec (.copylin g a h b sgr gate xp) s = execCopylin g a h b sgr gate xp s := rfl
@[simp] theorem exec_gath (g : Guard) (a : R5) (sr : BitVec 4) (h : R5) (b : R5) (gate : BitVec 6) (xp : BitVec 2) (s : State) : exec (.gath g a sr h b gate xp) s = execGath g a sr h b gate xp s := rfl
@[simp] theorem exec_gathmc (g : Guard) (sr : BitVec 4) (h : R5) (b : R5) (gate : BitVec 6) (xp : BitVec 2) (s : State) : exec (.gathmc g sr h b gate xp) s = execGathmc g sr h b gate xp s := rfl
@[simp] theorem exec_scat (g : Guard) (a : R5) (sr : BitVec 4) (h : R5) (b : R5) (gate : BitVec 6) (xp : BitVec 2) (s : State) : exec (.scat g a sr h b gate xp) s = execScat g a sr h b gate xp s := rfl
@[simp] theorem exec_scatadd (g : Guard) (ty : Ty) (a : R5) (sr : BitVec 4) (h : R5) (b : R5) (gate : BitVec 6) (xp : BitVec 2) (s : State) : exec (.scatadd g ty a sr h b gate xp) s = execScatadd g ty a sr h b gate xp s := rfl
@[simp] theorem exec_gexp (g : Guard) (a : R5) (b : R5) (gate : BitVec 6) (s : State) : exec (.gexp g a b gate) s = execGexp g a b gate s := rfl
@[simp] theorem exec_garr (g : Guard) (a : R5) (b : R5) (gate : BitVec 6) (s : State) : exec (.garr g a b gate) s = execGarr g a b gate s := rfl
@[simp] theorem exec_gwait (g : Guard) (a : R5) (gate : BitVec 6) (s : State) : exec (.gwait g a gate) s = execGwait g a gate s := rfl
@[simp] theorem exec_ginit (g : Guard) (a : R5) (gate : BitVec 6) (s : State) : exec (.ginit g a gate) s = execGinit g a gate s := rfl
@[simp] theorem exec_hwait (g : Guard) (h : R5) (a : R5) (s : State) : exec (.hwait g h a) s = execHwait g h a s := rfl
@[simp] theorem exec_hset (g : Guard) (h : R5) (a : R5) (b : R5) (s : State) : exec (.hset g h a b) s = execHset g h a b s := rfl
@[simp] theorem exec_hfree (g : Guard) (h : R5) (s : State) : exec (.hfree g h) s = execHfree g h s := rfl
@[simp] theorem exec_nzscan (g : Guard) (sr : BitVec 4) (h : R5) (b : R5) (s : State) : exec (.nzscan g sr h b) s = execNzscan g sr h b s := rfl
@[simp] theorem exec_thrset (g : Guard) (a : R5) (b : R5) (s : State) : exec (.thrset g a b) s = execThrset g a b s := rfl
@[simp] theorem exec_dmrd (g : Guard) (a : R5) (b : R5) (s : State) : exec (.dmrd g a b) s = execDmrd g a b s := rfl
@[simp] theorem exec_tlget (g : Guard) (a : R5) (b : R5) (s : State) : exec (.tlget g a b) s = execTlget g a b s := rfl
@[simp] theorem exec_tlstat (g : Guard) (a : R5) (b : R5) (s : State) : exec (.tlstat g a b) s = execTlstat g a b s := rfl
@[simp] theorem exec_tlack (g : Guard) (a : R5) (b : R5) (s : State) : exec (.tlack g a b) s = execTlack g a b s := rfl
@[simp] theorem exec_rngtk (g : Guard) (sp3 : BitVec 3) (d : R5) (a : R5) (s : State) : exec (.rngtk g sp3 d a) s = execRngtk g sp3 d a s := rfl
@[simp] theorem exec_rngput (g : Guard) (sp3 : BitVec 3) (d : R5) (a : R5) (b : R5) (n : BitVec 14) (s : State) : exec (.rngput g sp3 d a b n) s = execRngput g sp3 d a b n s := rfl
@[simp] theorem exec_rngget (g : Guard) (sp3 : BitVec 3) (d : R5) (a : R5) (n : BitVec 14) (s : State) : exec (.rngget g sp3 d a n) s = execRngget g sp3 d a n s := rfl
@[simp] theorem exec_rngeos (g : Guard) (sp3 : BitVec 3) (a : R5) (b : R5) (s : State) : exec (.rngeos g sp3 a b) s = execRngeos g sp3 a b s := rfl
@[simp] theorem exec_rngstat (g : Guard) (sp3 : BitVec 3) (d : R5) (a : R5) (s : State) : exec (.rngstat g sp3 d a) s = execRngstat g sp3 d a s := rfl
@[simp] theorem exec_qpush (g : Guard) (a : R5) (q : R5) (s : State) : exec (.qpush g a q) s = execQpush g a q s := rfl
@[simp] theorem exec_qpop (g : Guard) (d : R5) (q : R5) (s : State) : exec (.qpop g d q) s = execQpop g d q s := rfl
@[simp] theorem exec_qpeek (g : Guard) (d : R5) (q : R5) (s : State) : exec (.qpeek g d q) s = execQpeek g d q s := rfl
@[simp] theorem exec_qpopp (g : Guard) (d : R5) (q : R5) (s : State) : exec (.qpopp g d q) s = execQpopp g d q s := rfl
@[simp] theorem exec_vaddF (g : Guard) (ty : Ty) (vd : R6) (va : R6) (vb : R6) (s : State) : exec (.vaddF g ty vd va vb) s = execVaddF g ty vd va vb s := rfl
@[simp] theorem exec_vsubF (g : Guard) (ty : Ty) (vd : R6) (va : R6) (vb : R6) (s : State) : exec (.vsubF g ty vd va vb) s = execVsubF g ty vd va vb s := rfl
@[simp] theorem exec_vmulF (g : Guard) (ty : Ty) (vd : R6) (va : R6) (vb : R6) (s : State) : exec (.vmulF g ty vd va vb) s = execVmulF g ty vd va vb s := rfl
@[simp] theorem exec_vfma (g : Guard) (ty : Ty) (vd : R6) (va : R6) (vb : R6) (vc : R6) (s : State) : exec (.vfma g ty vd va vb vc) s = execVfma g ty vd va vb vc s := rfl
@[simp] theorem exec_vfms (g : Guard) (ty : Ty) (vd : R6) (va : R6) (vb : R6) (vc : R6) (s : State) : exec (.vfms g ty vd va vb vc) s = execVfms g ty vd va vb vc s := rfl
@[simp] theorem exec_vfnma (g : Guard) (ty : Ty) (vd : R6) (va : R6) (vb : R6) (vc : R6) (s : State) : exec (.vfnma g ty vd va vb vc) s = execVfnma g ty vd va vb vc s := rfl
@[simp] theorem exec_vminF (g : Guard) (ty : Ty) (vd : R6) (va : R6) (vb : R6) (s : State) : exec (.vminF g ty vd va vb) s = execVminF g ty vd va vb s := rfl
@[simp] theorem exec_vmaxF (g : Guard) (ty : Ty) (vd : R6) (va : R6) (vb : R6) (s : State) : exec (.vmaxF g ty vd va vb) s = execVmaxF g ty vd va vb s := rfl
@[simp] theorem exec_vabsF (g : Guard) (ty : Ty) (vd : R6) (va : R6) (s : State) : exec (.vabsF g ty vd va) s = execVabsF g ty vd va s := rfl
@[simp] theorem exec_vneg (g : Guard) (ty : Ty) (vd : R6) (va : R6) (s : State) : exec (.vneg g ty vd va) s = execVneg g ty vd va s := rfl
@[simp] theorem exec_vdiv (g : Guard) (ty : Ty) (vd : R6) (va : R6) (vb : R6) (s : State) : exec (.vdiv g ty vd va vb) s = execVdiv g ty vd va vb s := rfl
@[simp] theorem exec_vsqrt (g : Guard) (ty : Ty) (vd : R6) (va : R6) (s : State) : exec (.vsqrt g ty vd va) s = execVsqrt g ty vd va s := rfl
@[simp] theorem exec_vaddI (g : Guard) (ty : Ty) (vd : R6) (va : R6) (vb : R6) (s : State) : exec (.vaddI g ty vd va vb) s = execVaddI g ty vd va vb s := rfl
@[simp] theorem exec_vsubI (g : Guard) (ty : Ty) (vd : R6) (va : R6) (vb : R6) (s : State) : exec (.vsubI g ty vd va vb) s = execVsubI g ty vd va vb s := rfl
@[simp] theorem exec_vmulI (g : Guard) (ty : Ty) (vd : R6) (va : R6) (vb : R6) (s : State) : exec (.vmulI g ty vd va vb) s = execVmulI g ty vd va vb s := rfl
@[simp] theorem exec_vmulh (g : Guard) (ty : Ty) (vd : R6) (va : R6) (vb : R6) (s : State) : exec (.vmulh g ty vd va vb) s = execVmulh g ty vd va vb s := rfl
@[simp] theorem exec_vand (g : Guard) (ty : Ty) (vd : R6) (va : R6) (vb : R6) (s : State) : exec (.vand g ty vd va vb) s = execVand g ty vd va vb s := rfl
@[simp] theorem exec_vor (g : Guard) (ty : Ty) (vd : R6) (va : R6) (vb : R6) (s : State) : exec (.vor g ty vd va vb) s = execVor g ty vd va vb s := rfl
@[simp] theorem exec_vxor (g : Guard) (ty : Ty) (vd : R6) (va : R6) (vb : R6) (s : State) : exec (.vxor g ty vd va vb) s = execVxor g ty vd va vb s := rfl
@[simp] theorem exec_vandn (g : Guard) (ty : Ty) (vd : R6) (va : R6) (vb : R6) (s : State) : exec (.vandn g ty vd va vb) s = execVandn g ty vd va vb s := rfl
@[simp] theorem exec_vsll (g : Guard) (ty : Ty) (vd : R6) (va : R6) (vb : R6) (s : State) : exec (.vsll g ty vd va vb) s = execVsll g ty vd va vb s := rfl
@[simp] theorem exec_vsrl (g : Guard) (ty : Ty) (vd : R6) (va : R6) (vb : R6) (s : State) : exec (.vsrl g ty vd va vb) s = execVsrl g ty vd va vb s := rfl
@[simp] theorem exec_vsra (g : Guard) (ty : Ty) (vd : R6) (va : R6) (vb : R6) (s : State) : exec (.vsra g ty vd va vb) s = execVsra g ty vd va vb s := rfl
@[simp] theorem exec_vminI (g : Guard) (ty : Ty) (vd : R6) (va : R6) (vb : R6) (s : State) : exec (.vminI g ty vd va vb) s = execVminI g ty vd va vb s := rfl
@[simp] theorem exec_vmaxI (g : Guard) (ty : Ty) (vd : R6) (va : R6) (vb : R6) (s : State) : exec (.vmaxI g ty vd va vb) s = execVmaxI g ty vd va vb s := rfl
@[simp] theorem exec_vabsI (g : Guard) (ty : Ty) (vd : R6) (va : R6) (s : State) : exec (.vabsI g ty vd va) s = execVabsI g ty vd va s := rfl
@[simp] theorem exec_vcmpEq (g : Guard) (ty : Ty) (pd : R5) (va : R6) (vb : R6) (el : R6) (s : State) : exec (.vcmpEq g ty pd va vb el) s = execVcmpEq g ty pd va vb el s := rfl
@[simp] theorem exec_vcmpNe (g : Guard) (ty : Ty) (pd : R5) (va : R6) (vb : R6) (el : R6) (s : State) : exec (.vcmpNe g ty pd va vb el) s = execVcmpNe g ty pd va vb el s := rfl
@[simp] theorem exec_vcmpLt (g : Guard) (ty : Ty) (pd : R5) (va : R6) (vb : R6) (el : R6) (s : State) : exec (.vcmpLt g ty pd va vb el) s = execVcmpLt g ty pd va vb el s := rfl
@[simp] theorem exec_vcmpLe (g : Guard) (ty : Ty) (pd : R5) (va : R6) (vb : R6) (el : R6) (s : State) : exec (.vcmpLe g ty pd va vb el) s = execVcmpLe g ty pd va vb el s := rfl
@[simp] theorem exec_vcmpGt (g : Guard) (ty : Ty) (pd : R5) (va : R6) (vb : R6) (el : R6) (s : State) : exec (.vcmpGt g ty pd va vb el) s = execVcmpGt g ty pd va vb el s := rfl
@[simp] theorem exec_vcmpGe (g : Guard) (ty : Ty) (pd : R5) (va : R6) (vb : R6) (el : R6) (s : State) : exec (.vcmpGe g ty pd va vb el) s = execVcmpGe g ty pd va vb el s := rfl
@[simp] theorem exec_vclass (g : Guard) (ty : Ty) (pd : R5) (va : R6) (mask : R6) (el : R6) (s : State) : exec (.vclass g ty pd va mask el) s = execVclass g ty pd va mask el s := rfl
@[simp] theorem exec_cvtRne (g : Guard) (ty : Ty) (sty : Ty) (vd : R6) (va : R6) (pt : R6) (s : State) : exec (.cvtRne g ty sty vd va pt) s = execCvtRne g ty sty vd va pt s := rfl
@[simp] theorem exec_cvtRtz (g : Guard) (ty : Ty) (sty : Ty) (vd : R6) (va : R6) (pt : R6) (s : State) : exec (.cvtRtz g ty sty vd va pt) s = execCvtRtz g ty sty vd va pt s := rfl
@[simp] theorem exec_cvtRup (g : Guard) (ty : Ty) (sty : Ty) (vd : R6) (va : R6) (pt : R6) (s : State) : exec (.cvtRup g ty sty vd va pt) s = execCvtRup g ty sty vd va pt s := rfl
@[simp] theorem exec_cvtRdn (g : Guard) (ty : Ty) (sty : Ty) (vd : R6) (va : R6) (pt : R6) (s : State) : exec (.cvtRdn g ty sty vd va pt) s = execCvtRdn g ty sty vd va pt s := rfl
@[simp] theorem exec_cvtSat (g : Guard) (ty : Ty) (sty : Ty) (vd : R6) (va : R6) (pt : R6) (s : State) : exec (.cvtSat g ty sty vd va pt) s = execCvtSat g ty sty vd va pt s := rfl
@[simp] theorem exec_vpack (g : Guard) (ty : Ty) (sty : Ty) (vd : R6) (va : R6) (vc : R6) (s : State) : exec (.vpack g ty sty vd va vc) s = execVpack g ty sty vd va vc s := rfl
@[simp] theorem exec_vunpack (g : Guard) (ty : Ty) (sty : Ty) (vd : R6) (va : R6) (s : State) : exec (.vunpack g ty sty vd va) s = execVunpack g ty sty vd va s := rfl
@[simp] theorem exec_vexp2 (g : Guard) (ty : Ty) (vd : R6) (va : R6) (s : State) : exec (.vexp2 g ty vd va) s = execVexp2 g ty vd va s := rfl
@[simp] theorem exec_vlog2 (g : Guard) (ty : Ty) (vd : R6) (va : R6) (s : State) : exec (.vlog2 g ty vd va) s = execVlog2 g ty vd va s := rfl
@[simp] theorem exec_vrcp (g : Guard) (ty : Ty) (vd : R6) (va : R6) (s : State) : exec (.vrcp g ty vd va) s = execVrcp g ty vd va s := rfl
@[simp] theorem exec_vrsqrt (g : Guard) (ty : Ty) (vd : R6) (va : R6) (s : State) : exec (.vrsqrt g ty vd va) s = execVrsqrt g ty vd va s := rfl
@[simp] theorem exec_vsig (g : Guard) (ty : Ty) (vd : R6) (va : R6) (s : State) : exec (.vsig g ty vd va) s = execVsig g ty vd va s := rfl
@[simp] theorem exec_vtanh (g : Guard) (ty : Ty) (vd : R6) (va : R6) (s : State) : exec (.vtanh g ty vd va) s = execVtanh g ty vd va s := rfl
@[simp] theorem exec_vbcast (g : Guard) (vd : R6) (xa : R5) (s : State) : exec (.vbcast g vd xa) s = execVbcast g vd xa s := rfl
@[simp] theorem exec_vlane (g : Guard) (xd : R5) (va : R6) (xb : R5) (s : State) : exec (.vlane g xd va xb) s = execVlane g xd va xb s := rfl
@[simp] theorem exec_vperm (g : Guard) (vd : R6) (va : R6) (vb : R6) (s : State) : exec (.vperm g vd va vb) s = execVperm g vd va vb s := rfl
@[simp] theorem exec_vrot (g : Guard) (vd : R6) (va : R6) (xb : R5) (s : State) : exec (.vrot g vd va xb) s = execVrot g vd va xb s := rfl
@[simp] theorem exec_vshl (g : Guard) (vd : R6) (va : R6) (xb : R5) (s : State) : exec (.vshl g vd va xb) s = execVshl g vd va xb s := rfl
@[simp] theorem exec_vredadd (g : Guard) (ty : Ty) (vd : R6) (va : R6) (s : State) : exec (.vredadd g ty vd va) s = execVredadd g ty vd va s := rfl
@[simp] theorem exec_vredmax (g : Guard) (ty : Ty) (vd : R6) (va : R6) (s : State) : exec (.vredmax g ty vd va) s = execVredmax g ty vd va s := rfl
@[simp] theorem exec_vredmin (g : Guard) (ty : Ty) (vd : R6) (va : R6) (s : State) : exec (.vredmin g ty vd va) s = execVredmin g ty vd va s := rfl
@[simp] theorem exec_vscan (g : Guard) (ty : Ty) (vd : R6) (va : R6) (s : State) : exec (.vscan g ty vd va) s = execVscan g ty vd va s := rfl
@[simp] theorem exec_vsel (g : Guard) (vd : R6) (va : R6) (vb : R6) (pc : R5) (s : State) : exec (.vsel g vd va vb pc) s = execVsel g vd va vb pc s := rfl
@[simp] theorem exec_vmov (g : Guard) (vd : R6) (va : R6) (s : State) : exec (.vmov g vd va) s = execVmov g vd va s := rfl
@[simp] theorem exec_vld (g : Guard) (sp : Space) (ty : Ty) (vd : R6) (xa : R5) (xb : R5) (s : State) : exec (.vld g sp ty vd xa xb) s = execVld g sp ty vd xa xb s := rfl
@[simp] theorem exec_vst (g : Guard) (sp : Space) (ty : Ty) (xa : R5) (xb : R5) (vc : R6) (s : State) : exec (.vst g sp ty xa xb vc) s = execVst g sp ty xa xb vc s := rfl
@[simp] theorem exec_vldi (g : Guard) (sp : Space) (ty : Ty) (vd : R6) (xa : R5) (vb : R6) (s : State) : exec (.vldi g sp ty vd xa vb) s = execVldi g sp ty vd xa vb s := rfl
@[simp] theorem exec_vsti (g : Guard) (sp : Space) (ty : Ty) (xa : R5) (vb : R6) (vc : R6) (s : State) : exec (.vsti g sp ty xa vb vc) s = execVsti g sp ty xa vb vc s := rfl
@[simp] theorem exec_vldb (g : Guard) (vd : R6) (sa : BitVec 4) (xb : R5) (n : R6) (s : State) : exec (.vldb g vd sa xb n) s = execVldb g vd sa xb n s := rfl
@[simp] theorem exec_vmrg (g : Guard) (ty : Ty) (vd : R6) (va : R6) (vb : R6) (pc : R5) (s : State) : exec (.vmrg g ty vd va vb pc) s = execVmrg g ty vd va vb pc s := rfl
@[simp] theorem exec_visect (g : Guard) (ty : Ty) (vd : R6) (va : R6) (vb : R6) (pc : R5) (s : State) : exec (.visect g ty vd va vb pc) s = execVisect g ty vd va vb pc s := rfl
@[simp] theorem exec_vunion (g : Guard) (ty : Ty) (vd : R6) (va : R6) (vb : R6) (pc : R5) (s : State) : exec (.vunion g ty vd va vb pc) s = execVunion g ty vd va vb pc s := rfl
@[simp] theorem exec_vthr (g : Guard) (ty : Ty) (vd : R6) (va : R6) (s : State) : exec (.vthr g ty vd va) s = execVthr g ty vd va s := rfl
@[simp] theorem exec_vcmpr (g : Guard) (ty : Ty) (vd : R6) (va : R6) (xc : R5) (s : State) : exec (.vcmpr g ty vd va xc) s = execVcmpr g ty vd va xc s := rfl
@[simp] theorem exec_vexpd (g : Guard) (ty : Ty) (vd : R6) (va : R6) (pc : R5) (s : State) : exec (.vexpd g ty vd va pc) s = execVexpd g ty vd va pc s := rfl
@[simp] theorem exec_vnzidx (g : Guard) (ty : Ty) (vd : R6) (va : R6) (xc : R5) (s : State) : exec (.vnzidx g ty vd va xc) s = execVnzidx g ty vd va xc s := rfl
@[simp] theorem exec_vqnt (g : Guard) (vd : R6) (va : R6) (vb : R6) (s : State) : exec (.vqnt g vd va vb) s = execVqnt g vd va vb s := rfl
@[simp] theorem exec_vdqnt (g : Guard) (vd : R6) (va : R6) (vb : R6) (s : State) : exec (.vdqnt g vd va vb) s = execVdqnt g vd va vb s := rfl
@[simp] theorem exec_vamax (g : Guard) (vd : R6) (va : R6) (s : State) : exec (.vamax g vd va) s = execVamax g vd va s := rfl
@[simp] theorem exec_vbscl (g : Guard) (vd : R6) (va : R6) (s : State) : exec (.vbscl g vd va) s = execVbscl g vd va s := rfl
@[simp] theorem exec_mma (g : Guard) (ty : Ty) (acc : BitVec 3) (sa : BitVec 4) (breg : BitVec 12) (sgr : BitVec 2) (s : State) : exec (.mma g ty acc sa breg sgr) s = execMma g ty acc sa breg sgr s := rfl
@[simp] theorem exec_mmas (g : Guard) (ty : Ty) (acc : BitVec 3) (sa : BitVec 4) (breg : BitVec 12) (sgr : BitVec 2) (s : State) : exec (.mmas g ty acc sa breg sgr) s = execMmas g ty acc sa breg sgr s := rfl
@[simp] theorem exec_mmag (g : Guard) (ty : Ty) (acc : BitVec 3) (sa : BitVec 4) (breg : BitVec 12) (sgr : BitVec 2) (si : BitVec 4) (so : BitVec 4) (s : State) : exec (.mmag g ty acc sa breg sgr si so) s = execMmag g ty acc sa breg sgr si so s := rfl
@[simp] theorem exec_mmak (g : Guard) (ty : Ty) (acc : BitVec 3) (sa : BitVec 4) (breg : BitVec 12) (sgr : BitVec 2) (si : BitVec 4) (s : State) : exec (.mmak g ty acc sa breg sgr si) s = execMmak g ty acc sa breg sgr si s := rfl
@[simp] theorem exec_mlease (g : Guard) (s : State) : exec (.mlease g) s = execMlease g s := rfl
@[simp] theorem exec_mrel (g : Guard) (s : State) : exec (.mrel g) s = execMrel g s := rfl
@[simp] theorem exec_mldb (g : Guard) (ty : Ty) (sa : BitVec 4) (breg : BitVec 12) (form : BitVec 4) (s : State) : exec (.mldb g ty sa breg form) s = execMldb g ty sa breg form s := rfl
@[simp] theorem exec_mzero (g : Guard) (ty : Ty) (acc : BitVec 3) (s : State) : exec (.mzero g ty acc) s = execMzero g ty acc s := rfl
@[simp] theorem exec_maccd (g : Guard) (acc : BitVec 3) (src : BitVec 4) (s : State) : exec (.maccd g acc src) s = execMaccd g acc src s := rfl
@[simp] theorem exec_mrd (g : Guard) (acc : BitVec 3) (sa : BitVec 4) (s : State) : exec (.mrd g acc sa) s = execMrd g acc sa s := rfl
@[simp] theorem exec_mwr (g : Guard) (ty : Ty) (acc : BitVec 3) (sa : BitVec 4) (s : State) : exec (.mwr g ty acc sa) s = execMwr g ty acc sa s := rfl
@[simp] theorem exec_mchk (g : Guard) (acc : BitVec 3) (s : State) : exec (.mchk g acc) s = execMchk g acc s := rfl
@[simp] theorem exec_escale (g : Guard) (acc : BitVec 3) (sa : BitVec 4) (mode : BitVec 4) (s : State) : exec (.escale g acc sa mode) s = execEscale g acc sa mode s := rfl
@[simp] theorem exec_ebias (g : Guard) (acc : BitVec 3) (sa : BitVec 4) (mode : BitVec 4) (s : State) : exec (.ebias g acc sa mode) s = execEbias g acc sa mode s := rfl
@[simp] theorem exec_erelu (g : Guard) (acc : BitVec 3) (s : State) : exec (.erelu g acc) s = execErelu g acc s := rfl
@[simp] theorem exec_esig (g : Guard) (acc : BitVec 3) (s : State) : exec (.esig g acc) s = execEsig g acc s := rfl
@[simp] theorem exec_esilu (g : Guard) (acc : BitVec 3) (s : State) : exec (.esilu g acc) s = execEsilu g acc s := rfl
@[simp] theorem exec_emul (g : Guard) (acc : BitVec 3) (src : BitVec 4) (s : State) : exec (.emul g acc src) s = execEmul g acc src s := rfl
@[simp] theorem exec_eadd (g : Guard) (acc : BitVec 3) (src : BitVec 4) (s : State) : exec (.eadd g acc src) s = execEadd g acc src s := rfl
@[simp] theorem exec_econv (g : Guard) (ty : Ty) (acc : BitVec 3) (sat : BitVec 4) (s : State) : exec (.econv g ty acc sat) s = execEconv g ty acc sat s := rfl
@[simp] theorem exec_swb (g : Guard) (sr : BitVec 4) (h : R5) (sgr : BitVec 2) (gate : BitVec 6) (s : State) : exec (.swb g sr h sgr gate) s = execSwb g sr h sgr gate s := rfl
@[simp] theorem exec_swbacc (g : Guard) (ty : Ty) (a : R5) (sr : BitVec 4) (gate : BitVec 6) (s : State) : exec (.swbacc g ty a sr gate) s = execSwbacc g ty a sr gate s := rfl
@[simp] theorem exec_swbnm (g : Guard) (ty : Ty) (a : R5) (sr : BitVec 4) (b : R5) (gate : BitVec 6) (s : State) : exec (.swbnm g ty a sr b gate) s = execSwbnm g ty a sr b gate s := rfl
@[simp] theorem exec_swbz (g : Guard) (ty : Ty) (a : R5) (sr : BitVec 4) (gate : BitVec 6) (s : State) : exec (.swbz g ty a sr gate) s = execSwbz g ty a sr gate s := rfl
@[simp] theorem exec_sckstat (g : Guard) (a : R5) (s : State) : exec (.sckstat g a) s = execSckstat g a s := rfl

end Sys2Proof.Machine
end

