-- ==== Sys2Proof/Laws/Tab.lean ====
section
/-! SUPPORT. Tables and memory bytes: what an entry reads as after a put, and that every operation keeps the canonical form. -/

namespace Sys2Proof.Machine

section
variable {α : Type} (d : α)

theorem tget_tdel_self (t : Tab α) (i : Nat) : tget d (tdel t i) i = d := by
  induction t with
  | nil => rfl
  | cons e t ih =>
    obtain ⟨k, v⟩ := e
    by_cases h : k = i
    · simpa [tdel, h] using ih
    · simp only [tdel, List.filter_cons, bne_iff_ne, ne_eq, h, not_false_eq_true, if_true, tget, if_false]
      exact ih

theorem tget_tdel_other (t : Tab α) {i j : Nat} (h : j ≠ i) : tget d (tdel t i) j = tget d t j := by
  induction t with
  | nil => rfl
  | cons e t ih =>
    obtain ⟨k, v⟩ := e
    by_cases hk : k = i
    · have : k ≠ j := fun e => h (by omega)
      simpa [tdel, hk, tget, show i ≠ j from fun e => h e.symm] using ih
    · simp only [tdel, List.filter_cons, bne_iff_ne, ne_eq, hk, not_false_eq_true, if_true, tget]
      split
      · rfl
      · exact ih

theorem tget_tins_other (t : Tab α) {i j : Nat} (a : α) (h : j ≠ i) : tget d (tins t i a) j = tget d t j := by
  induction t with
  | nil => simp [tins, tget, show i ≠ j from fun e => h e.symm]
  | cons e t ih =>
    obtain ⟨k, v⟩ := e
    unfold tins
    by_cases hk : i < k
    · simp [hk, tget, show i ≠ j from fun e => h e.symm]
    · simp only [hk, if_false, tget]
      split
      · rfl
      · exact ih

theorem tget_tins_self (t : Tab α) (i : Nat) (a : α) (h : ∀ e ∈ t, e.1 ≠ i) : tget d (tins t i a) i = a := by
  induction t with
  | nil => simp [tins, tget]
  | cons e t ih =>
    obtain ⟨k, v⟩ := e
    unfold tins
    by_cases hk : i < k
    · simp [hk, tget]
    · have : k ≠ i := h (k, v) (by simp)
      simp only [hk, if_false, tget, this]
      exact ih fun e he => h e (by simp [he])

theorem tdel_no_key (t : Tab α) (i : Nat) : ∀ e ∈ tdel t i, e.1 ≠ i := by
  intro e he
  simpa [tdel] using (List.mem_filter.mp he).2

variable [DecidableEq α]

@[simp] theorem tget_tput_self (t : Tab α) (i : Nat) (a : α) : tget d (tput d t i a) i = a := by
  unfold tput
  split
  · rename_i h
    rw [tget_tdel_self, h]
  · exact tget_tins_self d _ _ _ (tdel_no_key _ _)

theorem tget_tput_other (t : Tab α) {i j : Nat} (a : α) (h : j ≠ i) : tget d (tput d t i a) j = tget d t j := by
  unfold tput
  split
  · exact tget_tdel_other d t h
  · rw [tget_tins_other d _ a h, tget_tdel_other d t h]

/-- The canonical form, said of neighbours and members. -/
theorem wf_cons (k : Nat) (v : α) (t : Tab α) :
    Tab.wf d ((k, v) :: t) = true ↔ v ≠ d ∧ (∀ e ∈ t, k < e.1) ∧ Tab.wf d t = true := by
  induction t generalizing k v with
  | nil => simp [Tab.wf]
  | cons e t ih =>
    obtain ⟨k', v'⟩ := e
    have := ih k' v'
    simp only [Tab.wf, Bool.and_eq_true, decide_eq_true_eq]
    constructor
    · rintro ⟨⟨h1, h2⟩, h3⟩
      refine ⟨h2, ?_, h3⟩
      intro e he
      rcases List.mem_cons.mp he with rfl | he
      · exact h1
      · exact Nat.lt_trans h1 ((this.mp h3).2.1 e he)
    · rintro ⟨h1, h2, h3⟩
      exact ⟨⟨h2 (k', v') (by simp), h1⟩, h3⟩

theorem wf_filter (p : Nat × α → Bool) : ∀ t : Tab α, Tab.wf d t = true → Tab.wf d (t.filter p) = true
  | [], h => by simpa using h
  | (k, v) :: t, h => by
    obtain ⟨h1, h2, h3⟩ := (wf_cons d k v t).mp h
    rw [List.filter_cons]
    split
    · exact (wf_cons d k v _).mpr ⟨h1, fun e he => h2 e (List.mem_filter.mp he).1, wf_filter p t h3⟩
    · exact wf_filter p t h3

theorem wf_tdel (t : Tab α) (i : Nat) (h : Tab.wf d t = true) : Tab.wf d (tdel t i) = true := wf_filter d _ t h

omit [DecidableEq α] in
theorem mem_tins (t : Tab α) (i : Nat) (a : α) : ∀ e ∈ tins t i a, e = (i, a) ∨ e ∈ t := by
  induction t with
  | nil => simp [tins]
  | cons x t ih =>
    obtain ⟨k, v⟩ := x
    unfold tins
    split
    · intro e he; simpa using he
    · intro e he
      rcases List.mem_cons.mp he with rfl | he
      · simp
      · rcases ih e he with h | h <;> simp [h]

theorem wf_tins (t : Tab α) (i : Nat) (a : α) (ha : a ≠ d) (hk : ∀ e ∈ t, e.1 ≠ i) (h : Tab.wf d t = true) :
    Tab.wf d (tins t i a) = true := by
  induction t with
  | nil => simp [tins, Tab.wf, ha]
  | cons x t ih =>
    obtain ⟨k, v⟩ := x
    obtain ⟨h1, h2, h3⟩ := (wf_cons d k v t).mp h
    unfold tins
    split
    · rename_i hlt
      refine (wf_cons d _ _ _).mpr ⟨ha, ?_, h⟩
      intro e he
      rcases List.mem_cons.mp he with rfl | he
      · exact hlt
      · exact Nat.lt_trans hlt (h2 e he)
    · rename_i hlt
      have hki : k ≠ i := hk (k, v) (by simp)
      refine (wf_cons d _ _ _).mpr ⟨h1, ?_, ih (fun e he => hk e (by simp [he])) h3⟩
      intro e he
      rcases mem_tins t i a e he with rfl | he
      · simp only; omega
      · exact h2 e he

theorem wf_tput (t : Tab α) (i : Nat) (a : α) (h : Tab.wf d t = true) : Tab.wf d (tput d t i a) = true := by
  unfold tput
  split
  · exact wf_tdel d t i h
  · rename_i ha
    exact wf_tins d _ i a ha (tdel_no_key _ _) (wf_tdel d t i h)

end

/-! ## Bytes -/

theorem wf_writeKeys : ∀ (bs : List Byte) (m : List Host.Cell) (k : Nat), Tab.wf (0 : Byte) m = true →
    Tab.wf (0 : Byte) (writeKeys m k bs) = true
  | [], _, _, h => h
  | b :: bs, m, k, h => wf_writeKeys bs _ _ (wf_tput 0 m k b h)

theorem wf_puts : ∀ (cs : List Host.Cell) (m : List Host.Cell), Tab.wf (0 : Byte) m = true →
    Tab.wf (0 : Byte) (cs.foldl (fun m c => tput 0 m c.1 c.2) m) = true
  | [], _, h => h
  | c :: cs, m, h => wf_puts cs _ (wf_tput 0 m c.1 c.2 h)

/-- Memory keeps its canonical form over a byte written, a run of bytes written, and bytes dropped. -/
theorem wf_setByte (s : State) (k : Nat) (b : Byte) (h : Memory.wf s = true) : Memory.wf (s.setByte k b) = true := wf_tput 0 s.mem k b h
theorem wf_write (s : State) (k : Nat) (bs : List Byte) (h : Memory.wf s = true) : Memory.wf (s.write k bs) = true :=
  wf_writeKeys bs s.mem k h
theorem wf_drop (s : State) (p : Host.Cell → Bool) (h : Memory.wf s = true) : Memory.wf { s with mem := s.mem.filter p } = true :=
  wf_filter 0 p s.mem h
theorem wf_reset : Memory.wf State.reset = true := rfl

theorem tget_writeKeys_below : ∀ (bs : List Byte) (m : List Host.Cell) (k a : Nat), a < k → tget 0 (writeKeys m k bs) a = tget 0 m a
  | [], _, _, _, _ => rfl
  | b :: bs, m, k, a, h => by
    rw [writeKeys, tget_writeKeys_below bs _ (k + 1) a (by omega), tget_tput_other 0 m b (by omega : a ≠ k)]

theorem tget_writeKeys_above : ∀ (bs : List Byte) (m : List Host.Cell) (k a : Nat), k + bs.length ≤ a →
    tget 0 (writeKeys m k bs) a = tget 0 m a
  | [], _, _, _, _ => rfl
  | b :: bs, m, k, a, h => by
    simp only [List.length_cons] at h
    rw [writeKeys, tget_writeKeys_above bs _ (k + 1) a (by omega), tget_tput_other 0 m b (by omega : a ≠ k)]

/-- A byte outside a write reads as before. -/
theorem byte_write_other (s : State) (k : Nat) (bs : List Byte) (a : Nat) (h : a < k ∨ k + bs.length ≤ a) :
    (s.write k bs).byte a = s.byte a := by
  rcases h with h | h
  · exact tget_writeKeys_below bs s.mem k a h
  · exact tget_writeKeys_above bs s.mem k a h

theorem readKeys_congr (m m' : List Host.Cell) : ∀ (n k : Nat), (∀ a, k ≤ a → a < k + n → tget 0 m a = tget 0 m' a) →
    readKeys m k n = readKeys m' k n
  | 0, _, _ => rfl
  | n + 1, k, h => by
    rw [readKeys, readKeys, h k (by omega) (by omega), readKeys_congr m m' n (k + 1) fun a h1 h2 => h a (by omega) (by omega)]

/-- What was written is read. -/
theorem readKeys_writeKeys : ∀ (bs : List Byte) (m : List Host.Cell) (k : Nat), readKeys (writeKeys m k bs) k bs.length = bs
  | [], _, _ => rfl
  | b :: bs, m, k => by
    rw [List.length_cons, readKeys, writeKeys, readKeys_writeKeys bs (tput 0 m k b) (k + 1),
      tget_writeKeys_below bs (tput 0 m k b) (k + 1) k (by omega), tget_tput_self]

theorem read_write (s : State) (k : Nat) (bs : List Byte) : (s.write k bs).read k bs.length = bs := readKeys_writeKeys bs s.mem k

theorem length_toBytes : ∀ n v, (toBytes n v).length = n
  | 0, _ => rfl
  | n + 1, v => by simp [toBytes, length_toBytes n]

theorem leNat_toBytes : ∀ n v, leNat (toBytes n v) = v % 256 ^ n
  | 0, v => by simp [toBytes, leNat, Nat.mod_one]
  | n + 1, v => by
    have h : v % (256 * 256 ^ n) = v % 256 + 256 * (v / 256 % 256 ^ n) := Nat.mod_mul
    have e : 256 ^ (n + 1) = 256 * 256 ^ n := Nat.pow_succ'
    rw [toBytes, leNat, leNat_toBytes n, BitVec.toNat_ofNat, e, h]

end Sys2Proof.Machine
end

