-- ==== Sys2Proof/Laws/State.lean ====
section
/-! SUPPORT. What each basic update of the state leaves of each field: one lemma for each field and update, true by definition. -/

namespace Sys2Proof.Machine

/-! ## State.setTask -/

@[simp] theorem setTask_inputs (s : State) (c k : Nat) (t : Task) : (s.setTask c k t).inputs = s.inputs := rfl
@[simp] theorem setTask_cur (s : State) (c k : Nat) (t : Task) : (s.setTask c k t).cur = s.cur := rfl
@[simp] theorem setTask_cycle (s : State) (c k : Nat) (t : Task) : (s.setTask c k t).cycle = s.cycle := rfl
@[simp] theorem setTask_timebase (s : State) (c k : Nat) (t : Task) : (s.setTask c k t).timebase = s.timebase := rfl
@[simp] theorem setTask_free (s : State) (c k : Nat) (t : Task) : (s.setTask c k t).free = s.free := rfl
@[simp] theorem setTask_uid (s : State) (c k : Nat) (t : Task) : (s.setTask c k t).uid = s.uid := rfl
@[simp] theorem setTask_pkg (s : State) (c k : Nat) (t : Task) : (s.setTask c k t).pkg = s.pkg := rfl
@[simp] theorem setTask_links (s : State) (c k : Nat) (t : Task) : (s.setTask c k t).links = s.links := rfl
@[simp] theorem setTask_snap (s : State) (c k : Nat) (t : Task) : (s.setTask c k t).snap = s.snap := rfl
@[simp] theorem setTask_fns (s : State) (c k : Nat) (t : Task) : (s.setTask c k t).fns = s.fns := rfl
@[simp] theorem setTask_strmap (s : State) (c k : Nat) (t : Task) : (s.setTask c k t).strmap = s.strmap := rfl
@[simp] theorem setTask_peerwin (s : State) (c k : Nat) (t : Task) : (s.setTask c k t).peerwin = s.peerwin := rfl
@[simp] theorem setTask_peerErr (s : State) (c k : Nat) (t : Task) : (s.setTask c k t).peerErr = s.peerErr := rfl
@[simp] theorem setTask_strm (s : State) (c k : Nat) (t : Task) : (s.setTask c k t).strm = s.strm := rfl
@[simp] theorem setTask_decoded (s : State) (c k : Nat) (t : Task) : (s.setTask c k t).decoded = s.decoded := rfl
@[simp] theorem setTask_sch (s : State) (c k : Nat) (t : Task) : (s.setTask c k t).sch = s.sch := rfl
@[simp] theorem setTask_ctxtbl (s : State) (c k : Nat) (t : Task) : (s.setTask c k t).ctxtbl = s.ctxtbl := rfl
@[simp] theorem setTask_physwin (s : State) (c k : Nat) (t : Task) : (s.setTask c k t).physwin = s.physwin := rfl
@[simp] theorem setTask_fqbase (s : State) (c k : Nat) (t : Task) : (s.setTask c k t).fqbase = s.fqbase := rfl
@[simp] theorem setTask_fqsize (s : State) (c k : Nat) (t : Task) : (s.setTask c k t).fqsize = s.fqsize := rfl
@[simp] theorem setTask_fqhead (s : State) (c k : Nat) (t : Task) : (s.setTask c k t).fqhead = s.fqhead := rfl
@[simp] theorem setTask_fqtail (s : State) (c k : Nat) (t : Task) : (s.setTask c k t).fqtail = s.fqtail := rfl
@[simp] theorem setTask_fqwait (s : State) (c k : Nat) (t : Task) : (s.setTask c k t).fqwait = s.fqwait := rfl
@[simp] theorem setTask_ctxmap (s : State) (c k : Nat) (t : Task) : (s.setTask c k t).ctxmap = s.ctxmap := rfl
@[simp] theorem setTask_kcfg (s : State) (c k : Nat) (t : Task) : (s.setTask c k t).kcfg = s.kcfg := rfl
@[simp] theorem setTask_kcfgNew (s : State) (c k : Nat) (t : Task) : (s.setTask c k t).kcfgNew = s.kcfgNew := rfl
@[simp] theorem setTask_dsown (s : State) (c k : Nat) (t : Task) : (s.setTask c k t).dsown = s.dsown := rfl
@[simp] theorem setTask_xrtab (s : State) (c k : Nat) (t : Task) : (s.setTask c k t).xrtab = s.xrtab := rfl
@[simp] theorem setTask_svbase (s : State) (c k : Nat) (t : Task) : (s.setTask c k t).svbase = s.svbase := rfl
@[simp] theorem setTask_svcnt (s : State) (c k : Nat) (t : Task) : (s.setTask c k t).svcnt = s.svcnt := rfl
@[simp] theorem setTask_killDrop (s : State) (c k : Nat) (t : Task) : (s.setTask c k t).killDrop = s.killDrop := rfl
@[simp] theorem setTask_kills (s : State) (c k : Nat) (t : Task) : (s.setTask c k t).kills = s.kills := rfl
@[simp] theorem setTask_msix (s : State) (c k : Nat) (t : Task) : (s.setTask c k t).msix = s.msix := rfl
@[simp] theorem setTask_replies (s : State) (c k : Nat) (t : Task) : (s.setTask c k t).replies = s.replies := rfl
@[simp] theorem setTask_jobs (s : State) (c k : Nat) (t : Task) : (s.setTask c k t).jobs = s.jobs := rfl
@[simp] theorem setTask_arms (s : State) (c k : Nat) (t : Task) : (s.setTask c k t).arms = s.arms := rfl
@[simp] theorem setTask_events (s : State) (c k : Nat) (t : Task) : (s.setTask c k t).events = s.events := rfl
@[simp] theorem setTask_replays (s : State) (c k : Nat) (t : Task) : (s.setTask c k t).replays = s.replays := rfl
@[simp] theorem setTask_parts (s : State) (c k : Nat) (t : Task) : (s.setTask c k t).parts = s.parts := rfl
@[simp] theorem setTask_stages (s : State) (c k : Nat) (t : Task) : (s.setTask c k t).stages = s.stages := rfl
@[simp] theorem setTask_aborts (s : State) (c k : Nat) (t : Task) : (s.setTask c k t).aborts = s.aborts := rfl
@[simp] theorem setTask_arrivals (s : State) (c k : Nat) (t : Task) : (s.setTask c k t).arrivals = s.arrivals := rfl
@[simp] theorem setTask_phases (s : State) (c k : Nat) (t : Task) : (s.setTask c k t).phases = s.phases := rfl
@[simp] theorem setTask_shells (s : State) (c k : Nat) (t : Task) : (s.setTask c k t).shells = s.shells := rfl
@[simp] theorem setTask_regions (s : State) (c k : Nat) (t : Task) : (s.setTask c k t).regions = s.regions := rfl
@[simp] theorem setTask_mem (s : State) (c k : Nat) (t : Task) : (s.setTask c k t).mem = s.mem := rfl
@[simp] theorem setTask_poison (s : State) (c k : Nat) (t : Task) : (s.setTask c k t).poison = s.poison := rfl
@[simp] theorem setTask_soft (s : State) (c k : Nat) (t : Task) : (s.setTask c k t).soft = s.soft := rfl
@[simp] theorem setTask_l2 (s : State) (c k : Nat) (t : Task) : (s.setTask c k t).l2 = s.l2 := rfl
@[simp] theorem setTask_hidden (s : State) (c k : Nat) (t : Task) : (s.setTask c k t).hidden = s.hidden := rfl
@[simp] theorem setTask_views (s : State) (c k : Nat) (t : Task) : (s.setTask c k t).views = s.views := rfl
@[simp] theorem setTask_paths (s : State) (c k : Nat) (t : Task) : (s.setTask c k t).paths = s.paths := rfl
@[simp] theorem setTask_tlb (s : State) (c k : Nat) (t : Task) : (s.setTask c k t).tlb = s.tlb := rfl
@[simp] theorem setTask_cmpState (s : State) (c k : Nat) (t : Task) : (s.setTask c k t).cmpState = s.cmpState := rfl
@[simp] theorem setTask_cmpDone (s : State) (c k : Nat) (t : Task) : (s.setTask c k t).cmpDone = s.cmpDone := rfl
@[simp] theorem setTask_blkMeta (s : State) (c k : Nat) (t : Task) : (s.setTask c k t).blkMeta = s.blkMeta := rfl
@[simp] theorem setTask_books (s : State) (c k : Nat) (t : Task) : (s.setTask c k t).books = s.books := rfl
@[simp] theorem setTask_bookSt (s : State) (c k : Nat) (t : Task) : (s.setTask c k t).bookSt = s.bookSt := rfl
@[simp] theorem setTask_faults (s : State) (c k : Nat) (t : Task) : (s.setTask c k t).faults = s.faults := rfl
@[simp] theorem setTask_logs (s : State) (c k : Nat) (t : Task) : (s.setTask c k t).logs = s.logs := rfl
@[simp] theorem setTask_invals (s : State) (c k : Nat) (t : Task) : (s.setTask c k t).invals = s.invals := rfl
@[simp] theorem setTask_te (s : State) (c k : Nat) (t : Task) : (s.setTask c k t).te = s.te := rfl
@[simp] theorem setTask_teLast (s : State) (c k : Nat) (t : Task) : (s.setTask c k t).teLast = s.teLast := rfl
@[simp] theorem setTask_tagLast (s : State) (c k : Nat) (t : Task) : (s.setTask c k t).tagLast = s.tagLast := rfl
@[simp] theorem setTask_wrote (s : State) (c k : Nat) (t : Task) : (s.setTask c k t).wrote = s.wrote := rfl
@[simp] theorem setTask_dirty (s : State) (c k : Nat) (t : Task) : (s.setTask c k t).dirty = s.dirty := rfl
@[simp] theorem setTask_slotCid (s : State) (c k : Nat) (t : Task) : (s.setTask c k t).slotCid = s.slotCid := rfl
@[simp] theorem setTask_dOwner (s : State) (c k : Nat) (t : Task) : (s.setTask c k t).dOwner = s.dOwner := rfl

/-! ## State.modTask -/

@[simp] theorem modTask_inputs (s : State) (c k : Nat) (f : Task → Task) : (s.modTask c k f).inputs = s.inputs := rfl
@[simp] theorem modTask_cur (s : State) (c k : Nat) (f : Task → Task) : (s.modTask c k f).cur = s.cur := rfl
@[simp] theorem modTask_cycle (s : State) (c k : Nat) (f : Task → Task) : (s.modTask c k f).cycle = s.cycle := rfl
@[simp] theorem modTask_timebase (s : State) (c k : Nat) (f : Task → Task) : (s.modTask c k f).timebase = s.timebase := rfl
@[simp] theorem modTask_free (s : State) (c k : Nat) (f : Task → Task) : (s.modTask c k f).free = s.free := rfl
@[simp] theorem modTask_uid (s : State) (c k : Nat) (f : Task → Task) : (s.modTask c k f).uid = s.uid := rfl
@[simp] theorem modTask_pkg (s : State) (c k : Nat) (f : Task → Task) : (s.modTask c k f).pkg = s.pkg := rfl
@[simp] theorem modTask_links (s : State) (c k : Nat) (f : Task → Task) : (s.modTask c k f).links = s.links := rfl
@[simp] theorem modTask_snap (s : State) (c k : Nat) (f : Task → Task) : (s.modTask c k f).snap = s.snap := rfl
@[simp] theorem modTask_fns (s : State) (c k : Nat) (f : Task → Task) : (s.modTask c k f).fns = s.fns := rfl
@[simp] theorem modTask_strmap (s : State) (c k : Nat) (f : Task → Task) : (s.modTask c k f).strmap = s.strmap := rfl
@[simp] theorem modTask_peerwin (s : State) (c k : Nat) (f : Task → Task) : (s.modTask c k f).peerwin = s.peerwin := rfl
@[simp] theorem modTask_peerErr (s : State) (c k : Nat) (f : Task → Task) : (s.modTask c k f).peerErr = s.peerErr := rfl
@[simp] theorem modTask_strm (s : State) (c k : Nat) (f : Task → Task) : (s.modTask c k f).strm = s.strm := rfl
@[simp] theorem modTask_decoded (s : State) (c k : Nat) (f : Task → Task) : (s.modTask c k f).decoded = s.decoded := rfl
@[simp] theorem modTask_sch (s : State) (c k : Nat) (f : Task → Task) : (s.modTask c k f).sch = s.sch := rfl
@[simp] theorem modTask_ctxtbl (s : State) (c k : Nat) (f : Task → Task) : (s.modTask c k f).ctxtbl = s.ctxtbl := rfl
@[simp] theorem modTask_physwin (s : State) (c k : Nat) (f : Task → Task) : (s.modTask c k f).physwin = s.physwin := rfl
@[simp] theorem modTask_fqbase (s : State) (c k : Nat) (f : Task → Task) : (s.modTask c k f).fqbase = s.fqbase := rfl
@[simp] theorem modTask_fqsize (s : State) (c k : Nat) (f : Task → Task) : (s.modTask c k f).fqsize = s.fqsize := rfl
@[simp] theorem modTask_fqhead (s : State) (c k : Nat) (f : Task → Task) : (s.modTask c k f).fqhead = s.fqhead := rfl
@[simp] theorem modTask_fqtail (s : State) (c k : Nat) (f : Task → Task) : (s.modTask c k f).fqtail = s.fqtail := rfl
@[simp] theorem modTask_fqwait (s : State) (c k : Nat) (f : Task → Task) : (s.modTask c k f).fqwait = s.fqwait := rfl
@[simp] theorem modTask_ctxmap (s : State) (c k : Nat) (f : Task → Task) : (s.modTask c k f).ctxmap = s.ctxmap := rfl
@[simp] theorem modTask_kcfg (s : State) (c k : Nat) (f : Task → Task) : (s.modTask c k f).kcfg = s.kcfg := rfl
@[simp] theorem modTask_kcfgNew (s : State) (c k : Nat) (f : Task → Task) : (s.modTask c k f).kcfgNew = s.kcfgNew := rfl
@[simp] theorem modTask_dsown (s : State) (c k : Nat) (f : Task → Task) : (s.modTask c k f).dsown = s.dsown := rfl
@[simp] theorem modTask_xrtab (s : State) (c k : Nat) (f : Task → Task) : (s.modTask c k f).xrtab = s.xrtab := rfl
@[simp] theorem modTask_svbase (s : State) (c k : Nat) (f : Task → Task) : (s.modTask c k f).svbase = s.svbase := rfl
@[simp] theorem modTask_svcnt (s : State) (c k : Nat) (f : Task → Task) : (s.modTask c k f).svcnt = s.svcnt := rfl
@[simp] theorem modTask_killDrop (s : State) (c k : Nat) (f : Task → Task) : (s.modTask c k f).killDrop = s.killDrop := rfl
@[simp] theorem modTask_kills (s : State) (c k : Nat) (f : Task → Task) : (s.modTask c k f).kills = s.kills := rfl
@[simp] theorem modTask_msix (s : State) (c k : Nat) (f : Task → Task) : (s.modTask c k f).msix = s.msix := rfl
@[simp] theorem modTask_replies (s : State) (c k : Nat) (f : Task → Task) : (s.modTask c k f).replies = s.replies := rfl
@[simp] theorem modTask_jobs (s : State) (c k : Nat) (f : Task → Task) : (s.modTask c k f).jobs = s.jobs := rfl
@[simp] theorem modTask_arms (s : State) (c k : Nat) (f : Task → Task) : (s.modTask c k f).arms = s.arms := rfl
@[simp] theorem modTask_events (s : State) (c k : Nat) (f : Task → Task) : (s.modTask c k f).events = s.events := rfl
@[simp] theorem modTask_replays (s : State) (c k : Nat) (f : Task → Task) : (s.modTask c k f).replays = s.replays := rfl
@[simp] theorem modTask_parts (s : State) (c k : Nat) (f : Task → Task) : (s.modTask c k f).parts = s.parts := rfl
@[simp] theorem modTask_stages (s : State) (c k : Nat) (f : Task → Task) : (s.modTask c k f).stages = s.stages := rfl
@[simp] theorem modTask_aborts (s : State) (c k : Nat) (f : Task → Task) : (s.modTask c k f).aborts = s.aborts := rfl
@[simp] theorem modTask_arrivals (s : State) (c k : Nat) (f : Task → Task) : (s.modTask c k f).arrivals = s.arrivals := rfl
@[simp] theorem modTask_phases (s : State) (c k : Nat) (f : Task → Task) : (s.modTask c k f).phases = s.phases := rfl
@[simp] theorem modTask_shells (s : State) (c k : Nat) (f : Task → Task) : (s.modTask c k f).shells = s.shells := rfl
@[simp] theorem modTask_regions (s : State) (c k : Nat) (f : Task → Task) : (s.modTask c k f).regions = s.regions := rfl
@[simp] theorem modTask_mem (s : State) (c k : Nat) (f : Task → Task) : (s.modTask c k f).mem = s.mem := rfl
@[simp] theorem modTask_poison (s : State) (c k : Nat) (f : Task → Task) : (s.modTask c k f).poison = s.poison := rfl
@[simp] theorem modTask_soft (s : State) (c k : Nat) (f : Task → Task) : (s.modTask c k f).soft = s.soft := rfl
@[simp] theorem modTask_l2 (s : State) (c k : Nat) (f : Task → Task) : (s.modTask c k f).l2 = s.l2 := rfl
@[simp] theorem modTask_hidden (s : State) (c k : Nat) (f : Task → Task) : (s.modTask c k f).hidden = s.hidden := rfl
@[simp] theorem modTask_views (s : State) (c k : Nat) (f : Task → Task) : (s.modTask c k f).views = s.views := rfl
@[simp] theorem modTask_paths (s : State) (c k : Nat) (f : Task → Task) : (s.modTask c k f).paths = s.paths := rfl
@[simp] theorem modTask_tlb (s : State) (c k : Nat) (f : Task → Task) : (s.modTask c k f).tlb = s.tlb := rfl
@[simp] theorem modTask_cmpState (s : State) (c k : Nat) (f : Task → Task) : (s.modTask c k f).cmpState = s.cmpState := rfl
@[simp] theorem modTask_cmpDone (s : State) (c k : Nat) (f : Task → Task) : (s.modTask c k f).cmpDone = s.cmpDone := rfl
@[simp] theorem modTask_blkMeta (s : State) (c k : Nat) (f : Task → Task) : (s.modTask c k f).blkMeta = s.blkMeta := rfl
@[simp] theorem modTask_books (s : State) (c k : Nat) (f : Task → Task) : (s.modTask c k f).books = s.books := rfl
@[simp] theorem modTask_bookSt (s : State) (c k : Nat) (f : Task → Task) : (s.modTask c k f).bookSt = s.bookSt := rfl
@[simp] theorem modTask_faults (s : State) (c k : Nat) (f : Task → Task) : (s.modTask c k f).faults = s.faults := rfl
@[simp] theorem modTask_logs (s : State) (c k : Nat) (f : Task → Task) : (s.modTask c k f).logs = s.logs := rfl
@[simp] theorem modTask_invals (s : State) (c k : Nat) (f : Task → Task) : (s.modTask c k f).invals = s.invals := rfl
@[simp] theorem modTask_te (s : State) (c k : Nat) (f : Task → Task) : (s.modTask c k f).te = s.te := rfl
@[simp] theorem modTask_teLast (s : State) (c k : Nat) (f : Task → Task) : (s.modTask c k f).teLast = s.teLast := rfl
@[simp] theorem modTask_tagLast (s : State) (c k : Nat) (f : Task → Task) : (s.modTask c k f).tagLast = s.tagLast := rfl
@[simp] theorem modTask_wrote (s : State) (c k : Nat) (f : Task → Task) : (s.modTask c k f).wrote = s.wrote := rfl
@[simp] theorem modTask_dirty (s : State) (c k : Nat) (f : Task → Task) : (s.modTask c k f).dirty = s.dirty := rfl
@[simp] theorem modTask_slotCid (s : State) (c k : Nat) (f : Task → Task) : (s.modTask c k f).slotCid = s.slotCid := rfl
@[simp] theorem modTask_dOwner (s : State) (c k : Nat) (f : Task → Task) : (s.modTask c k f).dOwner = s.dOwner := rfl

/-! ## State.modMy -/

@[simp] theorem modMy_inputs (s : State) (f : Task → Task) : (s.modMy f).inputs = s.inputs := rfl
@[simp] theorem modMy_cur (s : State) (f : Task → Task) : (s.modMy f).cur = s.cur := rfl
@[simp] theorem modMy_cycle (s : State) (f : Task → Task) : (s.modMy f).cycle = s.cycle := rfl
@[simp] theorem modMy_timebase (s : State) (f : Task → Task) : (s.modMy f).timebase = s.timebase := rfl
@[simp] theorem modMy_free (s : State) (f : Task → Task) : (s.modMy f).free = s.free := rfl
@[simp] theorem modMy_uid (s : State) (f : Task → Task) : (s.modMy f).uid = s.uid := rfl
@[simp] theorem modMy_pkg (s : State) (f : Task → Task) : (s.modMy f).pkg = s.pkg := rfl
@[simp] theorem modMy_links (s : State) (f : Task → Task) : (s.modMy f).links = s.links := rfl
@[simp] theorem modMy_snap (s : State) (f : Task → Task) : (s.modMy f).snap = s.snap := rfl
@[simp] theorem modMy_fns (s : State) (f : Task → Task) : (s.modMy f).fns = s.fns := rfl
@[simp] theorem modMy_strmap (s : State) (f : Task → Task) : (s.modMy f).strmap = s.strmap := rfl
@[simp] theorem modMy_peerwin (s : State) (f : Task → Task) : (s.modMy f).peerwin = s.peerwin := rfl
@[simp] theorem modMy_peerErr (s : State) (f : Task → Task) : (s.modMy f).peerErr = s.peerErr := rfl
@[simp] theorem modMy_strm (s : State) (f : Task → Task) : (s.modMy f).strm = s.strm := rfl
@[simp] theorem modMy_decoded (s : State) (f : Task → Task) : (s.modMy f).decoded = s.decoded := rfl
@[simp] theorem modMy_sch (s : State) (f : Task → Task) : (s.modMy f).sch = s.sch := rfl
@[simp] theorem modMy_ctxtbl (s : State) (f : Task → Task) : (s.modMy f).ctxtbl = s.ctxtbl := rfl
@[simp] theorem modMy_physwin (s : State) (f : Task → Task) : (s.modMy f).physwin = s.physwin := rfl
@[simp] theorem modMy_fqbase (s : State) (f : Task → Task) : (s.modMy f).fqbase = s.fqbase := rfl
@[simp] theorem modMy_fqsize (s : State) (f : Task → Task) : (s.modMy f).fqsize = s.fqsize := rfl
@[simp] theorem modMy_fqhead (s : State) (f : Task → Task) : (s.modMy f).fqhead = s.fqhead := rfl
@[simp] theorem modMy_fqtail (s : State) (f : Task → Task) : (s.modMy f).fqtail = s.fqtail := rfl
@[simp] theorem modMy_fqwait (s : State) (f : Task → Task) : (s.modMy f).fqwait = s.fqwait := rfl
@[simp] theorem modMy_ctxmap (s : State) (f : Task → Task) : (s.modMy f).ctxmap = s.ctxmap := rfl
@[simp] theorem modMy_kcfg (s : State) (f : Task → Task) : (s.modMy f).kcfg = s.kcfg := rfl
@[simp] theorem modMy_kcfgNew (s : State) (f : Task → Task) : (s.modMy f).kcfgNew = s.kcfgNew := rfl
@[simp] theorem modMy_dsown (s : State) (f : Task → Task) : (s.modMy f).dsown = s.dsown := rfl
@[simp] theorem modMy_xrtab (s : State) (f : Task → Task) : (s.modMy f).xrtab = s.xrtab := rfl
@[simp] theorem modMy_svbase (s : State) (f : Task → Task) : (s.modMy f).svbase = s.svbase := rfl
@[simp] theorem modMy_svcnt (s : State) (f : Task → Task) : (s.modMy f).svcnt = s.svcnt := rfl
@[simp] theorem modMy_killDrop (s : State) (f : Task → Task) : (s.modMy f).killDrop = s.killDrop := rfl
@[simp] theorem modMy_kills (s : State) (f : Task → Task) : (s.modMy f).kills = s.kills := rfl
@[simp] theorem modMy_msix (s : State) (f : Task → Task) : (s.modMy f).msix = s.msix := rfl
@[simp] theorem modMy_replies (s : State) (f : Task → Task) : (s.modMy f).replies = s.replies := rfl
@[simp] theorem modMy_jobs (s : State) (f : Task → Task) : (s.modMy f).jobs = s.jobs := rfl
@[simp] theorem modMy_arms (s : State) (f : Task → Task) : (s.modMy f).arms = s.arms := rfl
@[simp] theorem modMy_events (s : State) (f : Task → Task) : (s.modMy f).events = s.events := rfl
@[simp] theorem modMy_replays (s : State) (f : Task → Task) : (s.modMy f).replays = s.replays := rfl
@[simp] theorem modMy_parts (s : State) (f : Task → Task) : (s.modMy f).parts = s.parts := rfl
@[simp] theorem modMy_stages (s : State) (f : Task → Task) : (s.modMy f).stages = s.stages := rfl
@[simp] theorem modMy_aborts (s : State) (f : Task → Task) : (s.modMy f).aborts = s.aborts := rfl
@[simp] theorem modMy_arrivals (s : State) (f : Task → Task) : (s.modMy f).arrivals = s.arrivals := rfl
@[simp] theorem modMy_phases (s : State) (f : Task → Task) : (s.modMy f).phases = s.phases := rfl
@[simp] theorem modMy_shells (s : State) (f : Task → Task) : (s.modMy f).shells = s.shells := rfl
@[simp] theorem modMy_regions (s : State) (f : Task → Task) : (s.modMy f).regions = s.regions := rfl
@[simp] theorem modMy_mem (s : State) (f : Task → Task) : (s.modMy f).mem = s.mem := rfl
@[simp] theorem modMy_poison (s : State) (f : Task → Task) : (s.modMy f).poison = s.poison := rfl
@[simp] theorem modMy_soft (s : State) (f : Task → Task) : (s.modMy f).soft = s.soft := rfl
@[simp] theorem modMy_l2 (s : State) (f : Task → Task) : (s.modMy f).l2 = s.l2 := rfl
@[simp] theorem modMy_hidden (s : State) (f : Task → Task) : (s.modMy f).hidden = s.hidden := rfl
@[simp] theorem modMy_views (s : State) (f : Task → Task) : (s.modMy f).views = s.views := rfl
@[simp] theorem modMy_paths (s : State) (f : Task → Task) : (s.modMy f).paths = s.paths := rfl
@[simp] theorem modMy_tlb (s : State) (f : Task → Task) : (s.modMy f).tlb = s.tlb := rfl
@[simp] theorem modMy_cmpState (s : State) (f : Task → Task) : (s.modMy f).cmpState = s.cmpState := rfl
@[simp] theorem modMy_cmpDone (s : State) (f : Task → Task) : (s.modMy f).cmpDone = s.cmpDone := rfl
@[simp] theorem modMy_blkMeta (s : State) (f : Task → Task) : (s.modMy f).blkMeta = s.blkMeta := rfl
@[simp] theorem modMy_books (s : State) (f : Task → Task) : (s.modMy f).books = s.books := rfl
@[simp] theorem modMy_bookSt (s : State) (f : Task → Task) : (s.modMy f).bookSt = s.bookSt := rfl
@[simp] theorem modMy_faults (s : State) (f : Task → Task) : (s.modMy f).faults = s.faults := rfl
@[simp] theorem modMy_logs (s : State) (f : Task → Task) : (s.modMy f).logs = s.logs := rfl
@[simp] theorem modMy_invals (s : State) (f : Task → Task) : (s.modMy f).invals = s.invals := rfl
@[simp] theorem modMy_te (s : State) (f : Task → Task) : (s.modMy f).te = s.te := rfl
@[simp] theorem modMy_teLast (s : State) (f : Task → Task) : (s.modMy f).teLast = s.teLast := rfl
@[simp] theorem modMy_tagLast (s : State) (f : Task → Task) : (s.modMy f).tagLast = s.tagLast := rfl
@[simp] theorem modMy_wrote (s : State) (f : Task → Task) : (s.modMy f).wrote = s.wrote := rfl
@[simp] theorem modMy_dirty (s : State) (f : Task → Task) : (s.modMy f).dirty = s.dirty := rfl
@[simp] theorem modMy_slotCid (s : State) (f : Task → Task) : (s.modMy f).slotCid = s.slotCid := rfl
@[simp] theorem modMy_dOwner (s : State) (f : Task → Task) : (s.modMy f).dOwner = s.dOwner := rfl

/-! ## State.modSt -/

@[simp] theorem modSt_inputs (s : State) (r : Ref) (f : EStream → EStream) : (s.modSt r f).inputs = s.inputs := rfl
@[simp] theorem modSt_cur (s : State) (r : Ref) (f : EStream → EStream) : (s.modSt r f).cur = s.cur := rfl
@[simp] theorem modSt_cycle (s : State) (r : Ref) (f : EStream → EStream) : (s.modSt r f).cycle = s.cycle := rfl
@[simp] theorem modSt_timebase (s : State) (r : Ref) (f : EStream → EStream) : (s.modSt r f).timebase = s.timebase := rfl
@[simp] theorem modSt_free (s : State) (r : Ref) (f : EStream → EStream) : (s.modSt r f).free = s.free := rfl
@[simp] theorem modSt_uid (s : State) (r : Ref) (f : EStream → EStream) : (s.modSt r f).uid = s.uid := rfl
@[simp] theorem modSt_pkg (s : State) (r : Ref) (f : EStream → EStream) : (s.modSt r f).pkg = s.pkg := rfl
@[simp] theorem modSt_links (s : State) (r : Ref) (f : EStream → EStream) : (s.modSt r f).links = s.links := rfl
@[simp] theorem modSt_snap (s : State) (r : Ref) (f : EStream → EStream) : (s.modSt r f).snap = s.snap := rfl
@[simp] theorem modSt_fns (s : State) (r : Ref) (f : EStream → EStream) : (s.modSt r f).fns = s.fns := rfl
@[simp] theorem modSt_strmap (s : State) (r : Ref) (f : EStream → EStream) : (s.modSt r f).strmap = s.strmap := rfl
@[simp] theorem modSt_peerwin (s : State) (r : Ref) (f : EStream → EStream) : (s.modSt r f).peerwin = s.peerwin := rfl
@[simp] theorem modSt_peerErr (s : State) (r : Ref) (f : EStream → EStream) : (s.modSt r f).peerErr = s.peerErr := rfl
@[simp] theorem modSt_strm (s : State) (r : Ref) (f : EStream → EStream) : (s.modSt r f).strm = s.strm := rfl
@[simp] theorem modSt_decoded (s : State) (r : Ref) (f : EStream → EStream) : (s.modSt r f).decoded = s.decoded := rfl
@[simp] theorem modSt_sch (s : State) (r : Ref) (f : EStream → EStream) : (s.modSt r f).sch = s.sch := rfl
@[simp] theorem modSt_ctxtbl (s : State) (r : Ref) (f : EStream → EStream) : (s.modSt r f).ctxtbl = s.ctxtbl := rfl
@[simp] theorem modSt_physwin (s : State) (r : Ref) (f : EStream → EStream) : (s.modSt r f).physwin = s.physwin := rfl
@[simp] theorem modSt_fqbase (s : State) (r : Ref) (f : EStream → EStream) : (s.modSt r f).fqbase = s.fqbase := rfl
@[simp] theorem modSt_fqsize (s : State) (r : Ref) (f : EStream → EStream) : (s.modSt r f).fqsize = s.fqsize := rfl
@[simp] theorem modSt_fqhead (s : State) (r : Ref) (f : EStream → EStream) : (s.modSt r f).fqhead = s.fqhead := rfl
@[simp] theorem modSt_fqtail (s : State) (r : Ref) (f : EStream → EStream) : (s.modSt r f).fqtail = s.fqtail := rfl
@[simp] theorem modSt_fqwait (s : State) (r : Ref) (f : EStream → EStream) : (s.modSt r f).fqwait = s.fqwait := rfl
@[simp] theorem modSt_ctxmap (s : State) (r : Ref) (f : EStream → EStream) : (s.modSt r f).ctxmap = s.ctxmap := rfl
@[simp] theorem modSt_kcfg (s : State) (r : Ref) (f : EStream → EStream) : (s.modSt r f).kcfg = s.kcfg := rfl
@[simp] theorem modSt_kcfgNew (s : State) (r : Ref) (f : EStream → EStream) : (s.modSt r f).kcfgNew = s.kcfgNew := rfl
@[simp] theorem modSt_dsown (s : State) (r : Ref) (f : EStream → EStream) : (s.modSt r f).dsown = s.dsown := rfl
@[simp] theorem modSt_xrtab (s : State) (r : Ref) (f : EStream → EStream) : (s.modSt r f).xrtab = s.xrtab := rfl
@[simp] theorem modSt_svbase (s : State) (r : Ref) (f : EStream → EStream) : (s.modSt r f).svbase = s.svbase := rfl
@[simp] theorem modSt_svcnt (s : State) (r : Ref) (f : EStream → EStream) : (s.modSt r f).svcnt = s.svcnt := rfl
@[simp] theorem modSt_killDrop (s : State) (r : Ref) (f : EStream → EStream) : (s.modSt r f).killDrop = s.killDrop := rfl
@[simp] theorem modSt_kills (s : State) (r : Ref) (f : EStream → EStream) : (s.modSt r f).kills = s.kills := rfl
@[simp] theorem modSt_msix (s : State) (r : Ref) (f : EStream → EStream) : (s.modSt r f).msix = s.msix := rfl
@[simp] theorem modSt_replies (s : State) (r : Ref) (f : EStream → EStream) : (s.modSt r f).replies = s.replies := rfl
@[simp] theorem modSt_jobs (s : State) (r : Ref) (f : EStream → EStream) : (s.modSt r f).jobs = s.jobs := rfl
@[simp] theorem modSt_arms (s : State) (r : Ref) (f : EStream → EStream) : (s.modSt r f).arms = s.arms := rfl
@[simp] theorem modSt_events (s : State) (r : Ref) (f : EStream → EStream) : (s.modSt r f).events = s.events := rfl
@[simp] theorem modSt_replays (s : State) (r : Ref) (f : EStream → EStream) : (s.modSt r f).replays = s.replays := rfl
@[simp] theorem modSt_parts (s : State) (r : Ref) (f : EStream → EStream) : (s.modSt r f).parts = s.parts := rfl
@[simp] theorem modSt_stages (s : State) (r : Ref) (f : EStream → EStream) : (s.modSt r f).stages = s.stages := rfl
@[simp] theorem modSt_aborts (s : State) (r : Ref) (f : EStream → EStream) : (s.modSt r f).aborts = s.aborts := rfl
@[simp] theorem modSt_arrivals (s : State) (r : Ref) (f : EStream → EStream) : (s.modSt r f).arrivals = s.arrivals := rfl
@[simp] theorem modSt_phases (s : State) (r : Ref) (f : EStream → EStream) : (s.modSt r f).phases = s.phases := rfl
@[simp] theorem modSt_shells (s : State) (r : Ref) (f : EStream → EStream) : (s.modSt r f).shells = s.shells := rfl
@[simp] theorem modSt_regions (s : State) (r : Ref) (f : EStream → EStream) : (s.modSt r f).regions = s.regions := rfl
@[simp] theorem modSt_mem (s : State) (r : Ref) (f : EStream → EStream) : (s.modSt r f).mem = s.mem := rfl
@[simp] theorem modSt_poison (s : State) (r : Ref) (f : EStream → EStream) : (s.modSt r f).poison = s.poison := rfl
@[simp] theorem modSt_soft (s : State) (r : Ref) (f : EStream → EStream) : (s.modSt r f).soft = s.soft := rfl
@[simp] theorem modSt_l2 (s : State) (r : Ref) (f : EStream → EStream) : (s.modSt r f).l2 = s.l2 := rfl
@[simp] theorem modSt_hidden (s : State) (r : Ref) (f : EStream → EStream) : (s.modSt r f).hidden = s.hidden := rfl
@[simp] theorem modSt_views (s : State) (r : Ref) (f : EStream → EStream) : (s.modSt r f).views = s.views := rfl
@[simp] theorem modSt_paths (s : State) (r : Ref) (f : EStream → EStream) : (s.modSt r f).paths = s.paths := rfl
@[simp] theorem modSt_tlb (s : State) (r : Ref) (f : EStream → EStream) : (s.modSt r f).tlb = s.tlb := rfl
@[simp] theorem modSt_cmpState (s : State) (r : Ref) (f : EStream → EStream) : (s.modSt r f).cmpState = s.cmpState := rfl
@[simp] theorem modSt_cmpDone (s : State) (r : Ref) (f : EStream → EStream) : (s.modSt r f).cmpDone = s.cmpDone := rfl
@[simp] theorem modSt_blkMeta (s : State) (r : Ref) (f : EStream → EStream) : (s.modSt r f).blkMeta = s.blkMeta := rfl
@[simp] theorem modSt_books (s : State) (r : Ref) (f : EStream → EStream) : (s.modSt r f).books = s.books := rfl
@[simp] theorem modSt_bookSt (s : State) (r : Ref) (f : EStream → EStream) : (s.modSt r f).bookSt = s.bookSt := rfl
@[simp] theorem modSt_faults (s : State) (r : Ref) (f : EStream → EStream) : (s.modSt r f).faults = s.faults := rfl
@[simp] theorem modSt_logs (s : State) (r : Ref) (f : EStream → EStream) : (s.modSt r f).logs = s.logs := rfl
@[simp] theorem modSt_invals (s : State) (r : Ref) (f : EStream → EStream) : (s.modSt r f).invals = s.invals := rfl
@[simp] theorem modSt_te (s : State) (r : Ref) (f : EStream → EStream) : (s.modSt r f).te = s.te := rfl
@[simp] theorem modSt_teLast (s : State) (r : Ref) (f : EStream → EStream) : (s.modSt r f).teLast = s.teLast := rfl
@[simp] theorem modSt_tagLast (s : State) (r : Ref) (f : EStream → EStream) : (s.modSt r f).tagLast = s.tagLast := rfl
@[simp] theorem modSt_wrote (s : State) (r : Ref) (f : EStream → EStream) : (s.modSt r f).wrote = s.wrote := rfl
@[simp] theorem modSt_dirty (s : State) (r : Ref) (f : EStream → EStream) : (s.modSt r f).dirty = s.dirty := rfl
@[simp] theorem modSt_slotCid (s : State) (r : Ref) (f : EStream → EStream) : (s.modSt r f).slotCid = s.slotCid := rfl
@[simp] theorem modSt_dOwner (s : State) (r : Ref) (f : EStream → EStream) : (s.modSt r f).dOwner = s.dOwner := rfl

/-! ## State.modMe -/

@[simp] theorem modMe_inputs (s : State) (f : EStream → EStream) : (s.modMe f).inputs = s.inputs := rfl
@[simp] theorem modMe_cur (s : State) (f : EStream → EStream) : (s.modMe f).cur = s.cur := rfl
@[simp] theorem modMe_cycle (s : State) (f : EStream → EStream) : (s.modMe f).cycle = s.cycle := rfl
@[simp] theorem modMe_timebase (s : State) (f : EStream → EStream) : (s.modMe f).timebase = s.timebase := rfl
@[simp] theorem modMe_free (s : State) (f : EStream → EStream) : (s.modMe f).free = s.free := rfl
@[simp] theorem modMe_uid (s : State) (f : EStream → EStream) : (s.modMe f).uid = s.uid := rfl
@[simp] theorem modMe_pkg (s : State) (f : EStream → EStream) : (s.modMe f).pkg = s.pkg := rfl
@[simp] theorem modMe_links (s : State) (f : EStream → EStream) : (s.modMe f).links = s.links := rfl
@[simp] theorem modMe_snap (s : State) (f : EStream → EStream) : (s.modMe f).snap = s.snap := rfl
@[simp] theorem modMe_fns (s : State) (f : EStream → EStream) : (s.modMe f).fns = s.fns := rfl
@[simp] theorem modMe_strmap (s : State) (f : EStream → EStream) : (s.modMe f).strmap = s.strmap := rfl
@[simp] theorem modMe_peerwin (s : State) (f : EStream → EStream) : (s.modMe f).peerwin = s.peerwin := rfl
@[simp] theorem modMe_peerErr (s : State) (f : EStream → EStream) : (s.modMe f).peerErr = s.peerErr := rfl
@[simp] theorem modMe_strm (s : State) (f : EStream → EStream) : (s.modMe f).strm = s.strm := rfl
@[simp] theorem modMe_decoded (s : State) (f : EStream → EStream) : (s.modMe f).decoded = s.decoded := rfl
@[simp] theorem modMe_sch (s : State) (f : EStream → EStream) : (s.modMe f).sch = s.sch := rfl
@[simp] theorem modMe_ctxtbl (s : State) (f : EStream → EStream) : (s.modMe f).ctxtbl = s.ctxtbl := rfl
@[simp] theorem modMe_physwin (s : State) (f : EStream → EStream) : (s.modMe f).physwin = s.physwin := rfl
@[simp] theorem modMe_fqbase (s : State) (f : EStream → EStream) : (s.modMe f).fqbase = s.fqbase := rfl
@[simp] theorem modMe_fqsize (s : State) (f : EStream → EStream) : (s.modMe f).fqsize = s.fqsize := rfl
@[simp] theorem modMe_fqhead (s : State) (f : EStream → EStream) : (s.modMe f).fqhead = s.fqhead := rfl
@[simp] theorem modMe_fqtail (s : State) (f : EStream → EStream) : (s.modMe f).fqtail = s.fqtail := rfl
@[simp] theorem modMe_fqwait (s : State) (f : EStream → EStream) : (s.modMe f).fqwait = s.fqwait := rfl
@[simp] theorem modMe_ctxmap (s : State) (f : EStream → EStream) : (s.modMe f).ctxmap = s.ctxmap := rfl
@[simp] theorem modMe_kcfg (s : State) (f : EStream → EStream) : (s.modMe f).kcfg = s.kcfg := rfl
@[simp] theorem modMe_kcfgNew (s : State) (f : EStream → EStream) : (s.modMe f).kcfgNew = s.kcfgNew := rfl
@[simp] theorem modMe_dsown (s : State) (f : EStream → EStream) : (s.modMe f).dsown = s.dsown := rfl
@[simp] theorem modMe_xrtab (s : State) (f : EStream → EStream) : (s.modMe f).xrtab = s.xrtab := rfl
@[simp] theorem modMe_svbase (s : State) (f : EStream → EStream) : (s.modMe f).svbase = s.svbase := rfl
@[simp] theorem modMe_svcnt (s : State) (f : EStream → EStream) : (s.modMe f).svcnt = s.svcnt := rfl
@[simp] theorem modMe_killDrop (s : State) (f : EStream → EStream) : (s.modMe f).killDrop = s.killDrop := rfl
@[simp] theorem modMe_kills (s : State) (f : EStream → EStream) : (s.modMe f).kills = s.kills := rfl
@[simp] theorem modMe_msix (s : State) (f : EStream → EStream) : (s.modMe f).msix = s.msix := rfl
@[simp] theorem modMe_replies (s : State) (f : EStream → EStream) : (s.modMe f).replies = s.replies := rfl
@[simp] theorem modMe_jobs (s : State) (f : EStream → EStream) : (s.modMe f).jobs = s.jobs := rfl
@[simp] theorem modMe_arms (s : State) (f : EStream → EStream) : (s.modMe f).arms = s.arms := rfl
@[simp] theorem modMe_events (s : State) (f : EStream → EStream) : (s.modMe f).events = s.events := rfl
@[simp] theorem modMe_replays (s : State) (f : EStream → EStream) : (s.modMe f).replays = s.replays := rfl
@[simp] theorem modMe_parts (s : State) (f : EStream → EStream) : (s.modMe f).parts = s.parts := rfl
@[simp] theorem modMe_stages (s : State) (f : EStream → EStream) : (s.modMe f).stages = s.stages := rfl
@[simp] theorem modMe_aborts (s : State) (f : EStream → EStream) : (s.modMe f).aborts = s.aborts := rfl
@[simp] theorem modMe_arrivals (s : State) (f : EStream → EStream) : (s.modMe f).arrivals = s.arrivals := rfl
@[simp] theorem modMe_phases (s : State) (f : EStream → EStream) : (s.modMe f).phases = s.phases := rfl
@[simp] theorem modMe_shells (s : State) (f : EStream → EStream) : (s.modMe f).shells = s.shells := rfl
@[simp] theorem modMe_regions (s : State) (f : EStream → EStream) : (s.modMe f).regions = s.regions := rfl
@[simp] theorem modMe_mem (s : State) (f : EStream → EStream) : (s.modMe f).mem = s.mem := rfl
@[simp] theorem modMe_poison (s : State) (f : EStream → EStream) : (s.modMe f).poison = s.poison := rfl
@[simp] theorem modMe_soft (s : State) (f : EStream → EStream) : (s.modMe f).soft = s.soft := rfl
@[simp] theorem modMe_l2 (s : State) (f : EStream → EStream) : (s.modMe f).l2 = s.l2 := rfl
@[simp] theorem modMe_hidden (s : State) (f : EStream → EStream) : (s.modMe f).hidden = s.hidden := rfl
@[simp] theorem modMe_views (s : State) (f : EStream → EStream) : (s.modMe f).views = s.views := rfl
@[simp] theorem modMe_paths (s : State) (f : EStream → EStream) : (s.modMe f).paths = s.paths := rfl
@[simp] theorem modMe_tlb (s : State) (f : EStream → EStream) : (s.modMe f).tlb = s.tlb := rfl
@[simp] theorem modMe_cmpState (s : State) (f : EStream → EStream) : (s.modMe f).cmpState = s.cmpState := rfl
@[simp] theorem modMe_cmpDone (s : State) (f : EStream → EStream) : (s.modMe f).cmpDone = s.cmpDone := rfl
@[simp] theorem modMe_blkMeta (s : State) (f : EStream → EStream) : (s.modMe f).blkMeta = s.blkMeta := rfl
@[simp] theorem modMe_books (s : State) (f : EStream → EStream) : (s.modMe f).books = s.books := rfl
@[simp] theorem modMe_bookSt (s : State) (f : EStream → EStream) : (s.modMe f).bookSt = s.bookSt := rfl
@[simp] theorem modMe_faults (s : State) (f : EStream → EStream) : (s.modMe f).faults = s.faults := rfl
@[simp] theorem modMe_logs (s : State) (f : EStream → EStream) : (s.modMe f).logs = s.logs := rfl
@[simp] theorem modMe_invals (s : State) (f : EStream → EStream) : (s.modMe f).invals = s.invals := rfl
@[simp] theorem modMe_te (s : State) (f : EStream → EStream) : (s.modMe f).te = s.te := rfl
@[simp] theorem modMe_teLast (s : State) (f : EStream → EStream) : (s.modMe f).teLast = s.teLast := rfl
@[simp] theorem modMe_tagLast (s : State) (f : EStream → EStream) : (s.modMe f).tagLast = s.tagLast := rfl
@[simp] theorem modMe_wrote (s : State) (f : EStream → EStream) : (s.modMe f).wrote = s.wrote := rfl
@[simp] theorem modMe_dirty (s : State) (f : EStream → EStream) : (s.modMe f).dirty = s.dirty := rfl
@[simp] theorem modMe_slotCid (s : State) (f : EStream → EStream) : (s.modMe f).slotCid = s.slotCid := rfl
@[simp] theorem modMe_dOwner (s : State) (f : EStream → EStream) : (s.modMe f).dOwner = s.dOwner := rfl

/-! ## State.setByte -/

@[simp] theorem setByte_inputs (s : State) (k : Nat) (b : Byte) : (s.setByte k b).inputs = s.inputs := rfl
@[simp] theorem setByte_cur (s : State) (k : Nat) (b : Byte) : (s.setByte k b).cur = s.cur := rfl
@[simp] theorem setByte_cycle (s : State) (k : Nat) (b : Byte) : (s.setByte k b).cycle = s.cycle := rfl
@[simp] theorem setByte_timebase (s : State) (k : Nat) (b : Byte) : (s.setByte k b).timebase = s.timebase := rfl
@[simp] theorem setByte_free (s : State) (k : Nat) (b : Byte) : (s.setByte k b).free = s.free := rfl
@[simp] theorem setByte_uid (s : State) (k : Nat) (b : Byte) : (s.setByte k b).uid = s.uid := rfl
@[simp] theorem setByte_pkg (s : State) (k : Nat) (b : Byte) : (s.setByte k b).pkg = s.pkg := rfl
@[simp] theorem setByte_links (s : State) (k : Nat) (b : Byte) : (s.setByte k b).links = s.links := rfl
@[simp] theorem setByte_snap (s : State) (k : Nat) (b : Byte) : (s.setByte k b).snap = s.snap := rfl
@[simp] theorem setByte_fns (s : State) (k : Nat) (b : Byte) : (s.setByte k b).fns = s.fns := rfl
@[simp] theorem setByte_strmap (s : State) (k : Nat) (b : Byte) : (s.setByte k b).strmap = s.strmap := rfl
@[simp] theorem setByte_peerwin (s : State) (k : Nat) (b : Byte) : (s.setByte k b).peerwin = s.peerwin := rfl
@[simp] theorem setByte_peerErr (s : State) (k : Nat) (b : Byte) : (s.setByte k b).peerErr = s.peerErr := rfl
@[simp] theorem setByte_strm (s : State) (k : Nat) (b : Byte) : (s.setByte k b).strm = s.strm := rfl
@[simp] theorem setByte_decoded (s : State) (k : Nat) (b : Byte) : (s.setByte k b).decoded = s.decoded := rfl
@[simp] theorem setByte_sch (s : State) (k : Nat) (b : Byte) : (s.setByte k b).sch = s.sch := rfl
@[simp] theorem setByte_ctxtbl (s : State) (k : Nat) (b : Byte) : (s.setByte k b).ctxtbl = s.ctxtbl := rfl
@[simp] theorem setByte_physwin (s : State) (k : Nat) (b : Byte) : (s.setByte k b).physwin = s.physwin := rfl
@[simp] theorem setByte_fqbase (s : State) (k : Nat) (b : Byte) : (s.setByte k b).fqbase = s.fqbase := rfl
@[simp] theorem setByte_fqsize (s : State) (k : Nat) (b : Byte) : (s.setByte k b).fqsize = s.fqsize := rfl
@[simp] theorem setByte_fqhead (s : State) (k : Nat) (b : Byte) : (s.setByte k b).fqhead = s.fqhead := rfl
@[simp] theorem setByte_fqtail (s : State) (k : Nat) (b : Byte) : (s.setByte k b).fqtail = s.fqtail := rfl
@[simp] theorem setByte_fqwait (s : State) (k : Nat) (b : Byte) : (s.setByte k b).fqwait = s.fqwait := rfl
@[simp] theorem setByte_ctxmap (s : State) (k : Nat) (b : Byte) : (s.setByte k b).ctxmap = s.ctxmap := rfl
@[simp] theorem setByte_kcfg (s : State) (k : Nat) (b : Byte) : (s.setByte k b).kcfg = s.kcfg := rfl
@[simp] theorem setByte_kcfgNew (s : State) (k : Nat) (b : Byte) : (s.setByte k b).kcfgNew = s.kcfgNew := rfl
@[simp] theorem setByte_dsown (s : State) (k : Nat) (b : Byte) : (s.setByte k b).dsown = s.dsown := rfl
@[simp] theorem setByte_xrtab (s : State) (k : Nat) (b : Byte) : (s.setByte k b).xrtab = s.xrtab := rfl
@[simp] theorem setByte_svbase (s : State) (k : Nat) (b : Byte) : (s.setByte k b).svbase = s.svbase := rfl
@[simp] theorem setByte_svcnt (s : State) (k : Nat) (b : Byte) : (s.setByte k b).svcnt = s.svcnt := rfl
@[simp] theorem setByte_killDrop (s : State) (k : Nat) (b : Byte) : (s.setByte k b).killDrop = s.killDrop := rfl
@[simp] theorem setByte_kills (s : State) (k : Nat) (b : Byte) : (s.setByte k b).kills = s.kills := rfl
@[simp] theorem setByte_msix (s : State) (k : Nat) (b : Byte) : (s.setByte k b).msix = s.msix := rfl
@[simp] theorem setByte_replies (s : State) (k : Nat) (b : Byte) : (s.setByte k b).replies = s.replies := rfl
@[simp] theorem setByte_tasks (s : State) (k : Nat) (b : Byte) : (s.setByte k b).tasks = s.tasks := rfl
@[simp] theorem setByte_jobs (s : State) (k : Nat) (b : Byte) : (s.setByte k b).jobs = s.jobs := rfl
@[simp] theorem setByte_arms (s : State) (k : Nat) (b : Byte) : (s.setByte k b).arms = s.arms := rfl
@[simp] theorem setByte_events (s : State) (k : Nat) (b : Byte) : (s.setByte k b).events = s.events := rfl
@[simp] theorem setByte_replays (s : State) (k : Nat) (b : Byte) : (s.setByte k b).replays = s.replays := rfl
@[simp] theorem setByte_parts (s : State) (k : Nat) (b : Byte) : (s.setByte k b).parts = s.parts := rfl
@[simp] theorem setByte_stages (s : State) (k : Nat) (b : Byte) : (s.setByte k b).stages = s.stages := rfl
@[simp] theorem setByte_aborts (s : State) (k : Nat) (b : Byte) : (s.setByte k b).aborts = s.aborts := rfl
@[simp] theorem setByte_arrivals (s : State) (k : Nat) (b : Byte) : (s.setByte k b).arrivals = s.arrivals := rfl
@[simp] theorem setByte_phases (s : State) (k : Nat) (b : Byte) : (s.setByte k b).phases = s.phases := rfl
@[simp] theorem setByte_shells (s : State) (k : Nat) (b : Byte) : (s.setByte k b).shells = s.shells := rfl
@[simp] theorem setByte_regions (s : State) (k : Nat) (b : Byte) : (s.setByte k b).regions = s.regions := rfl
@[simp] theorem setByte_poison (s : State) (k : Nat) (b : Byte) : (s.setByte k b).poison = s.poison := rfl
@[simp] theorem setByte_soft (s : State) (k : Nat) (b : Byte) : (s.setByte k b).soft = s.soft := rfl
@[simp] theorem setByte_l2 (s : State) (k : Nat) (b : Byte) : (s.setByte k b).l2 = s.l2 := rfl
@[simp] theorem setByte_hidden (s : State) (k : Nat) (b : Byte) : (s.setByte k b).hidden = s.hidden := rfl
@[simp] theorem setByte_views (s : State) (k : Nat) (b : Byte) : (s.setByte k b).views = s.views := rfl
@[simp] theorem setByte_paths (s : State) (k : Nat) (b : Byte) : (s.setByte k b).paths = s.paths := rfl
@[simp] theorem setByte_tlb (s : State) (k : Nat) (b : Byte) : (s.setByte k b).tlb = s.tlb := rfl
@[simp] theorem setByte_cmpState (s : State) (k : Nat) (b : Byte) : (s.setByte k b).cmpState = s.cmpState := rfl
@[simp] theorem setByte_cmpDone (s : State) (k : Nat) (b : Byte) : (s.setByte k b).cmpDone = s.cmpDone := rfl
@[simp] theorem setByte_blkMeta (s : State) (k : Nat) (b : Byte) : (s.setByte k b).blkMeta = s.blkMeta := rfl
@[simp] theorem setByte_books (s : State) (k : Nat) (b : Byte) : (s.setByte k b).books = s.books := rfl
@[simp] theorem setByte_bookSt (s : State) (k : Nat) (b : Byte) : (s.setByte k b).bookSt = s.bookSt := rfl
@[simp] theorem setByte_faults (s : State) (k : Nat) (b : Byte) : (s.setByte k b).faults = s.faults := rfl
@[simp] theorem setByte_logs (s : State) (k : Nat) (b : Byte) : (s.setByte k b).logs = s.logs := rfl
@[simp] theorem setByte_invals (s : State) (k : Nat) (b : Byte) : (s.setByte k b).invals = s.invals := rfl
@[simp] theorem setByte_te (s : State) (k : Nat) (b : Byte) : (s.setByte k b).te = s.te := rfl
@[simp] theorem setByte_teLast (s : State) (k : Nat) (b : Byte) : (s.setByte k b).teLast = s.teLast := rfl
@[simp] theorem setByte_tagLast (s : State) (k : Nat) (b : Byte) : (s.setByte k b).tagLast = s.tagLast := rfl
@[simp] theorem setByte_wrote (s : State) (k : Nat) (b : Byte) : (s.setByte k b).wrote = s.wrote := rfl
@[simp] theorem setByte_dirty (s : State) (k : Nat) (b : Byte) : (s.setByte k b).dirty = s.dirty := rfl
@[simp] theorem setByte_slotCid (s : State) (k : Nat) (b : Byte) : (s.setByte k b).slotCid = s.slotCid := rfl
@[simp] theorem setByte_dOwner (s : State) (k : Nat) (b : Byte) : (s.setByte k b).dOwner = s.dOwner := rfl

/-! ## State.write -/

@[simp] theorem write_inputs (s : State) (k : Nat) (bs : List Byte) : (s.write k bs).inputs = s.inputs := rfl
@[simp] theorem write_cur (s : State) (k : Nat) (bs : List Byte) : (s.write k bs).cur = s.cur := rfl
@[simp] theorem write_cycle (s : State) (k : Nat) (bs : List Byte) : (s.write k bs).cycle = s.cycle := rfl
@[simp] theorem write_timebase (s : State) (k : Nat) (bs : List Byte) : (s.write k bs).timebase = s.timebase := rfl
@[simp] theorem write_free (s : State) (k : Nat) (bs : List Byte) : (s.write k bs).free = s.free := rfl
@[simp] theorem write_uid (s : State) (k : Nat) (bs : List Byte) : (s.write k bs).uid = s.uid := rfl
@[simp] theorem write_pkg (s : State) (k : Nat) (bs : List Byte) : (s.write k bs).pkg = s.pkg := rfl
@[simp] theorem write_links (s : State) (k : Nat) (bs : List Byte) : (s.write k bs).links = s.links := rfl
@[simp] theorem write_snap (s : State) (k : Nat) (bs : List Byte) : (s.write k bs).snap = s.snap := rfl
@[simp] theorem write_fns (s : State) (k : Nat) (bs : List Byte) : (s.write k bs).fns = s.fns := rfl
@[simp] theorem write_strmap (s : State) (k : Nat) (bs : List Byte) : (s.write k bs).strmap = s.strmap := rfl
@[simp] theorem write_peerwin (s : State) (k : Nat) (bs : List Byte) : (s.write k bs).peerwin = s.peerwin := rfl
@[simp] theorem write_peerErr (s : State) (k : Nat) (bs : List Byte) : (s.write k bs).peerErr = s.peerErr := rfl
@[simp] theorem write_strm (s : State) (k : Nat) (bs : List Byte) : (s.write k bs).strm = s.strm := rfl
@[simp] theorem write_decoded (s : State) (k : Nat) (bs : List Byte) : (s.write k bs).decoded = s.decoded := rfl
@[simp] theorem write_sch (s : State) (k : Nat) (bs : List Byte) : (s.write k bs).sch = s.sch := rfl
@[simp] theorem write_ctxtbl (s : State) (k : Nat) (bs : List Byte) : (s.write k bs).ctxtbl = s.ctxtbl := rfl
@[simp] theorem write_physwin (s : State) (k : Nat) (bs : List Byte) : (s.write k bs).physwin = s.physwin := rfl
@[simp] theorem write_fqbase (s : State) (k : Nat) (bs : List Byte) : (s.write k bs).fqbase = s.fqbase := rfl
@[simp] theorem write_fqsize (s : State) (k : Nat) (bs : List Byte) : (s.write k bs).fqsize = s.fqsize := rfl
@[simp] theorem write_fqhead (s : State) (k : Nat) (bs : List Byte) : (s.write k bs).fqhead = s.fqhead := rfl
@[simp] theorem write_fqtail (s : State) (k : Nat) (bs : List Byte) : (s.write k bs).fqtail = s.fqtail := rfl
@[simp] theorem write_fqwait (s : State) (k : Nat) (bs : List Byte) : (s.write k bs).fqwait = s.fqwait := rfl
@[simp] theorem write_ctxmap (s : State) (k : Nat) (bs : List Byte) : (s.write k bs).ctxmap = s.ctxmap := rfl
@[simp] theorem write_kcfg (s : State) (k : Nat) (bs : List Byte) : (s.write k bs).kcfg = s.kcfg := rfl
@[simp] theorem write_kcfgNew (s : State) (k : Nat) (bs : List Byte) : (s.write k bs).kcfgNew = s.kcfgNew := rfl
@[simp] theorem write_dsown (s : State) (k : Nat) (bs : List Byte) : (s.write k bs).dsown = s.dsown := rfl
@[simp] theorem write_xrtab (s : State) (k : Nat) (bs : List Byte) : (s.write k bs).xrtab = s.xrtab := rfl
@[simp] theorem write_svbase (s : State) (k : Nat) (bs : List Byte) : (s.write k bs).svbase = s.svbase := rfl
@[simp] theorem write_svcnt (s : State) (k : Nat) (bs : List Byte) : (s.write k bs).svcnt = s.svcnt := rfl
@[simp] theorem write_killDrop (s : State) (k : Nat) (bs : List Byte) : (s.write k bs).killDrop = s.killDrop := rfl
@[simp] theorem write_kills (s : State) (k : Nat) (bs : List Byte) : (s.write k bs).kills = s.kills := rfl
@[simp] theorem write_msix (s : State) (k : Nat) (bs : List Byte) : (s.write k bs).msix = s.msix := rfl
@[simp] theorem write_replies (s : State) (k : Nat) (bs : List Byte) : (s.write k bs).replies = s.replies := rfl
@[simp] theorem write_tasks (s : State) (k : Nat) (bs : List Byte) : (s.write k bs).tasks = s.tasks := rfl
@[simp] theorem write_jobs (s : State) (k : Nat) (bs : List Byte) : (s.write k bs).jobs = s.jobs := rfl
@[simp] theorem write_arms (s : State) (k : Nat) (bs : List Byte) : (s.write k bs).arms = s.arms := rfl
@[simp] theorem write_events (s : State) (k : Nat) (bs : List Byte) : (s.write k bs).events = s.events := rfl
@[simp] theorem write_replays (s : State) (k : Nat) (bs : List Byte) : (s.write k bs).replays = s.replays := rfl
@[simp] theorem write_parts (s : State) (k : Nat) (bs : List Byte) : (s.write k bs).parts = s.parts := rfl
@[simp] theorem write_stages (s : State) (k : Nat) (bs : List Byte) : (s.write k bs).stages = s.stages := rfl
@[simp] theorem write_aborts (s : State) (k : Nat) (bs : List Byte) : (s.write k bs).aborts = s.aborts := rfl
@[simp] theorem write_arrivals (s : State) (k : Nat) (bs : List Byte) : (s.write k bs).arrivals = s.arrivals := rfl
@[simp] theorem write_phases (s : State) (k : Nat) (bs : List Byte) : (s.write k bs).phases = s.phases := rfl
@[simp] theorem write_shells (s : State) (k : Nat) (bs : List Byte) : (s.write k bs).shells = s.shells := rfl
@[simp] theorem write_regions (s : State) (k : Nat) (bs : List Byte) : (s.write k bs).regions = s.regions := rfl
@[simp] theorem write_poison (s : State) (k : Nat) (bs : List Byte) : (s.write k bs).poison = s.poison := rfl
@[simp] theorem write_soft (s : State) (k : Nat) (bs : List Byte) : (s.write k bs).soft = s.soft := rfl
@[simp] theorem write_l2 (s : State) (k : Nat) (bs : List Byte) : (s.write k bs).l2 = s.l2 := rfl
@[simp] theorem write_hidden (s : State) (k : Nat) (bs : List Byte) : (s.write k bs).hidden = s.hidden := rfl
@[simp] theorem write_views (s : State) (k : Nat) (bs : List Byte) : (s.write k bs).views = s.views := rfl
@[simp] theorem write_paths (s : State) (k : Nat) (bs : List Byte) : (s.write k bs).paths = s.paths := rfl
@[simp] theorem write_tlb (s : State) (k : Nat) (bs : List Byte) : (s.write k bs).tlb = s.tlb := rfl
@[simp] theorem write_cmpState (s : State) (k : Nat) (bs : List Byte) : (s.write k bs).cmpState = s.cmpState := rfl
@[simp] theorem write_cmpDone (s : State) (k : Nat) (bs : List Byte) : (s.write k bs).cmpDone = s.cmpDone := rfl
@[simp] theorem write_blkMeta (s : State) (k : Nat) (bs : List Byte) : (s.write k bs).blkMeta = s.blkMeta := rfl
@[simp] theorem write_books (s : State) (k : Nat) (bs : List Byte) : (s.write k bs).books = s.books := rfl
@[simp] theorem write_bookSt (s : State) (k : Nat) (bs : List Byte) : (s.write k bs).bookSt = s.bookSt := rfl
@[simp] theorem write_faults (s : State) (k : Nat) (bs : List Byte) : (s.write k bs).faults = s.faults := rfl
@[simp] theorem write_logs (s : State) (k : Nat) (bs : List Byte) : (s.write k bs).logs = s.logs := rfl
@[simp] theorem write_invals (s : State) (k : Nat) (bs : List Byte) : (s.write k bs).invals = s.invals := rfl
@[simp] theorem write_te (s : State) (k : Nat) (bs : List Byte) : (s.write k bs).te = s.te := rfl
@[simp] theorem write_teLast (s : State) (k : Nat) (bs : List Byte) : (s.write k bs).teLast = s.teLast := rfl
@[simp] theorem write_tagLast (s : State) (k : Nat) (bs : List Byte) : (s.write k bs).tagLast = s.tagLast := rfl
@[simp] theorem write_wrote (s : State) (k : Nat) (bs : List Byte) : (s.write k bs).wrote = s.wrote := rfl
@[simp] theorem write_dirty (s : State) (k : Nat) (bs : List Byte) : (s.write k bs).dirty = s.dirty := rfl
@[simp] theorem write_slotCid (s : State) (k : Nat) (bs : List Byte) : (s.write k bs).slotCid = s.slotCid := rfl
@[simp] theorem write_dOwner (s : State) (k : Nat) (bs : List Byte) : (s.write k bs).dOwner = s.dOwner := rfl

/-! ## State.enter -/

@[simp] theorem enter_inputs (s : State) (e : Entry) (b : Bool) : (s.enter e b).inputs = s.inputs := rfl
@[simp] theorem enter_cur (s : State) (e : Entry) (b : Bool) : (s.enter e b).cur = s.cur := rfl
@[simp] theorem enter_cycle (s : State) (e : Entry) (b : Bool) : (s.enter e b).cycle = s.cycle := rfl
@[simp] theorem enter_timebase (s : State) (e : Entry) (b : Bool) : (s.enter e b).timebase = s.timebase := rfl
@[simp] theorem enter_free (s : State) (e : Entry) (b : Bool) : (s.enter e b).free = s.free := rfl
@[simp] theorem enter_pkg (s : State) (e : Entry) (b : Bool) : (s.enter e b).pkg = s.pkg := rfl
@[simp] theorem enter_links (s : State) (e : Entry) (b : Bool) : (s.enter e b).links = s.links := rfl
@[simp] theorem enter_snap (s : State) (e : Entry) (b : Bool) : (s.enter e b).snap = s.snap := rfl
@[simp] theorem enter_fns (s : State) (e : Entry) (b : Bool) : (s.enter e b).fns = s.fns := rfl
@[simp] theorem enter_strmap (s : State) (e : Entry) (b : Bool) : (s.enter e b).strmap = s.strmap := rfl
@[simp] theorem enter_peerwin (s : State) (e : Entry) (b : Bool) : (s.enter e b).peerwin = s.peerwin := rfl
@[simp] theorem enter_peerErr (s : State) (e : Entry) (b : Bool) : (s.enter e b).peerErr = s.peerErr := rfl
@[simp] theorem enter_strm (s : State) (e : Entry) (b : Bool) : (s.enter e b).strm = s.strm := rfl
@[simp] theorem enter_decoded (s : State) (e : Entry) (b : Bool) : (s.enter e b).decoded = s.decoded := rfl
@[simp] theorem enter_sch (s : State) (e : Entry) (b : Bool) : (s.enter e b).sch = s.sch := rfl
@[simp] theorem enter_ctxtbl (s : State) (e : Entry) (b : Bool) : (s.enter e b).ctxtbl = s.ctxtbl := rfl
@[simp] theorem enter_physwin (s : State) (e : Entry) (b : Bool) : (s.enter e b).physwin = s.physwin := rfl
@[simp] theorem enter_fqbase (s : State) (e : Entry) (b : Bool) : (s.enter e b).fqbase = s.fqbase := rfl
@[simp] theorem enter_fqsize (s : State) (e : Entry) (b : Bool) : (s.enter e b).fqsize = s.fqsize := rfl
@[simp] theorem enter_fqhead (s : State) (e : Entry) (b : Bool) : (s.enter e b).fqhead = s.fqhead := rfl
@[simp] theorem enter_fqtail (s : State) (e : Entry) (b : Bool) : (s.enter e b).fqtail = s.fqtail := rfl
@[simp] theorem enter_fqwait (s : State) (e : Entry) (b : Bool) : (s.enter e b).fqwait = s.fqwait := rfl
@[simp] theorem enter_ctxmap (s : State) (e : Entry) (b : Bool) : (s.enter e b).ctxmap = s.ctxmap := rfl
@[simp] theorem enter_kcfg (s : State) (e : Entry) (b : Bool) : (s.enter e b).kcfg = s.kcfg := rfl
@[simp] theorem enter_kcfgNew (s : State) (e : Entry) (b : Bool) : (s.enter e b).kcfgNew = s.kcfgNew := rfl
@[simp] theorem enter_dsown (s : State) (e : Entry) (b : Bool) : (s.enter e b).dsown = s.dsown := rfl
@[simp] theorem enter_xrtab (s : State) (e : Entry) (b : Bool) : (s.enter e b).xrtab = s.xrtab := rfl
@[simp] theorem enter_svbase (s : State) (e : Entry) (b : Bool) : (s.enter e b).svbase = s.svbase := rfl
@[simp] theorem enter_svcnt (s : State) (e : Entry) (b : Bool) : (s.enter e b).svcnt = s.svcnt := rfl
@[simp] theorem enter_killDrop (s : State) (e : Entry) (b : Bool) : (s.enter e b).killDrop = s.killDrop := rfl
@[simp] theorem enter_kills (s : State) (e : Entry) (b : Bool) : (s.enter e b).kills = s.kills := rfl
@[simp] theorem enter_msix (s : State) (e : Entry) (b : Bool) : (s.enter e b).msix = s.msix := rfl
@[simp] theorem enter_replies (s : State) (e : Entry) (b : Bool) : (s.enter e b).replies = s.replies := rfl
@[simp] theorem enter_tasks (s : State) (e : Entry) (b : Bool) : (s.enter e b).tasks = s.tasks := rfl
@[simp] theorem enter_jobs (s : State) (e : Entry) (b : Bool) : (s.enter e b).jobs = s.jobs := rfl
@[simp] theorem enter_arms (s : State) (e : Entry) (b : Bool) : (s.enter e b).arms = s.arms := rfl
@[simp] theorem enter_events (s : State) (e : Entry) (b : Bool) : (s.enter e b).events = s.events := rfl
@[simp] theorem enter_replays (s : State) (e : Entry) (b : Bool) : (s.enter e b).replays = s.replays := rfl
@[simp] theorem enter_parts (s : State) (e : Entry) (b : Bool) : (s.enter e b).parts = s.parts := rfl
@[simp] theorem enter_stages (s : State) (e : Entry) (b : Bool) : (s.enter e b).stages = s.stages := rfl
@[simp] theorem enter_aborts (s : State) (e : Entry) (b : Bool) : (s.enter e b).aborts = s.aborts := rfl
@[simp] theorem enter_arrivals (s : State) (e : Entry) (b : Bool) : (s.enter e b).arrivals = s.arrivals := rfl
@[simp] theorem enter_phases (s : State) (e : Entry) (b : Bool) : (s.enter e b).phases = s.phases := rfl
@[simp] theorem enter_shells (s : State) (e : Entry) (b : Bool) : (s.enter e b).shells = s.shells := rfl
@[simp] theorem enter_regions (s : State) (e : Entry) (b : Bool) : (s.enter e b).regions = s.regions := rfl
@[simp] theorem enter_mem (s : State) (e : Entry) (b : Bool) : (s.enter e b).mem = s.mem := rfl
@[simp] theorem enter_poison (s : State) (e : Entry) (b : Bool) : (s.enter e b).poison = s.poison := rfl
@[simp] theorem enter_soft (s : State) (e : Entry) (b : Bool) : (s.enter e b).soft = s.soft := rfl
@[simp] theorem enter_l2 (s : State) (e : Entry) (b : Bool) : (s.enter e b).l2 = s.l2 := rfl
@[simp] theorem enter_hidden (s : State) (e : Entry) (b : Bool) : (s.enter e b).hidden = s.hidden := rfl
@[simp] theorem enter_views (s : State) (e : Entry) (b : Bool) : (s.enter e b).views = s.views := rfl
@[simp] theorem enter_tlb (s : State) (e : Entry) (b : Bool) : (s.enter e b).tlb = s.tlb := rfl
@[simp] theorem enter_cmpState (s : State) (e : Entry) (b : Bool) : (s.enter e b).cmpState = s.cmpState := rfl
@[simp] theorem enter_cmpDone (s : State) (e : Entry) (b : Bool) : (s.enter e b).cmpDone = s.cmpDone := rfl
@[simp] theorem enter_blkMeta (s : State) (e : Entry) (b : Bool) : (s.enter e b).blkMeta = s.blkMeta := rfl
@[simp] theorem enter_books (s : State) (e : Entry) (b : Bool) : (s.enter e b).books = s.books := rfl
@[simp] theorem enter_bookSt (s : State) (e : Entry) (b : Bool) : (s.enter e b).bookSt = s.bookSt := rfl
@[simp] theorem enter_faults (s : State) (e : Entry) (b : Bool) : (s.enter e b).faults = s.faults := rfl
@[simp] theorem enter_logs (s : State) (e : Entry) (b : Bool) : (s.enter e b).logs = s.logs := rfl
@[simp] theorem enter_invals (s : State) (e : Entry) (b : Bool) : (s.enter e b).invals = s.invals := rfl
@[simp] theorem enter_te (s : State) (e : Entry) (b : Bool) : (s.enter e b).te = s.te := rfl
@[simp] theorem enter_teLast (s : State) (e : Entry) (b : Bool) : (s.enter e b).teLast = s.teLast := rfl
@[simp] theorem enter_tagLast (s : State) (e : Entry) (b : Bool) : (s.enter e b).tagLast = s.tagLast := rfl
@[simp] theorem enter_wrote (s : State) (e : Entry) (b : Bool) : (s.enter e b).wrote = s.wrote := rfl
@[simp] theorem enter_dirty (s : State) (e : Entry) (b : Bool) : (s.enter e b).dirty = s.dirty := rfl
@[simp] theorem enter_slotCid (s : State) (e : Entry) (b : Bool) : (s.enter e b).slotCid = s.slotCid := rfl
@[simp] theorem enter_dOwner (s : State) (e : Entry) (b : Bool) : (s.enter e b).dOwner = s.dOwner := rfl

/-! ## State.signalVec -/

@[simp] theorem signalVec_inputs (s : State) (f v : Nat) : (s.signalVec f v).inputs = s.inputs := rfl
@[simp] theorem signalVec_cur (s : State) (f v : Nat) : (s.signalVec f v).cur = s.cur := rfl
@[simp] theorem signalVec_cycle (s : State) (f v : Nat) : (s.signalVec f v).cycle = s.cycle := rfl
@[simp] theorem signalVec_timebase (s : State) (f v : Nat) : (s.signalVec f v).timebase = s.timebase := rfl
@[simp] theorem signalVec_free (s : State) (f v : Nat) : (s.signalVec f v).free = s.free := rfl
@[simp] theorem signalVec_uid (s : State) (f v : Nat) : (s.signalVec f v).uid = s.uid := rfl
@[simp] theorem signalVec_pkg (s : State) (f v : Nat) : (s.signalVec f v).pkg = s.pkg := rfl
@[simp] theorem signalVec_links (s : State) (f v : Nat) : (s.signalVec f v).links = s.links := rfl
@[simp] theorem signalVec_snap (s : State) (f v : Nat) : (s.signalVec f v).snap = s.snap := rfl
@[simp] theorem signalVec_fns (s : State) (f v : Nat) : (s.signalVec f v).fns = s.fns := rfl
@[simp] theorem signalVec_strmap (s : State) (f v : Nat) : (s.signalVec f v).strmap = s.strmap := rfl
@[simp] theorem signalVec_peerwin (s : State) (f v : Nat) : (s.signalVec f v).peerwin = s.peerwin := rfl
@[simp] theorem signalVec_peerErr (s : State) (f v : Nat) : (s.signalVec f v).peerErr = s.peerErr := rfl
@[simp] theorem signalVec_strm (s : State) (f v : Nat) : (s.signalVec f v).strm = s.strm := rfl
@[simp] theorem signalVec_decoded (s : State) (f v : Nat) : (s.signalVec f v).decoded = s.decoded := rfl
@[simp] theorem signalVec_sch (s : State) (f v : Nat) : (s.signalVec f v).sch = s.sch := rfl
@[simp] theorem signalVec_ctxtbl (s : State) (f v : Nat) : (s.signalVec f v).ctxtbl = s.ctxtbl := rfl
@[simp] theorem signalVec_physwin (s : State) (f v : Nat) : (s.signalVec f v).physwin = s.physwin := rfl
@[simp] theorem signalVec_fqbase (s : State) (f v : Nat) : (s.signalVec f v).fqbase = s.fqbase := rfl
@[simp] theorem signalVec_fqsize (s : State) (f v : Nat) : (s.signalVec f v).fqsize = s.fqsize := rfl
@[simp] theorem signalVec_fqhead (s : State) (f v : Nat) : (s.signalVec f v).fqhead = s.fqhead := rfl
@[simp] theorem signalVec_fqtail (s : State) (f v : Nat) : (s.signalVec f v).fqtail = s.fqtail := rfl
@[simp] theorem signalVec_fqwait (s : State) (f v : Nat) : (s.signalVec f v).fqwait = s.fqwait := rfl
@[simp] theorem signalVec_ctxmap (s : State) (f v : Nat) : (s.signalVec f v).ctxmap = s.ctxmap := rfl
@[simp] theorem signalVec_kcfg (s : State) (f v : Nat) : (s.signalVec f v).kcfg = s.kcfg := rfl
@[simp] theorem signalVec_kcfgNew (s : State) (f v : Nat) : (s.signalVec f v).kcfgNew = s.kcfgNew := rfl
@[simp] theorem signalVec_dsown (s : State) (f v : Nat) : (s.signalVec f v).dsown = s.dsown := rfl
@[simp] theorem signalVec_xrtab (s : State) (f v : Nat) : (s.signalVec f v).xrtab = s.xrtab := rfl
@[simp] theorem signalVec_svbase (s : State) (f v : Nat) : (s.signalVec f v).svbase = s.svbase := rfl
@[simp] theorem signalVec_svcnt (s : State) (f v : Nat) : (s.signalVec f v).svcnt = s.svcnt := rfl
@[simp] theorem signalVec_killDrop (s : State) (f v : Nat) : (s.signalVec f v).killDrop = s.killDrop := rfl
@[simp] theorem signalVec_kills (s : State) (f v : Nat) : (s.signalVec f v).kills = s.kills := rfl
@[simp] theorem signalVec_replies (s : State) (f v : Nat) : (s.signalVec f v).replies = s.replies := rfl
@[simp] theorem signalVec_tasks (s : State) (f v : Nat) : (s.signalVec f v).tasks = s.tasks := rfl
@[simp] theorem signalVec_jobs (s : State) (f v : Nat) : (s.signalVec f v).jobs = s.jobs := rfl
@[simp] theorem signalVec_arms (s : State) (f v : Nat) : (s.signalVec f v).arms = s.arms := rfl
@[simp] theorem signalVec_events (s : State) (f v : Nat) : (s.signalVec f v).events = s.events := rfl
@[simp] theorem signalVec_replays (s : State) (f v : Nat) : (s.signalVec f v).replays = s.replays := rfl
@[simp] theorem signalVec_parts (s : State) (f v : Nat) : (s.signalVec f v).parts = s.parts := rfl
@[simp] theorem signalVec_stages (s : State) (f v : Nat) : (s.signalVec f v).stages = s.stages := rfl
@[simp] theorem signalVec_aborts (s : State) (f v : Nat) : (s.signalVec f v).aborts = s.aborts := rfl
@[simp] theorem signalVec_arrivals (s : State) (f v : Nat) : (s.signalVec f v).arrivals = s.arrivals := rfl
@[simp] theorem signalVec_phases (s : State) (f v : Nat) : (s.signalVec f v).phases = s.phases := rfl
@[simp] theorem signalVec_shells (s : State) (f v : Nat) : (s.signalVec f v).shells = s.shells := rfl
@[simp] theorem signalVec_regions (s : State) (f v : Nat) : (s.signalVec f v).regions = s.regions := rfl
@[simp] theorem signalVec_mem (s : State) (f v : Nat) : (s.signalVec f v).mem = s.mem := rfl
@[simp] theorem signalVec_poison (s : State) (f v : Nat) : (s.signalVec f v).poison = s.poison := rfl
@[simp] theorem signalVec_soft (s : State) (f v : Nat) : (s.signalVec f v).soft = s.soft := rfl
@[simp] theorem signalVec_l2 (s : State) (f v : Nat) : (s.signalVec f v).l2 = s.l2 := rfl
@[simp] theorem signalVec_hidden (s : State) (f v : Nat) : (s.signalVec f v).hidden = s.hidden := rfl
@[simp] theorem signalVec_views (s : State) (f v : Nat) : (s.signalVec f v).views = s.views := rfl
@[simp] theorem signalVec_paths (s : State) (f v : Nat) : (s.signalVec f v).paths = s.paths := rfl
@[simp] theorem signalVec_tlb (s : State) (f v : Nat) : (s.signalVec f v).tlb = s.tlb := rfl
@[simp] theorem signalVec_cmpState (s : State) (f v : Nat) : (s.signalVec f v).cmpState = s.cmpState := rfl
@[simp] theorem signalVec_cmpDone (s : State) (f v : Nat) : (s.signalVec f v).cmpDone = s.cmpDone := rfl
@[simp] theorem signalVec_blkMeta (s : State) (f v : Nat) : (s.signalVec f v).blkMeta = s.blkMeta := rfl
@[simp] theorem signalVec_books (s : State) (f v : Nat) : (s.signalVec f v).books = s.books := rfl
@[simp] theorem signalVec_bookSt (s : State) (f v : Nat) : (s.signalVec f v).bookSt = s.bookSt := rfl
@[simp] theorem signalVec_faults (s : State) (f v : Nat) : (s.signalVec f v).faults = s.faults := rfl
@[simp] theorem signalVec_logs (s : State) (f v : Nat) : (s.signalVec f v).logs = s.logs := rfl
@[simp] theorem signalVec_invals (s : State) (f v : Nat) : (s.signalVec f v).invals = s.invals := rfl
@[simp] theorem signalVec_te (s : State) (f v : Nat) : (s.signalVec f v).te = s.te := rfl
@[simp] theorem signalVec_teLast (s : State) (f v : Nat) : (s.signalVec f v).teLast = s.teLast := rfl
@[simp] theorem signalVec_tagLast (s : State) (f v : Nat) : (s.signalVec f v).tagLast = s.tagLast := rfl
@[simp] theorem signalVec_wrote (s : State) (f v : Nat) : (s.signalVec f v).wrote = s.wrote := rfl
@[simp] theorem signalVec_dirty (s : State) (f v : Nat) : (s.signalVec f v).dirty = s.dirty := rfl
@[simp] theorem signalVec_slotCid (s : State) (f v : Nat) : (s.signalVec f v).slotCid = s.slotCid := rfl
@[simp] theorem signalVec_dOwner (s : State) (f v : Nat) : (s.signalVec f v).dOwner = s.dOwner := rfl

/-! ## State.modStrm -/

@[simp] theorem modStrm_inputs (s : State) (i : Nat) (g : HStream → HStream) : (s.modStrm i g).inputs = s.inputs := rfl
@[simp] theorem modStrm_cur (s : State) (i : Nat) (g : HStream → HStream) : (s.modStrm i g).cur = s.cur := rfl
@[simp] theorem modStrm_cycle (s : State) (i : Nat) (g : HStream → HStream) : (s.modStrm i g).cycle = s.cycle := rfl
@[simp] theorem modStrm_timebase (s : State) (i : Nat) (g : HStream → HStream) : (s.modStrm i g).timebase = s.timebase := rfl
@[simp] theorem modStrm_free (s : State) (i : Nat) (g : HStream → HStream) : (s.modStrm i g).free = s.free := rfl
@[simp] theorem modStrm_uid (s : State) (i : Nat) (g : HStream → HStream) : (s.modStrm i g).uid = s.uid := rfl
@[simp] theorem modStrm_pkg (s : State) (i : Nat) (g : HStream → HStream) : (s.modStrm i g).pkg = s.pkg := rfl
@[simp] theorem modStrm_links (s : State) (i : Nat) (g : HStream → HStream) : (s.modStrm i g).links = s.links := rfl
@[simp] theorem modStrm_snap (s : State) (i : Nat) (g : HStream → HStream) : (s.modStrm i g).snap = s.snap := rfl
@[simp] theorem modStrm_fns (s : State) (i : Nat) (g : HStream → HStream) : (s.modStrm i g).fns = s.fns := rfl
@[simp] theorem modStrm_strmap (s : State) (i : Nat) (g : HStream → HStream) : (s.modStrm i g).strmap = s.strmap := rfl
@[simp] theorem modStrm_peerwin (s : State) (i : Nat) (g : HStream → HStream) : (s.modStrm i g).peerwin = s.peerwin := rfl
@[simp] theorem modStrm_peerErr (s : State) (i : Nat) (g : HStream → HStream) : (s.modStrm i g).peerErr = s.peerErr := rfl
@[simp] theorem modStrm_decoded (s : State) (i : Nat) (g : HStream → HStream) : (s.modStrm i g).decoded = s.decoded := rfl
@[simp] theorem modStrm_sch (s : State) (i : Nat) (g : HStream → HStream) : (s.modStrm i g).sch = s.sch := rfl
@[simp] theorem modStrm_ctxtbl (s : State) (i : Nat) (g : HStream → HStream) : (s.modStrm i g).ctxtbl = s.ctxtbl := rfl
@[simp] theorem modStrm_physwin (s : State) (i : Nat) (g : HStream → HStream) : (s.modStrm i g).physwin = s.physwin := rfl
@[simp] theorem modStrm_fqbase (s : State) (i : Nat) (g : HStream → HStream) : (s.modStrm i g).fqbase = s.fqbase := rfl
@[simp] theorem modStrm_fqsize (s : State) (i : Nat) (g : HStream → HStream) : (s.modStrm i g).fqsize = s.fqsize := rfl
@[simp] theorem modStrm_fqhead (s : State) (i : Nat) (g : HStream → HStream) : (s.modStrm i g).fqhead = s.fqhead := rfl
@[simp] theorem modStrm_fqtail (s : State) (i : Nat) (g : HStream → HStream) : (s.modStrm i g).fqtail = s.fqtail := rfl
@[simp] theorem modStrm_fqwait (s : State) (i : Nat) (g : HStream → HStream) : (s.modStrm i g).fqwait = s.fqwait := rfl
@[simp] theorem modStrm_ctxmap (s : State) (i : Nat) (g : HStream → HStream) : (s.modStrm i g).ctxmap = s.ctxmap := rfl
@[simp] theorem modStrm_kcfg (s : State) (i : Nat) (g : HStream → HStream) : (s.modStrm i g).kcfg = s.kcfg := rfl
@[simp] theorem modStrm_kcfgNew (s : State) (i : Nat) (g : HStream → HStream) : (s.modStrm i g).kcfgNew = s.kcfgNew := rfl
@[simp] theorem modStrm_dsown (s : State) (i : Nat) (g : HStream → HStream) : (s.modStrm i g).dsown = s.dsown := rfl
@[simp] theorem modStrm_xrtab (s : State) (i : Nat) (g : HStream → HStream) : (s.modStrm i g).xrtab = s.xrtab := rfl
@[simp] theorem modStrm_svbase (s : State) (i : Nat) (g : HStream → HStream) : (s.modStrm i g).svbase = s.svbase := rfl
@[simp] theorem modStrm_svcnt (s : State) (i : Nat) (g : HStream → HStream) : (s.modStrm i g).svcnt = s.svcnt := rfl
@[simp] theorem modStrm_killDrop (s : State) (i : Nat) (g : HStream → HStream) : (s.modStrm i g).killDrop = s.killDrop := rfl
@[simp] theorem modStrm_kills (s : State) (i : Nat) (g : HStream → HStream) : (s.modStrm i g).kills = s.kills := rfl
@[simp] theorem modStrm_msix (s : State) (i : Nat) (g : HStream → HStream) : (s.modStrm i g).msix = s.msix := rfl
@[simp] theorem modStrm_replies (s : State) (i : Nat) (g : HStream → HStream) : (s.modStrm i g).replies = s.replies := rfl
@[simp] theorem modStrm_tasks (s : State) (i : Nat) (g : HStream → HStream) : (s.modStrm i g).tasks = s.tasks := rfl
@[simp] theorem modStrm_jobs (s : State) (i : Nat) (g : HStream → HStream) : (s.modStrm i g).jobs = s.jobs := rfl
@[simp] theorem modStrm_arms (s : State) (i : Nat) (g : HStream → HStream) : (s.modStrm i g).arms = s.arms := rfl
@[simp] theorem modStrm_events (s : State) (i : Nat) (g : HStream → HStream) : (s.modStrm i g).events = s.events := rfl
@[simp] theorem modStrm_replays (s : State) (i : Nat) (g : HStream → HStream) : (s.modStrm i g).replays = s.replays := rfl
@[simp] theorem modStrm_parts (s : State) (i : Nat) (g : HStream → HStream) : (s.modStrm i g).parts = s.parts := rfl
@[simp] theorem modStrm_stages (s : State) (i : Nat) (g : HStream → HStream) : (s.modStrm i g).stages = s.stages := rfl
@[simp] theorem modStrm_aborts (s : State) (i : Nat) (g : HStream → HStream) : (s.modStrm i g).aborts = s.aborts := rfl
@[simp] theorem modStrm_arrivals (s : State) (i : Nat) (g : HStream → HStream) : (s.modStrm i g).arrivals = s.arrivals := rfl
@[simp] theorem modStrm_phases (s : State) (i : Nat) (g : HStream → HStream) : (s.modStrm i g).phases = s.phases := rfl
@[simp] theorem modStrm_shells (s : State) (i : Nat) (g : HStream → HStream) : (s.modStrm i g).shells = s.shells := rfl
@[simp] theorem modStrm_regions (s : State) (i : Nat) (g : HStream → HStream) : (s.modStrm i g).regions = s.regions := rfl
@[simp] theorem modStrm_mem (s : State) (i : Nat) (g : HStream → HStream) : (s.modStrm i g).mem = s.mem := rfl
@[simp] theorem modStrm_poison (s : State) (i : Nat) (g : HStream → HStream) : (s.modStrm i g).poison = s.poison := rfl
@[simp] theorem modStrm_soft (s : State) (i : Nat) (g : HStream → HStream) : (s.modStrm i g).soft = s.soft := rfl
@[simp] theorem modStrm_l2 (s : State) (i : Nat) (g : HStream → HStream) : (s.modStrm i g).l2 = s.l2 := rfl
@[simp] theorem modStrm_hidden (s : State) (i : Nat) (g : HStream → HStream) : (s.modStrm i g).hidden = s.hidden := rfl
@[simp] theorem modStrm_views (s : State) (i : Nat) (g : HStream → HStream) : (s.modStrm i g).views = s.views := rfl
@[simp] theorem modStrm_paths (s : State) (i : Nat) (g : HStream → HStream) : (s.modStrm i g).paths = s.paths := rfl
@[simp] theorem modStrm_tlb (s : State) (i : Nat) (g : HStream → HStream) : (s.modStrm i g).tlb = s.tlb := rfl
@[simp] theorem modStrm_cmpState (s : State) (i : Nat) (g : HStream → HStream) : (s.modStrm i g).cmpState = s.cmpState := rfl
@[simp] theorem modStrm_cmpDone (s : State) (i : Nat) (g : HStream → HStream) : (s.modStrm i g).cmpDone = s.cmpDone := rfl
@[simp] theorem modStrm_blkMeta (s : State) (i : Nat) (g : HStream → HStream) : (s.modStrm i g).blkMeta = s.blkMeta := rfl
@[simp] theorem modStrm_books (s : State) (i : Nat) (g : HStream → HStream) : (s.modStrm i g).books = s.books := rfl
@[simp] theorem modStrm_bookSt (s : State) (i : Nat) (g : HStream → HStream) : (s.modStrm i g).bookSt = s.bookSt := rfl
@[simp] theorem modStrm_faults (s : State) (i : Nat) (g : HStream → HStream) : (s.modStrm i g).faults = s.faults := rfl
@[simp] theorem modStrm_logs (s : State) (i : Nat) (g : HStream → HStream) : (s.modStrm i g).logs = s.logs := rfl
@[simp] theorem modStrm_invals (s : State) (i : Nat) (g : HStream → HStream) : (s.modStrm i g).invals = s.invals := rfl
@[simp] theorem modStrm_te (s : State) (i : Nat) (g : HStream → HStream) : (s.modStrm i g).te = s.te := rfl
@[simp] theorem modStrm_teLast (s : State) (i : Nat) (g : HStream → HStream) : (s.modStrm i g).teLast = s.teLast := rfl
@[simp] theorem modStrm_tagLast (s : State) (i : Nat) (g : HStream → HStream) : (s.modStrm i g).tagLast = s.tagLast := rfl
@[simp] theorem modStrm_wrote (s : State) (i : Nat) (g : HStream → HStream) : (s.modStrm i g).wrote = s.wrote := rfl
@[simp] theorem modStrm_dirty (s : State) (i : Nat) (g : HStream → HStream) : (s.modStrm i g).dirty = s.dirty := rfl
@[simp] theorem modStrm_slotCid (s : State) (i : Nat) (g : HStream → HStream) : (s.modStrm i g).slotCid = s.slotCid := rfl
@[simp] theorem modStrm_dOwner (s : State) (i : Nat) (g : HStream → HStream) : (s.modStrm i g).dOwner = s.dOwner := rfl

/-! ## State.modFn -/

@[simp] theorem modFn_inputs (s : State) (i : Nat) (g : Fn → Fn) : (s.modFn i g).inputs = s.inputs := by unfold State.modFn; split <;> rfl
@[simp] theorem modFn_cur (s : State) (i : Nat) (g : Fn → Fn) : (s.modFn i g).cur = s.cur := by unfold State.modFn; split <;> rfl
@[simp] theorem modFn_cycle (s : State) (i : Nat) (g : Fn → Fn) : (s.modFn i g).cycle = s.cycle := by unfold State.modFn; split <;> rfl
@[simp] theorem modFn_timebase (s : State) (i : Nat) (g : Fn → Fn) : (s.modFn i g).timebase = s.timebase := by unfold State.modFn; split <;> rfl
@[simp] theorem modFn_free (s : State) (i : Nat) (g : Fn → Fn) : (s.modFn i g).free = s.free := by unfold State.modFn; split <;> rfl
@[simp] theorem modFn_uid (s : State) (i : Nat) (g : Fn → Fn) : (s.modFn i g).uid = s.uid := by unfold State.modFn; split <;> rfl
@[simp] theorem modFn_pkg (s : State) (i : Nat) (g : Fn → Fn) : (s.modFn i g).pkg = s.pkg := by unfold State.modFn; split <;> rfl
@[simp] theorem modFn_links (s : State) (i : Nat) (g : Fn → Fn) : (s.modFn i g).links = s.links := by unfold State.modFn; split <;> rfl
@[simp] theorem modFn_snap (s : State) (i : Nat) (g : Fn → Fn) : (s.modFn i g).snap = s.snap := by unfold State.modFn; split <;> rfl
@[simp] theorem modFn_strmap (s : State) (i : Nat) (g : Fn → Fn) : (s.modFn i g).strmap = s.strmap := by unfold State.modFn; split <;> rfl
@[simp] theorem modFn_peerwin (s : State) (i : Nat) (g : Fn → Fn) : (s.modFn i g).peerwin = s.peerwin := by unfold State.modFn; split <;> rfl
@[simp] theorem modFn_peerErr (s : State) (i : Nat) (g : Fn → Fn) : (s.modFn i g).peerErr = s.peerErr := by unfold State.modFn; split <;> rfl
@[simp] theorem modFn_strm (s : State) (i : Nat) (g : Fn → Fn) : (s.modFn i g).strm = s.strm := by unfold State.modFn; split <;> rfl
@[simp] theorem modFn_decoded (s : State) (i : Nat) (g : Fn → Fn) : (s.modFn i g).decoded = s.decoded := by unfold State.modFn; split <;> rfl
@[simp] theorem modFn_sch (s : State) (i : Nat) (g : Fn → Fn) : (s.modFn i g).sch = s.sch := by unfold State.modFn; split <;> rfl
@[simp] theorem modFn_ctxtbl (s : State) (i : Nat) (g : Fn → Fn) : (s.modFn i g).ctxtbl = s.ctxtbl := by unfold State.modFn; split <;> rfl
@[simp] theorem modFn_physwin (s : State) (i : Nat) (g : Fn → Fn) : (s.modFn i g).physwin = s.physwin := by unfold State.modFn; split <;> rfl
@[simp] theorem modFn_fqbase (s : State) (i : Nat) (g : Fn → Fn) : (s.modFn i g).fqbase = s.fqbase := by unfold State.modFn; split <;> rfl
@[simp] theorem modFn_fqsize (s : State) (i : Nat) (g : Fn → Fn) : (s.modFn i g).fqsize = s.fqsize := by unfold State.modFn; split <;> rfl
@[simp] theorem modFn_fqhead (s : State) (i : Nat) (g : Fn → Fn) : (s.modFn i g).fqhead = s.fqhead := by unfold State.modFn; split <;> rfl
@[simp] theorem modFn_fqtail (s : State) (i : Nat) (g : Fn → Fn) : (s.modFn i g).fqtail = s.fqtail := by unfold State.modFn; split <;> rfl
@[simp] theorem modFn_fqwait (s : State) (i : Nat) (g : Fn → Fn) : (s.modFn i g).fqwait = s.fqwait := by unfold State.modFn; split <;> rfl
@[simp] theorem modFn_ctxmap (s : State) (i : Nat) (g : Fn → Fn) : (s.modFn i g).ctxmap = s.ctxmap := by unfold State.modFn; split <;> rfl
@[simp] theorem modFn_kcfg (s : State) (i : Nat) (g : Fn → Fn) : (s.modFn i g).kcfg = s.kcfg := by unfold State.modFn; split <;> rfl
@[simp] theorem modFn_kcfgNew (s : State) (i : Nat) (g : Fn → Fn) : (s.modFn i g).kcfgNew = s.kcfgNew := by unfold State.modFn; split <;> rfl
@[simp] theorem modFn_dsown (s : State) (i : Nat) (g : Fn → Fn) : (s.modFn i g).dsown = s.dsown := by unfold State.modFn; split <;> rfl
@[simp] theorem modFn_xrtab (s : State) (i : Nat) (g : Fn → Fn) : (s.modFn i g).xrtab = s.xrtab := by unfold State.modFn; split <;> rfl
@[simp] theorem modFn_svbase (s : State) (i : Nat) (g : Fn → Fn) : (s.modFn i g).svbase = s.svbase := by unfold State.modFn; split <;> rfl
@[simp] theorem modFn_svcnt (s : State) (i : Nat) (g : Fn → Fn) : (s.modFn i g).svcnt = s.svcnt := by unfold State.modFn; split <;> rfl
@[simp] theorem modFn_killDrop (s : State) (i : Nat) (g : Fn → Fn) : (s.modFn i g).killDrop = s.killDrop := by unfold State.modFn; split <;> rfl
@[simp] theorem modFn_kills (s : State) (i : Nat) (g : Fn → Fn) : (s.modFn i g).kills = s.kills := by unfold State.modFn; split <;> rfl
@[simp] theorem modFn_msix (s : State) (i : Nat) (g : Fn → Fn) : (s.modFn i g).msix = s.msix := by unfold State.modFn; split <;> rfl
@[simp] theorem modFn_replies (s : State) (i : Nat) (g : Fn → Fn) : (s.modFn i g).replies = s.replies := by unfold State.modFn; split <;> rfl
@[simp] theorem modFn_tasks (s : State) (i : Nat) (g : Fn → Fn) : (s.modFn i g).tasks = s.tasks := by unfold State.modFn; split <;> rfl
@[simp] theorem modFn_jobs (s : State) (i : Nat) (g : Fn → Fn) : (s.modFn i g).jobs = s.jobs := by unfold State.modFn; split <;> rfl
@[simp] theorem modFn_arms (s : State) (i : Nat) (g : Fn → Fn) : (s.modFn i g).arms = s.arms := by unfold State.modFn; split <;> rfl
@[simp] theorem modFn_events (s : State) (i : Nat) (g : Fn → Fn) : (s.modFn i g).events = s.events := by unfold State.modFn; split <;> rfl
@[simp] theorem modFn_replays (s : State) (i : Nat) (g : Fn → Fn) : (s.modFn i g).replays = s.replays := by unfold State.modFn; split <;> rfl
@[simp] theorem modFn_parts (s : State) (i : Nat) (g : Fn → Fn) : (s.modFn i g).parts = s.parts := by unfold State.modFn; split <;> rfl
@[simp] theorem modFn_stages (s : State) (i : Nat) (g : Fn → Fn) : (s.modFn i g).stages = s.stages := by unfold State.modFn; split <;> rfl
@[simp] theorem modFn_aborts (s : State) (i : Nat) (g : Fn → Fn) : (s.modFn i g).aborts = s.aborts := by unfold State.modFn; split <;> rfl
@[simp] theorem modFn_arrivals (s : State) (i : Nat) (g : Fn → Fn) : (s.modFn i g).arrivals = s.arrivals := by unfold State.modFn; split <;> rfl
@[simp] theorem modFn_phases (s : State) (i : Nat) (g : Fn → Fn) : (s.modFn i g).phases = s.phases := by unfold State.modFn; split <;> rfl
@[simp] theorem modFn_shells (s : State) (i : Nat) (g : Fn → Fn) : (s.modFn i g).shells = s.shells := by unfold State.modFn; split <;> rfl
@[simp] theorem modFn_regions (s : State) (i : Nat) (g : Fn → Fn) : (s.modFn i g).regions = s.regions := by unfold State.modFn; split <;> rfl
@[simp] theorem modFn_mem (s : State) (i : Nat) (g : Fn → Fn) : (s.modFn i g).mem = s.mem := by unfold State.modFn; split <;> rfl
@[simp] theorem modFn_poison (s : State) (i : Nat) (g : Fn → Fn) : (s.modFn i g).poison = s.poison := by unfold State.modFn; split <;> rfl
@[simp] theorem modFn_soft (s : State) (i : Nat) (g : Fn → Fn) : (s.modFn i g).soft = s.soft := by unfold State.modFn; split <;> rfl
@[simp] theorem modFn_l2 (s : State) (i : Nat) (g : Fn → Fn) : (s.modFn i g).l2 = s.l2 := by unfold State.modFn; split <;> rfl
@[simp] theorem modFn_hidden (s : State) (i : Nat) (g : Fn → Fn) : (s.modFn i g).hidden = s.hidden := by unfold State.modFn; split <;> rfl
@[simp] theorem modFn_views (s : State) (i : Nat) (g : Fn → Fn) : (s.modFn i g).views = s.views := by unfold State.modFn; split <;> rfl
@[simp] theorem modFn_paths (s : State) (i : Nat) (g : Fn → Fn) : (s.modFn i g).paths = s.paths := by unfold State.modFn; split <;> rfl
@[simp] theorem modFn_tlb (s : State) (i : Nat) (g : Fn → Fn) : (s.modFn i g).tlb = s.tlb := by unfold State.modFn; split <;> rfl
@[simp] theorem modFn_cmpState (s : State) (i : Nat) (g : Fn → Fn) : (s.modFn i g).cmpState = s.cmpState := by unfold State.modFn; split <;> rfl
@[simp] theorem modFn_cmpDone (s : State) (i : Nat) (g : Fn → Fn) : (s.modFn i g).cmpDone = s.cmpDone := by unfold State.modFn; split <;> rfl
@[simp] theorem modFn_blkMeta (s : State) (i : Nat) (g : Fn → Fn) : (s.modFn i g).blkMeta = s.blkMeta := by unfold State.modFn; split <;> rfl
@[simp] theorem modFn_books (s : State) (i : Nat) (g : Fn → Fn) : (s.modFn i g).books = s.books := by unfold State.modFn; split <;> rfl
@[simp] theorem modFn_bookSt (s : State) (i : Nat) (g : Fn → Fn) : (s.modFn i g).bookSt = s.bookSt := by unfold State.modFn; split <;> rfl
@[simp] theorem modFn_faults (s : State) (i : Nat) (g : Fn → Fn) : (s.modFn i g).faults = s.faults := by unfold State.modFn; split <;> rfl
@[simp] theorem modFn_logs (s : State) (i : Nat) (g : Fn → Fn) : (s.modFn i g).logs = s.logs := by unfold State.modFn; split <;> rfl
@[simp] theorem modFn_invals (s : State) (i : Nat) (g : Fn → Fn) : (s.modFn i g).invals = s.invals := by unfold State.modFn; split <;> rfl
@[simp] theorem modFn_te (s : State) (i : Nat) (g : Fn → Fn) : (s.modFn i g).te = s.te := by unfold State.modFn; split <;> rfl
@[simp] theorem modFn_teLast (s : State) (i : Nat) (g : Fn → Fn) : (s.modFn i g).teLast = s.teLast := by unfold State.modFn; split <;> rfl
@[simp] theorem modFn_tagLast (s : State) (i : Nat) (g : Fn → Fn) : (s.modFn i g).tagLast = s.tagLast := by unfold State.modFn; split <;> rfl
@[simp] theorem modFn_wrote (s : State) (i : Nat) (g : Fn → Fn) : (s.modFn i g).wrote = s.wrote := by unfold State.modFn; split <;> rfl
@[simp] theorem modFn_dirty (s : State) (i : Nat) (g : Fn → Fn) : (s.modFn i g).dirty = s.dirty := by unfold State.modFn; split <;> rfl
@[simp] theorem modFn_slotCid (s : State) (i : Nat) (g : Fn → Fn) : (s.modFn i g).slotCid = s.slotCid := by unfold State.modFn; split <;> rfl
@[simp] theorem modFn_dOwner (s : State) (i : Nat) (g : Fn → Fn) : (s.modFn i g).dOwner = s.dOwner := by unfold State.modFn; split <;> rfl

/-! ## State.modShell -/

@[simp] theorem modShell_inputs (s : State) (c : Nat) (g : Shell → Shell) : (s.modShell c g).inputs = s.inputs := by unfold State.modShell; split <;> rfl
@[simp] theorem modShell_cur (s : State) (c : Nat) (g : Shell → Shell) : (s.modShell c g).cur = s.cur := by unfold State.modShell; split <;> rfl
@[simp] theorem modShell_cycle (s : State) (c : Nat) (g : Shell → Shell) : (s.modShell c g).cycle = s.cycle := by unfold State.modShell; split <;> rfl
@[simp] theorem modShell_timebase (s : State) (c : Nat) (g : Shell → Shell) : (s.modShell c g).timebase = s.timebase := by unfold State.modShell; split <;> rfl
@[simp] theorem modShell_free (s : State) (c : Nat) (g : Shell → Shell) : (s.modShell c g).free = s.free := by unfold State.modShell; split <;> rfl
@[simp] theorem modShell_uid (s : State) (c : Nat) (g : Shell → Shell) : (s.modShell c g).uid = s.uid := by unfold State.modShell; split <;> rfl
@[simp] theorem modShell_pkg (s : State) (c : Nat) (g : Shell → Shell) : (s.modShell c g).pkg = s.pkg := by unfold State.modShell; split <;> rfl
@[simp] theorem modShell_links (s : State) (c : Nat) (g : Shell → Shell) : (s.modShell c g).links = s.links := by unfold State.modShell; split <;> rfl
@[simp] theorem modShell_snap (s : State) (c : Nat) (g : Shell → Shell) : (s.modShell c g).snap = s.snap := by unfold State.modShell; split <;> rfl
@[simp] theorem modShell_fns (s : State) (c : Nat) (g : Shell → Shell) : (s.modShell c g).fns = s.fns := by unfold State.modShell; split <;> rfl
@[simp] theorem modShell_strmap (s : State) (c : Nat) (g : Shell → Shell) : (s.modShell c g).strmap = s.strmap := by unfold State.modShell; split <;> rfl
@[simp] theorem modShell_peerwin (s : State) (c : Nat) (g : Shell → Shell) : (s.modShell c g).peerwin = s.peerwin := by unfold State.modShell; split <;> rfl
@[simp] theorem modShell_peerErr (s : State) (c : Nat) (g : Shell → Shell) : (s.modShell c g).peerErr = s.peerErr := by unfold State.modShell; split <;> rfl
@[simp] theorem modShell_strm (s : State) (c : Nat) (g : Shell → Shell) : (s.modShell c g).strm = s.strm := by unfold State.modShell; split <;> rfl
@[simp] theorem modShell_decoded (s : State) (c : Nat) (g : Shell → Shell) : (s.modShell c g).decoded = s.decoded := by unfold State.modShell; split <;> rfl
@[simp] theorem modShell_sch (s : State) (c : Nat) (g : Shell → Shell) : (s.modShell c g).sch = s.sch := by unfold State.modShell; split <;> rfl
@[simp] theorem modShell_ctxtbl (s : State) (c : Nat) (g : Shell → Shell) : (s.modShell c g).ctxtbl = s.ctxtbl := by unfold State.modShell; split <;> rfl
@[simp] theorem modShell_physwin (s : State) (c : Nat) (g : Shell → Shell) : (s.modShell c g).physwin = s.physwin := by unfold State.modShell; split <;> rfl
@[simp] theorem modShell_fqbase (s : State) (c : Nat) (g : Shell → Shell) : (s.modShell c g).fqbase = s.fqbase := by unfold State.modShell; split <;> rfl
@[simp] theorem modShell_fqsize (s : State) (c : Nat) (g : Shell → Shell) : (s.modShell c g).fqsize = s.fqsize := by unfold State.modShell; split <;> rfl
@[simp] theorem modShell_fqhead (s : State) (c : Nat) (g : Shell → Shell) : (s.modShell c g).fqhead = s.fqhead := by unfold State.modShell; split <;> rfl
@[simp] theorem modShell_fqtail (s : State) (c : Nat) (g : Shell → Shell) : (s.modShell c g).fqtail = s.fqtail := by unfold State.modShell; split <;> rfl
@[simp] theorem modShell_fqwait (s : State) (c : Nat) (g : Shell → Shell) : (s.modShell c g).fqwait = s.fqwait := by unfold State.modShell; split <;> rfl
@[simp] theorem modShell_ctxmap (s : State) (c : Nat) (g : Shell → Shell) : (s.modShell c g).ctxmap = s.ctxmap := by unfold State.modShell; split <;> rfl
@[simp] theorem modShell_kcfg (s : State) (c : Nat) (g : Shell → Shell) : (s.modShell c g).kcfg = s.kcfg := by unfold State.modShell; split <;> rfl
@[simp] theorem modShell_kcfgNew (s : State) (c : Nat) (g : Shell → Shell) : (s.modShell c g).kcfgNew = s.kcfgNew := by unfold State.modShell; split <;> rfl
@[simp] theorem modShell_dsown (s : State) (c : Nat) (g : Shell → Shell) : (s.modShell c g).dsown = s.dsown := by unfold State.modShell; split <;> rfl
@[simp] theorem modShell_xrtab (s : State) (c : Nat) (g : Shell → Shell) : (s.modShell c g).xrtab = s.xrtab := by unfold State.modShell; split <;> rfl
@[simp] theorem modShell_svbase (s : State) (c : Nat) (g : Shell → Shell) : (s.modShell c g).svbase = s.svbase := by unfold State.modShell; split <;> rfl
@[simp] theorem modShell_svcnt (s : State) (c : Nat) (g : Shell → Shell) : (s.modShell c g).svcnt = s.svcnt := by unfold State.modShell; split <;> rfl
@[simp] theorem modShell_killDrop (s : State) (c : Nat) (g : Shell → Shell) : (s.modShell c g).killDrop = s.killDrop := by unfold State.modShell; split <;> rfl
@[simp] theorem modShell_kills (s : State) (c : Nat) (g : Shell → Shell) : (s.modShell c g).kills = s.kills := by unfold State.modShell; split <;> rfl
@[simp] theorem modShell_msix (s : State) (c : Nat) (g : Shell → Shell) : (s.modShell c g).msix = s.msix := by unfold State.modShell; split <;> rfl
@[simp] theorem modShell_replies (s : State) (c : Nat) (g : Shell → Shell) : (s.modShell c g).replies = s.replies := by unfold State.modShell; split <;> rfl
@[simp] theorem modShell_tasks (s : State) (c : Nat) (g : Shell → Shell) : (s.modShell c g).tasks = s.tasks := by unfold State.modShell; split <;> rfl
@[simp] theorem modShell_jobs (s : State) (c : Nat) (g : Shell → Shell) : (s.modShell c g).jobs = s.jobs := by unfold State.modShell; split <;> rfl
@[simp] theorem modShell_arms (s : State) (c : Nat) (g : Shell → Shell) : (s.modShell c g).arms = s.arms := by unfold State.modShell; split <;> rfl
@[simp] theorem modShell_events (s : State) (c : Nat) (g : Shell → Shell) : (s.modShell c g).events = s.events := by unfold State.modShell; split <;> rfl
@[simp] theorem modShell_replays (s : State) (c : Nat) (g : Shell → Shell) : (s.modShell c g).replays = s.replays := by unfold State.modShell; split <;> rfl
@[simp] theorem modShell_parts (s : State) (c : Nat) (g : Shell → Shell) : (s.modShell c g).parts = s.parts := by unfold State.modShell; split <;> rfl
@[simp] theorem modShell_stages (s : State) (c : Nat) (g : Shell → Shell) : (s.modShell c g).stages = s.stages := by unfold State.modShell; split <;> rfl
@[simp] theorem modShell_aborts (s : State) (c : Nat) (g : Shell → Shell) : (s.modShell c g).aborts = s.aborts := by unfold State.modShell; split <;> rfl
@[simp] theorem modShell_arrivals (s : State) (c : Nat) (g : Shell → Shell) : (s.modShell c g).arrivals = s.arrivals := by unfold State.modShell; split <;> rfl
@[simp] theorem modShell_phases (s : State) (c : Nat) (g : Shell → Shell) : (s.modShell c g).phases = s.phases := by unfold State.modShell; split <;> rfl
@[simp] theorem modShell_regions (s : State) (c : Nat) (g : Shell → Shell) : (s.modShell c g).regions = s.regions := by unfold State.modShell; split <;> rfl
@[simp] theorem modShell_mem (s : State) (c : Nat) (g : Shell → Shell) : (s.modShell c g).mem = s.mem := by unfold State.modShell; split <;> rfl
@[simp] theorem modShell_poison (s : State) (c : Nat) (g : Shell → Shell) : (s.modShell c g).poison = s.poison := by unfold State.modShell; split <;> rfl
@[simp] theorem modShell_soft (s : State) (c : Nat) (g : Shell → Shell) : (s.modShell c g).soft = s.soft := by unfold State.modShell; split <;> rfl
@[simp] theorem modShell_l2 (s : State) (c : Nat) (g : Shell → Shell) : (s.modShell c g).l2 = s.l2 := by unfold State.modShell; split <;> rfl
@[simp] theorem modShell_hidden (s : State) (c : Nat) (g : Shell → Shell) : (s.modShell c g).hidden = s.hidden := by unfold State.modShell; split <;> rfl
@[simp] theorem modShell_views (s : State) (c : Nat) (g : Shell → Shell) : (s.modShell c g).views = s.views := by unfold State.modShell; split <;> rfl
@[simp] theorem modShell_paths (s : State) (c : Nat) (g : Shell → Shell) : (s.modShell c g).paths = s.paths := by unfold State.modShell; split <;> rfl
@[simp] theorem modShell_tlb (s : State) (c : Nat) (g : Shell → Shell) : (s.modShell c g).tlb = s.tlb := by unfold State.modShell; split <;> rfl
@[simp] theorem modShell_cmpState (s : State) (c : Nat) (g : Shell → Shell) : (s.modShell c g).cmpState = s.cmpState := by unfold State.modShell; split <;> rfl
@[simp] theorem modShell_cmpDone (s : State) (c : Nat) (g : Shell → Shell) : (s.modShell c g).cmpDone = s.cmpDone := by unfold State.modShell; split <;> rfl
@[simp] theorem modShell_blkMeta (s : State) (c : Nat) (g : Shell → Shell) : (s.modShell c g).blkMeta = s.blkMeta := by unfold State.modShell; split <;> rfl
@[simp] theorem modShell_books (s : State) (c : Nat) (g : Shell → Shell) : (s.modShell c g).books = s.books := by unfold State.modShell; split <;> rfl
@[simp] theorem modShell_bookSt (s : State) (c : Nat) (g : Shell → Shell) : (s.modShell c g).bookSt = s.bookSt := by unfold State.modShell; split <;> rfl
@[simp] theorem modShell_faults (s : State) (c : Nat) (g : Shell → Shell) : (s.modShell c g).faults = s.faults := by unfold State.modShell; split <;> rfl
@[simp] theorem modShell_logs (s : State) (c : Nat) (g : Shell → Shell) : (s.modShell c g).logs = s.logs := by unfold State.modShell; split <;> rfl
@[simp] theorem modShell_invals (s : State) (c : Nat) (g : Shell → Shell) : (s.modShell c g).invals = s.invals := by unfold State.modShell; split <;> rfl
@[simp] theorem modShell_te (s : State) (c : Nat) (g : Shell → Shell) : (s.modShell c g).te = s.te := by unfold State.modShell; split <;> rfl
@[simp] theorem modShell_teLast (s : State) (c : Nat) (g : Shell → Shell) : (s.modShell c g).teLast = s.teLast := by unfold State.modShell; split <;> rfl
@[simp] theorem modShell_tagLast (s : State) (c : Nat) (g : Shell → Shell) : (s.modShell c g).tagLast = s.tagLast := by unfold State.modShell; split <;> rfl
@[simp] theorem modShell_wrote (s : State) (c : Nat) (g : Shell → Shell) : (s.modShell c g).wrote = s.wrote := by unfold State.modShell; split <;> rfl
@[simp] theorem modShell_dirty (s : State) (c : Nat) (g : Shell → Shell) : (s.modShell c g).dirty = s.dirty := by unfold State.modShell; split <;> rfl
@[simp] theorem modShell_slotCid (s : State) (c : Nat) (g : Shell → Shell) : (s.modShell c g).slotCid = s.slotCid := by unfold State.modShell; split <;> rfl
@[simp] theorem modShell_dOwner (s : State) (c : Nat) (g : Shell → Shell) : (s.modShell c g).dOwner = s.dOwner := by unfold State.modShell; split <;> rfl

end Sys2Proof.Machine
end

