-- ==== Sys2Proof/Laws/Regs.lean ====
section
/-! SUPPORT. Tasks, streams and registers: what is read after an update of a task, a stream or a register. -/

namespace Sys2Proof.Machine

/-! ## Tasks -/

@[simp] theorem task_setTask (s : State) (c k : Nat) (t : Task) : (s.setTask c k t).task c k = t := tget_tput_self _ _ _ _
theorem task_setTask_other (s : State) (c k : Nat) (t : Task) {c' k' : Nat} (h : slotKey c' k' ≠ slotKey c k) :
    (s.setTask c k t).task c' k' = s.task c' k' := tget_tput_other _ _ _ h
@[simp] theorem task_modTask (s : State) (c k : Nat) (f : Task → Task) : (s.modTask c k f).task c k = f (s.task c k) := task_setTask _ _ _ _
theorem task_modTask_other (s : State) (c k : Nat) (f : Task → Task) {c' k' : Nat} (h : slotKey c' k' ≠ slotKey c k) :
    (s.modTask c k f).task c' k' = s.task c' k' := task_setTask_other _ _ _ _ h
@[simp] theorem my_modMy (s : State) (f : Task → Task) : (s.modMy f).my = f s.my := task_modTask _ _ _ _

/-! ## Streams -/

theorem idx_inj {e g : Eng} (h : e.idx = g.idx) : e = g := by cases e <;> cases g <;> first | rfl | exact absurd h (by decide)

@[simp] theorem stm_setStm (t : Task) (e : Eng) (x : EStream) : (t.setStm e x).stm e = x := by
  show (t.st.set e.idx.val x e.idx.isLt)[e.idx.val] = x
  exact Vector.getElem_set_self _
theorem stm_setStm_other (t : Task) {e g : Eng} (x : EStream) (h : g ≠ e) : (t.setStm e x).stm g = t.stm g := by
  have h' : ¬ e.idx.val = g.idx.val := fun hh => h (idx_inj (Fin.ext hh)).symm
  show (t.st.set e.idx.val x e.idx.isLt)[g.idx.val] = t.st[g.idx.val]
  exact Vector.getElem_set_ne _ _ h'
@[simp] theorem stm_modStm (t : Task) (e : Eng) (f : EStream → EStream) : (t.modStm e f).stm e = f (t.stm e) := stm_setStm _ _ _
theorem stm_modStm_other (t : Task) {e g : Eng} (f : EStream → EStream) (h : g ≠ e) : (t.modStm e f).stm g = t.stm g :=
  stm_setStm_other _ _ h
@[simp] theorem me_modMe (s : State) (f : EStream → EStream) : (s.modMe f).me = f s.me := by
  simp [State.me, State.modMe]
theorem my_modMe (s : State) (f : EStream → EStream) : (s.modMe f).my = s.my.modStm s.cur.eng f := my_modMy s _

/-! ## x and p registers -/

theorem rx_setX (e : EStream) (d a : R5) (v : W64) : (e.setX d v).rx a = if a = d ∧ d ≠ 0 then v else e.rx a := by
  by_cases hd : d = 0
  · simp [EStream.setX, hd]
  · have hs : e.setX d v = { e with x := e.x.set d.toFin.val v d.toFin.isLt } := by rw [EStream.setX, if_neg hd]
    have hr : (e.setX d v).rx a = if a = 0 then 0 else (e.x.set d.toFin.val v d.toFin.isLt)[a.toFin.val] := by rw [hs]; rfl
    have hr' : e.rx a = if a = 0 then 0 else e.x[a.toFin.val] := rfl
    rw [hr, hr']
    by_cases ha : a = d
    · subst ha; rw [if_neg hd, if_pos ⟨rfl, hd⟩]; exact Vector.getElem_set_self _
    · have h : ¬ d.toFin.val = a.toFin.val := fun h => ha (BitVec.eq_of_toNat_eq h.symm)
      rw [Vector.getElem_set_ne _ _ h]
      simp [ha]

theorem rp_setP (e : EStream) (d a : R5) (v : W64) : (e.setP d v).rp a = if a = d ∧ d.toNat < 24 then v else e.rp a := by
  unfold EStream.setP EStream.rp
  by_cases hd : d.toNat < 24
  · by_cases ha : a = d
    · subst ha; simp [hd]
    · have : ¬ d.toNat = a.toNat := fun h => ha (BitVec.eq_of_toNat_eq h.symm)
      simp only [hd, dite_true, ha, false_and, if_false]
      split
      · exact Vector.getElem_set_ne _ _ this
      · rfl
  · simp [hd]

/-- A register as it reads after it is written: x0 stays zero. -/
theorem x_setX (s : State) (d a : R5) (v : W64) : (s.setX d v).x a = if a = d ∧ d ≠ 0 then v else s.x a := by
  simp only [State.x, State.setX, me_modMe]
  exact rx_setX _ _ _ _
theorem p_setX (s : State) (d a : R5) (v : W64) : (s.setX d v).p a = s.p a := by
  simp only [State.p, State.setX, me_modMe, EStream.setX]
  split <;> rfl
theorem x_setP (s : State) (d a : R5) (v : W64) : (s.setP d v).x a = s.x a := by
  simp only [State.x, State.setP, me_modMe, EStream.setP]
  split <;> rfl
theorem p_setP (s : State) (d a : R5) (v : W64) : (s.setP d v).p a = if a = d ∧ d.toNat < 24 then v else s.p a := by
  simp only [State.p, State.setP, me_modMe]
  exact rp_setP _ _ _ _

/-! ## Vector registers -/

@[simp] theorem row_setRow (t : Task) (v : Nat) (x : Vector W32 64) : (t.setRow v x).row v = x := tget_tput_self _ _ _ _
theorem row_setRow_other (t : Task) {v w : Nat} (x : Vector W32 64) (h : w ≠ v) : (t.setRow v x).row w = t.row w :=
  tget_tput_other _ _ _ h
theorem v_putV (s : State) (d a : R6) (x : Vector W32 64) : (s.putV d x).v a = if a = d then x else s.v a := by
  simp only [State.v, State.putV, my_modMy]
  split
  · rename_i h; subst h; exact row_setRow _ _ _
  · rename_i h; exact row_setRow_other _ _ fun hh => h (BitVec.eq_of_toNat_eq hh)

end Sys2Proof.Machine
end

