-- ==== Sys2Proof/Laws/Issue.lean ====
section
/-! SUPPORT. The issue of an instruction: what it answers once nothing holds it, and what it leaves of every register. -/

namespace Sys2Proof.Machine

/-- Predicate registers without an error are read, and written, as they stand. -/
theorem readPs_clean {s : State} {ps : List R5} (h : PredsClean s ps) : readPs s ps = s ∧ predsBad s ps = false := by
  have hf : ∀ l : List R5, (∀ p ∈ l, p ∈ ps) → l.foldl (fun s' p => eccRead s' (predKey s'.cur p.toNat) 8) s = s := by
    intro l
    induction l with
    | nil => intro _; rfl
    | cons p l ih =>
      intro hl
      rw [List.foldl_cons, (h p (hl p (by simp))).1]
      exact ih fun q hq => hl q (by simp [hq])
  unfold readPs
  refine ⟨hf _ fun p hp => (List.mem_filter.mp hp).1, ?_⟩
  unfold predsBad
  rw [List.any_eq_false]
  intro p hp
  simp [(h p (List.mem_filter.mp hp).1).2.1]

/-- Cleaning predicate registers without an error changes nothing. -/
theorem eccClean_preds {s : State} {ps : List R5} (h : PredsClean s ps) :
    ps.foldl (fun s' p => eccClean s' (predKey s'.cur p.toNat) 8) s = s := by
  have hf : ∀ l : List R5, (∀ p ∈ l, p ∈ ps) → l.foldl (fun s' p => eccClean s' (predKey s'.cur p.toNat) 8) s = s := by
    intro l
    induction l with
    | nil => intro _; rfl
    | cons p l ih =>
      intro hl
      rw [List.foldl_cons, (h p (hl p (by simp))).2.2]
      exact ih fun q hq => hl q (by simp [hq])
  exact hf ps fun _ hp => hp

theorem PredsClean.mono {s : State} {ps qs : List R5} (h : PredsClean s ps) (hq : ∀ p ∈ qs, p ∈ ps) : PredsClean s qs :=
  fun p hp => h p (hq p hp)

theorem readPreds_clean {s : State} {rd wr : List R5} (hr : PredsClean s rd) (hw : PredsClean s wr) (body : State → Res) :
    readPreds s rd wr body = body s := by
  unfold readPreds
  simp only [readPs_clean hr, Bool.false_eq_true, if_false]
  exact congrArg body (eccClean_preds hw)

theorem readSregs_clean {s : State} {is : List (BitVec 4)} (h : SregsClean s is) (body : State → Res) : readSregs s is body = body s := by
  have hf : ∀ l : List (BitVec 4), (∀ i ∈ l, i ∈ is) →
      l.foldl (fun s' i => eccRead s' (sregKey s.cur.core s.cur.slot i.toNat) 64) s = s := by
    intro l
    induction l with
    | nil => intro _; rfl
    | cons i l ih =>
      intro hl
      rw [List.foldl_cons, (h i (hl i (by simp))).1]
      exact ih fun j hj => hl j (by simp [hj])
  have hb : (is.any fun i => badWord s (sregKey s.cur.core s.cur.slot i.toNat) 64) = false := by
    rw [List.any_eq_false]
    intro i hi
    simp [(h i hi).2]
  unfold readSregs
  dsimp only
  rw [hf is fun _ hi => hi, hb]
  exact if_neg Bool.false_ne_true

/-- An instruction that nothing skips or holds answers as its body does (R133, R274, R290, R339). -/
theorem issue_issuing {s : State} {f : Sync} {pred : R5} {li : BitVec 4} {u : Uses} (h : Issuing s f pred li u) (body : State → Res) :
    issue s f pred li u body = match body s with
      | .hold h s => .next (s.held h)
      | .trap c v => .next (trapAt s s.cur c v false)
      | .stop s => .next s
      | .go t => .next (t.issued f) := by
  obtain ⟨b, hb⟩ := Option.isSome_iff_exists.mp h.opened
  have hn : (waitToks s.cur.eng f).filter (fun k => s.my.tok k == 0) = [] := by
    rw [List.filter_eq_nil_iff]
    intro k hk
    simpa using h.toks k hk
  have ht : tokens? s f = .there := by simp only [tokens?, hn, List.find?_nil, List.isEmpty_nil, if_true]
  have hq := readPs_clean (h.preds.mono fun p hp => List.mem_append_left _ hp)
  have hp := h.pred
  have hi := h.li
  obtain ⟨hl, hl'⟩ := h.list
  obtain ⟨hf, hf'⟩ := h.free
  obtain ⟨hr, hd⟩ := h.regs
  simp only [issue, hb, hi, hl, hl', hf, hf', hq.1, hq.2, hp, ht, hr, hd, Bool.not_true, Bool.false_eq_true, if_false]
  rfl

/-- In its body the predicate registers it names are as they stand. -/
theorem Issuing.readPreds {s : State} {f : Sync} {pred : R5} {li : BitVec 4} {u : Uses} (h : Issuing s f pred li u) {rd wr : List R5}
    (hr : ∀ p ∈ rd, p ∈ u.ps) (hw : ∀ p ∈ wr, p ∈ u.ps) (body : State → Res) : readPreds s rd wr body = body s :=
  readPreds_clean (h.preds.mono fun p hp => List.mem_append_right _ (hr p hp)) (h.preds.mono fun p hp => List.mem_append_right _ (hw p hp)) body

theorem issue_go {s t : State} {f : Sync} {pred : R5} {li : BitVec 4} {u : Uses} {body : State → Res}
    (h : Issuing s f pred li u) (hb : body s = .go t) : issue s f pred li u body = .next (t.issued f) := by
  rw [issue_issuing h, hb]
theorem issue_hold {s t : State} {f : Sync} {pred : R5} {li : BitVec 4} {u : Uses} {body : State → Res} {k : Hold}
    (h : Issuing s f pred li u) (hb : body s = .hold k t) : issue s f pred li u body = .next (t.held k) := by
  rw [issue_issuing h, hb]
theorem issue_trap {s : State} {f : Sync} {pred : R5} {li : BitVec 4} {u : Uses} {body : State → Res} {c : Nat} {v : W64}
    (h : Issuing s f pred li u) (hb : body s = .trap c v) : issue s f pred li u body = .next (trapAt s s.cur c v false) := by
  rw [issue_issuing h, hb]
theorem issue_stop {s t : State} {f : Sync} {pred : R5} {li : BitVec 4} {u : Uses} {body : State → Res}
    (h : Issuing s f pred li u) (hb : body s = .stop t) : issue s f pred li u body = .next t := by
  rw [issue_issuing h, hb]

theorem readSources_clean {s : State} {rd : List R6} (h : SourcesClean s rd) (body : State → Res) : readSources s rd body = body s := by
  have hfold : ∀ l : List R6, (∀ v ∈ l, v ∈ rd) →
      l.foldl (fun s' v => eccRead s' (rowKey s.cur.core (2048 * s.cur.slot + v.toNat) 0 0) 256) s = s := by
    intro l
    induction l with
    | nil => intro _; rfl
    | cons v l ih =>
      intro hl
      rw [List.foldl_cons, (h v (hl v (by simp))).1]
      exact ih fun w hw => hl w (by simp [hw])
  have hbad : (rd.any fun v => badWord s (rowKey s.cur.core (2048 * s.cur.slot + v.toNat) 0 0) 256) = false := by
    rw [List.any_eq_false]
    intro v hv
    simp [(h v hv).2]
  simp only [readSources, hfold rd fun _ hv => hv, hbad, Bool.false_eq_true, if_false]

/-- The body of a VV instruction sees its mask and its source rows as they stand. -/
theorem issueVV_body {s : State} {g : Guard} {u : Uses} {rd : List R6} (h : IssuesVV s g u rd) (body : State → Res) :
    (readPreds s [g.pred] [] fun s => readSources s rd body) = body s := by
  by_cases hp : g.pred = 31
  · have e : readPreds s [g.pred] [] (fun s => readSources s rd body) = readSources s rd body := by
      simp [readPreds, readPs, predsBad, hp]
    rw [e, readSources_clean h.2]
  · rw [h.1.readPreds (by rw [if_neg hp]; simp) (by simp), readSources_clean h.2]

theorem issueVV_go {s t : State} {g : Guard} {u : Uses} {rd : List R6} {body : State → Res}
    (h : IssuesVV s g u rd) (hb : body s = .go t) : issueVV s g u rd body = .next (t.issued g.sync) := by
  unfold issueVV
  exact issue_go h.1 (by rw [issueVV_body h, hb])
theorem issueVV_hold {s t : State} {g : Guard} {u : Uses} {rd : List R6} {body : State → Res} {k : Hold}
    (h : IssuesVV s g u rd) (hb : body s = .hold k t) : issueVV s g u rd body = .next (t.held k) := by
  unfold issueVV
  exact issue_hold h.1 (by rw [issueVV_body h, hb])
theorem issueVV_trap {s : State} {g : Guard} {u : Uses} {rd : List R6} {body : State → Res} {c : Nat} {v : W64}
    (h : IssuesVV s g u rd) (hb : body s = .trap c v) : issueVV s g u rd body = .next (trapAt s s.cur c v false) := by
  unfold issueVV
  exact issue_trap h.1 (by rw [issueVV_body h, hb])

end Sys2Proof.Machine
end

