-- ==== Sys2Proof/Laws/Frame.lean ====
section
/-! SUPPORT. Frames: what an issue leaves of the state beside the tokens it takes, and how frames compose. -/

namespace Sys2Proof.Machine

theorem kept_refl (s : State) : KeptBut [] [] [] s s :=
  ⟨rfl, fun _ _ => rfl, fun _ _ => rfl, fun _ _ => rfl, rfl, rfl, rfl, rfl, rfl, rfl, rfl, rfl, fun _ _ => ⟨rfl, rfl, rfl⟩,
    fun _ _ _ => ⟨rfl, rfl, rfl, fun _ => ⟨rfl, rfl⟩⟩⟩

theorem SameDevice.cur {s t : State} (h : SameDevice s t) : t.cur = s.cur := by rw [h]
theorem SameDevice.mem {s t : State} (h : SameDevice s t) : t.mem = s.mem := by rw [h]
theorem SameDevice.byte {s t : State} (h : SameDevice s t) (k : Nat) : t.byte k = s.byte k := by rw [State.byte, h.mem, State.byte]
theorem SameDevice.trans {s t u : State} (h : SameDevice s t) (h' : SameDevice t u) : SameDevice s u := by
  unfold SameDevice at *
  rw [h', h]

theorem KeptBut.trans {xs xs' ps ps' : List R5} {vs vs' : List R6} {s t u : State} (h : KeptBut xs ps vs s t) (h' : KeptBut xs' ps' vs' t u) :
    KeptBut (xs ++ xs') (ps ++ ps') (vs ++ vs') s u where
  device := h.device.trans h'.device
  x a ha := by
    rw [List.mem_append, not_or] at ha
    rw [h'.x a ha.2, h.x a ha.1]
  p a ha := by
    rw [List.mem_append, not_or] at ha
    rw [h'.p a ha.2, h.p a ha.1]
  v a ha := by
    rw [List.mem_append, not_or] at ha
    rw [h'.v a ha.2, h.v a ha.1]
  c := h'.c.trans h.c
  acc := h'.acc.trans h.acc
  sregs := h'.sregs.trans h.sregs
  h := h'.h.trans h.h
  gates := h'.gates.trans h.gates
  e := h'.e.trans h.e
  q := h'.q.trans h.q
  loop := h'.loop.trans h.loop
  others g hg := by
    have a := h.others g hg
    have b := h'.others g (by rw [h.device.cur]; exact hg)
    exact ⟨b.1.trans a.1, b.2.1.trans a.2.1, b.2.2.trans a.2.2⟩
  tasks c k hk := by
    have a := h.tasks c k hk
    have b := h'.tasks c k (by rw [h.device.cur]; exact hk)
    exact ⟨b.1.trans a.1, b.2.1.trans a.2.1, b.2.2.1.trans a.2.2.1, fun g =>
      ⟨(b.2.2.2 g).1.trans (a.2.2.2 g).1, (b.2.2.2 g).2.trans (a.2.2.2 g).2⟩⟩

/-- An update of the moving task that keeps all but some x, p and v registers. -/
theorem kept_modMy {xs ps : List R5} {vs : List R6} (s : State) (f : Task → Task)
    (hx : ∀ a, a ∉ xs → ((f s.my).stm s.cur.eng).rx a = s.me.rx a) (hp : ∀ a, a ∉ ps → ((f s.my).stm s.cur.eng).rp a = s.me.rp a)
    (hv : ∀ a, a ∉ vs → (f s.my).row a.toNat = s.my.row a.toNat)
    (hc : (f s.my).c = s.my.c ∧ (f s.my).acc = s.my.acc ∧ (f s.my).s = s.my.s ∧ (f s.my).h = s.my.h ∧ (f s.my).g = s.my.g ∧
      (f s.my).e = s.my.e ∧ (f s.my).q = s.my.q ∧ ((f s.my).stm s.cur.eng).loop = s.me.loop)
    (ho : ∀ g, g ≠ s.cur.eng → ((f s.my).stm g).x = (s.my.stm g).x ∧ ((f s.my).stm g).p = (s.my.stm g).p ∧
      ((f s.my).stm g).pc = (s.my.stm g).pc) : KeptBut xs ps vs s (s.modMy f) where
  device := rfl
  x a ha := by simpa [State.x, State.me] using hx a ha
  p a ha := by simpa [State.p, State.me] using hp a ha
  v a ha := by simpa [State.v] using hv a ha
  c := by simpa using hc.1
  acc := by simpa using hc.2.1
  sregs := by simpa using hc.2.2.1
  h := by simpa using hc.2.2.2.1
  gates := by simpa using hc.2.2.2.2.1
  e := by simpa using hc.2.2.2.2.2.1
  q := by simpa using hc.2.2.2.2.2.2.1
  loop := by simpa [State.me] using hc.2.2.2.2.2.2.2
  others g hg := by simpa using ho g hg
  tasks c k hk := by
    have : (s.modMy f).task c k = s.task c k := task_modTask_other _ _ _ _ hk
    rw [this]
    exact ⟨rfl, rfl, rfl, fun _ => ⟨rfl, rfl⟩⟩

/-- An update of the moving stream alone. -/
theorem kept_modMe {xs ps : List R5} (s : State) (f : EStream → EStream) (hx : ∀ a, a ∉ xs → (f s.me).rx a = s.me.rx a)
    (hp : ∀ a, a ∉ ps → (f s.me).rp a = s.me.rp a) (hl : (f s.me).loop = s.me.loop) : KeptBut xs ps [] s (s.modMe f) := by
  refine kept_modMy s _ ?_ ?_ (fun _ _ => rfl) ⟨rfl, rfl, rfl, rfl, rfl, rfl, rfl, ?_⟩ ?_
  · intro a ha; rw [stm_modStm]; exact hx a ha
  · intro a ha; rw [stm_modStm]; exact hp a ha
  · rw [stm_modStm]; exact hl
  · intro g hg; rw [stm_modStm_other _ _ hg]; exact ⟨rfl, rfl, rfl⟩

theorem kept_modBlk (s : State) (f : Block → Block) : KeptBut [] [] [] s (s.modBlk f) :=
  kept_modMe s _ (fun _ _ => rfl) (fun _ _ => rfl) rfl
theorem kept_addEff (s : State) (e : Eff) : KeptBut [] [] [] s (s.addEff e) := kept_modBlk s _
theorem kept_next (s : State) : KeptBut [] [] [] s s.next := kept_modMe s _ (fun _ _ => rfl) (fun _ _ => rfl) rfl
theorem kept_held (s : State) (h : Hold) : KeptBut [] [] [] s (s.held h) := kept_modMe s _ (fun _ _ => rfl) (fun _ _ => rfl) rfl
theorem kept_takeTok (s : State) (k : Nat) : KeptBut [] [] [] s (s.modMy fun t => t.takeTok k) := by
  have h : ∀ t : Task, t.takeTok k = { t with tk := (t.takeTok k).tk } := by
    intro t; unfold Task.takeTok; split <;> rfl
  refine kept_modMy s _ ?_ ?_ ?_ ?_ ?_
  · intro a _; rw [h]; rfl
  · intro a _; rw [h]; rfl
  · intro a _; rw [h]; rfl
  · rw [h]; exact ⟨rfl, rfl, rfl, rfl, rfl, rfl, rfl, rfl⟩
  · intro g _; rw [h]; exact ⟨rfl, rfl, rfl⟩
theorem kept_setX (s : State) (d : R5) (v : W64) : KeptBut [d] [] [] s (s.setX d v) := by
  refine kept_modMe s _ ?_ ?_ ?_
  · intro a ha
    rw [rx_setX, if_neg]
    intro h
    exact ha (by simp [h.1])
  · intro a _; unfold EStream.setX; split <;> rfl
  · unfold EStream.setX; split <;> rfl
theorem kept_setP (s : State) (d : R5) (v : W64) : KeptBut [] [d] [] s (s.setP d v) := by
  refine kept_modMe s _ ?_ ?_ ?_
  · intro a _; unfold EStream.setP; split <;> rfl
  · intro a ha
    rw [rp_setP, if_neg]
    intro h
    exact ha (by simp [h.1])
  · unfold EStream.setP; split <;> rfl
theorem kept_putV (s : State) (d : R6) (x : Vector W32 64) : KeptBut [] [] [d] s (s.putV d x) := by
  refine kept_modMy s _ (fun _ _ => rfl) (fun _ _ => rfl) ?_ ⟨rfl, rfl, rfl, rfl, rfl, rfl, rfl, rfl⟩ (fun _ _ => ⟨rfl, rfl, rfl⟩)
  intro a ha
  exact row_setRow_other _ _ fun h => ha (by simp [BitVec.eq_of_toNat_eq h])

/-! ## An acquire -/

theorem tget_map {α : Type} (d : α) (f : Nat × α → Nat × α) (hk : ∀ e, (f e).1 = e.1) : ∀ (t : Tab α) (i : Nat),
    tget d (t.map f) i = d ∧ tget d t i = d ∨ tget d (t.map f) i = (f (i, tget d t i)).2
  | [], _ => .inl ⟨rfl, rfl⟩
  | (k, v) :: t, i => by
    have h := tget_map d f hk t i
    simp only [List.map_cons]
    have hke : (f (k, v)).1 = k := hk (k, v)
    generalize hf : f (k, v) = r at hke
    obtain ⟨k', v'⟩ := r
    simp only at hke
    subst hke
    simp only [tget]
    by_cases hi : k' = i
    · subst hi; simp [hf]
    · simpa [hi] using h

/-- A task after lines left a view cache: at most its monitors differ. -/
theorem task_trigLeave (ts : Tab Task) (core cid : Nat) (ls : List Nat) (i : Nat) :
    tget Task.empty (trigLeave ts core cid ls) i = tget Task.empty ts i ∨
    tget Task.empty (trigLeave ts core cid ls) i =
      { tget Task.empty ts i with st := (tget Task.empty ts i).st.map (EStream.trigger ls) } := by
  have h := tget_map Task.empty
    (fun e : Nat × Task => if e.1 / 4 == core && e.2.cid == cid then (e.1, { e.2 with st := e.2.st.map (EStream.trigger ls) }) else e)
    (fun e => by dsimp only; split <;> rfl) ts i
  rcases h with ⟨h1, h2⟩ | h
  · exact .inl (h1.trans h2.symm)
  · unfold trigLeave
    rw [h]
    split
    · exact .inr rfl
    · exact .inl rfl

theorem stm_trigger (t : Task) (ls : List Nat) (g : Eng) : ({ t with st := t.st.map (EStream.trigger ls) } : Task).stm g = (t.stm g).trigger ls := by
  show (t.st.map (EStream.trigger ls))[g.idx.val] = EStream.trigger ls t.st[g.idx.val]
  exact Vector.getElem_map _ _

theorem kept_dropViews (s : State) (core cid : Nat) (sc : Scope) : KeptBut [] [] [] s (s.dropViews core cid sc) := by
  have key : ∀ c k, ∃ ls, (s.dropViews core cid sc).task c k = s.task c k ∨
      (s.dropViews core cid sc).task c k = { s.task c k with st := (s.task c k).st.map (EStream.trigger ls) } :=
    fun c k => ⟨_, task_trigLeave s.tasks core cid _ (slotKey c k)⟩
  obtain ⟨ls, hm⟩ := key s.cur.core s.cur.slot
  have hmy : (s.dropViews core cid sc).my = s.my ∨ (s.dropViews core cid sc).my = { s.my with st := s.my.st.map (EStream.trigger ls) } := hm
  have hst : ∀ g, (((s.dropViews core cid sc).my).stm g).x = (s.my.stm g).x ∧ (((s.dropViews core cid sc).my).stm g).p = (s.my.stm g).p ∧
      (((s.dropViews core cid sc).my).stm g).pc = (s.my.stm g).pc ∧ (((s.dropViews core cid sc).my).stm g).loop = (s.my.stm g).loop := by
    intro g
    rcases hmy with h | h <;> rw [h]
    · exact ⟨rfl, rfl, rfl, rfl⟩
    · rw [stm_trigger]; exact ⟨rfl, rfl, rfl, rfl⟩
  refine ⟨rfl, ?_, ?_, ?_, ?_, ?_, ?_, ?_, ?_, ?_, ?_, ?_, ?_, ?_⟩
  · intro a _
    have : (s.dropViews core cid sc).me.x = s.me.x := (hst s.cur.eng).1
    simp only [State.x, EStream.rx, this]
  · intro a _
    have : (s.dropViews core cid sc).me.p = s.me.p := (hst s.cur.eng).2.1
    simp only [State.p, EStream.rp, this]
  · intro a _
    unfold State.v
    rcases hmy with h | h <;> rw [h] <;> rfl
  all_goals first | (rcases hmy with h | h <;> (rw [h]; done)) | skip
  · exact (hst s.cur.eng).2.2.2
  · intro g _; exact ⟨(hst g).1, (hst g).2.1, (hst g).2.2.1⟩
  · intro c k _
    obtain ⟨ls, h⟩ := key c k
    rcases h with h | h <;> rw [h]
    · exact ⟨rfl, rfl, rfl, fun _ => ⟨rfl, rfl⟩⟩
    · refine ⟨rfl, rfl, rfl, fun g => ?_⟩
      rw [stm_trigger]; exact ⟨rfl, rfl⟩

/-! ## What every issue leaves -/

theorem kept_fold {α : Type} (f : State → α → State) (h : ∀ s a, KeptBut [] [] [] s (f s a)) :
    ∀ (l : List α) (s : State), KeptBut [] [] [] s (l.foldl f s)
  | [], s => kept_refl s
  | a :: l, s => (h s a).trans (kept_fold f h l (f s a))

theorem kept_tokens (s : State) (f : Sync) : KeptBut [] [] [] s (s.tokens f) := by
  unfold State.tokens
  have h1 := kept_fold (fun s k => (s.modMy fun t => t.takeTok k).modBlk fun b => { b with taken := b.taken ++ [.token k] })
    (fun s k => (kept_takeTok s k).trans (kept_modBlk _ _)) (waitToks s.cur.eng f) s
  refine KeptBut.trans (xs := []) (ps := []) (vs := []) ?_ (kept_fold _ (fun s k => kept_addEff s _) _ _)
  split
  · exact h1
  · exact h1.trans (kept_dropViews _ _ _ _)

/-- An issue, its own effect apart, changes no register. -/
theorem kept_issued (s : State) (f : Sync) : KeptBut [] [] [] s (s.issued f) := (kept_tokens s f).trans (kept_next _)

end Sys2Proof.Machine
end

