-- ==== Sys2Proof/Laws/Shapes.lean ====
section
/-! SUPPORT. What each shape of instruction answers once nothing holds it. -/

namespace Sys2Proof.Machine

open Sys2Proof

variable {s t : State} {f : Sync} {g : Guard} {u : Uses} {body : State → Res}

theorem issue32_go (h : Issues32 s f u) (hb : body s = .go t) : issue32 s f u body = .next (t.issued f) := issue_go h hb
theorem issue32_trap {c : Nat} {v : W64} (h : Issues32 s f u) (hb : body s = .trap c v) :
    issue32 s f u body = .next (trapAt s s.cur c v false) := issue_trap h hb
theorem issue32_hold {k : Hold} (h : Issues32 s f u) (hb : body s = .hold k t) : issue32 s f u body = .next (t.held k) := issue_hold h hb
theorem issue32_stop (h : Issues32 s f u) (hb : body s = .stop t) : issue32 s f u body = .next t := issue_stop h hb
theorem issue64_go (h : Issues64 s g u) (hb : body s = .go t) : issue64 s g u body = .next (t.issued g.sync) := issue_go h hb
theorem issue64_trap {c : Nat} {v : W64} (h : Issues64 s g u) (hb : body s = .trap c v) :
    issue64 s g u body = .next (trapAt s s.cur c v false) := issue_trap h hb
theorem issue64_hold {k : Hold} (h : Issues64 s g u) (hb : body s = .hold k t) : issue64 s g u body = .next (t.held k) := issue_hold h hb
theorem issue64_stop (h : Issues64 s g u) (hb : body s = .stop t) : issue64 s g u body = .next t := issue_stop h hb

/-! ## Scalar shapes -/

theorem alu2_next {d a b : R5} (op : W64 → W64 → W64) (h : Issues32 s f ⟨[d, a, b], [], [], [a, b]⟩) :
    alu2 f d a b op s = .next ((s.setX d (op (s.x a) (s.x b))).issued f) := issue32_go h rfl
theorem alu1_next {d a : R5} (op : W64 → W64) (h : Issues32 s f ⟨[d, a], [], [], [a]⟩) :
    alu1 f d a op s = .next ((s.setX d (op (s.x a))).issued f) := issue32_go h rfl
theorem cmp2_next {d a b : R5} (op : W64 → W64 → Bool) (h : Issues32 s f ⟨[a, b], [d], [], [a, b]⟩) :
    cmp2 f d a b op s = .next ((s.setP d (allOnes (op (s.x a) (s.x b)))).issued f) :=
  issue32_go h (Issuing.readPreds h (by simp) (by simp) _)
theorem cmpImm_next {d a : R5} {imm : BitVec 14} (op : W64 → W64 → Bool) (h : Issues64 s g ⟨[a], [d], [], [a]⟩) :
    cmpImm g d a imm op s = .next ((s.setP d (allOnes (op (s.x a) (imm.signExtend 64)))).issued g.sync) :=
  issue64_go h (Issuing.readPreds h (by simp) (by simp) _)
theorem pred2_next {d a b : R5} (op : W64 → W64 → W64) (h : Issues32 s f ⟨[], [d, a, b], [], []⟩) :
    pred2 f d a b op s = .next ((s.setP d (op (s.p a) (s.p b))).issued f) :=
  issue32_go h (Issuing.readPreds h (by simp) (by simp) _)
theorem pred1_next {d a : R5} (op : W64 → W64) (h : Issues32 s f ⟨[], [d, a], [], []⟩) :
    pred1 f d a op s = .next ((s.setP d (op (s.p a))).issued f) :=
  issue32_go h (Issuing.readPreds h (by simp) (by simp) _)
theorem divide_next {d a b : R5} (z : W64 → Bool) (op : W64 → W64 → W64) (h : Issues32 s f ⟨[d, a, b], [], [], [a, b]⟩)
    (ht : (z (s.x b) && (s.csr 0x00B).getLsbD 0) = false) :
    divide f d a b z op s = .next ((s.setX d (op (s.x a) (s.x b))).issued f) := by
  refine issue32_go h ?_
  simp only [ht]; rfl
theorem divide_trap {d a b : R5} (z : W64 → Bool) (op : W64 → W64 → W64) (h : Issues32 s f ⟨[d, a, b], [], [], [a, b]⟩)
    (hz : z (s.x b) = true) (ht : (s.csr 0x00B).getLsbD 0 = true) :
    divide f d a b z op s = .next (trapAt s s.cur 0x03 (s.x a) false) := by
  refine issue32_trap h ?_
  simp only [hz, ht]; rfl

end Sys2Proof.Machine
end

