-- ==== Sys2Proof/Laws/View.lean ====
section
/-! SUPPORT. What a stream sees of its own task inside a block: control registers, stream registers and loop state do not depend on the
registers, tokens and entries that an issue touches. -/

namespace Sys2Proof.Machine

open Sys2Proof

/-- Two tasks whose control registers, stream registers, loops and markers agree. -/
structure SameRegs (t t' : Task) : Prop where
  c : t'.c = t.c
  s : t'.s = t.s
  arr : t'.rdvArr = t.rdvArr
  trec : t'.trec = t.trec
  cid : t'.cid = t.cid
  seq : t'.seq = t.seq
  loop : ∀ e, (t'.stm e).loop = (t.stm e).loop
  lm : ∀ e, (t'.stm e).lm = (t.stm e).lm

theorem SameRegs.refl (t : Task) : SameRegs t t := ⟨rfl, rfl, rfl, rfl, rfl, rfl, fun _ => rfl, fun _ => rfl⟩
theorem SameRegs.trans {a b c : Task} (h : SameRegs a b) (k : SameRegs b c) : SameRegs a c :=
  ⟨k.c.trans h.c, k.s.trans h.s, k.arr.trans h.arr, k.trec.trans h.trec, k.cid.trans h.cid, k.seq.trans h.seq,
    fun e => (k.loop e).trans (h.loop e), fun e => (k.lm e).trans (h.lm e)⟩

theorem csrGet_same {t t' : Task} (h : SameRegs t t') (s : State) (r : Ref) (n : Nat) : csrGet s t' r n = csrGet s t r n := by
  obtain ⟨hc, _, _, ht, hi, hs, hl, _⟩ := h
  unfold csrGet Task.stream Task.tenant Task.node Task.fld
  simp only [hc, ht, hi, hs, hl]

/-- An update of one stream's loop state keeps two such tasks alike. -/
theorem same_modLoop {t t' : Task} (h : SameRegs t t') (e : Eng) (f : Loop → Loop) :
    SameRegs (t.modStm e fun st => { st with loop := f st.loop }) (t'.modStm e fun st => { st with loop := f st.loop }) := by
  refine ⟨h.c, h.s, h.arr, h.trec, h.cid, h.seq, ?_, ?_⟩
  · intro g
    by_cases hg : g = e
    · subst hg; rw [stm_modStm, stm_modStm]; exact congrArg f (h.loop g)
    · rw [stm_modStm_other _ _ hg, stm_modStm_other _ _ hg]; exact h.loop g
  · intro g
    by_cases hg : g = e
    · subst hg; rw [stm_modStm, stm_modStm]; exact h.lm g
    · rw [stm_modStm_other _ _ hg, stm_modStm_other _ _ hg]; exact h.lm g

theorem same_c {t t' : Task} (h : SameRegs t t') (c : Csrs) : SameRegs { t with c := c } { t' with c := c } :=
  ⟨rfl, h.s, h.arr, h.trec, h.cid, h.seq, h.loop, h.lm⟩

theorem same_rdvWrite {t t' : Task} (h : SameRegs t t') (w : W64) : SameRegs (t.rdvWrite w) (t'.rdvWrite w) := by
  have hl := h.lm
  have hc := h.c
  unfold Task.rdvWrite
  split
  · refine ⟨?_, h.s, ?_, h.trec, h.cid, h.seq, h.loop, h.lm⟩
    · simp only [hl, hc]
    · simp only [hl]
  · rw [hc]; exact same_c h _

theorem same_ite {c : Prop} [Decidable c] {a a' b b' : Task} (h : c → SameRegs a a') (k : ¬ c → SameRegs b b') :
    SameRegs (if c then a else b) (if c then a' else b') := by
  split
  · exact h ‹_›
  · exact k ‹_›

theorem csrPut_same {t t' : Task} (h : SameRegs t t') (e : Eng) (n : Nat) (v : W64) : SameRegs (csrPut t e n v) (csrPut t' e n v) := by
  unfold csrPut
  dsimp only
  rw [h.c]
  refine same_ite (fun _ => same_c h _) fun _ => same_ite (fun _ => same_c h _) fun _ => same_ite (fun _ => same_c h _) fun _ =>
    same_ite (fun _ => same_c h _) fun _ => same_ite (fun _ => same_c h _) fun _ => same_ite (fun _ => same_c h _) fun _ =>
    same_ite (fun _ => same_c h _) fun _ => same_ite (fun _ => same_c h _) fun _ => same_ite (fun _ => same_c h _) fun _ =>
    same_ite (fun _ => same_c h _) fun _ => same_ite (fun _ => same_c h _) fun _ => same_ite (fun _ => same_c h _) fun _ =>
    same_ite (fun _ => same_c h _) fun _ => same_ite (fun _ => same_c h _) fun _ => same_ite (fun _ => same_c h _) fun _ =>
    same_ite (fun _ => same_c h _) fun _ => same_ite (fun _ => same_c h _) fun _ =>
    same_ite (fun _ => same_modLoop h e fun l => l.setCount (n - 0x020) (v.extractLsb' 0 32)) fun _ => ?_
  split
  · exact same_modLoop h e fun l => { l with sn := l.sn.set (n - 0x026) (v.extractLsb' 0 32) (by omega) }
  · exact same_ite (fun _ => same_rdvWrite h _) fun _ => same_ite (fun _ => same_c h _) fun _ => same_ite (fun _ => same_c h _) fun _ =>
      same_ite (fun _ => same_c h _) fun _ => h

theorem same_rdvOr {t t' : Task} (h : SameRegs t t') (v : W64) : SameRegs (t.rdvOr v) (t'.rdvOr v) := by
  have hc := h.c
  have ha := h.arr
  unfold Task.rdvOr
  dsimp only
  rw [hc]
  refine same_ite (fun _ => same_rdvWrite h _) fun _ => ⟨?_, h.s, h.arr, h.trec, h.cid, h.seq, h.loop, h.lm⟩
  simp only [ha]
theorem same_rdvAnd {t t' : Task} (h : SameRegs t t') (v : W64) : SameRegs (t.rdvAnd v) (t'.rdvAnd v) := by
  have hc := h.c
  have ha := h.arr
  unfold Task.rdvAnd
  refine ⟨?_, h.s, h.arr, h.trec, h.cid, h.seq, h.loop, h.lm⟩
  simp only [hc, ha]

theorem taskEff_same {t t' : Task} (h : SameRegs t t') (e : Eng) (f : Eff) : SameRegs (taskEff e t f) (taskEff e t' f) := by
  cases f <;> simp only [taskEff]
  all_goals first | exact h | skip
  · exact ⟨h.c, by simp only [h.s], h.arr, h.trec, h.cid, h.seq, h.loop, h.lm⟩
  · split
    · exact h
    · exact csrPut_same h e _ _
  · split
    · exact h
    · exact same_ite (fun _ => same_rdvOr h _) fun _ => by rw [csrGet_same h]; exact csrPut_same h e _ _
  · split
    · exact h
    · exact same_ite (fun _ => same_rdvAnd h _) fun _ => by rw [csrGet_same h]; exact csrPut_same h e _ _
  · exact same_modLoop h e fun l => l.setCount _ _
  · rename_i k x
    split
    · exact same_modLoop h e fun l =>
        let l' := { l with sstr := l.sstr.set k x }
        if l'.run then l' else { l' with str := l'.str.set k x }
    · exact same_modLoop h e id
  · rename_i len
    exact same_modLoop h e fun l => { l with n := l.sn, str := l.sstr, idx := Vector.replicate 6 0, len := len, run := true }
  · exact same_modLoop h e fun l => { l with run := false }
  · rw [h.c]; exact same_c h _
  · unfold dmagAdd; rw [h.c]; exact same_c h _

theorem viewEff_same {t t' : Task} (h : SameRegs t t') (e : Eng) (f : Eff) : SameRegs (viewEff e t f) (viewEff e t' f) := by
  unfold viewEff
  split
  · exact h
  · exact h
  · exact taskEff_same h e f

theorem view_same {t t' : Task} (h : SameRegs t t') (e : Eng) (fs : List Eff) :
    SameRegs (fs.foldl (viewEff e) t) (fs.foldl (viewEff e) t') := by
  induction fs generalizing t t' with
  | nil => exact h
  | cons f fs ih => exact ih (viewEff_same h e f)

/-- Effects the stream does not see in its own registers. -/
def Eff.hidden : Eff → Bool
  | .entry _ | .cmd _ | .gexp _ _ _ | .ginit _ _ | .hset _ _ _ _ | .hfree _ | .drain _ | .mclr | .yield | .abort | .eret
  | .segb _ _ | .sege | .stage _ _ => true
  | _ => false

theorem viewEff_hidden (e : Eng) (t : Task) {f : Eff} (h : f.hidden = true) : viewEff e t f = t := by
  cases f <;> first | rfl | exact absurd h Bool.false_ne_true

theorem view_hidden (e : Eng) (t : Task) (fs : List Eff) (h : ∀ f ∈ fs, f.hidden = true) : fs.foldl (viewEff e) t = t := by
  induction fs with
  | nil => rfl
  | cons f fs ih =>
    rw [List.foldl_cons, viewEff_hidden e t (h f (by simp))]
    exact ih fun g hg => h g (by simp [hg])

/-! ## States that a stream sees alike -/

/-- Two states in which the moving stream reads the same control and stream registers. -/
structure Sees (s t : State) : Prop where
  cur : t.cur = s.cur
  shells : t.shells = s.shells
  cycle : t.cycle = s.cycle
  my : SameRegs s.my t.my
  effs : ∃ fs : List Eff, t.effs = s.effs ++ fs ∧ ∀ f ∈ fs, f.hidden = true

theorem Sees.refl (s : State) : Sees s s := ⟨rfl, rfl, rfl, .refl _, [], by simp, by simp⟩
theorem Sees.trans {s t u : State} (h : Sees s t) (k : Sees t u) : Sees s u := by
  obtain ⟨fs, he, hh⟩ := h.effs
  obtain ⟨gs, ke, kh⟩ := k.effs
  exact ⟨k.cur.trans h.cur, k.shells.trans h.shells, k.cycle.trans h.cycle, h.my.trans k.my, fs ++ gs, by rw [ke, he, List.append_assoc],
    fun f hf => (List.mem_append.mp hf).elim (hh f) (kh f)⟩

theorem Sees.view {s t : State} (h : Sees s t) : SameRegs s.view t.view := by
  obtain ⟨fs, he, hh⟩ := h.effs
  unfold State.view
  rw [he, h.cur, List.foldl_append, view_hidden _ _ fs hh]
  exact view_same h.my _ _

theorem Sees.csr {s t : State} (h : Sees s t) (n : Nat) : t.csr n = s.csr n := by
  have hv := h.view
  obtain ⟨fs, he, hh⟩ := h.effs
  unfold State.csr
  split
  · rw [he, List.foldl_append, h.my.c]
    generalize List.foldl _ _ s.effs = v
    revert hh
    clear he
    induction fs generalizing v with
    | nil => intro _; rfl
    | cons f fs ih =>
      intro hh
      rw [List.foldl_cons]
      have hf := hh f (by simp)
      cases f <;> first | exact absurd hf Bool.false_ne_true | exact ih _ fun g hg => hh g (by simp [hg])
  · rw [h.cur]
    have : csrGet t t.view s.cur n = csrGet s t.view s.cur n := by
      unfold csrGet State.lease shellAt
      rw [h.shells, h.cycle]
    rw [this, csrGet_same hv]

theorem Sees.sreg {s t : State} (h : Sees s t) (i : BitVec 4) : t.sreg i = s.sreg i := by
  unfold State.sreg
  rw [h.view.s]

/-- An update of the moving task that keeps what its stream sees and its block's effects. -/
theorem sees_modMy (s : State) (f : Task → Task) (h : SameRegs s.my (f s.my))
    (hb : ((f s.my).stm s.cur.eng).blk.map Block.effs = s.me.blk.map Block.effs) : Sees s (s.modMy f) := by
  refine ⟨rfl, rfl, rfl, by rw [my_modMy]; exact h, [], ?_, by simp⟩
  rw [List.append_nil]
  unfold State.effs State.blk State.me
  rw [my_modMy]
  show (match ((f s.my).stm s.cur.eng).blk with | some b => b.effs | none => []) = _
  unfold State.me at hb
  revert hb
  cases ((f s.my).stm s.cur.eng).blk <;> cases (s.my.stm s.cur.eng).blk <;> simp

theorem same_modStm (t : Task) (e : Eng) (f : EStream → EStream) (hl : (f (t.stm e)).loop = (t.stm e).loop)
    (hm : (f (t.stm e)).lm = (t.stm e).lm) : SameRegs t (t.modStm e f) := by
  refine ⟨rfl, rfl, rfl, rfl, rfl, rfl, ?_, ?_⟩ <;> intro g <;> by_cases hg : g = e
  · subst hg; rw [stm_modStm]; exact hl
  · rw [stm_modStm_other _ _ hg]
  · subst hg; rw [stm_modStm]; exact hm
  · rw [stm_modStm_other _ _ hg]

theorem sees_modMe (s : State) (f : EStream → EStream) (hl : (f s.me).loop = s.me.loop) (hm : (f s.me).lm = s.me.lm)
    (hb : (f s.me).blk.map Block.effs = s.me.blk.map Block.effs) : Sees s (s.modMe f) :=
  sees_modMy s _ (same_modStm _ _ _ hl hm) (by rw [stm_modStm]; exact hb)

theorem sees_setX (s : State) (d : R5) (v : W64) : Sees s (s.setX d v) := by
  refine sees_modMe s _ ?_ ?_ ?_ <;> (unfold EStream.setX; split <;> rfl)
theorem sees_setP (s : State) (d : R5) (v : W64) : Sees s (s.setP d v) := by
  refine sees_modMe s _ ?_ ?_ ?_ <;> (unfold EStream.setP; split <;> rfl)
theorem sees_putV (s : State) (d : R6) (v : Vector W32 64) : Sees s (s.putV d v) :=
  sees_modMy s _ ⟨rfl, rfl, rfl, rfl, rfl, rfl, fun _ => rfl, fun _ => rfl⟩ rfl
theorem sees_cleanRow (s : State) (r : Ref) (d : R6) (on : W64) : Sees s (s.cleanRow r d on) := by
  unfold State.cleanRow
  dsimp only
  split
  · exact .refl s
  · exact ⟨rfl, rfl, rfl, .refl _, [], by rw [List.append_nil]; rfl, by simp⟩
theorem sees_next (s : State) : Sees s s.next := by
  refine sees_modMe s _ rfl rfl ?_
  cases s.me.blk with
  | none => rfl
  | some b => simp only [Option.map_some, Block.advance]; split <;> rfl
theorem sees_held (s : State) (h : Hold) : Sees s (s.held h) := sees_modMe s _ rfl rfl rfl
theorem sees_dropViews (s : State) (core cid : Nat) (sc : Scope) : Sees s (s.dropViews core cid sc) := by
  have hm := task_trigLeave s.tasks core cid
    ((s.views.filter fun v => v.core == core && v.cid == cid && scopeDie sc core (v.line * 64 / 2 ^ 45)).map fun v => v.line * 64 / 256)
    (slotKey s.cur.core s.cur.slot)
  have hmy : ∃ ls, (s.dropViews core cid sc).my = s.my ∨
      (s.dropViews core cid sc).my = { s.my with st := s.my.st.map (EStream.trigger ls) } := ⟨_, hm⟩
  obtain ⟨ls, h⟩ := hmy
  refine ⟨rfl, rfl, rfl, ?_, [], ?_, by simp⟩
  · rcases h with h | h <;> rw [h]
    · exact .refl _
    · exact ⟨rfl, rfl, rfl, rfl, rfl, rfl, fun e => by rw [stm_trigger]; rfl, fun e => by rw [stm_trigger]; rfl⟩
  · have hb : (s.dropViews core cid sc).me.blk.map Block.effs = s.me.blk.map Block.effs := by
      show (((s.dropViews core cid sc).my.stm s.cur.eng).blk).map Block.effs = ((s.my.stm s.cur.eng).blk).map Block.effs
      rcases h with h | h <;> rw [h]
      rw [stm_trigger]
      unfold EStream.trigger EStream.trig
      cases (s.my.stm s.cur.eng).blk with
      | none => rfl
      | some b => simp only [Option.map_some]; split <;> rfl
    rw [List.append_nil]
    unfold State.effs State.blk
    revert hb
    cases (s.dropViews core cid sc).me.blk <;> cases s.me.blk <;> simp
theorem sees_acquire (s : State) (sc : Scope) : Sees s (s.acquire sc) := sees_dropViews _ _ _ _

/-- An effect of the block that its own stream does not see. -/
theorem sees_addEff (s : State) (f : Eff) (hf : f.hidden = true) : Sees s (s.addEff f) := by
  refine ⟨rfl, rfl, rfl, ?_, ?_⟩
  · show SameRegs s.my (s.modMy _).my
    rw [my_modMy]
    exact same_modStm _ _ _ rfl rfl
  · have hb : (s.addEff f).me.blk = s.me.blk.map fun b => { b with effs := b.effs ++ [f] } := by
      show ((s.modMy _).my.stm s.cur.eng).blk = _
      rw [my_modMy, stm_modStm]; rfl
    unfold State.effs State.blk
    rw [hb]
    cases s.me.blk with
    | none => exact ⟨[], rfl, by simp⟩
    | some b => exact ⟨[f], rfl, by simpa using hf⟩

theorem sees_fold {α : Type} (g : State → α → State) (h : ∀ s a, Sees s (g s a)) (l : List α) (s : State) : Sees s (l.foldl g s) := by
  induction l generalizing s with
  | nil => exact .refl s
  | cons a l ih => exact (h s a).trans (ih _)

theorem sees_tokens (s : State) (f : Sync) : Sees s (s.tokens f) := by
  unfold State.tokens
  have h1 : ∀ (s : State) (k : Nat), Sees s ((s.modMy fun t => t.takeTok k).modBlk fun b => { b with taken := b.taken ++ [.token k] }) := by
    intro s k
    refine (sees_modMy s _ ?_ ?_).trans (sees_modMe _ _ rfl rfl ?_)
    · unfold Task.takeTok; split <;> exact ⟨rfl, rfl, rfl, rfl, rfl, rfl, fun _ => rfl, fun _ => rfl⟩
    · unfold Task.takeTok; split <;> rfl
    · dsimp only; rw [Option.map_map]; rfl
  refine Sees.trans ?_ (sees_fold _ (fun s k => sees_addEff s _ rfl) _ _)
  split
  · exact sees_fold _ h1 _ _
  · exact (sees_fold _ h1 _ _).trans (sees_acquire _ _)

/-- An issue changes nothing that the stream reads of its control and stream registers. -/
theorem sees_issued (s : State) (f : Sync) : Sees s (s.issued f) := (sees_tokens s f).trans (sees_next _)

end Sys2Proof.Machine
end

