-- ==== Sys2Proof/Laws/Lanes.lean ====
section
/-! SUPPORT. Vector registers: what a masked write and a whole write leave, with the flags that join VSTAT. -/

namespace Sys2Proof.Machine

open Sys2Proof

theorem x_modBlk (s : State) (f : Block → Block) (a : R5) : (s.modBlk f).x a = s.x a := (kept_modBlk s f).x a (by simp)
theorem x_addEff (s : State) (f : Eff) (a : R5) : (s.addEff f).x a = s.x a := (kept_addEff s f).x a (by simp)
theorem p_addEff (s : State) (f : Eff) (a : R5) : (s.addEff f).p a = s.p a := (kept_addEff s f).p a (by simp)
theorem v_addEff (s : State) (f : Eff) (a : R6) : (s.addEff f).v a = s.v a := (kept_addEff s f).v a (by simp)
theorem x_issued (s : State) (f : Sync) (a : R5) : (s.issued f).x a = s.x a := (kept_issued s f).x a (by simp)
theorem p_issued (s : State) (f : Sync) (a : R5) : (s.issued f).p a = s.p a := (kept_issued s f).p a (by simp)
theorem v_issued (s : State) (f : Sync) (a : R6) : (s.issued f).v a = s.v a := (kept_issued s f).v a (by simp)
theorem mem_issued (s : State) (f : Sync) : (s.issued f).mem = s.mem := (kept_issued s f).device.mem
theorem x_putV (s : State) (d : R6) (r : Vector W32 64) (a : R5) : (s.putV d r).x a = s.x a := (kept_putV s d r).x a (by simp)
theorem p_putV (s : State) (d : R6) (r : Vector W32 64) (a : R5) : (s.putV d r).p a = s.p a := (kept_putV s d r).p a (by simp)
theorem x_cleanRow (s : State) (r : Ref) (d : R6) (on : W64) (a : R5) : (s.cleanRow r d on).x a = s.x a := by
  unfold State.cleanRow; dsimp only; split <;> rfl
theorem p_cleanRow (s : State) (r : Ref) (d : R6) (on : W64) (a : R5) : (s.cleanRow r d on).p a = s.p a := by
  unfold State.cleanRow; dsimp only; split <;> rfl
theorem v_cleanRow (s : State) (r : Ref) (d : R6) (on : W64) (a : R6) : (s.cleanRow r d on).v a = s.v a := by
  unfold State.cleanRow; dsimp only; split <;> rfl
theorem mem_cleanRow (s : State) (r : Ref) (d : R6) (on : W64) : (s.cleanRow r d on).mem = s.mem := by
  unfold State.cleanRow; dsimp only; split <;> rfl
theorem blk_cleanRow (s : State) (r : Ref) (d : R6) (on : W64) : (s.cleanRow r d on).blk = s.blk := by
  unfold State.cleanRow; dsimp only; split <;> rfl

theorem blk_putV (s : State) (d : R6) (r : Vector W32 64) : (s.putV d r).blk = s.blk := by
  unfold State.blk State.me State.putV
  rw [my_modMy]; rfl
theorem effs_addEff {s : State} (h : s.blk.isSome = true) (f : Eff) : (s.addEff f).effs = s.effs ++ [f] := by
  obtain ⟨b, hb⟩ := Option.isSome_iff_exists.mp h
  have hb' : (s.addEff f).blk = s.blk.map fun b => { b with effs := b.effs ++ [f] } := by
    show ((s.modMe _).me).blk = _
    rw [me_modMe]; rfl
  unfold State.effs
  rw [hb', hb]; rfl

/-- VSTAT after flags of an open block (R230). -/
theorem csr_flags {s : State} (h : s.blk.isSome = true) (f : Fl) : (s.flags f).csr 0x006 = s.csr 0x006 ||| (f &&& csrMask 0x006) := by
  unfold State.flags
  split
  · rename_i h0; subst h0; simp
  · have hv : ∀ u : State, u.csr 0x006 = u.view.c.vstat := fun _ => rfl
    rw [hv, hv]
    have hs : SameRegs (taskEff s.cur.eng s.view (.csrOr 0x006 f)) (s.addEff (.csrOr 0x006 f)).view := by
      unfold State.view
      rw [effs_addEff h, List.foldl_append]
      refine taskEff_same ?_ _ _
      refine view_same ?_ _ _
      show SameRegs s.my (s.modMy _).my
      rw [my_modMy]
      exact same_modStm _ _ _ rfl rfl
    rw [hs.c]
    show (((s.view.c.vstat ||| f) &&& csrMask 0x006) ||| (s.view.c.vstat &&& ~~~(csrMask 0x006))) = _
    generalize s.view.c.vstat = a
    generalize csrMask 0x006 = m
    ext i hi
    simp only [BitVec.getElem_or, BitVec.getElem_and, BitVec.getElem_not]
    cases a[i] <;> cases f[i] <;> cases m[i] <;> rfl

theorem x_flags (s : State) (f : Fl) (a : R5) : (s.flags f).x a = s.x a := by unfold State.flags; split; rfl; exact x_addEff _ _ _
theorem p_flags (s : State) (f : Fl) (a : R5) : (s.flags f).p a = s.p a := by unfold State.flags; split; rfl; exact p_addEff _ _ _
theorem v_flags (s : State) (f : Fl) (a : R6) : (s.flags f).v a = s.v a := by unfold State.flags; split; rfl; exact v_addEff _ _ _
theorem mem_flags (s : State) (f : Fl) : (s.flags f).mem = s.mem := by unfold State.flags; split <;> rfl

theorem laneAt_ofFn (f : Fin 64 → W32) {l : Nat} (h : l < 64) : laneAt (Vector.ofFn f) l = f ⟨l, h⟩ := by simp [laneAt, h]

theorem laneFlags_toList (s : State) (pred : R5) (vd : R6) (f : Nat → W32 × Fl) :
    orFlags ((Vector.ofFn fun i : Fin 64 => if laneOn s pred i.val then f i.val else ((s.v vd)[i], 0)).toList.map (·.2)) =
      laneFlags s pred f := by
  have : (Vector.ofFn fun i : Fin 64 => if laneOn s pred i.val then f i.val else ((s.v vd)[i], (0 : Fl))).toList.map (·.2) =
      (List.range 64).map fun l => if laneOn s pred l then (f l).2 else 0 := by
    refine List.ext_getElem (by simp) fun i h1 h2 => ?_
    rw [List.getElem_map, List.getElem_map, Vector.getElem_toList, Vector.getElem_ofFn, List.getElem_range]
    split <;> rfl
  rw [this]; rfl

/-- A masked write with its flags, issued. -/
theorem setLanes_written {s : State} (h : s.blk.isSome = true) (pred : R5) (vd : R6) (f : Nat → W32 × Fl) (fl : Sync) :
    LanesWritten s ((s.setLanes pred vd f).issued fl) pred vd f where
  lanes l hl := by
    rw [v_issued, State.setLanes, v_flags, v_cleanRow, v_putV, if_pos rfl]
    simp only [laneAt, hl, dite_true, Vector.getElem_map, Vector.getElem_ofFn]
    split <;> rfl
  rows v hv := by rw [v_issued, State.setLanes, v_flags, v_cleanRow, v_putV, if_neg hv]
  x a := by rw [x_issued, State.setLanes, x_flags, x_cleanRow, x_putV]
  p a := by rw [p_issued, State.setLanes, p_flags, p_cleanRow, p_putV]
  vstat := by
    rw [(sees_issued _ _).csr, State.setLanes, csr_flags (by rw [blk_cleanRow, blk_putV]; exact h),
      ((sees_putV _ _ _).trans (sees_cleanRow _ _ _ _)).csr]
    rw [laneFlags_toList]
  mem := by rw [mem_issued, State.setLanes, mem_flags, mem_cleanRow]; rfl

/-- A write of a whole row with flags, issued. -/
theorem setV_written {s : State} (h : s.blk.isSome = true) (vd : R6) (f : Fin 64 → W32) (fl : Fl) (sy : Sync) :
    RowWritten s (((s.setV vd (Vector.ofFn f)).flags fl).issued sy) vd (fun l => if h : l < 64 then f ⟨l, h⟩ else 0) fl where
  lanes l hl := by rw [v_issued, v_flags, State.setV, v_cleanRow, v_putV, if_pos rfl, laneAt_ofFn _ hl, dif_pos hl]
  rows v hv := by rw [v_issued, v_flags, State.setV, v_cleanRow, v_putV, if_neg hv]
  x a := by rw [x_issued, x_flags, State.setV, x_cleanRow, x_putV]
  p a := by rw [p_issued, p_flags, State.setV, p_cleanRow, p_putV]
  vstat := by
    rw [(sees_issued _ _).csr, csr_flags (by rw [State.setV, blk_cleanRow, blk_putV]; exact h), State.setV,
      ((sees_putV _ _ _).trans (sees_cleanRow _ _ _ _)).csr]
  mem := by rw [mem_issued, mem_flags, State.setV, mem_cleanRow]; rfl

/-- A masked vector instruction that nothing holds (R274). -/
theorem vecOp_next {s : State} {g : Guard} {us : Uses} {rd : List R6} {vd : R6} (f : State → Nat → W32 × Fl) (h : IssuesVV s g us rd) :
    ∃ t, vecOp g us rd vd f s = .next t ∧ LanesWritten s t g.pred vd (f s) :=
  ⟨_, issueVV_go h rfl, setLanes_written h.1.opened _ _ _ _⟩

end Sys2Proof.Machine
end

