-- ==== Sys2Proof/Laws/PerInstr.lean ====
section
/-! SUPPORT. For each instruction, that the fields its encoding gives it are read back as the instruction itself. -/

set_option linter.unusedSimpArgs false

namespace Sys2Proof.Laws.RoundTrip

/-- The fields that encode an instruction decode to it. -/
def Statement (i : Instr) : Prop := ∀ e, i.enc = some e → e.instr = .ok i

theorem hi {m n : Nat} (a : BitVec m) (b : BitVec n) : (a ++ b).extractLsb' n m = a := by
  ext i h; simp [BitVec.getElem_extractLsb', BitVec.getLsbD_append, BitVec.getLsbD_eq_getElem h]
theorem lo {m n : Nat} (a : BitVec m) (b : BitVec n) : (a ++ b).extractLsb' 0 n = b := by
  ext i h; simp [BitVec.getElem_extractLsb', BitVec.getLsbD_append, h]
theorem mid {k m n : Nat} (a : BitVec k) (b : BitVec m) (c : BitVec n) : (a ++ b ++ c).extractLsb' n m = b := by
  ext i h
  simp only [BitVec.getElem_extractLsb', BitVec.getLsbD_append]
  rw [if_neg (by omega), if_pos (by omega), ← BitVec.getLsbD_eq_getElem h]; congr 1; omega
theorem top {k m n : Nat} (a : BitVec k) (b : BitVec m) (c : BitVec n) : (a ++ b ++ c).extractLsb' (n + m) k = a := by
  ext i h
  simp only [BitVec.getElem_extractLsb', BitVec.getLsbD_append]
  rw [if_neg (by omega), if_neg (by omega), ← BitVec.getLsbD_eq_getElem h]; congr 1; omega
@[simp] theorem spaceOf_code (s : Space) : spaceOf s.code = .ok s := by cases s <;> rfl
@[simp] theorem scopeOf_code (s : Scope) : scopeOf s.code = .ok s := by cases s <;> rfl
@[simp] theorem orderOf_code (o : Order) : Order.ofCode o.code = o := by cases o <;> rfl
@[simp] theorem typeOf_code (t : Ty) : typeOf t.code = .ok t := by cases t <;> rfl

theorem powerGood (fwOk : Bool) : Statement (.powerGood fwOk) := nofun
theorem pcieFundamentalReset (fwOk : Bool) : Statement (.pcieFundamentalReset fwOk) := nofun
theorem packageReset (fwOk : Bool) : Statement (.packageReset fwOk) := nofun
theorem dieSelfTestDone (die : Nat) : Statement (.dieSelfTestDone die) := nofun
theorem getVersion (die : Nat) (versions : List Nat) : Statement (.getVersion die versions) := nofun
theorem getCapabilities (die : Nat) (flags : BitVec 6) : Statement (.getCapabilities die flags) := nofun
theorem negotiateAlgorithms (die : Nat) (selected : BitVec 5) : Statement (.negotiateAlgorithms die selected) := nofun
theorem getDigests (die : Nat) (slot0 : Option Nat) : Statement (.getDigests die slot0) := nofun
theorem getCertificate (die : Nat) (digest : Nat) (root : Cert) (inter : Cert) (leaf : Cert) : Statement (.getCertificate die digest root inter leaf) := nofun
theorem challenge (die : Nat) (sigOk : Bool) : Statement (.challenge die sigOk) := nofun
theorem getMeasurements (die : Nat) (sigOk : Bool) (ms : List Nat) : Statement (.getMeasurements die sigOk ms) := nofun
theorem keyExchange (die : Nat) (sigOk : Bool) : Statement (.keyExchange die sigOk) := nofun
theorem finish (die : Nat) (verifyOk : Bool) : Statement (.finish die verifyOk) := nofun
theorem spdmResponseTimeout (die : Nat) : Statement (.spdmResponseTimeout die) := nofun
theorem keyinstall (link : Nat) (dir : Nat) (key : Nat) : Statement (.keyinstall link dir key) := nofun
theorem dieBringupDone (die : Nat) : Statement (.dieBringupDone die) := nofun
theorem flitReceive (link : Nat) (dir : Nat) (count : Nat) (intact : Bool) (flit : Flit) (tag : BitVec 128) : Statement (.flitReceive link dir count intact flit tag) := nofun
theorem flitAck (link : Nat) (dir : Nat) : Statement (.flitAck link dir) := nofun
theorem rolloverStart (link : Nat) (dir : Nat) (key : Nat) : Statement (.rolloverStart link dir key) := nofun
theorem dierstWrite (fn : Nat) (v : W64) : Statement (.dierstWrite fn v) := nofun
theorem dieResetScrubDone (die : Nat) : Statement (.dieResetScrubDone die) := nofun
theorem glitchAlarm (die : Nat) : Statement (.glitchAlarm die) := nofun
theorem meshBreach (die : Nat) : Statement (.meshBreach die) := nofun
theorem powerWindow (watts : Nat) (cdie : Nat) (mdie : Nat) (hbm : Nat) : Statement (.powerWindow watts cdie mdie hbm) := nofun
theorem clockRaise : Statement (.clockRaise) := nofun
theorem thermalTrip (cdie : Nat) (mdie : Nat) (hbm : Nat) : Statement (.thermalTrip cdie mdie hbm) := nofun
theorem hbmSelfRefresh (stack : Nat) : Statement (.hbmSelfRefresh stack) := nofun
theorem shellGate (eight : Nat) : Statement (.shellGate eight) := nofun
theorem bar4Read (fn : Nat) (off : Nat) (n : Nat) : Statement (.bar4Read fn off n) := nofun
theorem bar4Write (fn : Nat) (off : Nat) (data : List Byte) : Statement (.bar4Write fn off data) := nofun
theorem kickWrite (fn : Nat) (stream : Nat) (v : W64) : Statement (.kickWrite fn stream v) := nofun
theorem taskRecordFetch (stream : Nat) : Statement (.taskRecordFetch stream) := nofun
theorem replayRecord (stream : Nat) : Statement (.replayRecord stream) := nofun
theorem patchRecord (stream : Nat) : Statement (.patchRecord stream) := nofun
theorem reservedRecord (stream : Nat) : Statement (.reservedRecord stream) := nofun
theorem completionPost (fn : Nat) : Statement (.completionPost fn) := nofun
theorem completionIrqTimer (fn : Nat) : Statement (.completionIrqTimer fn) := nofun
theorem crheadWrite (fn : Nat) (v : W64) : Statement (.crheadWrite fn v) := nofun
theorem crsizeWrite (fn : Nat) (v : W64) : Statement (.crsizeWrite fn v) := nofun
theorem mdctlRunSet (fn : Nat) (stream : Nat) : Statement (.mdctlRunSet fn stream) := nofun
theorem mdctlRunClear (fn : Nat) (stream : Nat) : Statement (.mdctlRunClear fn stream) := nofun
theorem mdctlExact (fn : Nat) (stream : Nat) (on : Bool) : Statement (.mdctlExact fn stream on) := nofun
theorem mdctlRefine (fn : Nat) (stream : Nat) (on : Bool) : Statement (.mdctlRefine fn stream on) := nofun
theorem auprodReread (stream : Nat) : Statement (.auprodReread stream) := nofun
theorem accessUnitDecode (stream : Nat) (r : AuResult) (use : AuUse) : Statement (.accessUnitDecode stream r use) := nofun
theorem pictureOutput (stream : Nat) : Statement (.pictureOutput stream) := nofun
theorem relcntReread (stream : Nat) : Statement (.relcntReread stream) := nofun
theorem cmuPass (stream : Nat) : Statement (.cmuPass stream) := nofun
theorem dispatchTurn (core : Nat) : Statement (.dispatchTurn core) := nofun
theorem ageExpiry (core : Nat) (tid : Nat) : Statement (.ageExpiry core tid) := nofun
theorem stealRequest (core : Nat) : Statement (.stealRequest core) := nofun
theorem quantumExpiry (core : Nat) : Statement (.quantumExpiry core) := nofun
theorem preemptSave (core : Nat) (slot : Nat) : Statement (.preemptSave core slot) := nofun
theorem taskResume (core : Nat) : Statement (.taskResume core) := nofun
theorem taskEnd (core : Nat) (slot : Nat) : Statement (.taskEnd core slot) := nofun
theorem leaseGrant (eight : Nat) : Statement (.leaseGrant eight) := nofun
theorem leaseCap (eight : Nat) : Statement (.leaseCap eight) := nofun
theorem abortLineArrival (core : Nat) (slot : Nat) : Statement (.abortLineArrival core slot) := nofun
theorem blockCommit : Statement (.blockCommit) := nofun
theorem deferredTrap : Statement (.deferredTrap) := nofun
theorem markerRetire (r : Ref) : Statement (.markerRetire r) := nofun
theorem mwaitTimeout (r : Ref) : Statement (.mwaitTimeout r) := nofun
theorem commandComplete (r : Ref) : Statement (.commandComplete r) := nofun
theorem handleFull (core : Nat) (slot : Nat) (h : R5) : Statement (.handleFull core slot h) := nofun
theorem handleFree (core : Nat) (slot : Nat) (h : R5) : Statement (.handleFree core slot h) := nofun
theorem hstallTimeout (r : Ref) : Statement (.hstallTimeout r) := nofun
theorem memPerform (uid : Nat) : Statement (.memPerform uid) := nofun
theorem viewServe (uid : Nat) : Statement (.viewServe uid) := nofun
theorem viewFill (core : Nat) (cid : Nat) (addr : Nat) : Statement (.viewFill core cid addr) := nofun
theorem viewDrop (core : Nat) (cid : Nat) (addr : Nat) : Statement (.viewDrop core cid addr) := nofun
theorem fqresRetry (fn : Nat) (tag : Nat) : Statement (.fqresRetry fn tag) := nofun
theorem fqresFatal (fn : Nat) (tag : Nat) : Statement (.fqresFatal fn tag) := nofun
theorem sideLogReplay (core : Nat) (uid : Nat) : Statement (.sideLogReplay core uid) := nofun
theorem tlbcmdWrite (fn : Nat) (v : W64) : Statement (.tlbcmdWrite fn v) := nofun
theorem tlbInvalidateDone : Statement (.tlbInvalidateDone) := nofun
theorem kcfgApply (eight : Nat) : Statement (.kcfgApply eight) := nofun
theorem ctxkillWrite (fn : Nat) (v : W64) : Statement (.ctxkillWrite fn v) := nofun
theorem killDrainEnd : Statement (.killDrainEnd) := nofun
theorem birthRetry (cid : Nat) (die : Nat) (reg : Nat) : Statement (.birthRetry cid die reg) := nofun
theorem l2Evict (die : Nat) (paddr : Nat) : Statement (.l2Evict die paddr) := nofun
theorem teRingPoll (ring : Nat) : Statement (.teRingPoll ring) := nofun
theorem teNop (ring : Nat) : Statement (.teNop ring) := nofun
theorem tePict (ring : Nat) : Statement (.tePict ring) := nofun
theorem teTransp (ring : Nat) : Statement (.teTransp ring) := nofun
theorem teFconv (ring : Nat) : Statement (.teFconv ring) := nofun
theorem teRecomp (ring : Nat) : Statement (.teRecomp ring) := nofun
theorem teCbload (ring : Nat) : Statement (.teCbload ring) := nofun
theorem teBadop (ring : Nat) : Statement (.teBadop ring) := nofun
theorem teRequestComplete (ring : Nat) : Statement (.teRequestComplete ring) := nofun
theorem snaptrgWrite (fn : Nat) (v : W64) : Statement (.snaptrgWrite fn v) := nofun
theorem snapinEdge (ns : Nat) : Statement (.snapinEdge ns) := nofun
theorem snapshotLatch : Statement (.snapshotLatch) := nofun
theorem snaparmWrite (fn : Nat) (v : W64) : Statement (.snaparmWrite fn v) := nofun
theorem scrubPass (die : Nat) (store : Nat) (addr : Nat) (errs : Nat) : Statement (.scrubPass die store addr errs) := nofun
theorem registerWrite (fn : Nat) (bar : Nat) (off : Nat) (v : W64) : Statement (.registerWrite fn bar off v) := nofun
theorem softError (die : Nat) (store : Nat) (addr : Nat) (bits : List Nat) : Statement (.softError die store addr bits) := nofun
theorem blockHeader (f : Sync) (ni : BitVec 5) (nx : BitVec 2) (ac : Bool) : Statement (.blockHeader f ni nx ac) := fun _ h => by cases h; cases ac <;> rfl
theorem jump (f : Sync) (pred : R5) (disp : BitVec 14) : Statement (.jump f pred disp) := fun _ h => by cases h; rfl
theorem call (f : Sync) (pred : R5) (disp : BitVec 14) : Statement (.call f pred disp) := fun _ h => by cases h; rfl
theorem ret (f : Sync) (pred : R5) : Statement (.ret f pred) := fun _ h => by cases h; rfl
theorem done (f : Sync) (pred : R5) : Statement (.done f pred) := fun _ h => by cases h; rfl
theorem add (f : Sync) (d : R5) (a : R5) (b : R5) : Statement (.add f d a b) := fun _ h => by cases h; rfl
theorem sub (f : Sync) (d : R5) (a : R5) (b : R5) : Statement (.sub f d a b) := fun _ h => by cases h; rfl
theorem and (f : Sync) (d : R5) (a : R5) (b : R5) : Statement (.and f d a b) := fun _ h => by cases h; rfl
theorem or (f : Sync) (d : R5) (a : R5) (b : R5) : Statement (.or f d a b) := fun _ h => by cases h; rfl
theorem xor (f : Sync) (d : R5) (a : R5) (b : R5) : Statement (.xor f d a b) := fun _ h => by cases h; rfl
theorem andn (f : Sync) (d : R5) (a : R5) (b : R5) : Statement (.andn f d a b) := fun _ h => by cases h; rfl
theorem sll (f : Sync) (d : R5) (a : R5) (b : R5) : Statement (.sll f d a b) := fun _ h => by cases h; rfl
theorem srl (f : Sync) (d : R5) (a : R5) (b : R5) : Statement (.srl f d a b) := fun _ h => by cases h; rfl
theorem sra (f : Sync) (d : R5) (a : R5) (b : R5) : Statement (.sra f d a b) := fun _ h => by cases h; rfl
theorem minS (f : Sync) (d : R5) (a : R5) (b : R5) : Statement (.minS f d a b) := fun _ h => by cases h; rfl
theorem minN (f : Sync) (d : R5) (a : R5) (b : R5) : Statement (.minN f d a b) := fun _ h => by cases h; rfl
theorem maxS (f : Sync) (d : R5) (a : R5) (b : R5) : Statement (.maxS f d a b) := fun _ h => by cases h; rfl
theorem maxN (f : Sync) (d : R5) (a : R5) (b : R5) : Statement (.maxN f d a b) := fun _ h => by cases h; rfl
theorem clz (f : Sync) (d : R5) (a : R5) : Statement (.clz f d a) := fun _ h => by cases h; rfl
theorem popc (f : Sync) (d : R5) (a : R5) : Statement (.popc f d a) := fun _ h => by cases h; rfl
theorem addW (f : Sync) (d : R5) (a : R5) (b : R5) : Statement (.addW f d a b) := fun _ h => by cases h; rfl
theorem subW (f : Sync) (d : R5) (a : R5) (b : R5) : Statement (.subW f d a b) := fun _ h => by cases h; rfl
theorem addi (f : Sync) (d : R5) (a : R5) (imm : BitVec 11) : Statement (.addi f d a imm) := fun _ h => by cases h; rfl
theorem andi (f : Sync) (d : R5) (a : R5) (imm : BitVec 11) : Statement (.andi f d a imm) := fun _ h => by cases h; rfl
theorem ori (f : Sync) (d : R5) (a : R5) (imm : BitVec 11) : Statement (.ori f d a imm) := fun _ h => by cases h; rfl
theorem xori (f : Sync) (d : R5) (a : R5) (imm : BitVec 11) : Statement (.xori f d a imm) := fun _ h => by cases h; rfl
theorem slli (f : Sync) (d : R5) (a : R5) (sh : BitVec 6) : Statement (.slli f d a sh) := fun _ h => by
  cases h; simp [Enc.instr, decRI08, req, hi 0#5 sh, lo 0#5 sh, bind, Except.bind, pure, Except.pure]
theorem srli (f : Sync) (d : R5) (a : R5) (sh : BitVec 6) : Statement (.srli f d a sh) := fun _ h => by
  cases h; simp [Enc.instr, decRI09, req, hi 0#5 sh, lo 0#5 sh, bind, Except.bind, pure, Except.pure]
theorem srai (f : Sync) (d : R5) (a : R5) (sh : BitVec 6) : Statement (.srai f d a sh) := fun _ h => by
  cases h; simp [Enc.instr, decRI0A, req, hi 0#5 sh, lo 0#5 sh, bind, Except.bind, pure, Except.pure]
theorem liw (f : Sync) (d : R5) (imm : W32) : Statement (.liw f d imm) := fun _ h => by cases h; rfl
theorem lih (f : Sync) (d : R5) (imm : W32) : Statement (.lih f d imm) := fun _ h => by cases h; rfl
theorem cmpEq (f : Sync) (d : R5) (a : R5) (b : R5) : Statement (.cmpEq f d a b) := fun _ h => by cases h; rfl
theorem cmpNe (f : Sync) (d : R5) (a : R5) (b : R5) : Statement (.cmpNe f d a b) := fun _ h => by cases h; rfl
theorem cmpLtS (f : Sync) (d : R5) (a : R5) (b : R5) : Statement (.cmpLtS f d a b) := fun _ h => by cases h; rfl
theorem cmpLtN (f : Sync) (d : R5) (a : R5) (b : R5) : Statement (.cmpLtN f d a b) := fun _ h => by cases h; rfl
theorem cmpGeS (f : Sync) (d : R5) (a : R5) (b : R5) : Statement (.cmpGeS f d a b) := fun _ h => by cases h; rfl
theorem cmpGeN (f : Sync) (d : R5) (a : R5) (b : R5) : Statement (.cmpGeN f d a b) := fun _ h => by cases h; rfl
theorem cmpiEq (g : Guard) (d : R5) (a : R5) (imm : BitVec 14) : Statement (.cmpiEq g d a imm) := fun _ h => by cases h; rfl
theorem cmpiNe (g : Guard) (d : R5) (a : R5) (imm : BitVec 14) : Statement (.cmpiNe g d a imm) := fun _ h => by cases h; rfl
theorem cmpiLtS (g : Guard) (d : R5) (a : R5) (imm : BitVec 14) : Statement (.cmpiLtS g d a imm) := fun _ h => by cases h; rfl
theorem cmpiLtN (g : Guard) (d : R5) (a : R5) (imm : BitVec 14) : Statement (.cmpiLtN g d a imm) := fun _ h => by cases h; rfl
theorem cmpiGeS (g : Guard) (d : R5) (a : R5) (imm : BitVec 14) : Statement (.cmpiGeS g d a imm) := fun _ h => by cases h; rfl
theorem cmpiGeN (g : Guard) (d : R5) (a : R5) (imm : BitVec 14) : Statement (.cmpiGeN g d a imm) := fun _ h => by cases h; rfl
theorem pand (f : Sync) (d : R5) (a : R5) (b : R5) : Statement (.pand f d a b) := fun _ h => by cases h; rfl
theorem por (f : Sync) (d : R5) (a : R5) (b : R5) : Statement (.por f d a b) := fun _ h => by cases h; rfl
theorem pxor (f : Sync) (d : R5) (a : R5) (b : R5) : Statement (.pxor f d a b) := fun _ h => by cases h; rfl
theorem pandn (f : Sync) (d : R5) (a : R5) (b : R5) : Statement (.pandn f d a b) := fun _ h => by cases h; rfl
theorem pnot (f : Sync) (d : R5) (a : R5) : Statement (.pnot f d a) := fun _ h => by cases h; rfl
theorem pmov (f : Sync) (d : R5) (a : R5) : Statement (.pmov f d a) := fun _ h => by cases h; rfl
theorem pall (f : Sync) (d : R5) (a : R5) : Statement (.pall f d a) := fun _ h => by cases h; rfl
theorem pnone (f : Sync) (d : R5) (a : R5) : Statement (.pnone f d a) := fun _ h => by cases h; rfl
theorem ppop (f : Sync) (d : R5) (a : R5) : Statement (.ppop f d a) := fun _ h => by cases h; rfl
theorem pfirst (f : Sync) (d : R5) (a : R5) : Statement (.pfirst f d a) := fun _ h => by cases h; rfl
theorem mul (f : Sync) (d : R5) (a : R5) (b : R5) : Statement (.mul f d a b) := fun _ h => by cases h; rfl
theorem mulhS (f : Sync) (d : R5) (a : R5) (b : R5) : Statement (.mulhS f d a b) := fun _ h => by cases h; rfl
theorem mulhN (f : Sync) (d : R5) (a : R5) (b : R5) : Statement (.mulhN f d a b) := fun _ h => by cases h; rfl
theorem divS (f : Sync) (d : R5) (a : R5) (b : R5) : Statement (.divS f d a b) := fun _ h => by cases h; rfl
theorem divN (f : Sync) (d : R5) (a : R5) (b : R5) : Statement (.divN f d a b) := fun _ h => by cases h; rfl
theorem remS (f : Sync) (d : R5) (a : R5) (b : R5) : Statement (.remS f d a b) := fun _ h => by cases h; rfl
theorem remN (f : Sync) (d : R5) (a : R5) (b : R5) : Statement (.remN f d a b) := fun _ h => by cases h; rfl
theorem mulW (f : Sync) (d : R5) (a : R5) (b : R5) : Statement (.mulW f d a b) := fun _ h => by cases h; rfl
theorem divWS (f : Sync) (d : R5) (a : R5) (b : R5) : Statement (.divWS f d a b) := fun _ h => by cases h; rfl
theorem divWN (f : Sync) (d : R5) (a : R5) (b : R5) : Statement (.divWN f d a b) := fun _ h => by cases h; rfl
theorem remWS (f : Sync) (d : R5) (a : R5) (b : R5) : Statement (.remWS f d a b) := fun _ h => by cases h; rfl
theorem remWN (f : Sync) (d : R5) (a : R5) (b : R5) : Statement (.remWN f d a b) := fun _ h => by cases h; rfl
theorem sel (g : Guard) (d : R5) (a : R5) (b : R5) (c : R5) : Statement (.sel g d a b c) := fun _ h => by cases h; rfl
theorem rdc (g : Guard) (d : R5) (n : BitVec 14) : Statement (.rdc g d n) := fun _ h => by cases h; rfl
theorem wrc (g : Guard) (a : R5) (n : BitVec 14) : Statement (.wrc g a n) := fun _ h => by cases h; rfl
theorem swpc (g : Guard) (d : R5) (a : R5) (n : BitVec 14) : Statement (.swpc g d a n) := fun _ h => by cases h; rfl
theorem setc (g : Guard) (d : R5) (a : R5) (n : BitVec 14) : Statement (.setc g d a n) := fun _ h => by cases h; rfl
theorem clrc (g : Guard) (d : R5) (a : R5) (n : BitVec 14) : Statement (.clrc g d a n) := fun _ h => by cases h; rfl
theorem nop (f : Sync) : Statement (.nop f) := fun _ h => by cases h; rfl
theorem trap (f : Sync) (a : R5) : Statement (.trap f a) := fun _ h => by cases h; rfl
theorem eret (f : Sync) : Statement (.eret f) := fun _ h => by cases h; rfl
theorem brk (f : Sync) (a : R5) : Statement (.brk f a) := fun _ h => by cases h; rfl
theorem kill (f : Sync) : Statement (.kill f) := fun _ h => by cases h; rfl
theorem loopn (g : Guard) (a : R5) (lvl : BitVec 3) (cnt : BitVec 11) : Statement (.loopn g a lvl cnt) := fun _ h => by
  cases h; simp [Enc.instr, decXR14, req, hi lvl cnt, lo lvl cnt, bind, Except.bind, pure, Except.pure]
theorem lstride (g : Guard) (d : R5) (a : R5) (lvl : BitVec 3) (ent : BitVec 3) (str : BitVec 8) : Statement (.lstride g d a lvl ent str) := fun _ h => by
  cases h; simp [Enc.instr, decXR14, req, top lvl ent str, mid lvl ent str, lo (lvl ++ ent) str, bind, Except.bind, pure, Except.pure]
theorem loopgo (g : Guard) (len : BitVec 14) : Statement (.loopgo g len) := fun _ h => by cases h; rfl
theorem loopbrk (g : Guard) : Statement (.loopbrk g) := fun _ h => by cases h; rfl
theorem post (f : Sync) (e : R5) (n : BitVec 16) : Statement (.post f e n) := fun _ h => by cases h; rfl
theorem await (f : Sync) (e : R5) (n : BitVec 16) : Statement (.await f e n) := fun _ h => by cases h; rfl
theorem mark (f : Sync) (n : BitVec 16) : Statement (.mark f n) := fun _ h => by cases h; rfl
theorem rdvset (g : Guard) (a : R5) (mask : BitVec 4) (num : BitVec 10) : Statement (.rdvset g a mask num) := fun _ h => by
  cases h; simp [Enc.instr, decXR18, req, hi mask num, lo mask num, bind, Except.bind, pure, Except.pure]
theorem rdvwait (g : Guard) : Statement (.rdvwait g) := fun _ h => by cases h; rfl
theorem dsync (f : Sync) (n : BitVec 16) : Statement (.dsync f n) := fun _ h => by cases h; rfl
theorem mon (g : Guard) (a : R5) (sp3 : BitVec 3) (off : BitVec 14) : Statement (.mon g a sp3 off) := fun _ h => by
  cases h; simp [Enc.instr, decXR1A, req, hi 0#2 sp3, lo 0#2 sp3, bind, Except.bind, pure, Except.pure]
theorem mwait (g : Guard) (d : R5) (a : R5) : Statement (.mwait g d a) := fun _ h => by cases h; rfl
theorem mclr (g : Guard) : Statement (.mclr g) := fun _ h => by cases h; rfl
theorem spawn (g : Guard) (d : R5) (a : R5) : Statement (.spawn g d a) := fun _ h => by cases h; rfl
theorem spawnr (g : Guard) (d : R5) (a : R5) : Statement (.spawnr g d a) := fun _ h => by cases h; rfl
theorem evsig (g : Guard) (a : R5) (imm : BitVec 14) : Statement (.evsig g a imm) := fun _ h => by cases h; rfl
theorem evwait (g : Guard) (a : R5) (imm : BitVec 14) : Statement (.evwait g a imm) := fun _ h => by cases h; rfl
theorem joindec (g : Guard) (a : R5) : Statement (.joindec g a) := fun _ h => by cases h; rfl
theorem yield (g : Guard) : Statement (.yield g) := fun _ h => by cases h; rfl
theorem tself (g : Guard) (d : R5) : Statement (.tself g d) := fun _ h => by cases h; rfl
theorem stgadv (g : Guard) (a : R5) (imm : BitVec 14) : Statement (.stgadv g a imm) := fun _ h => by cases h; rfl
theorem stgjmp (g : Guard) (a : R5) (imm : BitVec 14) : Statement (.stgjmp g a imm) := fun _ h => by cases h; rfl
theorem waitl (g : Guard) (a : R5) (imm : BitVec 14) : Statement (.waitl g a imm) := fun _ h => by cases h; rfl
theorem stgrd (g : Guard) (d : R5) (imm : BitVec 14) : Statement (.stgrd g d imm) := fun _ h => by cases h; rfl
theorem abort (g : Guard) : Statement (.abort g) := fun _ h => by cases h; rfl
theorem abchk (g : Guard) : Statement (.abchk g) := fun _ h => by cases h; rfl
theorem abrd (g : Guard) (d : R5) : Statement (.abrd g d) := fun _ h => by cases h; rfl
theorem segb (g : Guard) (a : R5) (off : BitVec 14) : Statement (.segb g a off) := fun _ h => by cases h; rfl
theorem sege (g : Guard) : Statement (.sege g) := fun _ h => by cases h; rfl
theorem ld (g : Guard) (sp : Space) (w : BitVec 3) (o : Order) (sc : Scope) (d : R5) (a : R5) (off : BitVec 14) : Statement (.ld g sp w o sc d a off) := fun _ h => by
  cases h; simp [Enc.instr, decXR20, req, hi (Space.code sp) w, lo (Space.code sp) w, hi (Order.code o) (Scope.code sc), lo (Order.code o) (Scope.code sc), bind, Except.bind, pure, Except.pure]
theorem st (g : Guard) (sp : Space) (w : BitVec 3) (o : Order) (sc : Scope) (a : R5) (b : R5) (off : BitVec 14) : Statement (.st g sp w o sc a b off) := fun _ h => by
  cases h; simp [Enc.instr, decXR21, req, hi (Space.code sp) w, lo (Space.code sp) w, hi (Order.code o) (Scope.code sc), lo (Order.code o) (Scope.code sc), bind, Except.bind, pure, Except.pure]
theorem amoAdd (g : Guard) (w64 : Bool) (sp : Space) (o : Order) (sc : Scope) (d : R5) (a : R5) (b : R5) (off : BitVec 11) : Statement (.amoAdd g w64 sp o sc d a b off) := fun _ h => by
  cases h; cases w64 <;> simp [Enc.instr, decXR22, req, hi (Order.code o) (Scope.code sc), lo (Order.code o) (Scope.code sc), hi (Space.code sp) off, lo (Space.code sp) off, bind, Except.bind, pure, Except.pure]
theorem amoAnd (g : Guard) (w64 : Bool) (sp : Space) (o : Order) (sc : Scope) (d : R5) (a : R5) (b : R5) (off : BitVec 11) : Statement (.amoAnd g w64 sp o sc d a b off) := fun _ h => by
  cases h; cases w64 <;> simp [Enc.instr, decXR22, req, hi (Order.code o) (Scope.code sc), lo (Order.code o) (Scope.code sc), hi (Space.code sp) off, lo (Space.code sp) off, bind, Except.bind, pure, Except.pure]
theorem amoOr (g : Guard) (w64 : Bool) (sp : Space) (o : Order) (sc : Scope) (d : R5) (a : R5) (b : R5) (off : BitVec 11) : Statement (.amoOr g w64 sp o sc d a b off) := fun _ h => by
  cases h; cases w64 <;> simp [Enc.instr, decXR22, req, hi (Order.code o) (Scope.code sc), lo (Order.code o) (Scope.code sc), hi (Space.code sp) off, lo (Space.code sp) off, bind, Except.bind, pure, Except.pure]
theorem amoXor (g : Guard) (w64 : Bool) (sp : Space) (o : Order) (sc : Scope) (d : R5) (a : R5) (b : R5) (off : BitVec 11) : Statement (.amoXor g w64 sp o sc d a b off) := fun _ h => by
  cases h; cases w64 <;> simp [Enc.instr, decXR22, req, hi (Order.code o) (Scope.code sc), lo (Order.code o) (Scope.code sc), hi (Space.code sp) off, lo (Space.code sp) off, bind, Except.bind, pure, Except.pure]
theorem amoMinS (g : Guard) (w64 : Bool) (sp : Space) (o : Order) (sc : Scope) (d : R5) (a : R5) (b : R5) (off : BitVec 11) : Statement (.amoMinS g w64 sp o sc d a b off) := fun _ h => by
  cases h; cases w64 <;> simp [Enc.instr, decXR22, req, hi (Order.code o) (Scope.code sc), lo (Order.code o) (Scope.code sc), hi (Space.code sp) off, lo (Space.code sp) off, bind, Except.bind, pure, Except.pure]
theorem amoMinN (g : Guard) (w64 : Bool) (sp : Space) (o : Order) (sc : Scope) (d : R5) (a : R5) (b : R5) (off : BitVec 11) : Statement (.amoMinN g w64 sp o sc d a b off) := fun _ h => by
  cases h; cases w64 <;> simp [Enc.instr, decXR22, req, hi (Order.code o) (Scope.code sc), lo (Order.code o) (Scope.code sc), hi (Space.code sp) off, lo (Space.code sp) off, bind, Except.bind, pure, Except.pure]
theorem amoMaxS (g : Guard) (w64 : Bool) (sp : Space) (o : Order) (sc : Scope) (d : R5) (a : R5) (b : R5) (off : BitVec 11) : Statement (.amoMaxS g w64 sp o sc d a b off) := fun _ h => by
  cases h; cases w64 <;> simp [Enc.instr, decXR22, req, hi (Order.code o) (Scope.code sc), lo (Order.code o) (Scope.code sc), hi (Space.code sp) off, lo (Space.code sp) off, bind, Except.bind, pure, Except.pure]
theorem amoMaxN (g : Guard) (w64 : Bool) (sp : Space) (o : Order) (sc : Scope) (d : R5) (a : R5) (b : R5) (off : BitVec 11) : Statement (.amoMaxN g w64 sp o sc d a b off) := fun _ h => by
  cases h; cases w64 <;> simp [Enc.instr, decXR22, req, hi (Order.code o) (Scope.code sc), lo (Order.code o) (Scope.code sc), hi (Space.code sp) off, lo (Space.code sp) off, bind, Except.bind, pure, Except.pure]
theorem amoSwap (g : Guard) (w64 : Bool) (sp : Space) (o : Order) (sc : Scope) (d : R5) (a : R5) (b : R5) (off : BitVec 11) : Statement (.amoSwap g w64 sp o sc d a b off) := fun _ h => by
  cases h; cases w64 <;> simp [Enc.instr, decXR22, req, hi (Order.code o) (Scope.code sc), lo (Order.code o) (Scope.code sc), hi (Space.code sp) off, lo (Space.code sp) off, bind, Except.bind, pure, Except.pure]
theorem amoCas (g : Guard) (w64 : Bool) (sp : Space) (o : Order) (sc : Scope) (d : R5) (a : R5) (b : R5) (off : BitVec 11) : Statement (.amoCas g w64 sp o sc d a b off) := fun _ h => by
  cases h; cases w64 <;> simp [Enc.instr, decXR22, req, hi (Order.code o) (Scope.code sc), lo (Order.code o) (Scope.code sc), hi (Space.code sp) off, lo (Space.code sp) off, bind, Except.bind, pure, Except.pure]
theorem fence (g : Guard) (sc : Scope) : Statement (.fence g sc) := fun _ h => by
  cases h; simp [Enc.instr, decXR23, req, hi 0#2 (Scope.code sc), lo 0#2 (Scope.code sc), bind, Except.bind, pure, Except.pure]
theorem xfence (g : Guard) (src : BitVec 6) (dst : BitVec 6) : Statement (.xfence g src dst) := fun _ h => by
  cases h; simp [Enc.instr, decXR23, req, top 0#2 dst src, mid 0#2 dst src, lo (0#2 ++ dst) src, bind, Except.bind, pure, Except.pure]
theorem ptfence (g : Guard) (sc : Scope) : Statement (.ptfence g sc) := fun _ h => by
  cases h; simp [Enc.instr, decXR23, req, hi 0#2 (Scope.code sc), lo 0#2 (Scope.code sc), bind, Except.bind, pure, Except.pure]
theorem tlbinv (g : Guard) (a : R5) (b : R5) (all : BitVec 1) : Statement (.tlbinv g a b all) := fun _ h => by
  cases h; simp [Enc.instr, decXR23, req, hi 0#13 all, lo 0#13 all, bind, Except.bind, pure, Except.pure]
theorem ldx (g : Guard) (d : R5) (a : R5) (c : R5) (off : BitVec 14) : Statement (.ldx g d a c off) := fun _ h => by cases h; rfl
theorem erase (g : Guard) (a : R5) (off : BitVec 14) : Statement (.erase g a off) := fun _ h => by cases h; rfl
theorem extest (g : Guard) (a : R5) (c : R5) (off : BitVec 14) : Statement (.extest g a c off) := fun _ h => by cases h; rfl
theorem exmap (g : Guard) (d : R5) (a : R5) (off : BitVec 14) : Statement (.exmap g d a off) := fun _ h => by cases h; rfl
theorem setsBase (g : Guard) (sr : BitVec 4) (a : R5) (b : R5) : Statement (.setsBase g sr a b) := fun _ h => by cases h; rfl
theorem setsDim (g : Guard) (sr : BitVec 4) (a : R5) (b : R5) : Statement (.setsDim g sr a b) := fun _ h => by cases h; rfl
theorem setsFmt (g : Guard) (ty : Ty) (sr : BitVec 4) (a : R5) : Statement (.setsFmt g ty sr a) := fun _ h => by cases h; cases ty <;> rfl
theorem setsScl (g : Guard) (sr : BitVec 4) (a : R5) (b : R5) : Statement (.setsScl g sr a b) := fun _ h => by cases h; rfl
theorem setsXp (g : Guard) (sr : BitVec 4) (xp : BitVec 2) : Statement (.setsXp g sr xp) := fun _ h => by cases h; rfl
theorem setsMc (g : Guard) (sr : BitVec 4) (a : R5) : Statement (.setsMc g sr a) := fun _ h => by cases h; rfl
theorem setsHdl (g : Guard) (sr : BitVec 4) (h : R5) : Statement (.setsHdl g sr h) := fun _ h => by cases h; rfl
theorem setsClr (g : Guard) (sr : BitVec 4) : Statement (.setsClr g sr) := fun _ h => by cases h; rfl
theorem gets (g : Guard) (a : R5) (sr : BitVec 4) (h : R5) (b : R5) : Statement (.gets g a sr h b) := fun _ h => by cases h; rfl
theorem copyin (g : Guard) (sr : BitVec 4) (h : R5) (sgr : BitVec 2) (gate : BitVec 6) (xp : BitVec 2) : Statement (.copyin g sr h sgr gate xp) := fun _ h => by cases h; rfl
theorem copyout (g : Guard) (sr : BitVec 4) (h : R5) (sgr : BitVec 2) (gate : BitVec 6) : Statement (.copyout g sr h sgr gate) := fun _ h => by cases h; rfl
theorem copyk (g : Guard) (a : R5) (h : R5) (b : R5) (sgr : BitVec 2) (gate : BitVec 6) : Statement (.copyk g a h b sgr gate) := fun _ h => by cases h; rfl
theorem copyd (g : Guard) (a : R5) (h : R5) (b : R5) (sgr : BitVec 2) (gate : BitVec 6) : Statement (.copyd g a h b sgr gate) := fun _ h => by cases h; rfl
theorem copylin (g : Guard) (a : R5) (h : R5) (b : R5) (sgr : BitVec 2) (gate : BitVec 6) (xp : BitVec 2) : Statement (.copylin g a h b sgr gate xp) := fun _ h => by cases h; rfl
theorem gath (g : Guard) (a : R5) (sr : BitVec 4) (h : R5) (b : R5) (gate : BitVec 6) (xp : BitVec 2) : Statement (.gath g a sr h b gate xp) := fun _ h => by cases h; rfl
theorem gathmc (g : Guard) (sr : BitVec 4) (h : R5) (b : R5) (gate : BitVec 6) (xp : BitVec 2) : Statement (.gathmc g sr h b gate xp) := fun _ h => by cases h; rfl
theorem scat (g : Guard) (a : R5) (sr : BitVec 4) (h : R5) (b : R5) (gate : BitVec 6) (xp : BitVec 2) : Statement (.scat g a sr h b gate xp) := fun _ h => by cases h; rfl
theorem scatadd (g : Guard) (ty : Ty) (a : R5) (sr : BitVec 4) (h : R5) (b : R5) (gate : BitVec 6) (xp : BitVec 2) : Statement (.scatadd g ty a sr h b gate xp) := fun _ h => by cases h; cases ty <;> rfl
theorem gexp (g : Guard) (a : R5) (b : R5) (gate : BitVec 6) : Statement (.gexp g a b gate) := fun _ h => by cases h; rfl
theorem garr (g : Guard) (a : R5) (b : R5) (gate : BitVec 6) : Statement (.garr g a b gate) := fun _ h => by cases h; rfl
theorem gwait (g : Guard) (a : R5) (gate : BitVec 6) : Statement (.gwait g a gate) := fun _ h => by cases h; rfl
theorem ginit (g : Guard) (a : R5) (gate : BitVec 6) : Statement (.ginit g a gate) := fun _ h => by cases h; rfl
theorem hwait (g : Guard) (h : R5) (a : R5) : Statement (.hwait g h a) := fun _ h => by cases h; rfl
theorem hset (g : Guard) (h : R5) (a : R5) (b : R5) : Statement (.hset g h a b) := fun _ h => by cases h; rfl
theorem hfree (g : Guard) (h : R5) : Statement (.hfree g h) := fun _ h => by cases h; rfl
theorem nzscan (g : Guard) (sr : BitVec 4) (h : R5) (b : R5) : Statement (.nzscan g sr h b) := fun _ h => by cases h; rfl
theorem thrset (g : Guard) (a : R5) (b : R5) : Statement (.thrset g a b) := fun _ h => by cases h; rfl
theorem dmrd (g : Guard) (a : R5) (b : R5) : Statement (.dmrd g a b) := fun _ h => by cases h; rfl
theorem tlget (g : Guard) (a : R5) (b : R5) : Statement (.tlget g a b) := fun _ h => by cases h; rfl
theorem tlstat (g : Guard) (a : R5) (b : R5) : Statement (.tlstat g a b) := fun _ h => by cases h; rfl
theorem tlack (g : Guard) (a : R5) (b : R5) : Statement (.tlack g a b) := fun _ h => by cases h; rfl
theorem rngtk (g : Guard) (sp3 : BitVec 3) (d : R5) (a : R5) : Statement (.rngtk g sp3 d a) := fun _ h => by
  cases h; simp [Enc.instr, decXR2B, req, hi 0#2 sp3, lo 0#2 sp3, bind, Except.bind, pure, Except.pure]
theorem rngput (g : Guard) (sp3 : BitVec 3) (d : R5) (a : R5) (b : R5) (n : BitVec 14) : Statement (.rngput g sp3 d a b n) := fun _ h => by
  cases h; simp [Enc.instr, decXR2B, req, hi 0#2 sp3, lo 0#2 sp3, bind, Except.bind, pure, Except.pure]
theorem rngget (g : Guard) (sp3 : BitVec 3) (d : R5) (a : R5) (n : BitVec 14) : Statement (.rngget g sp3 d a n) := fun _ h => by
  cases h; simp [Enc.instr, decXR2B, req, hi 0#2 sp3, lo 0#2 sp3, bind, Except.bind, pure, Except.pure]
theorem rngeos (g : Guard) (sp3 : BitVec 3) (a : R5) (b : R5) : Statement (.rngeos g sp3 a b) := fun _ h => by
  cases h; simp [Enc.instr, decXR2B, req, hi 0#2 sp3, lo 0#2 sp3, bind, Except.bind, pure, Except.pure]
theorem rngstat (g : Guard) (sp3 : BitVec 3) (d : R5) (a : R5) : Statement (.rngstat g sp3 d a) := fun _ h => by
  cases h; simp [Enc.instr, decXR2B, req, hi 0#2 sp3, lo 0#2 sp3, bind, Except.bind, pure, Except.pure]
theorem qpush (g : Guard) (a : R5) (q : R5) : Statement (.qpush g a q) := fun _ h => by cases h; rfl
theorem qpop (g : Guard) (d : R5) (q : R5) : Statement (.qpop g d q) := fun _ h => by cases h; rfl
theorem qpeek (g : Guard) (d : R5) (q : R5) : Statement (.qpeek g d q) := fun _ h => by cases h; rfl
theorem qpopp (g : Guard) (d : R5) (q : R5) : Statement (.qpopp g d q) := fun _ h => by cases h; rfl
theorem vaddF (g : Guard) (ty : Ty) (vd : R6) (va : R6) (vb : R6) : Statement (.vaddF g ty vd va vb) := fun _ h => by cases h; cases ty <;> rfl
theorem vsubF (g : Guard) (ty : Ty) (vd : R6) (va : R6) (vb : R6) : Statement (.vsubF g ty vd va vb) := fun _ h => by cases h; cases ty <;> rfl
theorem vmulF (g : Guard) (ty : Ty) (vd : R6) (va : R6) (vb : R6) : Statement (.vmulF g ty vd va vb) := fun _ h => by cases h; cases ty <;> rfl
theorem vfma (g : Guard) (ty : Ty) (vd : R6) (va : R6) (vb : R6) (vc : R6) : Statement (.vfma g ty vd va vb vc) := fun _ h => by cases h; cases ty <;> rfl
theorem vfms (g : Guard) (ty : Ty) (vd : R6) (va : R6) (vb : R6) (vc : R6) : Statement (.vfms g ty vd va vb vc) := fun _ h => by cases h; cases ty <;> rfl
theorem vfnma (g : Guard) (ty : Ty) (vd : R6) (va : R6) (vb : R6) (vc : R6) : Statement (.vfnma g ty vd va vb vc) := fun _ h => by cases h; cases ty <;> rfl
theorem vminF (g : Guard) (ty : Ty) (vd : R6) (va : R6) (vb : R6) : Statement (.vminF g ty vd va vb) := fun _ h => by cases h; cases ty <;> rfl
theorem vmaxF (g : Guard) (ty : Ty) (vd : R6) (va : R6) (vb : R6) : Statement (.vmaxF g ty vd va vb) := fun _ h => by cases h; cases ty <;> rfl
theorem vabsF (g : Guard) (ty : Ty) (vd : R6) (va : R6) : Statement (.vabsF g ty vd va) := fun _ h => by cases h; cases ty <;> rfl
theorem vneg (g : Guard) (ty : Ty) (vd : R6) (va : R6) : Statement (.vneg g ty vd va) := fun _ h => by cases h; cases ty <;> rfl
theorem vdiv (g : Guard) (ty : Ty) (vd : R6) (va : R6) (vb : R6) : Statement (.vdiv g ty vd va vb) := fun _ h => by cases h; cases ty <;> rfl
theorem vsqrt (g : Guard) (ty : Ty) (vd : R6) (va : R6) : Statement (.vsqrt g ty vd va) := fun _ h => by cases h; cases ty <;> rfl
theorem vaddI (g : Guard) (ty : Ty) (vd : R6) (va : R6) (vb : R6) : Statement (.vaddI g ty vd va vb) := fun _ h => by cases h; cases ty <;> rfl
theorem vsubI (g : Guard) (ty : Ty) (vd : R6) (va : R6) (vb : R6) : Statement (.vsubI g ty vd va vb) := fun _ h => by cases h; cases ty <;> rfl
theorem vmulI (g : Guard) (ty : Ty) (vd : R6) (va : R6) (vb : R6) : Statement (.vmulI g ty vd va vb) := fun _ h => by cases h; cases ty <;> rfl
theorem vmulh (g : Guard) (ty : Ty) (vd : R6) (va : R6) (vb : R6) : Statement (.vmulh g ty vd va vb) := fun _ h => by cases h; cases ty <;> rfl
theorem vand (g : Guard) (ty : Ty) (vd : R6) (va : R6) (vb : R6) : Statement (.vand g ty vd va vb) := fun _ h => by cases h; cases ty <;> rfl
theorem vor (g : Guard) (ty : Ty) (vd : R6) (va : R6) (vb : R6) : Statement (.vor g ty vd va vb) := fun _ h => by cases h; cases ty <;> rfl
theorem vxor (g : Guard) (ty : Ty) (vd : R6) (va : R6) (vb : R6) : Statement (.vxor g ty vd va vb) := fun _ h => by cases h; cases ty <;> rfl
theorem vandn (g : Guard) (ty : Ty) (vd : R6) (va : R6) (vb : R6) : Statement (.vandn g ty vd va vb) := fun _ h => by cases h; cases ty <;> rfl
theorem vsll (g : Guard) (ty : Ty) (vd : R6) (va : R6) (vb : R6) : Statement (.vsll g ty vd va vb) := fun _ h => by cases h; cases ty <;> rfl
theorem vsrl (g : Guard) (ty : Ty) (vd : R6) (va : R6) (vb : R6) : Statement (.vsrl g ty vd va vb) := fun _ h => by cases h; cases ty <;> rfl
theorem vsra (g : Guard) (ty : Ty) (vd : R6) (va : R6) (vb : R6) : Statement (.vsra g ty vd va vb) := fun _ h => by cases h; cases ty <;> rfl
theorem vminI (g : Guard) (ty : Ty) (vd : R6) (va : R6) (vb : R6) : Statement (.vminI g ty vd va vb) := fun _ h => by cases h; cases ty <;> rfl
theorem vmaxI (g : Guard) (ty : Ty) (vd : R6) (va : R6) (vb : R6) : Statement (.vmaxI g ty vd va vb) := fun _ h => by cases h; cases ty <;> rfl
theorem vabsI (g : Guard) (ty : Ty) (vd : R6) (va : R6) : Statement (.vabsI g ty vd va) := fun _ h => by cases h; cases ty <;> rfl
theorem vcmpEq (g : Guard) (ty : Ty) (pd : R5) (va : R6) (vb : R6) (el : R6) : Statement (.vcmpEq g ty pd va vb el) := fun _ h => by
  cases h; simp [Enc.instr, decVV32, req, hi 0#1 pd, lo 0#1 pd, bind, Except.bind, pure, Except.pure]
theorem vcmpNe (g : Guard) (ty : Ty) (pd : R5) (va : R6) (vb : R6) (el : R6) : Statement (.vcmpNe g ty pd va vb el) := fun _ h => by
  cases h; simp [Enc.instr, decVV32, req, hi 0#1 pd, lo 0#1 pd, bind, Except.bind, pure, Except.pure]
theorem vcmpLt (g : Guard) (ty : Ty) (pd : R5) (va : R6) (vb : R6) (el : R6) : Statement (.vcmpLt g ty pd va vb el) := fun _ h => by
  cases h; simp [Enc.instr, decVV32, req, hi 0#1 pd, lo 0#1 pd, bind, Except.bind, pure, Except.pure]
theorem vcmpLe (g : Guard) (ty : Ty) (pd : R5) (va : R6) (vb : R6) (el : R6) : Statement (.vcmpLe g ty pd va vb el) := fun _ h => by
  cases h; simp [Enc.instr, decVV32, req, hi 0#1 pd, lo 0#1 pd, bind, Except.bind, pure, Except.pure]
theorem vcmpGt (g : Guard) (ty : Ty) (pd : R5) (va : R6) (vb : R6) (el : R6) : Statement (.vcmpGt g ty pd va vb el) := fun _ h => by
  cases h; simp [Enc.instr, decVV32, req, hi 0#1 pd, lo 0#1 pd, bind, Except.bind, pure, Except.pure]
theorem vcmpGe (g : Guard) (ty : Ty) (pd : R5) (va : R6) (vb : R6) (el : R6) : Statement (.vcmpGe g ty pd va vb el) := fun _ h => by
  cases h; simp [Enc.instr, decVV32, req, hi 0#1 pd, lo 0#1 pd, bind, Except.bind, pure, Except.pure]
theorem vclass (g : Guard) (ty : Ty) (pd : R5) (va : R6) (mask : R6) (el : R6) : Statement (.vclass g ty pd va mask el) := fun _ h => by
  cases h; simp [Enc.instr, decVV32, req, hi 0#1 pd, lo 0#1 pd, bind, Except.bind, pure, Except.pure]
theorem cvtRne (g : Guard) (ty : Ty) (sty : Ty) (vd : R6) (va : R6) (pt : R6) : Statement (.cvtRne g ty sty vd va pt) := fun _ h => by
  cases h; simp [Enc.instr, decVV33, req, hi 0#1 (Ty.code sty), lo 0#1 (Ty.code sty), bind, Except.bind, pure, Except.pure]
theorem cvtRtz (g : Guard) (ty : Ty) (sty : Ty) (vd : R6) (va : R6) (pt : R6) : Statement (.cvtRtz g ty sty vd va pt) := fun _ h => by
  cases h; simp [Enc.instr, decVV33, req, hi 0#1 (Ty.code sty), lo 0#1 (Ty.code sty), bind, Except.bind, pure, Except.pure]
theorem cvtRup (g : Guard) (ty : Ty) (sty : Ty) (vd : R6) (va : R6) (pt : R6) : Statement (.cvtRup g ty sty vd va pt) := fun _ h => by
  cases h; simp [Enc.instr, decVV33, req, hi 0#1 (Ty.code sty), lo 0#1 (Ty.code sty), bind, Except.bind, pure, Except.pure]
theorem cvtRdn (g : Guard) (ty : Ty) (sty : Ty) (vd : R6) (va : R6) (pt : R6) : Statement (.cvtRdn g ty sty vd va pt) := fun _ h => by
  cases h; simp [Enc.instr, decVV33, req, hi 0#1 (Ty.code sty), lo 0#1 (Ty.code sty), bind, Except.bind, pure, Except.pure]
theorem cvtSat (g : Guard) (ty : Ty) (sty : Ty) (vd : R6) (va : R6) (pt : R6) : Statement (.cvtSat g ty sty vd va pt) := fun _ h => by
  cases h; simp [Enc.instr, decVV33, req, hi 0#1 (Ty.code sty), lo 0#1 (Ty.code sty), bind, Except.bind, pure, Except.pure]
theorem vpack (g : Guard) (ty : Ty) (sty : Ty) (vd : R6) (va : R6) (vc : R6) : Statement (.vpack g ty sty vd va vc) := fun _ h => by
  cases h; simp [Enc.instr, decVV33, req, hi 0#1 (Ty.code sty), lo 0#1 (Ty.code sty), bind, Except.bind, pure, Except.pure]
theorem vunpack (g : Guard) (ty : Ty) (sty : Ty) (vd : R6) (va : R6) : Statement (.vunpack g ty sty vd va) := fun _ h => by
  cases h; simp [Enc.instr, decVV33, req, hi 0#1 (Ty.code sty), lo 0#1 (Ty.code sty), bind, Except.bind, pure, Except.pure]
theorem vexp2 (g : Guard) (ty : Ty) (vd : R6) (va : R6) : Statement (.vexp2 g ty vd va) := fun _ h => by cases h; cases ty <;> rfl
theorem vlog2 (g : Guard) (ty : Ty) (vd : R6) (va : R6) : Statement (.vlog2 g ty vd va) := fun _ h => by cases h; cases ty <;> rfl
theorem vrcp (g : Guard) (ty : Ty) (vd : R6) (va : R6) : Statement (.vrcp g ty vd va) := fun _ h => by cases h; cases ty <;> rfl
theorem vrsqrt (g : Guard) (ty : Ty) (vd : R6) (va : R6) : Statement (.vrsqrt g ty vd va) := fun _ h => by cases h; cases ty <;> rfl
theorem vsig (g : Guard) (ty : Ty) (vd : R6) (va : R6) : Statement (.vsig g ty vd va) := fun _ h => by cases h; cases ty <;> rfl
theorem vtanh (g : Guard) (ty : Ty) (vd : R6) (va : R6) : Statement (.vtanh g ty vd va) := fun _ h => by cases h; cases ty <;> rfl
theorem vbcast (g : Guard) (vd : R6) (xa : R5) : Statement (.vbcast g vd xa) := fun _ h => by
  cases h; simp [Enc.instr, decVV35, req, hi 0#1 xa, lo 0#1 xa, bind, Except.bind, pure, Except.pure]
theorem vlane (g : Guard) (xd : R5) (va : R6) (xb : R5) : Statement (.vlane g xd va xb) := fun _ h => by
  cases h; simp [Enc.instr, decVV35, req, hi 0#1 xd, lo 0#1 xd, hi 0#1 xb, lo 0#1 xb, bind, Except.bind, pure, Except.pure]
theorem vperm (g : Guard) (vd : R6) (va : R6) (vb : R6) : Statement (.vperm g vd va vb) := fun _ h => by cases h; rfl
theorem vrot (g : Guard) (vd : R6) (va : R6) (xb : R5) : Statement (.vrot g vd va xb) := fun _ h => by
  cases h; simp [Enc.instr, decVV35, req, hi 0#1 xb, lo 0#1 xb, bind, Except.bind, pure, Except.pure]
theorem vshl (g : Guard) (vd : R6) (va : R6) (xb : R5) : Statement (.vshl g vd va xb) := fun _ h => by
  cases h; simp [Enc.instr, decVV35, req, hi 0#1 xb, lo 0#1 xb, bind, Except.bind, pure, Except.pure]
theorem vredadd (g : Guard) (ty : Ty) (vd : R6) (va : R6) : Statement (.vredadd g ty vd va) := fun _ h => by cases h; cases ty <;> rfl
theorem vredmax (g : Guard) (ty : Ty) (vd : R6) (va : R6) : Statement (.vredmax g ty vd va) := fun _ h => by cases h; cases ty <;> rfl
theorem vredmin (g : Guard) (ty : Ty) (vd : R6) (va : R6) : Statement (.vredmin g ty vd va) := fun _ h => by cases h; cases ty <;> rfl
theorem vscan (g : Guard) (ty : Ty) (vd : R6) (va : R6) : Statement (.vscan g ty vd va) := fun _ h => by cases h; cases ty <;> rfl
theorem vsel (g : Guard) (vd : R6) (va : R6) (vb : R6) (pc : R5) : Statement (.vsel g vd va vb pc) := fun _ h => by
  cases h; simp [Enc.instr, decVV35, req, hi 0#1 pc, lo 0#1 pc, bind, Except.bind, pure, Except.pure]
theorem vmov (g : Guard) (vd : R6) (va : R6) : Statement (.vmov g vd va) := fun _ h => by cases h; rfl
theorem vld (g : Guard) (sp : Space) (ty : Ty) (vd : R6) (xa : R5) (xb : R5) : Statement (.vld g sp ty vd xa xb) := fun _ h => by
  cases h; simp [Enc.instr, decVV36, req, hi 0#1 xa, lo 0#1 xa, hi 0#1 xb, lo 0#1 xb, bind, Except.bind, pure, Except.pure]
theorem vst (g : Guard) (sp : Space) (ty : Ty) (xa : R5) (xb : R5) (vc : R6) : Statement (.vst g sp ty xa xb vc) := fun _ h => by
  cases h; simp [Enc.instr, decVV36, req, hi 0#1 xa, lo 0#1 xa, hi 0#1 xb, lo 0#1 xb, bind, Except.bind, pure, Except.pure]
theorem vldi (g : Guard) (sp : Space) (ty : Ty) (vd : R6) (xa : R5) (vb : R6) : Statement (.vldi g sp ty vd xa vb) := fun _ h => by
  cases h; simp [Enc.instr, decVV36, req, hi 0#1 xa, lo 0#1 xa, bind, Except.bind, pure, Except.pure]
theorem vsti (g : Guard) (sp : Space) (ty : Ty) (xa : R5) (vb : R6) (vc : R6) : Statement (.vsti g sp ty xa vb vc) := fun _ h => by
  cases h; simp [Enc.instr, decVV36, req, hi 0#1 xa, lo 0#1 xa, bind, Except.bind, pure, Except.pure]
theorem vldb (g : Guard) (vd : R6) (sa : BitVec 4) (xb : R5) (n : R6) : Statement (.vldb g vd sa xb n) := fun _ h => by
  cases h; simp [Enc.instr, decVV36, req, hi 0#2 sa, lo 0#2 sa, hi 0#1 xb, lo 0#1 xb, bind, Except.bind, pure, Except.pure]
theorem vmrg (g : Guard) (ty : Ty) (vd : R6) (va : R6) (vb : R6) (pc : R5) : Statement (.vmrg g ty vd va vb pc) := fun _ h => by
  cases h; simp [Enc.instr, decVV37, req, hi 0#1 pc, lo 0#1 pc, bind, Except.bind, pure, Except.pure]
theorem visect (g : Guard) (ty : Ty) (vd : R6) (va : R6) (vb : R6) (pc : R5) : Statement (.visect g ty vd va vb pc) := fun _ h => by
  cases h; simp [Enc.instr, decVV37, req, hi 0#1 pc, lo 0#1 pc, bind, Except.bind, pure, Except.pure]
theorem vunion (g : Guard) (ty : Ty) (vd : R6) (va : R6) (vb : R6) (pc : R5) : Statement (.vunion g ty vd va vb pc) := fun _ h => by
  cases h; simp [Enc.instr, decVV37, req, hi 0#1 pc, lo 0#1 pc, bind, Except.bind, pure, Except.pure]
theorem vthr (g : Guard) (ty : Ty) (vd : R6) (va : R6) : Statement (.vthr g ty vd va) := fun _ h => by cases h; cases ty <;> rfl
theorem vcmpr (g : Guard) (ty : Ty) (vd : R6) (va : R6) (xc : R5) : Statement (.vcmpr g ty vd va xc) := fun _ h => by
  cases h; simp [Enc.instr, decVV37, req, hi 0#1 xc, lo 0#1 xc, bind, Except.bind, pure, Except.pure]
theorem vexpd (g : Guard) (ty : Ty) (vd : R6) (va : R6) (pc : R5) : Statement (.vexpd g ty vd va pc) := fun _ h => by
  cases h; simp [Enc.instr, decVV37, req, hi 0#1 pc, lo 0#1 pc, bind, Except.bind, pure, Except.pure]
theorem vnzidx (g : Guard) (ty : Ty) (vd : R6) (va : R6) (xc : R5) : Statement (.vnzidx g ty vd va xc) := fun _ h => by
  cases h; simp [Enc.instr, decVV37, req, hi 0#1 xc, lo 0#1 xc, bind, Except.bind, pure, Except.pure]
theorem vqnt (g : Guard) (vd : R6) (va : R6) (vb : R6) : Statement (.vqnt g vd va vb) := fun _ h => by cases h; rfl
theorem vdqnt (g : Guard) (vd : R6) (va : R6) (vb : R6) : Statement (.vdqnt g vd va vb) := fun _ h => by cases h; rfl
theorem vamax (g : Guard) (vd : R6) (va : R6) : Statement (.vamax g vd va) := fun _ h => by cases h; rfl
theorem vbscl (g : Guard) (vd : R6) (va : R6) : Statement (.vbscl g vd va) := fun _ h => by cases h; rfl
theorem mma (g : Guard) (ty : Ty) (acc : BitVec 3) (sa : BitVec 4) (breg : BitVec 12) (sgr : BitVec 2) : Statement (.mma g ty acc sa breg sgr) := fun _ h => by cases h; cases ty <;> rfl
theorem mmas (g : Guard) (ty : Ty) (acc : BitVec 3) (sa : BitVec 4) (breg : BitVec 12) (sgr : BitVec 2) : Statement (.mmas g ty acc sa breg sgr) := fun _ h => by cases h; cases ty <;> rfl
theorem mmag (g : Guard) (ty : Ty) (acc : BitVec 3) (sa : BitVec 4) (breg : BitVec 12) (sgr : BitVec 2) (si : BitVec 4) (so : BitVec 4) : Statement (.mmag g ty acc sa breg sgr si so) := fun _ h => by cases h; cases ty <;> rfl
theorem mmak (g : Guard) (ty : Ty) (acc : BitVec 3) (sa : BitVec 4) (breg : BitVec 12) (sgr : BitVec 2) (si : BitVec 4) : Statement (.mmak g ty acc sa breg sgr si) := fun _ h => by cases h; cases ty <;> rfl
theorem mlease (g : Guard) : Statement (.mlease g) := fun _ h => by cases h; rfl
theorem mrel (g : Guard) : Statement (.mrel g) := fun _ h => by cases h; rfl
theorem mldb (g : Guard) (ty : Ty) (sa : BitVec 4) (breg : BitVec 12) (form : BitVec 4) : Statement (.mldb g ty sa breg form) := fun _ h => by cases h; cases ty <;> rfl
theorem mzero (g : Guard) (ty : Ty) (acc : BitVec 3) : Statement (.mzero g ty acc) := fun _ h => by cases h; cases ty <;> rfl
theorem maccd (g : Guard) (acc : BitVec 3) (src : BitVec 4) : Statement (.maccd g acc src) := fun _ h => by cases h; rfl
theorem mrd (g : Guard) (acc : BitVec 3) (sa : BitVec 4) : Statement (.mrd g acc sa) := fun _ h => by cases h; rfl
theorem mwr (g : Guard) (ty : Ty) (acc : BitVec 3) (sa : BitVec 4) : Statement (.mwr g ty acc sa) := fun _ h => by cases h; cases ty <;> rfl
theorem mchk (g : Guard) (acc : BitVec 3) : Statement (.mchk g acc) := fun _ h => by cases h; rfl
theorem escale (g : Guard) (acc : BitVec 3) (sa : BitVec 4) (mode : BitVec 4) : Statement (.escale g acc sa mode) := fun _ h => by cases h; rfl
theorem ebias (g : Guard) (acc : BitVec 3) (sa : BitVec 4) (mode : BitVec 4) : Statement (.ebias g acc sa mode) := fun _ h => by cases h; rfl
theorem erelu (g : Guard) (acc : BitVec 3) : Statement (.erelu g acc) := fun _ h => by cases h; rfl
theorem esig (g : Guard) (acc : BitVec 3) : Statement (.esig g acc) := fun _ h => by cases h; rfl
theorem esilu (g : Guard) (acc : BitVec 3) : Statement (.esilu g acc) := fun _ h => by cases h; rfl
theorem emul (g : Guard) (acc : BitVec 3) (src : BitVec 4) : Statement (.emul g acc src) := fun _ h => by cases h; rfl
theorem eadd (g : Guard) (acc : BitVec 3) (src : BitVec 4) : Statement (.eadd g acc src) := fun _ h => by cases h; rfl
theorem econv (g : Guard) (ty : Ty) (acc : BitVec 3) (sat : BitVec 4) : Statement (.econv g ty acc sat) := fun _ h => by cases h; cases ty <;> rfl
theorem swb (g : Guard) (sr : BitVec 4) (h : R5) (sgr : BitVec 2) (gate : BitVec 6) : Statement (.swb g sr h sgr gate) := fun _ h => by cases h; rfl
theorem swbacc (g : Guard) (ty : Ty) (a : R5) (sr : BitVec 4) (gate : BitVec 6) : Statement (.swbacc g ty a sr gate) := fun _ h => by cases h; cases ty <;> rfl
theorem swbnm (g : Guard) (ty : Ty) (a : R5) (sr : BitVec 4) (b : R5) (gate : BitVec 6) : Statement (.swbnm g ty a sr b gate) := fun _ h => by cases h; cases ty <;> rfl
theorem swbz (g : Guard) (ty : Ty) (a : R5) (sr : BitVec 4) (gate : BitVec 6) : Statement (.swbz g ty a sr gate) := fun _ h => by cases h; cases ty <;> rfl
theorem sckstat (g : Guard) (a : R5) : Statement (.sckstat g a) := fun _ h => by cases h; rfl

end Sys2Proof.Laws.RoundTrip
end

