-- ==== Sys2Proof/Tests/Slice0.lean ====
section
/-! SUPPORT. Tests: words decode as the spec's encodings say, ill-formed terms are refused, single steps give what the spec's rules
give, and for each statement with hypotheses a state and operands that meet them. -/

set_option Elab.async false
set_option maxRecDepth 20000
set_option exponentiation.threshold 600

namespace Sys2Proof.Tests

open Sys2Proof.Machine

/-! ## Small states -/

/-- A stream of slot 0 of core 0 with an open block of one nop and a done exit, in context 1, on trusted dies; the context owns half of its
cores' scratchpads and part 0 of die 0. -/
def w (e : Eng) : State :=
  let die : Die := { Die.empty with st := .trusted, up := true }
  let s := { State.reset with
    cur := ⟨0, 0, e⟩, kcfg := [(0, 0x1_8001_0008)], dsown := [(0, 0x8001)]
    pkg := { Pkg.reset with dies := Vector.replicate 4 die, fwOk := true } }
  let s := s.modMy fun t => { t with live := true, tid := 7, cid := 1 }
  s.modMe fun st => { st with
    live := true
    blk := some { hdr := 0x4000, size := 3, words := [0x02600000#32, 0x005FC000#32], x0 := st.x, p0 := st.p, v0 := s.my.v, mon0 := none, armed := false
                  counted := [], taken := [], effs := [], exits := [], ringDone := false, evRel := false, began := none
                  timeout := false } }
/-- The same with some x registers set. -/
def wx (e : Eng) (l : List (Nat × W64)) : State :=
  (w e).modMe fun st => { st with x := l.foldl (fun x p => x.set! p.1 p.2) st.x }
/-- The state of an outcome, and the one before if there is none. -/
def after (o : Out) (s : State) : State := match o with | .next t => t | _ => s

theorem clean_preds {s : State} (hs : s.soft = []) (p : R5) : eccRead s (predKey s.cur p.toNat) 8 = s ∧
    badWord s (predKey s.cur p.toNat) 8 = false ∧ eccClean s (predKey s.cur p.toNat) 8 = s := by
  simp [eccRead, eccClean, badWord, hs]
theorem quiet_issues {s : State} (h : s.Quiet) (u : Uses) (hs : s.soft = [] := by rfl) : Issuing s 0 31 0 u where
  opened := h.opened
  li := by simp [liHolds]
  list := ⟨by simp [listHits, h.effs], by simp [listHits, h.effs]⟩
  free := ⟨by simp [hazard, h.paths, h.queue, h.effs], by simp [hazard, h.paths, h.queue, h.effs]⟩
  preds := fun p _ => clean_preds hs p
  pred := rfl
  toks := by simp [waitToks]
  regs := by
    simp [readRegs, regsBad, badWord, hs]

theorem quiet_w (e : Eng) : (w e).Quiet := by cases e <;> exact ⟨rfl, rfl, rfl, rfl⟩
theorem quiet_wx (e : Eng) (l : List (Nat × W64)) : (wx e l).Quiet := by cases e <;> exact ⟨rfl, rfl, rfl, rfl⟩

/-! ## Witnesses: scalar -/

theorem witness_Issues32 : Issues32 (w .a) 0 ⟨[3, 1, 2], [], [], [1, 2]⟩ := quiet_issues (quiet_w .a) _
theorem witness_Issues64 : Issues64 (w .a) ⟨0, 31, 0⟩ ⟨[3, 1], [4], [], [1]⟩ := quiet_issues (quiet_w .a) _
theorem witness_Divide : Issues32 (wx .a [(1, 7), (2, 2)]) 0 ⟨[3, 1, 2], [], [], [1, 2]⟩ ∧
    ((wx .a [(1, 7), (2, 2)]).csr 0x00B).getLsbD 0 = false ∧ (wx .a [(1, 7), (2, 2)]).x 2 ≠ 0 := ⟨quiet_issues (quiet_wx ..) _, rfl, by decide⟩
/-- TRAPEN.DIVZ set and a divisor of zero. -/
def wDivz : State := (wx .a [(1, 7)]).modMy fun t => { t with c := { t.c with trapen := 1 } }
theorem witness_DivideByZeroTraps : Issues32 wDivz 0 ⟨[3, 1, 2], [], [], [1, 2]⟩ ∧ (wDivz.csr 0x00B).getLsbD 0 = true ∧
    wDivz.x 2 = 0 ∧ (wDivz.x 2).extractLsb' 0 32 = 0 := ⟨quiet_issues ⟨rfl, rfl, rfl, rfl⟩ _, rfl, rfl, rfl⟩
theorem witness_ScalarFrame : (∃ t, exec (.add 0 3 1 2) (w .a) = .next t) ∧ (∃ t, exec (.cmpEq 0 3 1 2) (w .a) = .next t) ∧
    (∃ t, exec (.pnot 0 3 1) (w .a) = .next t) ∧ (∃ t, exec (.sel ⟨0, 31, 0⟩ 3 1 2 4) (w .a) = .next t) ∧
    (∃ t, exec (.cmpiEq ⟨0, 31, 0⟩ 3 1 5) (w .a) = .next t) ∧ (∃ t, exec (.addi 0 3 1 5) (w .a) = .next t) ∧
    (∃ t, exec (.pand 0 3 1 2) (w .a) = .next t) := ⟨⟨_, rfl⟩, ⟨_, rfl⟩, ⟨_, rfl⟩, ⟨_, rfl⟩, ⟨_, rfl⟩, ⟨_, rfl⟩, ⟨_, rfl⟩⟩

/-! ## Witnesses: issue, system -/

/-- A loop nest runs whose first level is not at its first index. -/
def wLoop : State := (w .v).modMe fun st => { st with loop := { st.loop with run := true, idx := st.loop.idx.set 0 1 } }
theorem witness_PredicateSkips : (Instr.sel ⟨0, 4, 0⟩ 3 1 2 5).guard = some ⟨0, 4, 0⟩ ∧ (Instr.sel ⟨0, 4, 0⟩ 3 1 2 5).masksLanes = false ∧
    (w .a).blk.isSome = true ∧ liHolds (w .a).my (w .a).me 0 = true ∧ listHits (w .a) (Uses.ofPred 4) = false ∧
    hazard (w .a) (Uses.ofPred 4) = false ∧ PredsClean (w .a) (Uses.ofPred 4).ps ∧ predHolds (w .a).me 4 = false :=
  ⟨rfl, rfl, rfl, rfl, rfl, rfl, fun p _ => clean_preds rfl p, rfl⟩
theorem witness_LoopConditionSkips : (Instr.vmov ⟨0, 31, 1⟩ 1 2).guard = some ⟨0, 31, 1⟩ ∧ wLoop.blk.isSome = true ∧
    liHolds wLoop.my wLoop.me 1 = false := ⟨rfl, rfl, rfl⟩
/-- A load of x3 is out. -/
def wLoad : State := (w .a).load 1 .weak .core .g 0 0x1000 8 (.x 3 6)
theorem witness_AwaitedRegisterHolds : wLoad.blk.isSome = true ∧ listHits wLoad ⟨[3, 1, 2], [], [], [1, 2]⟩ = false ∧
    hazard wLoad ⟨[3, 1, 2], [], [], [1, 2]⟩ = true := ⟨rfl, rfl, rfl⟩
/-- The stream that would send it is live. -/
def wPrev : State := (w .a).modSt ⟨0, 0, .s⟩ fun st => { st with live := true }
theorem witness_TokenWait : wPrev.Quiet ∧ (w .a).Quiet ∧
    (∃ k ∈ waitToks .a 8, wPrev.my.tok k = 0) ∧
    (∀ k ∈ waitToks .a 8, wPrev.my.tok k = 0 → (wPrev.my.stm (tokSender k)).live = true ∨
      (wPrev.paths.any fun x => x.tid == wPrev.my.tid && x.acc == .token k) = true) ∧
    ((waitToks .a 8).find? (fun k => (w .a).my.tok k == 0 && (!((w .a).my.stm (tokSender k)).live &&
      !(w .a).paths.any fun x => x.tid == (w .a).my.tid && x.acc == .token k))).isSome = true :=
  ⟨⟨rfl, rfl, rfl, rfl⟩, quiet_w .a, by decide +kernel, by decide +kernel, by decide +kernel⟩
/-- At TL1, in the stream that trapped. -/
def wTrap (e : Eng) (tl : Nat) : State := (w e).modMy fun t => { t with trap1 := e, trap2 := e, c := { t.c with tl := tl, tvec := 1 } }
theorem witness_SystemResults : Issues32 (wTrap .a 1) 0 ⟨[], [], [], []⟩ ∧ (wTrap .a 1).my.c.tl ≠ 0 ∧
    (wTrap .a 1).my.trapEng = (wTrap .a 1).cur.eng ∧ (w .a).my.c.tl = 0 := ⟨quiet_issues ⟨rfl, rfl, rfl, rfl⟩ _, by decide, rfl, rfl⟩
theorem witness_CsrResults : Issues64 (wx .a [(1, 2), (2, 3)]) ⟨0, 31, 0⟩ ⟨[1], [], [], [1]⟩ ∧ (wx .a [(1, 2), (2, 3)]).x 1 &&& 0xFF = 2 ∧
    (wx .a [(1, 2), (2, 3)]).x 2 &&& 0xFF ≠ 1 ∧ (wx .a [(1, 2), (2, 3)]).x 2 &&& 0xFF ≠ 2 :=
  ⟨quiet_issues (quiet_wx ..) _, by decide, by decide, by decide⟩
theorem witness_CsrWriteSeenInBlock : (w .a).blk.isSome = true ∧ ¬ (0x020 ≤ 0x005 ∧ 0x005 ≤ 0x025) := ⟨rfl, by decide⟩
theorem witness_LoopResults : (w .a).my.c.tl = 0 ∧ (w .a).me.loop.run = false ∧ wLoop.Quiet ∧ wLoop.my.c.tl = 0 ∧ wLoop.me.loop.run = true ∧
    (wTrap .a 1).Quiet ∧ (wTrap .a 1).my.c.tl ≠ 0 := ⟨rfl, rfl, ⟨rfl, rfl, rfl, rfl⟩, rfl, rfl, ⟨rfl, rfl, rfl, rfl⟩, by decide⟩
/-- The task after a trap's blocks are discarded: the trapping stream's, and then its siblings' too. -/
def wDisc (s : State) : State := discardBlock s ⟨0, 0, .a⟩
def wOthers (s : State) : Task := (discardOthers (wDisc s) ⟨0, 0, .a⟩).task 0 0
theorem witness_TrapEntry : dueBefore ((wDisc (wTrap .a 0)).task 0 0) .a = none ∧ ((wDisc (wTrap .a 0)).task 0 0).c.tl = 0 ∧
    (wOthers (wTrap .a 0)).c.tl = 0 ∧ (wOthers (wTrap .a 0)).c.tvec.getLsbD 0 = true ∧ (wOthers (wTrap .a 0)).c.snapctl.getLsbD 0 = false :=
  ⟨rfl, rfl, rfl, rfl, rfl⟩
theorem witness_TrapEntryNested : ((wDisc (wTrap .a 1)).task 0 0).c.tl = 1 ∧ ((wDisc (wTrap .a 1)).task 0 0).trapEng = .a ∧
    (wOthers (wTrap .a 1)).c.tl = 1 ∧ (wOthers (wTrap .a 1)).c.tvec.getLsbD 0 = true ∧ (wOthers (wTrap .a 1)).c.snapctl.getLsbD 0 = false :=
  ⟨rfl, rfl, rfl, rfl, rfl⟩
/-- The A stream stands between blocks with a trap due, the V stream in a block. -/
def wDue : State := (wTrap .v 0).modSt ⟨0, 0, .a⟩ fun st => { st with live := true, deferred := [⟨0x0D, 5⟩] }
theorem witness_TrapKills : dueBefore ((wDisc (wTrap .a 2)).task 0 0) .a = none ∧ ((wDisc (wTrap .a 2)).task 0 0).trapEng = .a ∧
    (wOthers (wTrap .a 2)).c.tl ≥ 2 ∧ ((wDisc (w .a)).task 0 0).c.tl = 0 ∧ (wOthers (w .a)).c.tvec.getLsbD 0 = false ∧
    ((wDisc (wTrap .v 1)).task 0 0).c.tl ≠ 0 ∧ ((wDisc (wTrap .v 1)).task 0 0).trapEng ≠ .a ∧
    dueBefore ((discardBlock wDue ⟨0, 0, .v⟩).task 0 0) .v = some (.a, ⟨0x0D, 5⟩) :=
  ⟨rfl, rfl, by decide, rfl, rfl, by decide, by decide, rfl⟩
theorem witness_TrapReturn : (wTrap .a 1).my.c.tl = 1 ∧ (wTrap .a 2).my.c.tl = 2 := ⟨rfl, rfl⟩

/-! ## Witnesses: events, barriers, monitors, tasks, segments, blocks -/

/-- A member of an abort group. -/
def wGrp : State := (w .a).modMy fun t => { t with grp := 3, trec := t.trec ||| (3#512 <<< 272) }
/-- An event counter of 5 and one of 0. -/
def wEvt : State := (w .a).modMy fun t => { t with e := t.e.set 2 5 }
theorem witness_AwaitTakes : Issues32 wEvt 0 ⟨[], [], [], []⟩ ∧ (5#16).toNat ≤ wEvt.my.e[2] ∧ wEvt.my.e[3] < (1#16).toNat :=
  ⟨quiet_issues ⟨rfl, rfl, rfl, rfl⟩ _, by decide, by decide⟩
/-- A node of a graph of three, x1 naming node 2 and x2 node 3; and a plain task. -/
def wNode : State := { wx .a [(1, 1 <<< 63 ||| 2), (2, 1 <<< 63 ||| 3)] with
  replays := [{ id := 0, cid := 1, stream := 0, seq := 0, gid := 0, tmpl := 0, gen := 0, all := false, left := 3, total := 3, status := 0 }] }
def wPlain : State := wNode.modMy fun t => { t with trec := t.trec ||| (0xFFFF#512 <<< 288) }
theorem witness_JoindecResults : Issues64 wNode ⟨0, 31, 0⟩ ⟨[1], [], [], [1]⟩ ∧ Issues64 wPlain ⟨0, 31, 0⟩ ⟨[1], [], [], [1]⟩ ∧
    (wNode.x 1).extractLsb' 39 24 = 0 ∧ (wNode.x 1).getLsbD 63 = true ∧ wNode.my.isNode = true ∧
    ((wNode.x 1).extractLsb' 0 16).toNat < nnode wNode wNode.my ∧ nnode wNode wNode.my ≤ ((wNode.x 2).extractLsb' 0 16).toNat ∧
    wPlain.my.isNode = false ∧ (wNode.x 3).getLsbD 63 = false ∧ (1 <<< 39 : W64).extractLsb' 39 24 ≠ 0 :=
  ⟨quiet_issues ⟨rfl, rfl, rfl, rfl⟩ _, quiet_issues ⟨rfl, rfl, rfl, rfl⟩ _, by decide +kernel⟩
def wRdv (e : Eng) (v : W64) : State := (w e).modMy fun t => { t with c := { t.c with rdv := v } }
/-- A rendezvous armed for a live V stream that has not arrived. -/
def wRdvV : State := (wRdv .a 0x14_0000).modSt ⟨0, 0, .v⟩ fun st => { st with live := true }
theorem witness_RendezvousWait : (wRdv .a 0x20_0000).Quiet ∧ (wRdv .a 0x20_0000).view.c.rdv.getLsbD 21 = true ∧
    (w .a).view.c.rdv.getLsbD 21 = false ∧ (w .a).view.c.rdv.getLsbD 20 = false ∧
    wRdvV.Quiet ∧ wRdvV.view.c.rdv.getLsbD 21 = false ∧ wRdvV.view.c.rdv.getLsbD 20 = true ∧
    wRdvV.view.c.rdv.getLsbD (16 + Eng.v.idx.val) = true ∧ wRdvV.view.rdvArr.getLsbD Eng.v.idx.val = false ∧ (wRdvV.my.stm .v).live = true :=
  ⟨⟨rfl, rfl, rfl, rfl⟩, rfl, rfl, rfl, ⟨rfl, rfl, rfl, rfl⟩, rfl, rfl, rfl, rfl, rfl⟩
/-- DOM names core 0 alone of the die, level 3, and core 1 alone. -/
def wDom (d : W64) (ps : List Phase) : State := { (w .a).modMy fun t => { t with c := { t.c with dom := d } } with phases := ps }
theorem witness_DsyncResults : Issues32 (wTrap .a 1) 0 ⟨[], [], [], []⟩ ∧ (wTrap .a 1).my.c.tl ≠ 0 ∧ (w .a).my.c.tl = 0 ∧
    before (w .a) (w .a).my.tid (w .a).uid (some (w .a).cur.eng) = false ∧ before (wLoad.modBlk fun b => b) 7 2 (some .a) = false ∧
    before { wLoad with paths := wLoad.paths.map fun e => { e with inBlock := false } } 7 2 (some .a) = true ∧
    (wDom 0x200 []).cur.core ∉ domCores (wDom 0x200 []).view.c.dom (wDom 0x200 []).cur.core 3 :=
  ⟨quiet_issues ⟨rfl, rfl, rfl, rfl⟩ _, by decide +kernel⟩
/-- A phase of level 3 of the die, opened by another core with a DOM, and by this one. -/
def pDom (d : W64) (arr : List (Nat × Nat × Nat)) : Phase := ⟨1, 0, 3, d, arr, []⟩
theorem witness_DsyncPhases : Issues32 (w .a) 0 ⟨[], [], [], []⟩ ∧ (w .a).my.c.tl = 0 ∧ (w .a).phases = [] ∧
    (0 : Nat) ∈ domCores 0x300 0 3 ∧ (wDom 0x300 [pDom 0x300 [(1, 9, 0)]]).my.cid = 1 ∧
    (0 : W64).extractLsb' 36 4 + 0 = 0 ∧ (∀ a ∈ (pDom 0x300 [(1, 9, 0)]).arrived, a.1 ≠ 0) ∧
    (pDom 0x300 [(1, 9, 0)]).dom = (wDom 0x300 [pDom 0x300 [(1, 9, 0)]]).view.c.dom &&& 0xFF_FFFF_FFFF ∧
    (pDom 0x100 [(1, 9, 0)]).dom ≠ (wDom 0x300 [pDom 0x100 [(1, 9, 0)]]).view.c.dom &&& 0xFF_FFFF_FFFF ∧
    (∃ a ∈ (pDom 0x300 [(0, 7, 0)]).arrived, a.1 = 0) ∧ 0 ∉ (pDom 0x300 [(0, 7, 0)]).passed ∧
    phaseDone (wDom 0x300 [pDom 0x300 [(0, 7, 0)]]) (pDom 0x300 [(0, 7, 0)]) (domCores 0x300 0 3) = false ∧
    phaseDone (wDom 0x300 [pDom 0x300 [(0, 7, 0), (1, 9, 0)]]) (pDom 0x300 [(0, 7, 0), (1, 9, 0)]) (domCores 0x300 0 3) = true :=
  ⟨quiet_issues (quiet_w .a) _, by decide +kernel⟩
theorem witness_MonitorSets : monSpace 2 = some .k ∧
    checkAddr (w .a) (w .a).cur (w .a).my.cid .k ((w .a).x 1 + (0x40#14).signExtend 64).toNat 1 false = none ∧ (1#3 ≠ 0 ∧ 1#3 ≠ 2 ∧ 1#3 ≠ 3) ∧
    (checkAddr (wx .a [(1, 1 <<< 47)]) ⟨0, 0, .a⟩ 1 .g ((wx .a [(1, 1 <<< 47)]).x 1 + (0x40#14).signExtend 64).toNat 1 false).isSome = true ∧
    monSpace 0 = some .g :=
  ⟨rfl, by decide +kernel, by decide, by decide +kernel, rfl⟩
def wMon (t : Bool) : State := (wx .a [(1, 9)]).modMe fun st => { st with mon := some ⟨.c, 4, t⟩ }
theorem witness_MonitorWait : (w .a).me.mon = none ∧ (wMon true).Quiet ∧ (wMon true).me.mon = some ⟨.c, 4, true⟩ ∧
    (wMon false).Quiet ∧ (wMon false).me.mon = some ⟨.c, 4, false⟩ ∧ (wMon false).x 2 = 0 ∧ (wMon false).x 1 ≠ 0 ∧
    (∃ b, (wMon false).blk = some b ∧ b.timeout = false) :=
  ⟨rfl, ⟨rfl, rfl, rfl, rfl⟩, rfl, ⟨rfl, rfl, rfl, rfl⟩, rfl, rfl, by decide, _, rfl, rfl⟩
theorem witness_SpawnResults : ((wx .a [(1, 0x1000), (2, 0x1001)]).x 1).extractLsb' 0 6 = 0 ∧
    checkAddr (wx .a [(1, 0x1000), (2, 0x1001)]) ⟨0, 0, .a⟩ 1 .g 0x1000 64 false = none ∧
    ((wx .a [(1, 0x1000), (2, 0x1001)]).x 2).extractLsb' 0 6 ≠ 0 := ⟨rfl, by decide, by decide⟩

/-- An event of one count, and a task that waits on none. -/
def wEv : State := { w .a with events := [⟨1, 0x41, 1, [], [], false⟩] }
/-- A die's event table of n events, and the overflow area of tenant 0. -/
def wEvFull (n : Nat) (log : W64) : State :=
  { w .a with events := List.replicate n ⟨1, 0x40, 1, [], [], false⟩ }.modFn 1 fun f => { f with armsize := log }
theorem wEvFull_events (n : Nat) (log : W64) : (wEvFull n log).events = List.replicate n ⟨1, 0x40, 1, [], [], false⟩ := rfl
theorem wEvFull_full (n : Nat) (h : 8192 ≤ n) (log : W64) : tableFull (wEvFull n log) 0x44 = true := by
  have hd : nextDie (wEvFull n log) 0x40 = nextDie (wEvFull n log) 0x44 := rfl
  simp only [tableFull, wEvFull_events, List.filter_replicate, hd]
  simpa using h
theorem wEvFull_slots (n : Nat) (log : W64) (f : Nat) : overflowUsed (wEvFull n log) f = 0 := by
  have ha : (wEvFull n log).arms = [] := rfl
  have hj : (wEvFull n log).jobs = [] := rfl
  have hk : (wEvFull n log).kills = [] := rfl
  have hf (q : Event → Bool) : (((List.replicate n (⟨1, 0x40, 1, [], [], false⟩ : Event)).filter q).map Event.slots).sum = 0 := by
    rw [List.filter_replicate]; split <;> simp [Event.slots]
  simp only [overflowUsed, wEvFull_events, ha, hk, hf, queueOver, hj]
  simp
theorem wEvFull_meets (n : Nat) (h : 8192 ≤ n) (log : W64) : (wEvFull n log).Quiet ∧
    (wEvFull n log).events.find? (fun e => e.cid == 1 && e.name == 0x44) = none ∧ tableFull (wEvFull n log) 0x44 = true ∧
    slotFree (wEvFull n 0) 1 = false ∧ slotFree (wEvFull n 10) 1 = true := by
  have hs (log : W64) : slotFn (wEvFull n log) 1 = 1 := by
    have h : tenantOf (wEvFull n log) 1 = tenantOf (w .a) 1 := rfl
    have h' : tenantOf (w .a) 1 = 0 := by decide +kernel
    simp only [slotFn, h, h']
  have hf (log : W64) : fnAt (wEvFull n log) 1 = fnAt (wEvFull 0 log) 1 := rfl
  have h0 : bits (fnAt (wEvFull n 0) 1).armsize.toNat 0 5 = 0 := by rw [hf]; decide +kernel
  have h1 : bits (fnAt (wEvFull n 10) 1).armsize.toNat 0 5 = 10 := by rw [hf]; decide +kernel
  refine ⟨⟨rfl, rfl, rfl, rfl⟩, ?_, wEvFull_full n h log, ?_, ?_⟩
  · rw [wEvFull_events, List.find?_eq_none]
    intro e h
    rw [List.eq_of_mem_replicate h]; decide
  · simp only [slotFree, hs, h0]; rfl
  · simp only [slotFree, hs, h1, wEvFull_slots]; rfl
theorem witness_EventWaitFull : (wEvFull 8192 0).Quiet ∧
    (wEvFull 8192 0).events.find? (fun e => e.cid == 1 && e.name == 0x44) = none ∧ tableFull (wEvFull 8192 0) 0x44 = true ∧
    slotFree (wEvFull 8192 0) 1 = false ∧ slotFree (wEvFull 8192 10) 1 = true := wEvFull_meets 8192 (Nat.le_refl _) 0
/-- An event of no count: that a stream waits on in hardware, on which four do, and held in the overflow area. -/
def wEv0 (hw : Nat) (spilt : Bool) : State := { w .a with events := [⟨1, 0x41, 0, List.replicate hw (.stream ⟨1, 0, .a⟩ 8), [], spilt⟩] }
theorem witness_EventWaitJoins : (∀ h ∈ [0, 1, 4], ∀ b ∈ [false, true], ∃ e, (wEv0 h b).events.find? (fun e => e.cid == 1 && e.name == 0x41) = some e ∧
      e.count = 0 ∧ e.spilt = b ∧ e.hw.length = h ∧ isWaiter (wEv0 h b) 1 0x41 (.stream (wEv0 h b).cur (wEv0 h b).my.tid) = false) ∧
    slotFree (wEv0 4 false) 1 = false := by
  refine ⟨fun h hh b hb => ?_, by decide +kernel⟩
  simp only [List.mem_cons, List.not_mem_nil, or_false] at hh hb
  rcases hh with rfl | rfl | rfl <;> rcases hb with rfl | rfl <;> exact ⟨_, rfl, rfl, rfl, rfl, by decide +kernel⟩
theorem witness_EventWait : wEv.Quiet ∧ (∀ b, wEv.blk = some b → b.evRel = false) ∧
    isWaiter wEv wEv.my.cid 0x41 (.stream wEv.cur wEv.my.tid) = false ∧
    wEv.events.find? (fun e => e.cid == wEv.my.cid && e.name == ((wEv.x 1).toNat + (0x41#14).toNat) % 65536) = some ⟨1, 0x41, 1, [], [], false⟩ ∧
    (∀ e ∈ wEv.events, e.count > 0 ∧ e.hw = [] ∧ e.ovf = []) ∧ (w .a).events.find? (fun e => e.cid == 1 && e.name == 5) = none ∧
    tableFull (w .a) 5 = false :=
  ⟨⟨rfl, rfl, rfl, rfl⟩, fun _ h => by cases h; rfl, by decide +kernel, rfl, by decide +kernel, rfl, rfl⟩
/-- Iteration 3 of a staged task whose window is 2 to 8; its left neighbour has reached stage 4, it stage 2. -/
def wStg : State :=
  let s := (wx .a [(1, 5), (2, 1)]).modMy fun t => { t with
    trec := t.trec ||| (1#512 <<< 270) ||| (2#512 <<< 128), part := 5, c := { t.c with iter := 3 } }
  { s with stages := [⟨5, 0, 0, 2, 8, 8, [(2, 4), (3, 2)], []⟩] }
theorem witness_StageResults : (w .a).my.staged = false ∧ wStg.Quiet ∧ wStg.my.staged = true ∧ stageC wStg wStg.my 3 = some 2 ∧
    2 ≤ (wStg.x 1).toNat ∧ (wStg.x 2).toNat < 2 ∧ 3 ≠ wStg.my.ilo ∧ stageLeft wStg wStg.my 3 = some 4 ∧ 4 < (wStg.x 1).toNat ∧
    (wStg.x 2).toNat ≤ 4 ∧ (wStg.x 2).toNat ≠ 0 ∧ (wStg.x 0).toNat = 0 :=
  ⟨rfl, ⟨rfl, rfl, rfl, rfl⟩, rfl, rfl, by decide +kernel, by decide +kernel, by decide +kernel, rfl, by decide +kernel, by decide +kernel, by decide +kernel, rfl⟩
/-- The line of its abort group is raised, and it has been sampled. -/
def wAbort : State := { wGrp.modMy fun t => { t with line := true } with aborts := [(1, 3, 0, 0)] }
theorem witness_AbortSample : wGrp.my.abgrp ≠ 0 ∧ (w .a).my.abgrp = 0 ∧ abortRaised (w .a) 0 (w .a).my = false ∧ wAbort.Quiet ∧
    wAbort.my.c.tl = 0 ∧ abortRaised wAbort wAbort.cur.core wAbort.my = true := ⟨by decide +kernel, rfl, rfl, ⟨rfl, rfl, rfl, rfl⟩, rfl, by decide +kernel⟩
/-- In a segment whose entry asks for 2 words and the CRC held. -/
def wSeg : State := (w .a).modMe fun st => { st with seg := some ⟨0xFFFFFFFE_00000002, 2, 1⟩ }
theorem witness_SegmentResults : (w .a).effs = [] ∧ (w .a).me.seg = none ∧ ((w .a).x 1 + (0x10#14).signExtend 64).extractLsb' 0 4 = 0 ∧
    checkAddr (w .a) ⟨0, 0, .a⟩ 1 .g 0x10 16 false = none ∧ ((w .a).x 1 + (0x11#14).signExtend 64).extractLsb' 0 4 ≠ 0 ∧
    wSeg.Quiet ∧ wSeg.my.c.tl = 0 ∧ (∃ sg, wSeg.me.seg = some sg ∧ sg.count = sg.ent.extractLsb' 0 32 ∧
      sg.crc ^^^ 0xFFFFFFFF = sg.ent.extractLsb' 32 32) :=
  ⟨rfl, rfl, rfl, by decide +kernel, by decide +kernel, ⟨rfl, rfl, rfl, rfl⟩, rfl, _, rfl, rfl, rfl⟩

/-! ## Witnesses: blocks -/

/-- A stream with its block fetched and not open: an encoding that fails, a loop body that its four words straddle. -/
def wHdr (ill : Option W64) (run : Bool) : State := (w .a).modMe fun st => { st with
  blk := none, pc := 0x4000, fetched := some [0x00220000#32, 0x0C053006#32, 0x0FC80010#32, 0x10632140#32], illegal := ill, first := true
  loop := { st.loop with run := run, start := 0x4000, len := 2 } }
/-- The same, the task's line raised. -/
def wHdrAbort : State :=
  { (wHdr none false).modMy fun t => { t with line := true, trec := t.trec ||| (3#512 <<< 272) } with aborts := [(1, 3, 0, 0)] }
theorem witness_BlockOpens : (wHdr none false).blk = none ∧ (wHdr none false).me.fetched.isSome = true ∧ (wHdr none false).my.live = true ∧
    (wHdr none false).me.live = true ∧ (wHdr none false).me.stopped = false ∧ abortRaised (wHdr none false) 0 (wHdr none false).my = false ∧
    (wHdr none false).me.illegal = none ∧ straddles (wHdr none false).me.loop (wHdr none false).me.pc 4 = false ∧
    (∀ k ∈ waitToks .a 0, (wHdr none false).my.tok k ≠ 0) := ⟨rfl, rfl, rfl, rfl, rfl, rfl, rfl, rfl, by decide +kernel⟩
theorem witness_BlockHeaderStops : wHdrAbort.blk = none ∧ wHdrAbort.my.c.tl = 0 ∧ abortRaised wHdrAbort 0 wHdrAbort.my = true ∧
    wHdrAbort.me.first = true ∧ (wHdr (some 5) false).me.illegal = some 5 ∧ abortRaised (wHdr (some 5) false) 0 (wHdr (some 5) false).my = false ∧
    straddles (wHdr none true).me.loop (wHdr none true).me.pc 4 = true ∧ (wHdr none false).me.illegal = none ∧
    straddles (wHdr none false).me.loop (wHdr none false).me.pc 4 = false ∧
    (let dead (s : State) (k : Nat) : Bool := s.my.tok k == 0 && (!(s.my.stm (tokSender k)).live &&
        !s.paths.any fun x => x.tid == s.my.tid && x.acc == .token k)
     ((waitToks .a 8).find? (dead (wHdr none false))).isSome = true ∧ (waitToks .a 0).find? (dead wHdrAbort) = none) :=
  ⟨rfl, rfl, by decide +kernel, rfl, rfl, rfl, by decide +kernel, rfl, by decide +kernel, by decide +kernel, by decide +kernel⟩
/-- A block whose instructions have issued, with its exits. -/
def wExit (es : List (R5 × BitVec 2 × BitVec 14 × W32)) : State := (w .a).modBlk fun b => { b with words := [], exits := es }
theorem witness_BlockCommits : ∀ kind : BitVec 2, ∃ b, (wExit [(31, kind, 4, 0)]).blk = some b ∧ b.words = [] ∧ b.effs = [] ∧
    trueExits (wExit [(31, kind, 4, 0)]).me b = [(31, kind, 4, 0)] ∧ (wExit [(31, kind, 4, 0)]).me.seg = none ∧
    (wExit [(31, kind, 4, 0)]).me.loop.run = false ∧ (wExit [(31, kind, 4, 0)]).me.deferred = [] ∧
    PredsClean (wExit [(31, kind, 4, 0)]) (b.exits.map (·.1)) ∧
    ((wExit [(31, kind, 4, 0)]).paths.any fun x => x.tid == (wExit [(31, kind, 4, 0)]).my.tid && x.r.eng == .a && x.inBlock) = false ∧
    (wExit [(31, kind, 4, 0)]).me.cq.length ≤ 16 ∧ ((wExit [(31, kind, 4, 0)]).me.rx 31).extractLsb' 0 2 = 0 :=
  fun _ => ⟨_, rfl, rfl, rfl, rfl, rfl, rfl, rfl, fun p _ => clean_preds rfl p, rfl, Nat.zero_le _, rfl⟩
theorem witness_ExitErrors : ∃ b, (wExit [(4, 0, 4, 0)]).blk = some b ∧ b.words = [] ∧
    ((wExit [(4, 0, 4, 0)]).paths.any fun x => x.tid == 7 && x.r.eng == .a && x.inBlock) = false ∧
    PredsClean (wExit [(4, 0, 4, 0)]) (b.exits.map (·.1)) ∧ (trueExits (wExit [(4, 0, 4, 0)]).me b).length ≠ 1 :=
  ⟨_, rfl, rfl, rfl, fun p _ => clean_preds rfl p, by decide⟩
/-- A block that has taken a token, a count and a queue value. -/
def wTaken : State := (w .v).modBlk fun b => { b with taken := [.token 3, .event 2 5, .queue 1 9, .evwait 0x41] }
theorem witness_DiscardRestores : (∃ b, (wTaken.stm ⟨0, 0, .v⟩).blk = some b ∧ ∀ p me, Taken.dsync p me ∉ b.taken) := ⟨_, rfl, by simp⟩
def wDefer : State := (w .a).modMe fun st => { st with blk := none, deferred := [⟨0x0D, 5⟩] }
theorem witness_ExitResults : Issues32 (w .a) 0 ⟨[31], [], [], [31]⟩ ∧ Issues32 (w .a) 0 ⟨[31], [4], [], []⟩ ∧ Issues32 (w .a) 0 ⟨[], [], [], []⟩ :=
  ⟨quiet_issues (quiet_w .a) _, quiet_issues (quiet_w .a) _, quiet_issues (quiet_w .a) _⟩
/-- The V stream as well as the A stream between blocks with a trap due. -/
def wDefer2 : State := (wDue.modMe fun st => { st with blk := none, deferred := [⟨0x0B, 6⟩] })
theorem witness_DeferredTrapWaits : (wDefer.modMy fun t => { t with c := { t.c with tl := 1 } }).my.c.tl ≠ 0 := by decide
theorem witness_DeferredTrapTaken : dueBefore wDefer.my .a = none ∧ wDefer2.blk = none ∧ wDefer2.me.deferred = ⟨0x0B, 6⟩ :: [] ∧
    wDefer2.me.stopped = false ∧ wDefer2.me.live = true ∧ dueBefore wDefer2.my .v = some (.a, ⟨0x0D, 5⟩) ∧ wDefer.blk = none ∧ wDefer.me.deferred = ⟨0x0D, 5⟩ :: [] ∧ wDefer.me.stopped = false ∧ wDefer.me.live = true :=
  ⟨rfl, rfl, rfl, rfl, rfl, rfl, rfl, rfl, rfl, rfl⟩
/-- A marker heads the queue of a stream that a rendezvous waits for. -/
def wMark : State := (wRdv .a 0x11_0007).modMe fun st => { st with cq := [newCmd (w .a) (.mark 7)] }
theorem witness_MarkerRetires : ∃ c cs, (wMark.stm ⟨0, 0, .a⟩).cq = c :: cs ∧ c.op = .mark 7 ∧
    (wMark.task 0 0).c.rdv.getLsbD 20 = true ∧ (wMark.task 0 0).c.rdv.getLsbD (16 + Eng.a.idx.val) = true ∧
    (wMark.task 0 0).c.rdv.extractLsb' 0 16 = 7 ∧ cmdFenced wMark ⟨0, 0, .a⟩ c = false ∧
    cmdFenced { wMark with paths := [{ mkEntry wMark 0 .weak .core .g 0 0 0 (.xfence 1 1) with uid := 0 }] } ⟨0, 0, .a⟩ { c with id := 1 } = true :=
  ⟨_, _, rfl, rfl, rfl, rfl, rfl, by decide +kernel, by decide +kernel⟩
/-- mwait x3, x1 held since cycle 0, x1 = 9. -/
def wMwait (now : Nat) : State := { ((wMon false).modMe fun st => { st with hold := .monitor }).modBlk fun b => { b with
  words := [0x0B430801#32, 0x0F800000#32], began := some 0 } with cycle := now }
theorem witness_MonitorTimeout : (∃ b, ((wMwait 9).stm ⟨0, 0, .a⟩).blk = some b ∧ b.began = some 0 ∧
      (((wMwait 9).stm ⟨0, 0, .a⟩).rx ((b.words.headD 0).extractLsb' 11 5)).toNat ≤ (wMwait 9).cycle - 0) ∧
    ((wMwait 9).stm ⟨0, 0, .a⟩).hold = .monitor ∧
    (∃ b, ((wMwait 8).stm ⟨0, 0, .a⟩).blk = some b ∧
      (wMwait 8).cycle - 0 < (((wMwait 8).stm ⟨0, 0, .a⟩).rx ((b.words.headD 0).extractLsb' 11 5)).toNat) :=
  ⟨⟨_, rfl, rfl, by decide +kernel⟩, rfl, _, rfl, by decide +kernel⟩

/-! ## Witnesses: memory -/

theorem witness_LoadIssues : checkAddr (w .a) ⟨0, 0, .a⟩ 1 .c ((w .a).x 1 + (0x40#14).signExtend 64).toNat 8 false = none ∧
    ((w .a).x 1 + (0x40#14).signExtend 64).toNat % 8 = 0 ∧ ((w .a).x 1 + (0x41#14).signExtend 64).toNat % 8 ≠ 0 ∧
    checkAddr (w .a) ⟨0, 0, .a⟩ 1 .c ((w .a).x 1 + (0x41#14).signExtend 64).toNat 8 false = none ∧
    checkAddr (wx .a [(1, 1 <<< 20)]) ⟨0, 0, .a⟩ 1 .c ((wx .a [(1, 1 <<< 20)]).x 1).toNat 8 false = some ((0x07 : Nat), (1 <<< 20 : W64)) :=
  ⟨by decide +kernel, by decide +kernel, by decide +kernel, by decide +kernel, by decide +kernel⟩
theorem witness_StoreIssues : checkAddr (w .a) ⟨0, 0, .a⟩ 1 .g 0x40 8 false = none ∧ (w .a).my.c.tl = 0 ∧ 0x40 % 8 = 0 := ⟨by decide +kernel, rfl, rfl⟩

/-- Context 1 of die 0, MGMT, with one page of RC memory at its address 0, its physical address 2 MiB. -/
def wm (e : Eng) : State :=
  let s := (w e).write (hbmKey 0 0x40) (toBytes 64 (0x11 + 0x10000 * 2 ^ 64))
  let s := s.write (hbmKey 0 0x10000) (toBytes 8 0x20001)
  s.write (hbmKey 0 0x20000) (toBytes 16 (0x20001F + 0xFFFFFFFF * 2 ^ 64))
theorem witness_FenceResults : (wm .a).Quiet ∧ ctxMgmt (wm .a) 0 1 = true ∧ storesOut (wm .a) = false ∧ ctxMgmt (w .a) 0 1 = false ∧
    ((wx .a [(1, 1 <<< 47)]).x 1).extractLsb' 45 3 = 4 := ⟨⟨rfl, rfl, rfl, rfl⟩, by decide +kernel, rfl, by decide +kernel, by decide +kernel⟩
/-- An access on a path of the stream. -/
def wAcc (s : State) (sp : Space) (a : Nat) (acc : Acc) : State := s.enter (mkEntry s 0 .weak .core sp 0 a 8 acc) false
theorem witness_StoresOut : storesOut (wAcc (wm .a) .c 0 (.store [1])) = true ∧ (wAcc (wm .a) .c 0 (.store [1])).blk.isSome = true := ⟨by decide +kernel, rfl⟩
theorem witness_ExistenceIssues : checkAddr (w .a) ⟨0, 0, .a⟩ 1 .g 0x48 8 false = none ∧ 0x48 % 8 = 0 ∧
    checkAddr (w .a) ⟨0, 0, .a⟩ 1 .g 0x49 1 false = none := ⟨by decide +kernel, rfl, by decide +kernel⟩
theorem witness_AtomicValues : (toBytes 8 5).length = 64 / 8 ∧ (toBytes 4 5).length = 32 / 8 := ⟨rfl, rfl⟩

/-! ## Witnesses: accesses performed -/

theorem witness_LocalLoadPerformed : ∃ e, entryOf (wAcc (w .a) .c 0x40 (.load (.x 3 6))) 1 = some e ∧
    eligible (wAcc (w .a) .c 0x40 (.load (.x 3 6))) e = true ∧
    (let k := localKey (wAcc (w .a) .c 0x40 (.load (.x 3 6))) e.r e.sp e.lane e.addr
     homePoison (eccRead (wAcc (w .a) .c 0x40 (.load (.x 3 6))) k e.n) k e.n = false) := ⟨_, rfl, by decide +kernel, by decide +kernel⟩
/-- Whether a computation over memory succeeds with what a test asks. -/
def okIs {α : Type} (r : EStateM.Result Miss State α) (p : α → State → Bool) : Bool := match r with | .ok a u => p a u | .error _ _ => false
theorem okIs_ok {α : Type} {r : EStateM.Result Miss State α} {p : α → State → Bool} (h : okIs r p = true) : ∃ a u, r = .ok a u ∧ p a u = true := by
  cases r with
  | ok a u => exact ⟨a, u, rfl, h⟩
  | error _ _ => exact absurd h (by simp [okIs])
theorem witness_GlobalLoadPerformed : ∃ e, entryOf (wAcc (wm .a) .g 0x40 (.load (.x 3 6))) 1 = some e ∧
    eligible (wAcc (wm .a) .g 0x40 (.load (.x 3 6))) e = true ∧
    ∃ r u, gRead e.who e.addr e.n .rd (wAcc (wm .a) .g 0x40 (.load (.x 3 6))) = .ok r u ∧ (!r.2.2) = true :=
  ⟨_, rfl, by decide +kernel, okIs_ok (by decide +kernel)⟩
theorem witness_LocalStorePerformed : ∃ e, entryOf (wAcc (w .a) .c 0x40 (.store [1, 2])) 1 = some e ∧
    eligible (wAcc (w .a) .c 0x40 (.store [1, 2])) e = true := ⟨_, rfl, by decide +kernel⟩
theorem witness_GlobalStorePerformed : ∃ e, entryOf (wAcc (wm .a) .g 0x40 (.store [1, 2])) 1 = some e ∧
    eligible (wAcc (wm .a) .g 0x40 (.store [1, 2])) e = true ∧ logBlocks (wAcc (wm .a) .g 0x40 (.store [1, 2])) e = false ∧
    ∃ r u, locate e.who e.addr 2 .wr (wAcc (wm .a) .g 0x40 (.store [1, 2])) = .ok r u ∧
      (r.1 == .at (2 ^ 21 + 0x40) && (e.who.stager u).isNone && !peerFails u (2 ^ 21 + 0x40) 2) = true :=
  ⟨_, rfl, by decide +kernel, by decide +kernel, okIs_ok (by decide +kernel)⟩
/-- A spawnr whose record at 0x40 holds v, its read on its way, in a task with n implicit successors. -/
def wSpawn (n v : Nat) : State :=
  (((wm .a).write (2 ^ 21 + 0x40) (toBytes 64 v)).modMy fun t => { t with succ := List.replicate n 9 }).load 1 .strong .core .g 0 0x40 64 (.spawn true 3 0x40)
/-- What the read of wSpawn meets. -/
def spawnCase (n v : Nat) (refused full : Bool) : Bool :=
  match entryOf (wSpawn n v) 1 with
  | some e =>
    eligible (wSpawn n v) e && okIs (gRead e.who e.addr e.n .rd (wSpawn n v)) fun r u =>
      !r.2.2 && spawnRefused (u.task 0 0) true (BitVec.ofNat 512 (leNat (patch r.1 e.ovl))) == refused &&
      decide (16 ≤ successorsBefore (u.dropEntry e) e) == full
  | none => false
theorem witness_SpawnReturns : spawnCase 0 0 true false = true ∧ spawnCase 16 (0xFFFF * 2 ^ 288) false true = true ∧
    spawnCase 15 (0xFFFF * 2 ^ 288) false false = true := ⟨by decide +kernel, by decide +kernel, by decide +kernel⟩
/-- A peer window of 4 KiB for tenant 0, whose peer answers with errors. -/
def wPeer : State := { wm .a with peerwin := [(0, 0x10000), (1, 0x10C)], peerErr := [0x10] }.modLink 0 fun k => { k with up := true }
theorem witness_PeerStorePerformed : ∃ e, entryOf (wAcc wPeer .g (6 * 2 ^ 45 + 0x40) (.store [1, 2])) 1 = some e ∧
    eligible (wAcc wPeer .g (6 * 2 ^ 45 + 0x40) (.store [1, 2])) e = true ∧ logBlocks (wAcc wPeer .g (6 * 2 ^ 45 + 0x40) (.store [1, 2])) e = false ∧
    ∃ r u, locate e.who e.addr 2 .wr (wAcc wPeer .g (6 * 2 ^ 45 + 0x40) (.store [1, 2])) = .ok r u ∧
      ((match r.1 with | .at k => peerFails u k 2 | .dflt _ => false) && (e.who.stager u).isNone && decide (tenantOf u e.cid < 8)) = true :=
  ⟨_, rfl, by decide +kernel, by decide +kernel, okIs_ok (by decide +kernel)⟩

theorem witness_AtomicPerformed : ∃ e, entryOf (wAcc (w .a) .c 0x40 (.amo .add true 5 0 3)) 1 = some e ∧
    eligible (wAcc (w .a) .c 0x40 (.amo .add true 5 0 3)) e = true ∧
    ((wAcc (w .a) .c 0x40 (.amo .add true 5 0 3)).task e.r.core e.r.slot).tid = e.tid ∧ e.who.stager (wAcc (w .a) .c 0x40 (.amo .add true 5 0 3)) = none ∧
    (let k := localKey (wAcc (w .a) .c 0x40 (.amo .add true 5 0 3)) e.r e.sp e.lane e.addr
     homePoison (eccRead (wAcc (w .a) .c 0x40 (.amo .add true 5 0 3)) k e.n) k e.n = false) :=
  ⟨_, rfl, by decide +kernel, by decide +kernel, by decide +kernel, by decide +kernel⟩
theorem witness_SignalPerformed : (∃ e, entryOf (wAcc (w .a) .c 0 (.token 5)) 1 = some e ∧ eligible (wAcc (w .a) .c 0 (.token 5)) e = true ∧
      ((wAcc (w .a) .c 0 (.token 5)).task e.r.core e.r.slot).tid = e.tid) ∧
    (∃ e, entryOf (wAcc (w .a) .c 0 (.post 15 4)) 1 = some e ∧ eligible (wAcc (w .a) .c 0 (.post 15 4)) e = true) ∧
    (∃ e, entryOf (wAcc (w .a) .c 0 (.qpush 7 9)) 1 = some e ∧ eligible (wAcc (w .a) .c 0 (.qpush 7 9)) e = true) :=
  ⟨⟨_, rfl, by decide +kernel, by decide +kernel⟩, ⟨_, rfl, by decide +kernel⟩, ⟨_, rfl, by decide +kernel⟩⟩
/-- A copy of line 1 in the core's view cache, and a weak load of its bytes. -/
def wView : State := { wAcc (wm .a) .g 0x40 (.load (.x 3 6)) with views := [⟨0, 1, 1, List.replicate 64 7⟩] }
theorem witness_ViewCaches : (∃ e v, entryOf wView 1 = some e ∧ viewOf wView e.r.core e.cid (e.addr / 64) = some v ∧ unheld wView e = true ∧
      e.path = 0 ∧ e.ord = .weak ∧ e.sp = .g ∧ (e.addr + e.n - 1) / 64 = e.addr / 64 ∧ viewable wView e.cid e.addr = true ∧
      e.who.stager wView = none) ∧
    viewable (wm .a) 1 0x40 = true ∧ ctxValid (wm .a) 0 1 = true ∧ peekKey (wm .a) 1 0x40 = some (2 ^ 21 + 0x40) ∧
    (2 ^ 21 + 0x40) % 2 ^ 40 < hbmBytes ∧ reaches (wm .a) 0 0 64 = true ∧
    homePoison (homeFetch (travel (wm .a) 0 0 64) (2 ^ 21 + 0x40) 64) (2 ^ 21 + 0x40) 64 = false :=
  ⟨⟨_, _, rfl, rfl, by decide +kernel, rfl, rfl, rfl, by decide +kernel, by decide +kernel, by decide +kernel⟩, by decide +kernel,
    by decide +kernel, by decide +kernel, by decide +kernel, by decide +kernel, by decide +kernel⟩
theorem witness_FaultAnswers : ∃ f ∈ ({ w .a with faults := [⟨3, 0, 1, 5⟩] } : State).faults, f.tag = 3 := ⟨_, List.mem_singleton.mpr rfl, rfl⟩
/-- A logged store whose part is there again. -/
def wLog : State := { wm .a with
  logs := [⟨{ mkEntry (wm .a) 0 .weak .core .g 0 0x40 8 (.store [1, 2]) with uid := 9 }, 0, none⟩], dirty := [(2 ^ 21 + 0x80) / 256] }
theorem witness_LogReplay : ∃ l, wLog.logs.find? (fun l => l.e.uid == 9 && l.e.r.core == 0) = some l ∧ replayable wLog l = true ∧
    linked wLog l.e = true ∧ eccRead wLog (logKey 0 9) 80 = wLog ∧ badWord wLog (logKey 0 9) 80 = false ∧ (∃ r u, locate l.e.who l.e.addr 2 .wr wLog = .ok r u ∧
      (r.1 == .at (2 ^ 21 + 0x40) && (l.e.who.stager u).isNone && !peerFails u (2 ^ 21 + 0x40) 2) = true) ∧
    (∃ k u, structKey 1 0 (0 * 2 ^ 45 + bits (ctxEntry wLog 0 1) 128 45 + 64 * 2) .rd wLog = .ok k u ∧ wLog.dirty.contains (k / 256) = true) := by
  refine ⟨_, rfl, by decide +kernel, by decide +kernel, by simp [eccRead, show wLog.soft = [] from rfl], by decide +kernel,
    okIs_ok (by decide +kernel), ?_⟩
  exact okIs_ok (r := structKey 1 0 (0 * 2 ^ 45 + bits (ctxEntry wLog 0 1) 128 45 + 64 * 2) .rd wLog)
    (p := fun k _ => wLog.dirty.contains (k / 256)) (by decide +kernel)
theorem witness_Invalidation : ((0x1000_2000_0020_0000 : W64).extractLsb' 45 3).toNat < 4 ∧
    ({ w .a with invals := [⟨0, 1, none⟩] } : State).invals = ⟨0, 1, none⟩ :: [] := ⟨by decide +kernel, rfl⟩
/-- A layout waits for an eight without tasks, and one for an eight with a task. -/
def wLay : State := { w .a with kcfgNew := [(0, 0x1_0000_0004), (1, 0x1_8001_0004)] }
theorem witness_LayoutApplied : tget 0 wLay.kcfgNew 1 ≠ 0 ∧ (wLay.tasks.any fun e => e.1 / 4 / 8 == 1 && e.2.live) = false ∧
    tget 0 wLay.kcfgNew 0 ≠ 0 ∧ (wLay.tasks.any fun e => e.1 / 4 / 8 == 0 && e.2.live) = true :=
  ⟨by decide +kernel, by decide +kernel, by decide +kernel, by decide +kernel⟩
theorem witness_ContextKills : (0x8001 : W64).getLsbD 15 = true ∧ ctxValid (wm .a) 0 ((0x8001 : W64).extractLsb' 0 12).toNat = true ∧
    (wm .a).kills = [] ∧ (0x0001 : W64).getLsbD 15 = false ∧
    ({ w .a with kills := [⟨1, 0x10, [], 0⟩] } : State).kills = [⟨1, 0x10, [], 0⟩] ∧ (w .a).pkg.tripping = false ∧ (w .a).pkg.holding = false ∧
    (∀ d, d < 4 → (dieAt (w .a) d).rst = none) := ⟨rfl, by decide +kernel, rfl, rfl, rfl, rfl, rfl, by decide +kernel⟩


/-! ## Witnesses: the access engine -/

/-- With handle 3 and stream register 2 set. -/
def wa (h3 : BitVec 128) (s2 : BitVec 512) (xs : List (Nat × W64)) : State :=
  (wx .a xs).modMy fun t => { t with h := t.h.set 3 h3, s := t.s.set 2 s2 }
theorem quiet_wa (h3 : BitVec 128) (s2 : BitVec 512) (xs : List (Nat × W64)) : (wa h3 s2 xs).Quiet := ⟨rfl, rfl, rfl, rfl⟩
/-- A handle over 32 KiB of .c, FREE or FULL. -/
def hFree : BitVec 128 := 0x8000_00_0000_0004
def hFull : BitVec 128 := 0x8000_00_0000_0006
/-- 64 bytes at 0x40 of .c. -/
def vC : BitVec 512 := 0x40 ||| (1 <<< 48) ||| (8 <<< 72)
theorem clean_sregs {s : State} (hs : s.soft = []) (is : List (BitVec 4)) : SregsClean s is := fun i _ => by simp [eccRead, badWord, hs]
theorem quiet_issuesS {s : State} (h : s.Quiet) (u : Uses) (is : List (BitVec 4)) (hs : s.soft = [] := by rfl) : IssuesS s ⟨0, 31, 0⟩ u is :=
  ⟨quiet_issues h u hs, clean_sregs hs is⟩
theorem witness_StreamRegisterSets : IssuesS (wa hFree vC []) ⟨0, 31, 0⟩ ⟨[1, 2], [], [], [1, 2]⟩ [2] ∧
    IssuesS (wa hFree vC []) ⟨0, 31, 0⟩ ⟨[1], [], [], [1]⟩ [2] ∧ IssuesS (wa hFree vC []) ⟨0, 31, 0⟩ ⟨[], [], [], []⟩ [2] ∧ (0x40 : W64).extractLsb' 48 16 = 0 ∧ (1 : W64).extractLsb' 3 61 = 0 ∧ (1 <<< 48 : W64).extractLsb' 48 16 ≠ 0 ∧
    (0x30005 : W64).extractLsb' 18 46 = 0 ∧ (0xFFFF_FFFF_FFFF_FFC0 : W64) = ((0xFFFF_FFFF_FFFF_FFC0 : W64).extractLsb' 0 48).signExtend 64 ∧
    ((0x0840 : W64).extractLsb' 0 7).toNat ≤ 64 ∧ (0x0840 : W64).getLsbD 7 = false ∧ (0x0840 : W64).extractLsb' 16 48 = 0 ∧
    ((0x868 : W64).getLsbD 11 = true → 1 ≤ ((0x868 : W64).extractLsb' 0 4).toNat ∧ ((0x868 : W64).extractLsb' 0 4).toNat ≤ 8 ∧
      ((0x868 : W64).extractLsb' 4 3).toNat ≤ 6) ∧
    (8 : W64).extractLsb' 3 61 ≠ 0 ∧ (0x40005 : W64).extractLsb' 18 46 ≠ 0 ∧ (1 <<< 47 : W64) ≠ ((1 <<< 47 : W64).extractLsb' 0 48).signExtend 64 ∧
    64 < ((0x41 : W64).extractLsb' 0 7).toNat ∧ (0x80 : W64).getLsbD 7 = true ∧ (0x10000 : W64).extractLsb' 16 48 ≠ 0 ∧
    (0x860 : W64).getLsbD 11 = true ∧ (0x860 : W64).extractLsb' 0 4 = 0 ∧ 8 < ((0x869 : W64).extractLsb' 0 4).toNat ∧
    6 < ((0x878 : W64).extractLsb' 4 3).toNat :=
  ⟨quiet_issuesS (quiet_wa ..) .., quiet_issuesS (quiet_wa ..) .., quiet_issuesS (quiet_wa ..) .., by decide +kernel⟩
theorem witness_AccessReads : SregsClean (w .a) [2] ∧ Issues64 (w .a) ⟨0, 31, 0⟩ ⟨[3, 4], [], [], [4]⟩ ∧ ((7 : W64).extractLsb' 0 4).toNat < 8 ∧ 8 ≤ ((9 : W64).extractLsb' 0 4).toNat ∧ ((9 : W64).extractLsb' 0 4).toNat < 10 ∧
    10 ≤ ((10 : W64).extractLsb' 0 4).toNat ∧ ringSpace 3 = some .d ∧ checkAddr (w .a) ⟨0, 0, .a⟩ 1 .d 0 64 false = none ∧
    checkAddr (w .a) ⟨0, 0, .a⟩ 1 .g 0x40 64 false = none := ⟨clean_sregs rfl _, quiet_issues (quiet_w .a) _, by decide +kernel⟩
/-- A space code of 4, and a scratchpad address beyond its slot. -/
def vBad : BitVec 512 := 0x40 ||| (4 <<< 48) ||| (8 <<< 72)
def vFar : BitVec 512 := 0x40_0000 ||| (1 <<< 48) ||| (8 <<< 72)
/-- A handle whose buffer is one line. -/
def hShort : BitVec 128 := 0x40_00_0000_0004
theorem witness_CopyTraps : IssuesS (wa hFree vC []) ⟨0, 31, 0⟩ ⟨[], [], [], []⟩ [2] ∧
    Issues64 (wa hFree vC [(1, 0x40), (2, 128)]) ⟨0, 31, 0⟩ ⟨[1, 2], [], [], [1, 2]⟩ ∧ 4 ≤ sSp vBad ∧ codeSpace (sSp vFar) = some .c ∧
    (endsTrap (wa hFree vFar []) .c (layoutEnds vFar).1 (layoutEnds vFar).2 true).isSome = true ∧
    (handleTrap (wa hShort vC []) 3 128).isSome = true ∧ (wa hFree vC []).my.hst 3 ≠ 2 ∧ (wa hFull vC []).my.hst 3 ≠ 0 ∧
    ((wa hFree vC [(1, 0x40), (2, 128)]).x 2).toNat % 64 = 0 ∧ ((wa hFree vC [(1, 0x48), (2, 127)]).x 2).toNat % 64 ≠ 0 ∧
    ((wa hFree vC [(1, 0x48)]).x 1).toNat % 64 ≠ 0 :=
  ⟨quiet_issuesS (quiet_wa ..) .., quiet_issues (quiet_wa ..) _, by decide +kernel⟩
theorem witness_CopyResults : (wa hFree vC []).Quiet ∧ sSp ((wa hFree vC []).sreg 2) = 1 ∧ codeSpace 1 = some .c ∧
    endsTrap (wa hFree vC []) .c (layoutEnds ((wa hFree vC []).sreg 2)).1 (layoutEnds ((wa hFree vC []).sreg 2)).2 true = none ∧
    handleTrap (wa hFree vC []) 3 (layoutN ((wa hFree vC []).sreg 2) * sBlen ((wa hFree vC []).sreg 2)) = none ∧
    (wa hFree vC []).my.hst 3 = 0 ∧ (wa hFull vC []).my.hst 3 = 2 ∧ handleTrap (wa hFull vC []) 3 128 = none ∧
    endsTrap (wa hFull vC []) .g 0x40 (0x40 + 128 - 1) true = none ∧ endsTrap (wa hFull vC []) .d 0x40 (0x40 + 128 - 1) true = none ∧
    endsTrap (wa hFull vC []) .k 0x40 (0x40 + 128 - 1) true = none :=
  ⟨quiet_wa .., by decide +kernel, rfl, by decide +kernel, by decide +kernel, by decide +kernel, by decide +kernel, by decide +kernel,
    by decide +kernel, by decide +kernel, by decide +kernel⟩
/-- A table of 4 rows of 64 bytes at 0x40, and a plane of 64 by 64 elements of 8 bytes in tiles of 16. -/
def vTab : BitVec 512 := 0x40 ||| (64 <<< 144) ||| (4 <<< 208) ||| (64 <<< 224)
def vPlane : BitVec 512 := 0x40 ||| (1 <<< 72) ||| (64 <<< 144) ||| (8 <<< 160) ||| (64 <<< 208) ||| (512 <<< 224) ||| (1 <<< 400) ||| (1 <<< 401)
theorem witness_TableResults : IssuesS (wa hFree vTab [(1, 0x100), (2, 2)]) ⟨0, 31, 0⟩ ⟨[1, 2], [], [], [1, 2]⟩ [2] ∧
    (wa hFree vTab [(1, 0x100), (2, 2)]).soft = [] ∧ sSp vTab = 0 ∧ sSize vTab 0 = 64 ∧
    checkAddr (wa hFree vTab [(1, 0x100), (2, 2)]) ⟨0, 0, .a⟩ 1 .c 0x100 8 false = none ∧
    (∀ r ∈ (((List.range 2).filter fun k => (indexList (wa hFree vTab [(1, 0x100), (2, 2)]) .c 0x100 2).getD k 0 < sSize vTab 1).map fun k =>
      (k, rowAddr vTab ((indexList (wa hFree vTab [(1, 0x100), (2, 2)]) .c 0x100 2).getD k 0))),
      checkAddr (wa hFree vTab [(1, 0x100), (2, 2)]) ⟨0, 0, .a⟩ 1 .g r.2 64 false = none) ∧
    handleTrap (wa hFree vTab [(1, 0x100), (2, 2)]) 3 128 = none ∧ handleTrap (wa hFull vTab [(1, 0x100), (2, 2)]) 3 128 = none ∧
    (wa hFull vTab [(1, 0x100), (2, 2)]).my.hst 3 = 2 ∧ vPlane.getLsbD 400 = true ∧ sSp vPlane = 0 ∧ (tileCoords vPlane 0).length = 256 ∧
    (∀ r ∈ (List.range 256).filterMap (fun p => let c := (tileCoords vPlane 0).getD p (0, 0)
      if decide (0 ≤ c.1 ∧ c.1 < sSize vPlane 1 ∧ 0 ≤ c.2 ∧ c.2 < sSize vPlane 0) then
        some (p, at64 (sBase vPlane) (c.1 * sStride vPlane 1 + c.2 * sStride vPlane 0)) else none),
      checkAddr (wa hFree vPlane []) ⟨0, 0, .a⟩ 1 .g r.2 8 false = none) ∧
    handleTrap (wa hFree vPlane []) 3 (256 * 8) = none := ⟨quiet_issuesS (quiet_wa ..) .., by decide +kernel⟩
/-- Gate 5 with a count of 3 from producer 1. -/
def wGate : State := (wx .a [(1, 1), (2, 65535)]).modMy fun t => t.setGate 5 ((Gate.empty.init 2).expect 1 3)
theorem witness_GateHandleResults : wGate.Quiet ∧ (wGate.x 1).toNat ≤ 7 ∧ (wGate.x 2).toNat ≤ 65535 ∧
    65535 < (gateView wGate 5).cnt (wGate.x 1).toNat + (wGate.x 2).toNat ∧ (gateView wGate 6).cnt (wGate.x 1).toNat + (wGate.x 2).toNat ≤ 65535 ∧
    8 * eightOf wGate.cur.core + (wGate.x 1).toNat ≠ wGate.cur.core ∧ gateSlot wGate 1 1 0 = none ∧
    8 * eightOf wGate.cur.core + (wGate.x 0).toNat = wGate.cur.core ∧
    -65536 ≤ gateDue wGate wGate.cur.core wGate.cur.slot 5 (inEight wGate.cur.core) - (wGate.x 2).toNat ∧
    (let s := wGate.addEff (.entry (sigEntry wGate (.garr wGate.cur.core 5 (inEight wGate.cur.core) 65535)))
     gateDue s s.cur.core s.cur.slot 5 (inEight s.cur.core) - (s.x 2).toNat < -65536) ∧
    (wGate.my.gate 5).ph ≠ (wGate.x 1).getLsbD 0 ∧ (wGate.my.gate 5).ph = (wGate.x 0).getLsbD 0 ∧ 255 < (wGate.x 2).toNat ∧
    (wGate.x 0).toNat ≤ 3 ∧ wGate.my.hst 3 = (wGate.x 0).toNat ∧ wGate.my.hst 3 ≠ (wGate.x 1).toNat ∧ 3 < (wGate.x 2).toNat ∧
    (wGate.x 0).extractLsb' 0 6 = 0 ∧ (wGate.x 0).extractLsb' 27 37 = 0 ∧ (wGate.x 1).extractLsb' 0 6 ≠ 0 :=
  ⟨⟨rfl, rfl, rfl, rfl⟩, by decide +kernel⟩
theorem witness_GatePhases : (Gate.empty.init 3).mask.getLsbD 1 = true ∧ (Gate.empty.init 3).cnt 1 = 0 ∧
    (∀ q, q < 8 → q ≠ 1 → (Gate.empty.init 3).mask.getLsbD q = true → (Gate.empty.init 3).cnt q = 0) := by decide +kernel
/-- Elements of s8 at 0x40 of .c. -/
def vScan : BitVec 512 := 0x40 ||| (1 <<< 48) ||| (6 <<< 51)
theorem witness_ScanResults : sSp vScan = 1 ∧ typeOf (vScan.extractLsb' 51 5) = .ok .s8 ∧ scanTy .s8 = true ∧
    endsTrap (wa hFree vScan [(1, 3)]) .c (at64 (sBase vScan) (min 0 ((3 - 1 : Nat) * 1))) (at64 (sBase vScan) (max 0 ((3 - 1 : Nat) * 1) + 1 - 1))
      false = none ∧ handleTrap (wa hFree vScan [(1, 3)]) 3 16 = none ∧ (wa hFree vScan [(1, 3)]).my.hst 3 = 0 ∧
    (63 : W64).toNat ≤ 63 ∧ 63 < (64 : W64).toNat ∧ (0x1_0000_0000 : W64).extractLsb' 32 32 ≠ 0 := ⟨by decide +kernel, rfl, by decide +kernel⟩
def wQ : State := (w .v).modMy fun t => { t with q := t.q.set 7 [5, 6] }
theorem witness_QueueResults : Issues64 wQ ⟨0, 31, 0⟩ ⟨[5], [], [], []⟩ ∧ Issues64 wQ ⟨0, 31, 0⟩ ⟨[], [5], [], []⟩ ∧ Issues64 wQ ⟨0, 31, 0⟩ ⟨[5], [], [], [5]⟩ ∧
    wQ.my.q[7] = 5 :: [6] ∧ wQ.my.q[0] = [] :=
  ⟨quiet_issues ⟨rfl, rfl, rfl, rfl⟩ _, quiet_issues ⟨rfl, rfl, rfl, rfl⟩ _, quiet_issues ⟨rfl, rfl, rfl, rfl⟩ _, rfl, rfl⟩
/-- A block of one 64-bit instruction and a done exit, of which only the header is counted. -/
def wRing (xs : List (Nat × W64)) : State := (wx .a xs).modBlk fun b => { b with
  words := [0x0D600000#32, 0x0F800000#32, 0x005FC000#32], counted := [0x00210000#32] }
/-- The ring at 0 of .d, the entry of an operation on it, and the state in which that is performed. -/
def rRing (s : State) : Ring := ringAt (claimPart s .d s.my.cid 0 64) s.cur .d 0
def eRing (s : State) : Entry :=
  { mkEntry s 1 .strong .die .d 0 0 (rRing s).bytes (.amo .add true 0 0 0) with uid := s.uid }
def uRing (s : State) : State := (eRing s).who.harden (atBank s (eRing s))
theorem witness_RingResults : (wRing [(2, 0xFFFFFFFF)]).Quiet ∧ PredsClean (wRing [(2, 0xFFFFFFFF)]) [31] ∧ ringExits (wRing [(2, 0xFFFFFFFF)]) = 1 ∧
    ringExits ((wRing []).modBlk fun b => { b with words := [0x0D600000#32, 0x0F800000#32] }) = 0 ∧ ringAlone (wRing [(2, 0xFFFFFFFF)]) = true ∧
    checkAddr (wRing [(2, 0xFFFFFFFF)]) ⟨0, 0, .a⟩ 1 .d 0 64 false = none ∧
    checkAddr (wRing [(2, 0xFFFFFFFF)]) ⟨0, 0, .a⟩ 1 .d (0 + (rRing (wRing [(2, 0xFFFFFFFF)])).bytes - 1) 1 false = none ∧
    checkAddr (wRing [(2, 0xFFFFFFFF)]) ⟨0, 0, .a⟩ 1 .c (64 * 2) 64 false = none ∧
    eligible { wRing [(2, 0xFFFFFFFF)] with paths := [eRing (wRing [(2, 0xFFFFFFFF)])] } (eRing (wRing [(2, 0xFFFFFFFF)])) = true ∧
    bits (rRing (wRing [(2, 0xFFFFFFFF)])).h 97 4 < 13 ∧ (wRing [(2, 0xFFFFFFFF)]).poison = [] ∧
    (match ringPut (rRing (wRing [(2, 0xFFFFFFFF)])) 0xFFFFFFFF [] (uRing (wRing [(2, 0xFFFFFFFF)])) with
      | .err => true | .wait => false | .ok _ _ => false) = true ∧
    (match ringGet (rRing (wRing [(2, 0xFFFFFFFF)])) 128 (uRing (wRing [(2, 0xFFFFFFFF)])) with
      | .err => false | .wait => true | .ok _ _ => false) = true ∧
    (match ringTake (rRing (wRing [(2, 0xFFFFFFFF)])) (uRing (wRing [(2, 0xFFFFFFFF)])) with
      | .err => false | .wait => false
      | .ok v u =>
        let z := runExits 1 (((u.setX 5 v).tokens 0).next)
        (match z.blk with | some b => (exitTrap z.my .a b).isNone | none => false) && (commitBlock z ⟨0, 0, .a⟩).blk.isNone) = true :=
  ⟨⟨rfl, rfl, rfl, rfl⟩, fun p _ => clean_preds rfl p, by decide +kernel⟩


/-! ## Witnesses: vector, matrix, store engine -/

theorem quiet_issuesVV {s : State} (h : s.Quiet) (hs : s.soft = []) (u : Uses) (rd : List R6) : IssuesVV s ⟨0, 31, 0⟩ u rd :=
  ⟨quiet_issues h _ hs, fun _ _ => ⟨by simp [eccRead, hs], by simp [badWord, hs]⟩⟩
theorem witness_IssuesVV : IssuesVV (w .v) ⟨0, 31, 0⟩ ⟨[], [3], [1, 2], []⟩ [1, 2] := quiet_issuesVV (quiet_w .v) rfl _ _
theorem witness_PackedElements : Ty.n8.bits * Ty.n8.epl ≤ 32 ∧ [1, 2, 3, 4].length ≤ Ty.n8.epl ∧ 3 < [1, 2, 3, 4].length := by decide +kernel
theorem witness_ExactRounds : Ty.e4m3.isFloat = true ∧ 0x38 < 2 ^ Ty.e4m3.bits ∧ fpOf .e4m3 0x38 = .fin false 8 (-3) := by decide +kernel
theorem witness_VectorCompareResults : (23 : R5).toNat < 24 ∧ Ty.s8.isFloat = false ∧ Ty.bf16.isFloat = true ∧ laneOn (w .v) 31 5 = true ∧
    laneOn (w .v) 4 5 = false := by decide +kernel
theorem witness_LaneMoves : ((wx .v [(1, 63), (2, 64), (3, 65)]).x 1).toNat ≤ 63 ∧ ((wx .v [(1, 63), (2, 64), (3, 65)]).x 2).toNat ≤ 64 ∧
    63 < ((wx .v [(1, 63), (2, 64), (3, 65)]).x 2).toNat ∧ 64 < ((wx .v [(1, 63), (2, 64), (3, 65)]).x 3).toNat := by decide +kernel
/-- Whether an address passes its checks. -/
def passes (r : Except (Nat × W64) Nat) : Option Nat := match r with | .ok a => some a | .error _ => none
theorem witness_VectorMemoryResults : lanesBusy (wx .v [(1, 0x40), (2, 4)]) .c = false ∧
    (∀ l ∈ activeLanes (wx .v [(1, 0x40), (2, 4)]) 31, passes (formAddr (wx .v [(1, 0x40), (2, 4)]) .c
      ((wx .v [(1, 0x40), (2, 4)]).x 1 + BitVec.ofNat 64 l * (wx .v [(1, 0x40), (2, 4)]).x 2) 0 4) = some (0x40 + 4 * l)) ∧
    (∀ l ∈ activeLanes (wx .v [(1, 0x40), (2, 4)]) 31, passes (formAddr (wx .v [(1, 0x40), (2, 4)]) .l
      ((wx .v [(1, 0x40), (2, 4)]).x 1 + (laneAt ((wx .v [(1, 0x40), (2, 4)]).v 2) l).zeroExtend 64) 0 4) = some 0x40) ∧
    (activeLanes (wx .v [(1, 1 <<< 20)]) 31).head? = some 0 ∧
    passes (formAddr (wx .v [(1, 1 <<< 20)]) .c ((wx .v [(1, 1 <<< 20)]).x 1 + BitVec.ofNat 64 0 * 0) 0 4) = none := by decide +kernel
/-- What a lane of a load meets: nothing, a trap, a miss. -/
def lanePass (r : Option LaneFault) : Bool := r.isNone
def laneTrap (r : Option LaneFault) : Bool := match r with | some (.trap _ _) => true | _ => false
def laneMiss (r : Option LaneFault) : Bool := match r with | some (.miss _ _ _) => true | _ => false
/-- Lanes of a load of global space: one inside the page of wm, one of a page that is not there, one misaligned; with and without a fault queue. -/
theorem witness_VectorLoadFaults : lanePass (loadCheck (wm .v) .g 4 0x40) = true ∧ laneMiss (loadCheck (wm .v) .g 4 0x20_0040) = true ∧
    laneTrap (loadCheck (wm .v) .g 4 0x41) = true ∧ (raiseFault (wm .v) 1 0x20_0040 0 0).1 = none ∧
    (raiseFault { wm .v with fqsize := 10 } 1 0x20_0040 0 0).1.isSome = true ∧
    laneMiss (loadCheck { wm .v with fqsize := 10 } .g 4 0x20_0040) = true ∧ laneTrap (loadCheck { wm .v with fqsize := 10 } .g 4 0x41) = true := by
  decide +kernel
/-- Its own block holds a list command. -/
def wList : State := (w .v).addEff (.cmd (newCmd (w .v) (.list 0 .f32 1 2 3 4 0)))
theorem witness_LanesBusy : lanesBusy wList .l = true ∧ lanesBusy (w .v) .l = false ∧ lanesBusy wList .c = false := by decide +kernel
/-- A stream register bound to handle 3. -/
def vHdl : BitVec 512 := (1 <<< 63) ||| (3 <<< 58)
/-- A V stream with a handle and a stream register set. -/
def wv (h3 : BitVec 128) (s2 : BitVec 512) : State := (w .v).modMy fun t => { t with h := t.h.set 3 h3, s := t.s.set 2 s2 }
theorem witness_BufferLoadResults : (wv hFull vHdl).Quiet ∧ SregsClean (wv hFull vHdl) [2] ∧ (handleTrap (wv hShort vHdl) 3 (0 + 256 * 2)).isSome = true ∧ vHdl.getLsbD 63 = true ∧ sHdl vHdl = 3 ∧ (wv hFull vHdl).my.hst 3 = 2 ∧
    handleTrap (wv hFull vHdl) 3 (0 + 256 * 2) = none ∧ hSpace ((wv hFull vHdl).hreg 3) = some .c ∧ (wv hFree vHdl).my.hst 3 ≠ 2 ∧
    vC.getLsbD 63 = false ∧ sSp vHdl < 5 ∧ 5 ≤ sSp (vHdl ||| (5 <<< 48)) :=
  ⟨⟨rfl, rfl, rfl, rfl⟩, clean_sregs rfl _, by decide +kernel⟩
theorem witness_SparseListResults : (∀ l ∈ activeLanes (w .v) 31, listTrap (laneAt ((w .v).v 1) l) (laneAt ((w .v).v 2) l) (laneAt ((w .v).v 3) l) = none) ∧
    listTrap 0x2000 0 0 = some (0x01, 0x2000) := by decide +kernel

/-- An M stream whose core holds its eight's lease; stream registers 2 to 4 name f16 operands in .c. -/
def vM : BitVec 512 := 0x40 ||| (1 <<< 48) ||| (1 <<< 51)
def wM : State :=
  let s := (w .m).modMy fun t => { t with mtask := true, s := ((t.s.set 2 vM).set 3 vM).set 4 vM }
  s.modShell 0 fun sh => { sh with holder := some 0 }
/-- The same without the lease. -/
def wM0 : State := (w .m).modMy fun t => { t with mtask := true, s := t.s.set 2 vM }
theorem witness_ShellResults : wM.Quiet ∧ SregsClean wM [2, 3, 4] ∧ (shellAt wM 0).holder = some 0 ∧ regTrap wM 2 false (some .f16) = none ∧ mmaAccTrap wM .f16 1 = none ∧
    operandTrap wM 2 true (scalesOf .f16) = none ∧ imageTrap wM 2 (imageLen .f16) = none ∧ imageTrap wM 2 (2 * imageLen .f16) = none ∧
    fetched vM = false ∧ regTrap wM 2 false (some .s8) = some (0x01, 2) ∧ regTrap wM 2 true (some .f16) = none ∧
    regTrap wM 3 true none = none ∧ listAlign wM 3 = none ∧ listTrap64 wM 3 = none ∧
    operandTrap wM 2 true (loadScales .f16 1) = none ∧ sStrideN vM 3 % 8 = 0 ∧ imageTrap wM 2 (loadLen .f16 1) = none ∧
    (shellAt wM0 0).holder = none ∧ (shellAt wM0 0).reqs = [] ∧ regTrap wM0 2 false (some .f16) = none ∧ mmaAccTrap wM0 .f16 1 = none ∧
    operandTrap wM0 2 true (scalesOf .f16) = none ∧ imageTrap wM0 2 (imageLen .f16) = none :=
  ⟨⟨rfl, rfl, rfl, rfl⟩, clean_sregs rfl _, by decide +kernel⟩
/-- Every byte of their commands is within reach, for mma, mmas, a gathered mma of an empty list and a load of B. -/
theorem witness_ShellReach : entsTrap wM (mmaCmd wM 0 .f16 1 2 10 0 1 []).ents = none ∧ entsTrap wM (mmaCmd wM 1 .f16 1 2 10 0 1 []).ents = none ∧
    entsTrap wM (mmaCmd wM 2 .f16 1 2 10 0 1 (rowList wM 3 ++ rowList wM 4)).ents = none ∧ entsTrap wM (loadEntries wM (wM.sreg 2) .f16 1) = none ∧
    entsTrap wM0 (mmaCmd wM0 0 .f16 1 2 10 0 1 []).ents = none ∧ (shellAt wM 0).holder = some wM.cur.core ∧
    wM.soft = [] ∧ wM.poison = [] ∧ wM.mine = [] := ⟨by decide +kernel, by decide +kernel, by decide +kernel, by decide +kernel, by decide +kernel, rfl, rfl, rfl, rfl⟩
def wMk (n : W64) : State := wM.modMe fun st => { st with x := st.x.set 5 n }
theorem witness_ShellControlResults : (wMk 4).Quiet ∧ ((wMk 4).x 5).toNat ≠ 0 ∧ (10 : BitVec 12).toNat + ((wMk 4).x 5).toNat ≤ 4096 ∧
    4096 < (4095 : BitVec 12).toNat + ((wMk 4).x 5).toNat ∧ ((wMk 0).x 5).toNat = 0 ∧ wM0.cur.core < 96 ∧ (shellAt wM0 0).holder ≠ some 0 :=
  ⟨⟨rfl, rfl, rfl, rfl⟩, by decide +kernel⟩
theorem witness_ShellControlReach : IssuesS (wMk 4) ⟨0, 31, 0⟩ ⟨[5], [], [], [5]⟩ [2] ∧ regTrap (wMk 4) 2 false (some .f16) = none ∧
    mmaAccTrap (wMk 4) .f16 1 = none ∧ operandTrap (wMk 4) 2 true (scalesOf .f16) = none ∧ imageTrap (wMk 4) 2 (imageLen .f16) = none ∧
    entsTrap (wMk 4) (mmaCmd (wMk 4) 3 .f16 1 2 10 0 4 []).ents = none :=
  ⟨quiet_issuesS ⟨rfl, rfl, rfl, rfl⟩ .., by decide +kernel⟩
def aGood : Accu := { Accu.empty with aty := .s32, oty := .s32 }
def aBad : Accu := { aGood with chk := [(5, 1)] }
/-- Accumulator 1 holds s32 results, 2 bf16 of f32; accumulator 3's checksum word 5 is wrong. -/
def aHalf : Accu := { Accu.empty with oty := .bf16 }
def wAccu : State := wM.modMy fun t => { t with acc := ((t.acc.set 1 aGood).set 2 aHalf).set 3 aBad }
theorem witness_AccumulatorResults : wAccu.Quiet ∧ regTrap wAccu 2 true none = none ∧ operandTrap wAccu 2 false 0 = none ∧
    accView wAccu 0 = (.f32, .f32) ∧ accView wAccu 4 = accView wAccu 0 ∧ accView wAccu 1 = (.s32, .s32) ∧ accView wAccu 1 ≠ accView wAccu 0 ∧
    accView wAccu 2 = (.f32, .bf16) ∧ convOk .f32 .bf16 = true ∧ convOk .f32 .s8 = false ∧
    (wAccu.cmds.any fun op => op.accs.contains 1) = false ∧
    ((wAccu.addEff (.cmd (newCmd wAccu (.mzero 1 .f32)))).cmds.any fun op => op.accs.contains 1) = true ∧
    (({ (newCmd wAccu (.mzero 1 .f32)) with id := 1 } : Cmd).op.accs.contains 1) = true ∧
    wAccu.my.accu 1 = aGood ∧ wAccu.my.accu 3 = aBad := ⟨⟨rfl, rfl, rfl, rfl⟩, by decide +kernel⟩
theorem witness_AccumulatorReach : wAccu.soft = [] ∧ SregsClean wAccu [2] ∧ entsTrap wAccu (accEntries wAccu (wAccu.sreg 2) (.cwrite 0)) = none ∧
    entsTrap wAccu (accEntries wAccu (wAccu.sreg 2) (.cread 0)) = none ∧ entsTrap wAccu (epiReads wAccu (wAccu.sreg 2) 0) = none ∧
    Issues64 wAccu ⟨0, 31, 0⟩ ⟨[], [], [], []⟩ := ⟨rfl, clean_sregs rfl _, by decide +kernel, by decide +kernel, by decide +kernel, quiet_issues ⟨rfl, rfl, rfl, rfl⟩ _⟩
theorem tileCol_zero (n : Nat) (h : n < 64) : (tileCol (tabArr 4096 []) n).foldl (· + ·) 0 = 0 := by
  have hz : tileCol (tabArr 4096 []) n = (List.range 64).map fun _ => 0 := by
    unfold tileCol tabArr
    refine List.map_congr_left fun m hm => ?_
    have := List.mem_range.mp hm
    simp only [List.foldl_nil]
    rw [Array.getD_eq_getD_getElem?, Array.getElem?_replicate, if_pos (by omega)]; rfl
  rw [hz]; decide
/-- Every column of zeros agrees with a checksum word of zero, and only with it. -/
theorem witness_Verify : aGood.verify = (none, 0) ∧ aBad.verify = (some 5, 0) := by
  have h (k : Array W32) : ((List.range 64).map fun n => if (aGood.aty == .s32) = true then
      some (intPass (tileCol (tabArr 4096 []) n) (k.getD n 0)) else colPass .f32 ((tileCol (tabArr 4096 []) n).map fun w => fpOf .f32 w.toNat) (k.getD n 0)) =
      (List.range 64).map fun n => some ((0 : W32) == k.getD n 0) := by
    refine List.map_congr_left fun n hn => ?_
    rw [if_pos (by decide)]; simp only [intPass, tileCol_zero n (List.mem_range.mp hn)]
  exact ⟨(congrArg verdict (h _)).trans (by decide +kernel), (congrArg verdict (h _)).trans (by decide +kernel)⟩
/-- An S stream that writes 64 bytes of .c from handle 3, or accumulator 0. -/
def wS (h3 : BitVec 128) : State := (w .s).modMy fun t => { t with
  mtask := true, h := t.h.set 3 h3, s := (t.s.set 2 vC).set 4 (5 <<< 48) }
theorem witness_StoreEngineResults : (wS hFull).Quiet ∧ SregsClean (wS hFull) [2, 4] ∧ storeSpace (wS hFull) 4 = none ∧ storeSpace (wS hFull) 2 = some .c ∧
    endsTrap (wS hFull) .c (layoutEnds vC).1 (layoutEnds vC).2 true = none ∧ handleTrap (wS hFull) 3 (layoutN vC * sBlen vC) = none ∧
    (wS hFull).my.hst 3 = 2 ∧ (wS hFree).my.hst 3 ≠ 2 ∧ handleTrap (wS hFree) 3 (layoutN vC * sBlen vC) = none ∧
    (((wS hFull).my.stm .m).cq.any fun c => c.op.accs.contains 0) = false ∧ storeOk ((wS hFull).my.accu 0) .f32 = true ∧ sBase vC % 4 = 0 ∧
    sStrideN vC 1 % 4 = 0 ∧ sStrideN vC 2 % 4 = 0 ∧ sStrideN vC 3 % 4 = 0 ∧ (wS hFull).me.cq = [] :=
  ⟨⟨rfl, rfl, rfl, rfl⟩, clean_sregs rfl _, by decide +kernel⟩
theorem toBytes_length : ∀ n v, (toBytes n v).length = n := by
  intro n; induction n <;> simp_all [toBytes]
theorem rowPieces_vC (t : Array Nat) : ∀ p ∈ rowPieces vC 4 t, p.addr = 0x40 ∧ p.bytes.length = 256 := by
  have h0 : sSize vC 0 = 0 := by decide +kernel
  have h1 : sStride vC 1 = 0 := by decide +kernel
  have h2 : at64 (sBase vC) 0 = 0x40 := by decide +kernel
  intro p hp
  simp only [rowPieces, h0, h1, if_true, Int.mul_zero, h2, List.mem_map] at hp
  obtain ⟨m, _, rfl⟩ := hp
  refine ⟨rfl, ?_⟩
  simp [List.length_flatMap, toBytes_length]
theorem flatMap_le {α β : Type} (f : α → List β) (k : Nat) : ∀ l : List α, (∀ a ∈ l, (f a).length ≤ k) → (l.flatMap f).length ≤ k * l.length
  | [], _ => by simp
  | a :: l, h => by
    have h1 := h a (by simp)
    have h2 := flatMap_le f k l fun b hb => h b (by simp [hb])
    simp only [List.flatMap_cons, List.length_append, List.length_cons, Nat.mul_add]; omega
theorem pruneCol_length (col : List Nat) : (pruneCol .bf16 0 col).1.length ≤ 128 ∧ (pruneCol .bf16 0 col).2.length = 8 := by
  refine ⟨?_, by simp [pruneCol, toBytes_length]⟩
  unfold pruneCol
  simp only [if_true]
  refine Nat.le_trans (flatMap_le _ 2 _ fun _ _ => by rw [toBytes_length]; decide) ?_
  have : ∀ (l : List Nat), (l.map fun g => (keepRows .bf16 (4/2) ((col.drop (g * 4)).take 4)).map fun i => (g * 4 + i, i)).flatten.length ≤ 4 * l.length := by
    intro l; rw [← List.flatMap_def]
    refine flatMap_le _ 4 l fun g _ => ?_
    rw [List.length_map]
    refine Nat.le_trans (List.length_filter_le _ _) ?_
    simp only [List.length_range, List.length_take]; omega
  have h := this (List.range (64 / 4))
  simp only [List.length_range] at h
  omega
theorem nmPieces_vC (t : Array Nat) : ∀ p ∈ nmPieces vC .bf16 0 t, p.addr = 0x40 ∧ p.bytes.length ≤ 128 := by
  have h1 : sStride vC 1 = 0 := by decide +kernel
  have h3 : sStride vC 2 = 0 := by decide +kernel
  have h4 : sStride vC 3 = 0 := by decide +kernel
  have h2 : at64 (sBase vC) 0 = 0x40 := by decide +kernel
  have hc : ∀ n, n ∈ List.range 64 → ∃ col, ((List.range 64).map fun n => pruneCol .bf16 0 ((List.range 64).map fun m => t.getD (64 * m + n) 0)).getD n ([], []) = pruneCol .bf16 0 col := by
    intro n hn
    have := List.mem_range.mp hn
    exact ⟨_, by simp [List.getD, this]; rfl⟩
  intro p hp
  simp only [nmPieces, h1, h3, h4, Int.mul_zero, Int.add_zero, h2, List.mem_append, List.mem_map] at hp
  rcases hp with ⟨n, hn, rfl⟩ | ⟨n, hn, rfl⟩ <;> obtain ⟨col, hcol⟩ := hc n hn
  · refine ⟨rfl, ?_⟩; simp only [hcol]; exact (pruneCol_length col).1
  · refine ⟨rfl, ?_⟩; simp only [hcol]; rw [(pruneCol_length col).2]; omega
theorem witness_StorePieces (t : Array Nat) :
    (∀ p ∈ rowPieces vC 4 t, checkAddr (wS hFull) ⟨0, 0, .s⟩ 1 .c p.addr p.bytes.length true = none) ∧
    (∀ p ∈ nmPieces vC .bf16 0 t, checkAddr (wS hFull) ⟨0, 0, .s⟩ 1 .c p.addr p.bytes.length true = none) := by
  have h : ∀ n ≤ 256, checkAddr (wS hFull) ⟨0, 0, .s⟩ 1 .c 0x40 n true = none := by
    intro n hn
    have : cspan (wS hFull) 0 = 524288 := by decide +kernel
    simp only [checkAddr, this]
    rw [if_pos (by omega)]
  refine ⟨fun p hp => ?_, fun p hp => ?_⟩
  · obtain ⟨h1, h2⟩ := rowPieces_vC t p hp
    rw [h1, h2]; exact h _ (by omega)
  · obtain ⟨h1, h2⟩ := nmPieces_vC t p hp
    rw [h1]; exact h _ (by omega)
/-- A command waits in the stream's queue. -/
def wBusy (e : Eng) : State := (w e).modMe fun st => { st with cq := [newCmd (w e) (.mzero 1 .f32)] }
theorem witness_Busy : Issues64 (wBusy .m) ⟨0, 31, 0⟩ ⟨[], [], [], []⟩ ∧ ((wBusy .m).cmds.any fun op => op.accs.contains 1) = true ∧
    Issues64 (wBusy .s) ⟨0, 31, 0⟩ ⟨[3], [], [], []⟩ ∧ (wBusy .s).me.cq ≠ [] :=
  ⟨⟨rfl, by decide +kernel, ⟨by decide +kernel, by decide +kernel⟩, ⟨by decide +kernel, by decide +kernel⟩, ⟨rfl, rfl⟩, fun p _ => clean_preds rfl p,
      rfl, by decide +kernel⟩, by decide +kernel,
    ⟨rfl, by decide +kernel, ⟨by decide +kernel, by decide +kernel⟩, ⟨by decide +kernel, by decide +kernel⟩, ⟨rfl, rfl⟩, fun p _ => clean_preds rfl p,
      rfl, by decide +kernel⟩, by decide +kernel⟩


/-! ## Witnesses: the package -/

/-- A chain whose root and intermediate the root key signs, and whose leaf is that of the die. -/
def wChain : List Cert := [⟨1, 1, 0, 0, 9⟩, ⟨2, 1, 0, 0, 8⟩, ⟨3, 2, 5, 0x0960, 7⟩]
/-- Dies in one state at one step, the package's fuses and manifest set. -/
def wDie (st : DieState) (step att : Nat) (scrub up : Bool) : State :=
  let die : Die := { Die.empty with st := .reset }
  let d0 : Die := { Die.empty with st := st, step := step, att := att, scrub := scrub, up := up, idKey := 3, leafKey := 3, serial := 5, chain := wChain, chainLen := 2048 }
  { State.reset with pkg := { Pkg.reset with
    fwOk := true, bindList := [5, 6, 7, 8], rootHash := 9, manifest := [1, 2, 3, 0], dies := (Vector.replicate 4 die).set 0 d0 } }
theorem witness_AttestationResults : (dieAt (wDie .reset 0 0 false false) 0).st = .reset ∧ (dieAt (wDie .reset 0 0 false false) 0).scrub = false ∧
    pkgHeld (wDie .reset 0 0 false false) = false ∧ (wDie .reset 0 0 false false).pkg.fwOk = true ∧
    (∀ k ≤ 9, (dieAt (wDie .attesting k 0 false false) 0).st = .attesting ∧ (dieAt (wDie .attesting k 0 false false) 0).step = k) ∧
    (dieAt (wDie .reset 0 0 false false) 0).rst = none ∧ respLate (wDie .attesting 5 0 false false) 0 = false ∧
    respLate { wDie .attesting 5 0 false false with timebase := 50000001 } 0 = true ∧
    (dieAt (wDie .attesting 4 0 false false) 0).chain = [⟨1, 1, 0, 0, 9⟩, ⟨2, 1, 0, 0, 8⟩, ⟨3, 2, 5, 0x0960, 7⟩] ∧
    (wDie .attesting 4 0 false false).pkg.rootHash = 9 ∧
    (dieAt (wDie .attesting 5 0 false false) 0).idKey = (dieAt (wDie .attesting 5 0 false false) 0).leafKey ∧
    (dieAt ((wDie .attesting 5 0 false false).modDie 0 fun x => { x with idKey := 4 }) 0).idKey ≠ 3 ∧
    [0x12, 0x13].contains 0x13 = true ∧ [0x12].contains 0x13 = false ∧ (wDie .attesting 4 0 false false).pkg.bindList[0]? = some 5 ∧
    (wDie .attesting 6 0 false false).pkg.manifest.length = 4 ∧ (wDie .attesting 6 0 false false).pkg.manifest[3]? = some 0 ∧
    (dieAt (wDie .attesting 6 1 false false) 0).att < 2 ∧ 2 ≤ (dieAt (wDie .attesting 6 2 false false) 0).att ∧
    (wDie .attesting 6 2 false false).pkg.almpol ≤ 1 := by decide +kernel
/-- The same with the other direction of the die's link keyed. -/
def wKey : State := (wDie .attesting 9 0 false false).modLink 0 fun k => k.setDir 0 { LinkDir.empty with key := some 5 }
/-- Of a chain of two portions the first comes, and then the second, which is the last. -/
theorem witness_Portions : ¬ (dieAt (wDie .attesting 4 0 false false) 0).allPortions ≤ (dieAt (wDie .attesting 4 0 false false) 0).portions + 1 ∧
    (let s := (wDie .attesting 4 0 false false).modDie 0 fun x => { x with portions := 1 }
     (dieAt s 0).allPortions ≤ (dieAt s 0).portions + 1) ∧
    respLate { wDie .attesting 4 0 false false with timebase := 50000001 } 0 = true ∧
    (dieAt ((wDie .attesting 5 0 false false).modDie 0 fun x => { x with idKey := 4 }) 0).idKey ≠
      (dieAt ((wDie .attesting 5 0 false false).modDie 0 fun x => { x with idKey := 4 }) 0).leafKey := by decide +kernel
theorem witness_LinkKeyResults : wKey.pkg.fwOk = true ∧ (dieAt wKey 0).rst = none ∧ (dieAt (wDie .trusted 9 0 false false) 0).rst = none ∧
    (∀ e, e < 4 → e ≠ 0 → (dieAt ((wDie .trusted 9 0 false false).modDie 1 fun x => { x with up := true }) e).st = .reset ∨ e = 1) ∧
    (dieAt wKey 0).st = .attesting ∧ (dieAt wKey 0).step = 9 ∧ ringKeyed wKey 0 = true ∧ pkgHeld wKey = false ∧
    ((linkAt wKey 0).dir 1).key = none ∧ ((linkAt wKey 0).dir 0).key.isSome = true ∧
    ringKeyed (wDie .attesting 9 0 false false) 0 = true ∧ ((linkAt (wDie .attesting 9 0 false false) 0).dir 0).key = none ∧
    ((linkAt (wDie .attesting 9 0 false false) 0).dir 1).key = none ∧ (dieAt (wDie .trusted 9 0 false false) 0).st = .trusted ∧
    (dieAt (wDie .trusted 9 0 false false) 0).up = false ∧ pkgHeld (wDie .trusted 9 0 false false) = false := by decide +kernel
/-- A link that is up, one direction in the middle of a rollover or not. -/
def wLink (rolling : Bool) (accepted fails : Nat) : State := { State.reset with pkg := { Pkg.reset with rollctl := 0x80 } }.modLink 4 fun k =>
  { k.setDir 1 { LinkDir.empty with
    key := some 1, nextKey := some 2, flits := 9, accepted := accepted, rolling := rolling, fails := fails, failed := 9 } with up := true }
/-- The flit of count 9, sealed under a key. -/
def wFlit (key : Nat) : Flit := (sealFlit key 4 1 9 0 0).1
def wTag (key : Nat) : BitVec 128 := (sealFlit key 4 1 9 0 0).2
/-- A flit of the other KEYSEQ. -/
def wFlitBad : Flit := ⟨0x100, 0⟩
theorem witness_FlitResults : (linkAt (wLink false 0 0) 4).up = true ∧
    (((linkAt (wLink false 0 0) 4).dir 1).keyFor (wFlit 1).keyseq = some 1 ∧ tagHolds 1 4 1 9 (wFlit 1) (wTag 1) = true ∧
      (wFlit 1).keyseq = ((linkAt (wLink false 0 0) 4).dir 1).keyseq) ∧
    (((linkAt (wLink true 5 0) 4).dir 1).keyFor (wFlit 2).keyseq = some 2 ∧ tagHolds 2 4 1 9 (wFlit 2) (wTag 2) = true) ∧
    (∀ k, ¬ (((linkAt (wLink false 0 0) 4).dir 1).keyFor wFlitBad.keyseq = some k ∧ tagHolds k 4 1 9 wFlitBad 0 = true)) := by
  have h (k : Nat) : tagHolds k 4 1 9 (wFlit k) (wTag k) = true := by simp only [tagHolds, wFlit, wTag, sealFlit, beq_self_eq_true]
  refine ⟨rfl, ⟨rfl, h 1, rfl⟩, ⟨rfl, h 2⟩, ?_⟩
  rintro k ⟨h, -⟩
  have : ((linkAt (wLink false 0 0) 4).dir 1).keyFor wFlitBad.keyseq = none := by decide +kernel
  rw [this] at h; cases h
/-- A rollover waits behind the one under way. -/
def wWait (accepted : Nat) : State := (wLink true accepted 0).modLink 4 fun k => k.setDir 1 { k.dir 1 with waiting := [7] }
theorem witness_FlitCounts : ((linkAt (wLink false 0 0) 4).dir 1).flits = 9 ∧ ((linkAt (wLink false 0 0) 4).dir 1).replay.length < 64 ∧ 9 + 1 < 2 ^ 40 ∧
    ((linkAt (wLink false 0 0) 4).dir 1).rolling = false ∧ ((linkAt (wLink false 0 0) 4).dir 1).waiting = [] ∧
    ((linkAt (wWait 1023) 4).dir 1).waiting = 7 :: [] ∧ 1024 ≤ ((linkAt (wWait 1023) 4).dir 1).accepted + 1 ∧
    ((linkAt (wWait 1023) 4).dir 1).rolling = true ∧
    9 + 1 < (wLink false 0 0).pkg.rollctl * 2 ^ 32 ∧ { wLink false 0 0 with pkg := { Pkg.reset with rollctl := 0 } }.pkg.rollctl * 2 ^ 32 ≤ 9 + 1 ∧ ((linkAt (wLink true 5 0) 4).dir 1).rolling = true ∧
    ((linkAt (wLink true 5 0) 4).dir 1).accepted + 1 < 1024 ∧ 1024 ≤ ((linkAt (wLink true 1023 0) 4).dir 1).accepted + 1 ∧
    (let d := (linkAt (wLink false 0 2) 4).dir 1; (if d.failed = 9 then d.fails + 1 else 1) < 4) ∧
    (let d := (linkAt (wLink false 0 3) 4).dir 1; 4 ≤ (if d.failed = 9 then d.fails + 1 else 1)) ∧
    (let d : LinkDir := { LinkDir.empty with flits := 2 ^ 39 - 1 }; 0x80 * 2 ^ 32 ≤ d.flits + 1 ∧ d.flits + 1 < 2 ^ 40) := by decide +kernel
theorem witness_DieResetResults : ((8 : W64).extractLsb' 0 3).toNat < 4 ∧ pkgHeld (wDie .trusted 9 0 false true) = false ∧
    (dieAt (wDie .trusted 9 0 false true) 0).st = .trusted ∧ (dieAt (wDie .reset 0 0 true false) 0).scrub = true ∧
    (dieAt (wDie .trusted 9 0 false true) 0).rst = none ∧ State.reset.kills = [] ∧
    (wDie .trusted 9 0 false true).pkg.almpol = 1 ∧ (dieAt (wDie .trusted 9 0 false true) 0).st ≠ .quarantined ∧
    (dieAt (wDie .trusted 9 0 false true) 0).st ≠ .fused ∧ pkgHeld { State.reset with pkg := { Pkg.reset with hold := true } } = true := by
  decide +kernel
/-- Nothing in memory, and no context. -/
theorem ctxEntry_reset (d c : Nat) : ctxEntry State.reset d c = 0 := by
  have h (n k : Nat) : leNat (readKeys [] k n) = 0 := by
    induction n generalizing k with
    | zero => rfl
    | succ n ih => show BitVec.toNat 0 + 256 * leNat (readKeys [] (k + 1) n) = 0; rw [ih]; rfl
  exact h ..
theorem witness_NoContexts : State.reset.kills = [] ∧ dieContexts State.reset 0 = [] ∧ allContexts State.reset = [] := by
  refine ⟨rfl, List.filter_eq_nil_iff.mpr fun c _ => ?_, List.filter_eq_nil_iff.mpr fun c _ => ?_⟩
  · show ¬ (([] : List Nat).contains c || mapsDie State.reset 0 c) = true
    simp [mapsDie, ctxEntry_reset]
  · show ¬ (([] : List Nat).contains c || [0, 1, 2, 3].any fun d => ctxValid State.reset d c) = true
    simp [ctxValid, ctxEntry_reset]
/-- Windows in a row below the limit, and a lower clock. -/
def wPow : State := { State.reset with timebase := 10000000, cycle := 256, pkg := { Pkg.reset with low := 10, mhz := 1595 } }
theorem witness_PowerResults : wPow.pkg.pwrlim < 601 ∧ 1450 < wPow.pkg.mhz ∧ 10 ≤ wPow.pkg.low ∧ wPow.pkg.mhz < 2900 ∧
    wPow.pkg.tempC < wPow.pkg.dieThr ∧ wPow.pkg.tempH < wPow.pkg.hbmThr ∧ State.reset.pkg.low < 10 ∧
    10000000 ≤ wPow.timebase.toNat - tget 0 wPow.pkg.stackAt 7 ∧ State.reset.timebase.toNat - tget 0 State.reset.pkg.stackAt 7 < 10000000 ∧
    wPow.shells[11].reqs = [] ∧ wPow.shells[11].holder = none ∧ 256 ≤ wPow.cycle - wPow.shells[11].grantAt ∧
    State.reset.cycle - State.reset.shells[11].grantAt < 256 := by decide +kernel

/-! ## Witnesses: the host's side -/

/-- READY; the physical window on die 0; the aperture of function 0 on context 1. -/
def wUp (s : State) : State := s.modLink 0 fun k => { k with up := true }
def wOpen : State := wUp { wm .a with pkg := { (wm .a).pkg with ready := true } }
def wPhys : State := { wOpen with physwin := 1 }
def wVirt : State := wOpen.modFn 0 fun f => { f with apctx := 0x8001 }
theorem witness_ApertureResults : winOpen State.reset = false ∧ pkgHeld { State.reset with pkg := { Pkg.reset with hold := true } } = true ∧
    winOpen wPhys = true ∧ pkgHeld wPhys = false ∧ winOpen wVirt = true ∧ pkgHeld wVirt = false ∧ winOpen wOpen = true ∧
    aperture wOpen 3 0 = .bad ∧ aperture wPhys 0 0x100 = .phys 0 0x100 ∧ 0x100 + 8 ≤ hbmBytes ∧ wPhys.soft = [] ∧ reaches wPhys 4 0 8 = true ∧
    reaches { wm .a with pkg := wOpen.pkg } 4 0 8 = false ∧
    aperture wVirt 0 0xFFE = .virt 1 0xFFE ∧ okIs (readPieces (hostWho 1) (cutPages 0xFFE 4) wVirt) (fun bs _ => bs.length == 4) = true ∧
    okIs (writePieces (hostWho 1) (cutPages 0xFFE 4) [1, 2, 3, 4] wVirt) (fun _ _ => true) = true ∧ aperture State.reset 3 0 = .bad := by
  have e (s : State) (fn off : Nat) (a : Aper) (h : (match aperture s fn off, a with
      | .bad, .bad => true
      | .phys d p, .phys d' p' => d == d' && p == p'
      | .virt c p, .virt c' p' => c == c' && p == p'
      | _, _ => false) = true) : aperture s fn off = a := by
    revert h
    cases aperture s fn off <;> cases a <;> simp
  exact ⟨by decide +kernel, by decide +kernel, by decide +kernel, by decide +kernel, by decide +kernel, by decide +kernel, by decide +kernel,
    e _ _ _ _ (by decide +kernel), e _ _ _ _ (by decide +kernel), by decide +kernel, rfl, by decide +kernel, by decide +kernel, e _ _ _ _ (by decide +kernel), by decide +kernel, by decide +kernel,
    e _ _ _ _ (by decide +kernel)⟩
/-- Stream 0 of context 1 with the record rec next in its queue at 0x1000; a template of one node at 0x2000. -/
def wq (rec : Nat) : State :=
  let s := (wUp (wm .a)).write (2 ^ 21 + 0x1000) (toBytes 64 rec)
  let s := s.write (2 ^ 21 + 0x2000) (toBytes 64 (3 + 2 ^ 16 + 0x3000 * 2 ^ 64 + 0x3100 * 2 ^ 128))
  { s with ctxmap := [(0, 0x8001)], strmap := [(0, 8)], strm := [(0, { HStream.empty with sqbase := 0x1000, sqsize := 6, kick := 1 })] }
theorem witness_KickResults : pkgHeld (wq 0) = false ∧ pkgHeld { wq 0 with pkg := { (wq 0).pkg with hold := true } } = true ∧ mayUse (wq 0) 0 0 = true ∧ (enabledCtx (wq 0) 0).isSome = true ∧
    ((65 - (hst (wq 0) 0).kick).toNat < 2 ^ 31 ∧ ((64 : W32) - (hst (wq 0) 0).sqhead).toNat ≤ 2 ^ sqLog (wq 0) 0) ∧
    2 ^ sqLog (wq 0) 0 < ((65 : W32) - (hst (wq 0) 0).sqhead).toNat ∧ mayUse (wq 0) 3 0 = false ∧ enabledCtx (wq 0) 1 = none := by decide +kernel
theorem headRead_wq (rec : Nat) (p : State → Bool)
    (h : okIs (gRead (hostWho 1) 0x1000 64 .rd (wq rec)) (fun r u => BitVec.ofNat 512 (leNat r.1) == BitVec.ofNat 512 rec && p u) = true)
    (hr : (hst (wq rec) 0).sqstat.getLsbD 2 = false ∧ (hst (wq rec) 0).stall = false ∧ (hst (wq rec) 0).qwait = none)
    (hc : enabledCtx (wq rec) 0 = some 1 ∧ (hst (wq rec) 0).sqhead ≠ (hst (wq rec) 0).kick ∧ coverOf (hst (wq rec) 0) 0 = 0 ∧
      bits (hst (wq rec) 0).sqbase.toNat 6 42 * 64 + 64 * ((0 : W32).toNat % 2 ^ sqLog (wq rec) 0) = 0x1000)
    (ht : trusted (wq rec) 0 = true) : ∃ u, HeadRead (wq rec) u 0 ⟨BitVec.ofNat 512 rec, 1, 0, 0⟩ ∧ p u = true := by
  obtain ⟨r, u, hg, hp⟩ := okIs_ok h
  obtain ⟨hw, hp⟩ := Bool.and_eq_true_iff.mp hp
  refine ⟨u, ⟨by decide, hc.1, hc.2.1, rfl, hr, rfl, hc.2.2.1.symm, r.1, r.2.1, r.2.2, ?_⟩, hp⟩
  simp only [hc.2.2.2]
  exact ⟨by decide, ht, hg, (eq_of_beq hw).symm⟩
/-- A plain task of stream 0. -/
def rTask : Nat := 0xFFFF * 2 ^ 288
theorem witness_TaskRecord : ∃ u, HeadRead (wq rTask) u 0 ⟨BitVec.ofNat 512 rTask, 1, 0, 0⟩ ∧
    (!badRecord (BitVec.ofNat 512 rTask) && !badTenant u 0 0 0 && armRoom u 1 0 none) = true :=
  headRead_wq rTask (fun u => !badRecord (BitVec.ofNat 512 rTask) && !badTenant u 0 0 0 && armRoom u 1 0 none)
    (by decide +kernel) (by decide +kernel) (by decide +kernel) (by decide +kernel)
theorem witness_RecordsHeld : pkgHeld { State.reset with pkg := { Pkg.reset with hold := true } } = true := by decide +kernel
theorem witness_BadRecords : (∃ u, HeadRead (wq (rTask + 1)) u 0 ⟨BitVec.ofNat 512 (rTask + 1), 1, 0, 0⟩ ∧ badRecord (BitVec.ofNat 512 (rTask + 1)) = true) ∧
    (∃ u, HeadRead (wq (3 * 2 ^ 510)) u 0 ⟨BitVec.ofNat 512 (3 * 2 ^ 510), 1, 0, 0⟩ ∧ true = true) :=
  ⟨headRead_wq _ (fun _ => badRecord (BitVec.ofNat 512 (rTask + 1))) (by decide +kernel) (by decide +kernel) (by decide +kernel) (by decide +kernel),
    headRead_wq _ (fun _ => true) (by decide +kernel) (by decide +kernel) (by decide +kernel) (by decide +kernel)⟩
/-- A replay of the template of graph 3, and a patch of 8 bytes at 8 of its node 0. -/
def rRep : Nat := 2 ^ 510 + 0x2000 + 3 * 2 ^ 64
def rPat : Nat := 2 * 2 ^ 510 + 3 + 8 * 2 ^ 32 + 8 * 2 ^ 48 + 0x2000 * 2 ^ 64
theorem witness_ReplayRecord : ∃ u, HeadRead (wq rRep) u 0 ⟨BitVec.ofNat 512 rRep, 1, 0, 0⟩ ∧
    (okIs (launchMem (hostWho 1) (fun _ ns => !(ns.zipIdx.any fun p => badNode u 0 0 p.2 p.1)) 0x2000 3
      (u.modStrm 0 fun x => { x with tmpl := tput 0 x.tmpl 3 0x2001 })) fun r _ =>
        match r with | some (tm, _) => nodesRoom u 1 0 tm.nnode | none => false) = true :=
  headRead_wq rRep (fun u => okIs (launchMem (hostWho 1) (fun _ ns => !(ns.zipIdx.any fun p => badNode u 0 0 p.2 p.1)) 0x2000 3
      (u.modStrm 0 fun x => { x with tmpl := tput 0 x.tmpl 3 0x2001 })) fun r _ =>
        match r with | some (tm, _) => nodesRoom u 1 0 tm.nnode | none => false)
    (by decide +kernel) (by decide +kernel) (by decide +kernel) (by decide +kernel)
theorem witness_PatchRecord : ∃ u, HeadRead (wq rPat) u 0 ⟨BitVec.ofNat 512 rPat, 1, 0, 0⟩ ∧
    (okIs (readTmpl (hostWho 1) 0x2000 u) fun tm v => tm.gid == 3 && 0 < tm.nnode &&
      !(v.replays.any fun r => r.cid == 1 && r.tmpl == 0x2000 && r.gen == 1 - tm.cur) &&
      okIs (gWrite (hostWho 1) (tm.pb (1 - tm.cur) + 256 * 0 + 8) (toBytes 8 0) v) fun _ _ => true) = true :=
  headRead_wq rPat (fun u => okIs (readTmpl (hostWho 1) 0x2000 u) fun tm v => tm.gid == 3 && 0 < tm.nnode &&
      !(v.replays.any fun r => r.cid == 1 && r.tmpl == 0x2000 && r.gen == 1 - tm.cur) &&
      okIs (gWrite (hostWho 1) (tm.pb (1 - tm.cur) + 256 * 0 + 8) (toBytes 8 0) v) fun _ _ => true)
    (by decide +kernel) (by decide +kernel) (by decide +kernel) (by decide +kernel)
/-- Function 0 with a ring of 256 records, one of them waiting, and the count and timer of CRIRQ. -/
def wCr (head tail : W32) : State := { State.reset.modFn 0 fun f => { f with
  crsize := 8, crhead := head, crtail := tail, queue := [⟨5, 0xFFFF, 0, 0, false⟩], unsig := 2, unsigAt := 0, crirq := 0x2_0003 } with
  timebase := 2000 }
theorem witness_CompletionResults : (fnAt (wCr 0 255) 0).queue = ⟨5, 0xFFFF, 0, 0, false⟩ :: [] ∧ crLog (fnAt (wCr 0 255) 0) = 8 ∧
    ((fnAt (wCr 0 255) 0).crtail - (fnAt (wCr 0 255) 0).crhead).toNat < 2 ^ 8 ∧
    2 ^ 8 ≤ ((fnAt (wCr 0 256) 0).crtail - (fnAt (wCr 0 256) 0).crhead).toNat ∧ (fnAt (wCr 0 255) 0).unsig ≠ 0 ∧
    bits (fnAt (wCr 0 255) 0).crirq.toNat 16 16 ≠ 0 ∧ (fnAt (wCr 0 255) 0).unsigAt + 1000 * bits (fnAt (wCr 0 255) 0).crirq.toNat 16 16 ≤ 2000 ∧
    (fnAt State.reset 0).unsig = 0 ∧ ((fnAt (wCr 0 255) 0).crtail - 255).toNat < 2 ^ 31 ∧ 2 ^ 31 ≤ ((fnAt (wCr 0 255) 0).crtail - 256).toNat ∧
    (fnAt (wCr 0 255) 0).queue.length = 1 := by decide +kernel
theorem witness_RegisterResults : winOpen { wq 0 with pkg := wOpen.pkg } = true ∧ mayUse (wq 0) 0 0 = true ∧ mayUse (wq 0) 3 0 = false ∧ pkgHeld { wq 0 with pkg := { (wq 0).pkg with hold := true } } = true ∧ 0x1058 ≥ 0x1041 := by decide +kernel

/-! ## Witnesses: the scheduler -/

/-- A task of context 1 with its stream set at 0x1000: its A stream enters at 0x2000. -/
def qTask : Task := { Task.empty with live := true, tid := 21, cid := 1, trec := 0x1000 }
/-- It, or its pre-empted state, waits at core 1. -/
def wTurn (saved : Bool) (since cycle : Nat) : State :=
  { (wUp (wm .a)).write (2 ^ 21 + 0x1000) (toBytes 8 0x2000) with
    jobs := [⟨{ qTask with saved := saved, since := since }, .ready, 1, cycle == 8, [], [], [], none⟩], cycle := cycle }
theorem isSome_get {α : Type} {o : Option α} (h : o.isSome = true) : ∃ a, o = some a := Option.isSome_iff_exists.mp h
theorem witness_TurnChoice : (∃ x, turnPick (wTurn false 0 0) 1 = some x) ∧
    (∃ x, turnPick (latch (unstick (wTurn false 0 0))) 1 = some x) ∧ (∀ c, c < 4 → tget 0 (wTurn false 0 0).sch.sk (1 * 4 + c) + 1 < floorOf (wTurn false 0 0)) :=
  ⟨isSome_get (by decide +kernel), isSome_get (by decide +kernel), by decide +kernel⟩
theorem witness_DispatchResults : unstick (wTurn false 0 0) = wTurn false 0 0 ∧
    emptyTurn (wTurn false 0 0) 1 = none ∧
    (turnPick (latch (wTurn false 0 0)) 1).map (fun x => x.1.t.saved) = some false ∧ freeSlot (wTurn false 0 0) 1 = some 0 ∧
    (let j : Job := ⟨qTask, .ready, 1, false, [], [], [], none⟩
     (turnPick (latch (wTurn false 0 0)) 1).map (·.1) = some j)  ∧
    qTask.fld 0 48 / 2 ^ 45 ≤ 3 ∧ trusted (wTurn false 0 0) 0 = true ∧
    okIs (readSet 1 0x1000 (wTurn false 0 0)) (fun r _ => r == some [0x2000, 0, 0, 0]) = true ∧
    (turnPick (latch (wTurn true 0 0)) 1).map (fun x => x.1.t.saved) = some true ∧ freeSlot (wTurn true 0 0) 1 = some 0 := by decide +kernel
/-- The task has waited AGE cycles in the queue of core 0. -/
def wAged : State := { wTurn false 0 8 with tasks := [] }
theorem witness_StealResults : ageOf State.reset ≤ 2 ^ 24 - 0 ∧ dieOk wAged (dieOf 0) = true ∧ (freeSlot wAged 0).isSome = true ∧
    queueOf wAged 0 = [] ∧ (∃ k ∈ wAged.jobs, stealable wAged 0 k = true ∧ k.q < 96 ∧ eightOf k.q = eightOf 0) ∧
    queueOf wAged 1 ≠ [] ∧ mayAsk wAged 0 = true ∧ mayAsk { wAged with sch := { wAged.sch with asked := [(0, 9)] } } 0 = false ∧
    (stealLevels { wAged with jobs := [] } 0).findSome? (askLevel { wAged with jobs := [] } 0) = none := by decide +kernel
/-- A resident task of class 1 on each slot of core 0, a waiting one of class 0, frames to save in, and the first slot asked. -/
def wFull (frames : W64) (preempt : Bool) : State :=
  let t : Task := { Task.empty with live := true, tid := 31, cid := 1, trec := 1#512 <<< 264, preempt := preempt }
  { w .a with
    svcnt := frames, tasks := [(0, t), (1, { t with tid := 32, preempt := false }), (2, { t with tid := 33, preempt := false }), (3, { t with tid := 34, preempt := false })]
    jobs := [⟨{ Task.empty with live := true, tid := 21, cid := 1 }, .ready, 0, false, [], [], [], none⟩] }
theorem witness_PreemptionResults : frameFree (wFull 8 false) (dieOf 0) = true ∧
    ((residents (wFull 8 false) 0).any fun e => e.2.preempt) = false ∧ victim (wFull 8 false) 0 = some 0 ∧ victim (w .a) 0 = none ∧
    frameFree (wFull 0 false) (dieOf 0) = false ∧ savable (wFull 8 true) 0 0 = true ∧ savable (wFull 8 false) 0 0 = false ∧
    ((wFull 8 false).task 0 0).preempt = false ∧ ((wFull 0 true).task 0 0).preempt = true ∧ frameFree (wFull 0 true) (dieOf 0) = false := by decide +kernel
/-- A range part between iterations, and a task that is done. -/
def wEnd (range : Bool) : State :=
  let t : Task := { Task.empty with live := true, tid := 31, cid := 1, trec := (0xFFFF#512 <<< 288) ||| (if range then 1#512 <<< 269 else 0), hi := 2 }
  { w .a with tasks := [(0, t)], strm := [] }
theorem witness_TaskEndResults : (let t := (wEnd true).task 0 0;
      t.live = true ∧ t.unread = false ∧ (t.st.toList.all fun st => !st.live && st.deferred.isEmpty) = true ∧ t.aborted = false ∧
      t.range = true ∧ t.staged = false ∧ t.c.iter.toNat + 1 < t.hi.toNat) ∧
    (let t := (wEnd false).task 0 0;
      taskDone (wEnd false) t = true ∧ t.range = false ∧ t.staged = false ∧ t.fld 64 48 = 0 ∧ t.isNode = false ∧ t.succ = [] ∧
      t.fld 240 16 = 0 ∧ t.fn ≤ 8 ∧ t.list = none ∧ releases (flushStage (wEnd false) ⟨0, 0, .a⟩ t.tid) t = true ∧ okIs (readFrame (hostWho t.cid) 0 (flushStage (wEnd false) ⟨0, 0, .a⟩ t.tid))
        (fun l u => l == some [] && joinsFit t (endKeys u t []) u) = true) ∧ (wEnd false).parts = [] ∧ bits (fnAt (wCr 0 255) 0).crsize.toNat 0 5 ≠ 0 ∧
    (w .a).my.range = false ∧ taskDone (w .a) (w .a).my = false := by decide +kernel
/-- The task that is done with its list kept: a key of no arm entry, with room for it and without: every entry of hardware is taken. -/
def wKept : State := (wEnd false).modTask 0 0 fun t => { t with list := some [5] }
theorem witness_TaskEndKept : taskDone wKept (wKept.task 0 0) = true ∧ (wKept.task 0 0).list = some [5] ∧
    joinsFit (wKept.task 0 0) (endKeys (flushStage wKept ⟨0, 0, .a⟩ 31) (wKept.task 0 0) [5]) (flushStage wKept ⟨0, 0, .a⟩ 31) = true := by decide +kernel
def wKeptFull (n : Nat) : State := { wKept with arms := List.replicate n ⟨1, 6, none, 0, false, 0⟩ }
theorem wKeptFull_waits (n : Nat) (h : 4096 ≤ n) (hh : armHome (wKeptFull n) 6 none = armHome (wKeptFull n) 5 none) :
    armRoom (wKeptFull n) 1 5 none = false := by
  have ha : (wKeptFull n).arms = List.replicate n ⟨1, 6, none, 0, false, 0⟩ := rfl
  have hs : slotFree (wKeptFull n) 1 = false := by
    have e : slotFn (wKeptFull n) 1 = slotFn wKept 1 := rfl
    have e' : fnAt (wKeptFull n) (slotFn wKept 1) = fnAt wKept (slotFn wKept 1) := rfl
    have e0 : bits (fnAt wKept (slotFn wKept 1)).armsize.toNat 0 5 = 0 := by decide +kernel
    simp only [slotFree, e, e', e0]; rfl
  simp only [armRoom, hs, armsOn, ha, List.filter_replicate, hh]
  simp [h]
/-- Shell 0 asked for by core 1; held by core 0 at its cap, asked for or not. -/
def wShell (holder : Option Nat) (cmds : Nat) (reqs : List Nat) : State :=
  { State.reset with shells := State.reset.shells.set 0 ⟨holder, cmds, 0, reqs, 0⟩ }
theorem witness_LeaseResults : (wShell none 0 [1]).shells[0].holder = none ∧ 1 / 8 = 0 ∧ 1 ∈ (wShell none 0 [1]).shells[0].reqs ∧
    (wShell none 0 []).shells[0].reqs = [] ∧ (wShell (some 0) 256 []).shells[0].capped 0 = true ∧ (wShell (some 0) 256 []).shells[0].reqs = [] ∧
    (wShell (some 0) 256 [1]).shells[0].reqs ≠ [] ∧ midCommand (wShell (some 0) 256 []) 0 = false ∧ (wShell (some 0) 0 []).shells[0].capped 0 = false ∧
    wAbort.my.live = true ∧ wAbort.my.abgrp ≠ 0 ∧ (∃ a ∈ wAbort.aborts, a.1 = wAbort.my.cid ∧ a.2.1 = wAbort.my.abgrp) := by decide +kernel
/-- A command at the head of a queue, with a producer or consumers. -/
def wCmd (op : CmdOp) (prod : Option R5) (cons : List R5) : State :=
  (w .a).modMe fun st => { st with cq := [{ newCmd (w .a) op with id := 77, prod := prod, cons := cons }] }
theorem witness_CommandResults : (∀ op ∈ [CmdOp.copy, .swb, .mzero 1 .f32, .maccd 1 2, .mrel],
      (wCmd op (some 4) []).me.cq = [{ newCmd (w .a) op with id := 77, prod := some 4, cons := [] }] ∧
      readAhead (wCmd op (some 4) []) ⟨0, 0, .a⟩ { newCmd (w .a) op with id := 77, prod := some 4, cons := [] } = false ∧
      cmdReads (wCmd op (some 4) []) 77 = false ∧ cmdWrites (wCmd op (some 4) []) 77 = false ∧ (wCmd op (some 4) []).soft = []) ∧
    (∀ op ∈ [CmdOp.mzero 1 .f32, .maccd 1 2, .mrel],
      cmdStopped ((wCmd op none []).task 0 0) [{ newCmd (w .a) op with id := 77, prod := none, cons := [] }]
        { newCmd (w .a) op with id := 77, prod := none, cons := [] } 0 = false) ∧
    cmdFenced (wCmd .copy none [3]) ⟨0, 0, .a⟩ { newCmd (w .a) .copy with id := 77, cons := [3] } = false ∧
    (w .a).my.hPend.getLsbD 4 = false ∧
    (let s := wCmd .copy none [3]
     cmdReads (s.enter (mkEntry s 0 .weak .core .c 0 0 8 (.cread 77 0)) false) 77 = true) ∧
    (newCmd (w .a) (.scan .f32 4 2)).xs = [] ∧ (newCmd (w .a) (.scan .f32 4 2)).phase = 0 ∧ thrDue (newCmd (w .a) .copy) = none := by decide +kernel
/-- An mma whose operand's piece is fetched through handle 2. -/
def wFetch (prod : Option R5) (cons : List R5) (st : BitVec 2) : State :=
  let s := (wCmd (.mma 0 .f32 0 0 1) prod cons).modMe fun t => { t with cq := t.cq.map fun c => { c with s1 := (2 : BitVec 512) <<< 51 } }
  s.modMy fun t => { t with h := t.h.set 2 (hWith 0x8000_00_0000_0000 st) }
theorem witness_HandleFetch : (∃ c, (wFetch (some 2) [] 1).me.cq = [c] ∧ c.viaHandle = true ∧ filled (wFetch (some 2) [] 1) 0 0 2 = some (⟨0, 0, .a⟩, c)) ∧
    (drained (wFetch none [2] 3) 0 0 2).isSome = true ∧
    (∃ c, (wFetch none [] 0).me.cq = c :: [] ∧ c.viaHandle = true ∧ c.cons = [] ∧ c.prod = none ∧ c.phase < c.op.steps ∧
      ((wFetch none [] 0).task 0 0).hst (sHdl c.s1) = 0 ∧ cmdStopped ((wFetch none [] 0).task 0 0) [c] c (c.phase * 2 ^ 15) = false ∧
      readAhead (wFetch none [] 0) ⟨0, 0, .a⟩ c = false) :=
  ⟨⟨_, rfl, by decide +kernel, by decide +kernel⟩, by decide +kernel, _, rfl, by decide +kernel, rfl, rfl, by decide +kernel, by decide +kernel,
    by decide +kernel, by decide +kernel⟩
theorem witness_HandleStates : (∀ c ∈ (wCmd .copy (some 4) []).me.cq, c.viaHandle = false) ∧ (filled (wCmd .copy (some 4) []) 0 0 4).isSome = true ∧ filled (wCmd .copy (some 4) []) 0 0 5 = none ∧
    (drained (wCmd .copy none [3]) 0 0 3).isSome = true ∧ drained (wCmd .copy none [3]) 0 0 4 = none ∧
    (let s : State := { (w .a).modMe fun st => { st with hold := .handle, waitH := 5 } with cycle := 2 ^ 20 }
     let t := s.task 0 0
     t.live = true ∧ (t.stm .a).blk.isSome = true ∧ (t.stm .a).waitH = (4 : R5).toNat + 1 ∧ t.hst 4 = 0 ∧ t.since ≤ s.cycle ∧
     tget 0 t.hSince 4 ≤ s.cycle + 1 ∧ max (tget 0 t.hSince 4) (t.since + 1) + 2 ^ 20 ≤ s.cycle + 1) := by decide +kernel

/-! ## Witnesses: media, compression, reliability -/

/-- A descriptor: codec 1, two slots, no layers, a queue of 16 units at 0x1800 with one waiting, 64 by 64 samples. -/
def medDesc : Nat := 1 + 2 * 2 ^ 8 + 0x1800 * 2 ^ 64 + 4 * 2 ^ 112 + 2 ^ 128 + 0x4000 * 2 ^ 256 + 64 * 2 ^ 320 + 64 * 2 ^ 336 +
  0x1000000 * 2 ^ 448 + 0x20000 * 2 ^ 640 + 0x24000 * 2 ^ 704 + 0x28000 * 2 ^ 768
/-- A picture of it, its samples and blocks all zero. -/
def medPic : Picture := ⟨64, 64, 0, true, false, [], [], [], 0⟩
/-- Stream 0 of context 1 with that descriptor. -/
def wMed (ctl : W64) (pending : List OutPic) (cmu : Option CmuJob) (n : W32) : State :=
  { (wUp (wm .a)).write (2 ^ 21 + 0x1000) (toBytes 128 medDesc) with
    ctxmap := [(0, 0x8001)], strmap := [(0, 8)]
    strm := [(0, { HStream.empty with media := { Media.empty with base := 0x1000, used := 0x1000, ctl := ctl, prod := 1, pending := pending, cmu := cmu, n := n } })] }
/-- Whether media work succeeds with what a test asks. -/
def mIs {α : Type} (r : EStateM.Result Stop State α) (p : α → State → Bool) : Bool := match r with | .ok a u => p a u | .error _ _ => false
theorem mIs_ok {α : Type} {r : EStateM.Result Stop State α} {p : α → State → Bool} (h : mIs r p = true) : ∃ a u, r = .ok a u ∧ p a u = true := by
  cases r with
  | ok a u => exact ⟨a, u, rfl, h⟩
  | error _ _ => exact absurd h (by simp [mIs])
theorem witness_MediaControlResults : mdWrite (wMed 0 [] none 0) 0 0 = true ∧ mdWrite (wMed 0 [] none 0) 3 0 = false ∧
    pkgHeld (wMed 0 [] none 0) = false ∧
    (mediaOf (wMed 0 [] none 0) 0).running = false ∧ (mediaOf (wMed 0 [] none 0) 0).stopping = false ∧
    streamCtx (wMed 0 [] none 0) 0 = some 1 ∧ (mediaOf (wMed 1 [] none 0) 0).running = true ∧
    mIs (startDesc 0 1 0x1000 (wMed 0 [] none 0)) (fun x _ => (x.f 128 32 + 2 ^ 32 - x.f 160 32) % 2 ^ 32 ≤ 2 ^ x.qlog) = true ∧
    (let s := (wMed 1 [] none 0).modMedia 0 fun m => { m with auDue := true, relDue := true, qlog := 4 }
     (mediaOf s 0).auDue = true ∧ (mediaOf s 0).relDue = true ∧
     mIs (mReadN 1 (0x1000 + 16) 4 (s.modMedia 0 fun m => { m with auDue := false }))
       (fun p w => decide ((BitVec.ofNat 32 p - (mediaOf w 0).cons).toNat ≤ 2 ^ (mediaOf w 0).qlog)) = true ∧
     mIs (mReadN 1 (0x1000 + 24) 4 (s.modMedia 0 fun m => { m with relDue := false })) (fun _ _ => true) = true) ∧
    (mediaOf (wMed 1 [] none 0) 0).auDue = false ∧ (mediaOf (wMed 1 [] none 0) 0).relDue = false ∧
    (let s := (wMed 0 [] none 0).modMedia 0 fun m => { m with stopping := true }
     (mediaOf s 0).running = false ∧ (mediaOf s 0).stopping = true) ∧ (mediaOf (wMed 1 [] none 0) 0).opening = false := by decide +kernel
theorem witness_DecodeResults :
    (let m := mediaOf (wMed 1 [] none 0) 0; m.running = true ∧ m.prod ≠ m.cons) ∧ streamCtx (wMed 1 [] none 0) 0 = some 1 ∧
    (wMed 1 [] none 0).decoded = [] ∧
    mIs (startDesc 0 1 0x1000 (wMed 1 [] none 0)) (fun x a => mIs (mReadN 1 (x.f 64 48 + 16 * (0 % 2 ^ x.qlog)) 16 a) fun e b =>
      mIs (mRead 1 (cutPages (bits e 0 48) (bits e 64 32)) b) fun _ c => mIs (mWrite 1 (0x1000 + 20) (toBytes 4 1) c) fun _ d =>
        mIs (workUses 1 x [⟨0x100, 4, [1, 2]⟩] d) (fun _ _ => true) &&
        mIs (takePictures 0 1 0x1000 x [medPic] d) (fun _ _ => true) && mIs (addErr 1 0x1000 1 d) fun _ _ => true) = true ∧
    (mediaOf (wMed 0 [] none 0) 0).running = false := by decide +kernel
theorem witness_PictureResults :
    (let o : OutPic := ⟨medPic, 5, false, 0, false⟩
     let m := mediaOf (wMed 1 [o] none 0) 0
     m.pending = o :: [] ∧ m.cmu = none ∧ m.running = true ∧ m.opening = false ∧ m.stalled = false ∧
     mIs (startDesc 0 1 0x1000 (wMed 1 [o] none 0)) (fun x u => decide ((0 - BitVec.ofNat 32 (x.f 192 32) : W32).toNat < x.slots) &&
      !badPicture x medPic && mIs (writeRows 1 x.bps 8 x.pitch 64 (medPic.luma.take 64) (x.f 256 48) u) fun _ a =>
      mIs (writeRows 1 x.bps 8 x.pitch 64 (medPic.chroma.take 32) (x.f 256 48 + x.alh * x.pitch) a) fun _ b =>
      mIs (writeTensor 1 (4 * x.bw) (chunk 4 4 []) (x.f 640 48) b) fun _ c =>
      mIs (writeTensor 1 (4 * x.bw) (chunk 4 4 []) (x.f 704 48) c) fun _ d =>
      mIs (mWrite 1 (x.f 768 48) (toBytes 64 (infoRecord m x o).toNat) d) fun _ _ => true) = true) ∧
    mIs (startDesc 0 1 0x1000 (wMed 1 [] none 2)) (fun x _ => decide (x.slots ≤ (2 - BitVec.ofNat 32 (x.f 192 32) : W32).toNat)) = true ∧
    (mediaOf (wMed 1 [] none 0) 0).pending = [] ∧ (mediaOf (wMed 1 [] none 0) 0).cmu = none := by decide +kernel
theorem witness_CmuPass :
    (let j : CmuJob := ⟨medDesc, 0x1000, 64 * 2 ^ 64 + 64 * 2 ^ 80, false, 0⟩
     let s := wMed 1 [] (some j) 0
     (mediaOf s 0).cmu = some j ∧
     mIs (readLayers 1 ⟨medDesc⟩ (List.range ((Desc.mk medDesc).f 24 7)) s) (fun ls a0 =>
      mIs (readTensor 1 (4 * (Desc.mk medDesc).bw) 4 4 0x20000 a0) fun mv a => mIs (readTensor 1 (4 * (Desc.mk medDesc).bw) 4 4 0x24000 a) fun res b =>
      mIs (layerPasses 1 ⟨medDesc⟩ j.info.toNat false res (mv.map fun v => ⟨sInt 16 (v % 2 ^ 16), sInt 16 (v / 2 ^ 16)⟩)
        ls b) fun _ c => mIs (mWrite 1 (0x1000 + 28) (toBytes 4 1) c) fun _ _ => true) = true) := by
  decide +kernel
theorem witness_TileDecisions :
    (let l : Layer := ⟨1 + 8 * 2 ^ 8 + 100 * 2 ^ 32 + 1000 * 2 ^ 96, 64, 64, 64, 64⟩
     let st := 2 ^ 40
     (decideTile l false false 0 0 st [5] [⟨0, 0⟩]).act = 1 ∧ (decideTile l false false 0 0 st [5] [⟨4, 0⟩]).act = 2 ∧
     (decideTile l false false 0 0 st [500] [⟨0, 0⟩]).act = 0 ∧
     (decideTile l true false 0 0 st [5] [⟨0, 0⟩]).rsn = 1 ∧ (decideTile l false true 0 0 st [5] [⟨0, 0⟩]).rsn = 2 ∧
     (decideTile l false false 0 0 0 [5] [⟨0, 0⟩]).rsn = 3 ∧ (decideTile l false false 0 0 st [0xFFFFFFFF] [⟨0, 0⟩]).rsn = 4 ∧
     (decideTile l false false 0 0 st [101] [⟨0, 0⟩]).rsn = 5 ∧ (decideTile l false false 0 0 (st + 8 * 2 ^ 32) [5] [⟨0, 0⟩]).rsn = 6 ∧
     (decideTile l false false 0 0 (st + 950) [60] [⟨0, 0⟩]).rsn = 7 ∧ (decideTile l false false 0 0 st [5] [⟨0, 0⟩, ⟨5, 0⟩]).rsn = 8 ∧
     (decideTile l false false 0 0 st [5] [⟨-400, 0⟩]).rsn = 9) ∧ ([⟨1, 0⟩, ⟨0, 0⟩] : List Mv) ≠ [] := by decide +kernel
/-- Ring 0 of context 1, its header at 0x1000 with 16 entries and one request waiting. -/
def wTe (req : Nat) (done : Option (Nat × W32)) : State :=
  let s := (wm .a).write (2 ^ 21 + 0x1000) (toBytes 64 (1 + 4 * 2 ^ 64 + 0x1800 * 2 ^ 96))
  { s.write (2 ^ 21 + 0x1040) (toBytes 64 req) with
    xrtab := [(0, BitVec.ofNat 64 (0x1000 + 1 * 2 ^ 50 + 2 ^ 63))], te := [(0, { Te.empty with prod := some 1, done := done })] }
/-- A request: its operation, source and destination type, source, destination, sizes, pitches. -/
def teReq (op ty rm w h : Nat) : Nat := op + ty * 2 ^ 4 + ty * 2 ^ 9 + rm * 2 ^ 14 + 0x2000 * 2 ^ 32 + 0x3000 * 2 ^ 80 + w * 2 ^ 128 +
  h * 2 ^ 144 + 2 ^ 160 + 2 ^ 176 + 64 * 2 ^ 192 + 64 * 2 ^ 224 + 9 * 2 ^ 256
theorem requestRead_wTe (d : Nat) (p : Nat → State → Bool)
    (h : okIs (teReadN (ringWho (wTe d none) 0) (ringHdr (wTe d none) 0) 64 ((wTe d none).teTook 0)) (fun x v =>
      okIs (teReadN (ringWho (wTe d none) 0) (ringHdr (wTe d none) 0 + 64 + 64 * (bits x 32 32 % 2 ^ bits x 64 4)) 64 v) (fun q u =>
        q == d && p q u) && (decide (4 ≤ bits x 64 4) && decide (bits x 64 4 ≤ 12))) = true)
    (hs : teTurn (wTe d none) (ringDie (wTe d none) 0) = some 0 ∧ ringCid (wTe d none) 0 = 1 ∧ ringDie (wTe d none) 0 = 0) :
    ∃ u, RequestRead (wTe d none) u 0 ⟨d, 0, 1⟩ (BitVec.ofNat 32 (bits d 256 32)) ∧ p d u = true := by
  obtain ⟨x, v, hx, hv⟩ := okIs_ok h
  obtain ⟨hv, hb⟩ := Bool.and_eq_true_iff.mp hv
  obtain ⟨q, u, hq, hu⟩ := okIs_ok hv
  obtain ⟨hd, hu⟩ := Bool.and_eq_true_iff.mp hu
  simp only [Bool.and_eq_true, decide_eq_true_eq] at hb
  cases eq_of_beq hd
  exact ⟨u, ⟨hs.1, ⟨hs.2.1.symm, hs.2.2.symm⟩, rfl, x, v, hx, hq, hb.1, hb.2⟩, hu⟩
theorem witness_TransformResults :
    (∀ op ∈ [0, 6], ∃ u, RequestRead (wTe (teReq op 0 0 1 1) none) u 0 ⟨teReq op 0 0 1 1, 0, 1⟩ 9 ∧ true = true) ∧
    (∃ u, RequestRead (wTe (teReq 2 0 0 1 2) none) u 0 ⟨teReq 2 0 0 1 2, 0, 1⟩ 9 ∧
      okIs (readRows ⟨1, none, 0⟩ .f32 1 64 2 0x2000 u) (fun g v => okIs (writeElems ⟨1, none, 0⟩ .f32 64
        ((List.range 1).map fun x => (List.range 2).map fun y => gridAt g y x) 0x3000 v) fun _ _ => true) = true) ∧
    (∃ u, RequestRead (wTe (teReq 4 0 0 1 0) none) u 0 ⟨teReq 4 0 0 1 0, 0, 1⟩ 9 ∧ okIs (recompBlocks ⟨1, none, 0⟩ 1 0x3000 u) (fun _ _ => true) = true) ∧
    (∃ u, RequestRead (wTe (teReq 5 0 0 0 0) none) u 0 ⟨teReq 5 0 0 0 0, 0, 1⟩ 9 ∧ okIs (teRead ⟨1, none, 0⟩ 0x2000 256 u) (fun _ _ => true) = true) ∧
    (∃ u, RequestRead (wTe (teReq 2 0 3 1 1) none) u 0 ⟨teReq 2 0 3 1 1, 0, 1⟩ 9 ∧ true = true) := by
  refine ⟨fun op h => ?_, ?_, ?_, ?_, ?_⟩
  · rcases List.mem_cons.mp h with rfl | h
    · exact requestRead_wTe _ (fun _ _ => true) (by decide +kernel) (by decide +kernel)
    · cases List.mem_singleton.mp h
      exact requestRead_wTe _ (fun _ _ => true) (by decide +kernel) (by decide +kernel)
  · exact requestRead_wTe (teReq 2 0 0 1 2) (fun _ u => okIs (readRows ⟨1, none, 0⟩ .f32 1 64 2 0x2000 u) (fun g v => okIs (writeElems ⟨1, none, 0⟩ .f32 64
        ((List.range 1).map fun x => (List.range 2).map fun y => gridAt g y x) 0x3000 v) fun _ _ => true)) (by decide +kernel) (by decide +kernel)
  · exact requestRead_wTe (teReq 4 0 0 1 0) (fun _ u => okIs (recompBlocks ⟨1, none, 0⟩ 1 0x3000 u) (fun _ _ => true)) (by decide +kernel) (by decide +kernel)
  · exact requestRead_wTe (teReq 5 0 0 0 0) (fun _ u => okIs (teRead ⟨1, none, 0⟩ 0x2000 256 u) (fun _ _ => true)) (by decide +kernel) (by decide +kernel)
  · exact requestRead_wTe (teReq 2 0 3 1 1) (fun _ _ => true) (by decide +kernel) (by decide +kernel)
/-- FCONV of one element. -/
def fconvIs (u : State) : Bool := okIs (readRows ⟨1, none, 0⟩ .f32 1 64 1 0x2000 u) (fun g v => okIs (writeElems ⟨1, none, 0⟩ .f32 64
  (g.map fun (r : List (Nat × Bool)) => r.map fun (e : Nat × Bool) => ((convTo .f32 0 false (fpOf .f32 e.1)).1, e.2)) 0x3000 v) fun _ _ => true)
theorem witness_Fconv : ∃ u, RequestRead (wTe (teReq 3 0 0 1 1) none) u 0 ⟨teReq 3 0 0 1 1, 0, 1⟩ 9 ∧ fconvIs u = true :=
  requestRead_wTe (teReq 3 0 0 1 1) (fun _ u => fconvIs u) (by decide +kernel) (by decide +kernel)
/-- The one sample of a PICT of one 8-bit sample to n8, whatever the order of its operations. -/
theorem pict_one : pictSample ⟨teReq 1 7 0 1 1, 0, 1⟩ .n8 .n8 [[(0, false)]] [[(0, false), (0, false)]] 0 0 =
    [(0, false), (77, false), (0, false)] := by
  by_cases h0 : Config.bilinearOrder % 5 = 0
  · simp only [pictSample, bilin, h0]; decide +kernel
  · by_cases h1 : Config.bilinearOrder % 5 = 1
    · simp only [pictSample, bilin, h1]; decide +kernel
    · by_cases h2 : Config.bilinearOrder % 5 = 2
      · simp only [pictSample, bilin, h2]; decide +kernel
      · by_cases h3 : Config.bilinearOrder % 5 = 3
        · simp only [pictSample, bilin, h3]; decide +kernel
        · simp only [pictSample, bilin, h0, h1, h2, h3]; decide +kernel
/-- PICT of one 8-bit sample to n8. -/
theorem witness_Pict : ∃ u, RequestRead (wTe (teReq 1 7 0 1 1) none) u 0 ⟨teReq 1 7 0 1 1, 0, 1⟩ 9 ∧
    okIs (readRows ⟨1, none, 0⟩ .n8 1 64 1 0x2000 u) (fun luma v => okIs (readRows ⟨1, none, 0⟩ .n8 2 64 1 (0x2000 + (1 + 15) / 16 * 16 * 64) v) fun chroma w =>
      luma == [[(0, false)]] && chroma == [[(0, false), (0, false)]] &&
      okIs (writeElems ⟨1, none, 0⟩ .n8 64 [[(0, false), (77, false), (0, false)]] 0x3000 w) fun _ _ => true) = true :=
  requestRead_wTe (teReq 1 7 0 1 1) (fun _ u => okIs (readRows ⟨1, none, 0⟩ .n8 1 64 1 0x2000 u) (fun luma v => okIs (readRows ⟨1, none, 0⟩ .n8 2 64 1 (0x2000 + (1 + 15) / 16 * 16 * 64) v) fun chroma w =>
      luma == [[(0, false)]] && chroma == [[(0, false), (0, false)]] &&
      okIs (writeElems ⟨1, none, 0⟩ .n8 64 [[(0, false), (77, false), (0, false)]] 0x3000 w) fun _ _ => true)) (by decide +kernel) (by decide +kernel)
theorem witness_NonePending : (teOf { wTe 0 none with te := [] } 0).pending = false ∧ (teOf (wTe 0 (some (0, 9))) 0).done.isSome = true ∧
    (teOf { wTe 0 none with te := [(0, { Te.empty with wait := some (5, none) })] } 0).wait.isSome = true := by decide +kernel
/-- The rings 0 and 5 of die 0 with a request pending: after ring 0, ring 5 has the turn. -/
theorem witness_Turns : (let s := wTe 0 none
    let two : State := { s with xrtab := s.xrtab ++ [(10, tget 0 s.xrtab 0)], te := s.te ++ [(5, tget Te.empty s.te 0)] }
    teTurn two 0 = some 0 ∧ teTurn (two.teTook 0) 0 = some 5 ∧ teTurn (two.teTook 5) 0 = some 0) := by decide +kernel
theorem witness_TransformRing : ringServed (wTe 0 none) 0 = true ∧ (teOf (wTe 0 none) 0).wait = none ∧ ringServed (w .a) 0 = false ∧
    okIs (teReadN ⟨1, none, 0⟩ 0x1000 8 (wTe 0 none)) (fun _ _ => true) = true ∧ (teOf (wTe 0 (some (0, 9))) 0).done = some (0, 9) ∧
    okIs (teReadN ⟨1, none, 0⟩ 0x1000 64 (wTe 0 (some (0, 9)))) (fun x a => okIs (teWrite ⟨1, none, 0⟩ (bits x 96 48) (clean (toBytes 16 9)) a) fun _ b =>
      okIs (teWrite ⟨1, none, 0⟩ (0x1000 + 4) (clean (toBytes 4 1)) b) fun _ _ => true) = true := by decide +kernel
/-- Line 0x2000 of die 0, in a compressed page of context 1 or not, in the L2 with all of its bytes or none. -/
def wL2 (cmp : Nat) (valid : BitVec 256) (sel : BitVec 8) : State :=
  { State.reset with cmpState := [(1, cmp)], l2 := [⟨0x2000, valid, 0⟩], blkMeta := [(0x1000, sel)] }
theorem witness_StorageResults : hbmKey 0 0x200000 / 256 = 0x2000 ∧ inL2 State.reset 0x2000 = false ∧ inL2 (wL2 0 0 0) 0x2000 = true ∧
    (wL2 0 0 0).soft = [] ∧ cmpOf (wL2 0 0 0) (256 * 0x2000) < 2 ∧ 2 ≤ cmpOf (wL2 3 0 0) (256 * 0x2000) ∧
    (∀ i, i < 512 → (wL2 3 0 0).byte (0x2000 / 2 * 512 + i) = 0) ∧ blockBad (wL2 3 0 0) (256 * 0x2000) = false ∧
    blockBad (wL2 3 0 7) (256 * 0x2000) = true ∧ blockBad (wL2 1 0 7) (256 * 0x2000) = false ∧ (l2Line (wL2 0 0 0) 0x2000).dirty = 0 ∧ 4 < 5 ∧ (l2Line (wL2 3 0 7) 0x2000).valid.extractLsb' 0 64 ≠ BitVec.allOnes 64 ∧
    (∀ st, st ≤ 4 → st ≠ 1 → (storedKey State.reset 0 st 64).isSome = true) ∧ (storedKey (wL2 0 0 0) 0 1 0x200000).isSome = true ∧ 0 / 64 = 63 / 64 := by
  decide +kernel
/-- A trigger pending since time 0. -/
def wSnap (now : W64) (armed held : Bool) (pend : Option (Nat × Nat × Nat)) : State :=
  { State.reset with timebase := now, snap := { State.reset.snap with armed := armed, held := held, pend := pend } }
theorem witness_SnapData : 32 ≤ bits ({ State.reset.snap with sel := 32 <<< 12 } : Snap).sel.toNat 12 8 := by decide +kernel
theorem witness_SnapshotResults : (1 : W64).getLsbD 0 = true ∧ (0 : W64).getLsbD 0 = false ∧ (wSnap 0 true false none).snap.armed = true ∧
    (wSnap 0 true false none).snap.held = false ∧ (wSnap 0 true false none).snap.pend = none ∧ (wSnap 0 false true none).snap.held = true ∧
    (wSnap 255 true false (some (0, 1, 2))).timebase.toNat < 0 + 256 ∧ 0 + 256 ≤ (wSnap 256 true false (some (0, 1, 2))).timebase.toNat := by
  decide +kernel

/-! ## Witnesses: the machine -/

/-- A task asked to stop, between blocks. -/
def wStop : State := (w .a).modMy fun t => { t with preempt := true, st := t.st.map fun st => { st with blk := none } }
theorem witness_StepRuns : State.reset.inputs = [] ∧ background State.reset = none ∧ idle State.reset = true ∧ (w .a).inputs = [] ∧
    background (w .a) = none ∧ idle (w .a) = false ∧ stopping (w .a) = false ∧ (w .a).me.fwait = none ∧
    (∃ b, (w .a).blk = some b ∧ b.words = [0x02600000#32, 0x005FC000#32]) ∧
    idle wDefer = false ∧ background wDefer = none ∧ wDefer.blk = none ∧
    wStop.inputs = [] ∧ background wStop = none ∧ idle wStop = false ∧ stopping wStop = true := by
  refine ⟨rfl, by decide +kernel, by decide +kernel, rfl, by decide +kernel, by decide +kernel, rfl, rfl, ⟨_, rfl, rfl⟩, by decide +kernel,
    by decide +kernel, rfl, rfl, by decide +kernel, by decide +kernel, by decide +kernel⟩
/-- A block of one nop and a done exit in the instruction buffer. -/
def wBuf : State := (w .a).modMe fun st => { st with
  blk := none, pc := 0x4000, ibuf := [(0x4000, 0x00210000#32), (0x4004, 0x02600000#32), (0x4008, 0x005FC000#32)] }
theorem witness_FetchReadsBlock : wBuf.my.unread = false ∧ bufWord wBuf.me wBuf.me.pc.toNat = some 0x00210000#32 ∧
    bufWord wBuf.me (wBuf.me.pc + 4).toNat = some 0x02600000#32 ∧ bufWord wBuf.me (wBuf.me.pc + 8).toNat = some 0x005FC000#32 ∧
    isExit 0x02600000#32 = false ∧ isExit 0x005FC000#32 = true ∧ bufWord (wm .a).me 0x4000 = none ∧
    checkAddr (wm .a) (wm .a).cur (wm .a).my.cid .g 0x4000 4 false = none := by decide +kernel
theorem witness_StepKeepsMemoryForm : Memory.wf State.reset = true := by decide +kernel

/-! ## Words (R270 to R286): each instruction of the instruction set by a word written out from its encoding -/

/-- Each list of words decodes to the instruction beside it. -/
def Decodes : List (List W32 × Instr) → Prop
  | [] => True
  | e :: l => decode e.1 = .ok (e.2, []) ∧ Decodes l
theorem decodes_ExitBlock : Decodes [
    ([0x00226000], .blockHeader 0 2 1 true), ([0x00433FFB], .jump 0 3 0x3FFB), ([0x005F4009], .call 0 31 9), ([0x00408000], .ret 0 0),
    ([0x005FC000], .done 0 31)] :=
  ⟨rfl, rfl, rfl, rfl, rfl, trivial⟩
theorem decodes_Alu : Decodes [
    ([0x00632140], .add 0 3 4 5), ([0x10632141], .sub 1 3 4 5), ([0x20632142], .and 2 3 4 5), ([0x30632143], .or 3 3 4 5),
    ([0x40632144], .xor 4 3 4 5), ([0x50632145], .andn 5 3 4 5), ([0x60632146], .sll 6 3 4 5), ([0x70632147], .srl 7 3 4 5),
    ([0x80632148], .sra 8 3 4 5), ([0x90632149], .minS 9 3 4 5), ([0xA063214A], .minN 10 3 4 5), ([0xB063214B], .maxS 11 3 4 5),
    ([0xC063214C], .maxN 12 3 4 5), ([0x0063200D], .clz 0 3 4), ([0x0063200E], .popc 0 3 4), ([0x107FF74F], .addW 1 31 30 29),
    ([0x00632150], .subW 0 3 4 5)] :=
  ⟨rfl, rfl, rfl, rfl, rfl, rfl, rfl, rfl, rfl, rfl, rfl, rfl, rfl, rfl, rfl, rfl, rfl, trivial⟩
theorem decodes_Immediate : Decodes [
    ([0x008327FE], .addi 0 3 4 0x7FE), ([0x00A327FE], .andi 0 3 4 0x7FE), ([0x00C327FE], .ori 0 3 4 0x7FE),
    ([0x00E327FE], .xori 0 3 4 0x7FE), ([0x01032021], .slli 0 3 4 33), ([0x01232021], .srli 0 3 4 33), ([0x01432021], .srai 0 3 4 33),
    ([0x09671234, 0x00005678], .liw 0 7 0x12345678), ([0x1985FFFF, 0x00000001], .lih 1 5 0xFFFF0001)] :=
  ⟨rfl, rfl, rfl, rfl, rfl, rfl, rfl, rfl, rfl, trivial⟩
theorem decodes_Compare : Decodes [
    ([0x01A21900], .cmpEq 0 2 3 4), ([0x01A21901], .cmpNe 0 2 3 4), ([0x01A21902], .cmpLtS 0 2 3 4), ([0x01A21903], .cmpLtN 0 2 3 4),
    ([0x01A21904], .cmpGeS 0 2 3 4), ([0x01A21905], .cmpGeN 0 2 3 4), ([0x19C11800, 0x01027FFF], .cmpiEq ⟨1, 2, 9⟩ 1 3 0x3FFF),
    ([0x19C11801, 0x01027FFF], .cmpiNe ⟨1, 2, 9⟩ 1 3 0x3FFF), ([0x19C11802, 0x01027FFF], .cmpiLtS ⟨1, 2, 9⟩ 1 3 0x3FFF),
    ([0x19C11803, 0x01027FFF], .cmpiLtN ⟨1, 2, 9⟩ 1 3 0x3FFF), ([0x19C11804, 0x01027FFF], .cmpiGeS ⟨1, 2, 9⟩ 1 3 0x3FFF),
    ([0x19C11805, 0x01027FFF], .cmpiGeN ⟨1, 2, 9⟩ 1 3 0x3FFF), ([0x01E110C0], .pand 0 1 2 3), ([0x01E110C1], .por 0 1 2 3),
    ([0x01E110C2], .pxor 0 1 2 3), ([0x01E110C3], .pandn 0 1 2 3), ([0x01E11004], .pnot 0 1 2), ([0x01E11005], .pmov 0 1 2),
    ([0x01E11006], .pall 0 1 2), ([0x01E11007], .pnone 0 1 2), ([0x01E11008], .ppop 0 1 2), ([0x01E11009], .pfirst 0 1 2)] :=
  ⟨rfl, rfl, rfl, rfl, rfl, rfl, rfl, rfl, rfl, rfl, rfl, rfl, rfl, rfl, rfl, rfl, rfl, rfl, rfl, rfl, rfl, rfl, trivial⟩
theorem decodes_MulDivSel : Decodes [
    ([0x02074240], .mul 0 7 8 9), ([0x02074241], .mulhS 0 7 8 9), ([0x02074242], .mulhN 0 7 8 9), ([0x02074243], .divS 0 7 8 9),
    ([0x02074244], .divN 0 7 8 9), ([0x02074245], .remS 0 7 8 9), ([0x02074246], .remN 0 7 8 9), ([0x02074247], .mulW 0 7 8 9),
    ([0x02074248], .divWS 0 7 8 9), ([0x02074249], .divWN 0 7 8 9), ([0x0207424A], .remWS 0 7 8 9), ([0x0207424B], .remWN 0 7 8 9),
    ([0x0A2531C0, 0x0F880000], .sel ⟨0, 31, 0⟩ 5 6 7 2)] :=
  ⟨rfl, rfl, rfl, rfl, rfl, rfl, rfl, rfl, rfl, rfl, rfl, rfl, rfl, trivial⟩
theorem decodes_System : Decodes [
    ([0x2A450000, 0x0F80C006], .rdc ⟨2, 31, 3⟩ 5 6), ([0x2A402801, 0x0F80C006], .wrc ⟨2, 31, 3⟩ 5 6),
    ([0x2A453802, 0x0F80C007], .swpc ⟨2, 31, 3⟩ 5 7 7), ([0x2A453803, 0x0F80C007], .setc ⟨2, 31, 3⟩ 5 7 7),
    ([0x2A453804, 0x0F80C007], .clrc ⟨2, 31, 3⟩ 5 7 7), ([0x02600000], .nop 0), ([0x02602001], .trap 0 4), ([0x02600002], .eret 0),
    ([0x02602003], .brk 0 4), ([0x02600004], .kill 0), ([0x0A800000, 0x0F800804], .loopn ⟨0, 31, 0⟩ 0 1 4),
    ([0x0A853001, 0x0F803708], .lstride ⟨0, 31, 0⟩ 5 6 6 7 8), ([0x0A800002, 0x0F800005], .loopgo ⟨0, 31, 0⟩ 5),
    ([0x0A800003, 0x0F800000], .loopbrk ⟨0, 31, 0⟩)] :=
  ⟨rfl, rfl, rfl, rfl, rfl, rfl, rfl, rfl, rfl, rfl, rfl, rfl, rfl, rfl, trivial⟩
theorem decodes_Events : Decodes [
    ([0x12A30001], .post 1 3 1), ([0x02C30001], .await 0 3 1), ([0x02E00007], .mark 0 7), ([0x03200003], .dsync 0 3),
    ([0x0B000000, 0x0F803805], .rdvset ⟨0, 31, 0⟩ 0 0xE 5), ([0x0B000001, 0x0F800000], .rdvwait ⟨0, 31, 0⟩),
    ([0x0B402000, 0x0F803FF8], .mon ⟨0, 31, 0⟩ 4 0 0x3FF8), ([0x0B402000, 0x0F8C0000], .mon ⟨0, 31, 0⟩ 4 3 0),
    ([0x0B453001, 0x0F800000], .mwait ⟨0, 31, 0⟩ 5 6), ([0x0B400002, 0x0F800000], .mclr ⟨0, 31, 0⟩)] :=
  ⟨rfl, rfl, rfl, rfl, rfl, rfl, rfl, rfl, rfl, rfl, trivial⟩
theorem decodes_Tasks : Decodes [
    ([0x0B653000, 0x0F800000], .spawn ⟨0, 31, 0⟩ 5 6), ([0x0B695001, 0x0F800000], .spawnr ⟨0, 31, 0⟩ 9 10),
    ([0x0B600002, 0x0F824041], .evsig ⟨0, 31, 9⟩ 0 0x41), ([0x0B601003, 0x0F800041], .evwait ⟨0, 31, 0⟩ 2 0x41),
    ([0x0B603804, 0x0F800000], .joindec ⟨0, 31, 0⟩ 7), ([0x0B600005, 0x0F800000], .yield ⟨0, 31, 0⟩),
    ([0x0B670006, 0x0F800000], .tself ⟨0, 31, 0⟩ 7), ([0x0B800800, 0x0F800002], .stgadv ⟨0, 31, 0⟩ 1 2),
    ([0x0B800801, 0x0F800002], .stgjmp ⟨0, 31, 0⟩ 1 2), ([0x0B800802, 0x0F800002], .waitl ⟨0, 31, 0⟩ 1 2),
    ([0x0B810003, 0x0F800001], .stgrd ⟨0, 31, 0⟩ 1 1), ([0x0BA00000, 0x0F800000], .abort ⟨0, 31, 0⟩),
    ([0x0BA00001, 0x0F800000], .abchk ⟨0, 31, 0⟩), ([0x0BA50002, 0x0F800000], .abrd ⟨0, 31, 0⟩ 5),
    ([0x0BC04000, 0x0F803FF0], .segb ⟨0, 31, 0⟩ 8 0x3FF0), ([0x0BC00001, 0x0F800000], .sege ⟨0, 31, 0⟩)] :=
  ⟨rfl, rfl, rfl, rfl, rfl, rfl, rfl, rfl, rfl, rfl, rfl, rfl, rfl, rfl, rfl, rfl, trivial⟩
theorem decodes_Memory : Decodes [
    ([0x0C095014, 0x0F800040], .ld ⟨0, 31, 0⟩ .k 4 .weak .core 9 10 64),
    ([0x0C095006, 0x0FC80040], .ld ⟨0, 31, 0⟩ .g 6 .acquire .die 9 10 64),
    ([0x0C095008, 0x0FA00040], .ld ⟨0, 31, 0⟩ .c 0 .strong .core 9 10 64),
    ([0x0C09501B, 0x0FD00040], .ld ⟨0, 31, 0⟩ .d 3 .acquire .system 9 10 64),
    ([0x0C2041C6, 0x0FEC0008], .st ⟨0, 31, 0⟩ .g 6 .release .package 8 7 8),
    ([0x0C2041D0, 0x0F800008], .st ⟨0, 31, 0⟩ .k 0 .weak .core 8 7 8),
    ([0x0C2041DC, 0x0FA00008], .st ⟨0, 31, 0⟩ .d 4 .strong .core 8 7 8),
    ([0x0C4531C0, 0x0FA007F8], .amoAdd ⟨0, 31, 0⟩ false .g .strong .core 5 6 7 0x7F8),
    ([0x0C4531E1, 0x0FC40FF8], .amoAnd ⟨0, 31, 0⟩ true .c .acquire .eight 5 6 7 0x7F8),
    ([0x0C4531C2, 0x0FE817F8], .amoOr ⟨0, 31, 0⟩ false .k .release .die 5 6 7 0x7F8),
    ([0x0C4531E3, 0x0FA01FF8], .amoXor ⟨0, 31, 0⟩ true .d .strong .core 5 6 7 0x7F8),
    ([0x0C4531C4, 0x0FD007F8], .amoMinS ⟨0, 31, 0⟩ false .g .acquire .system 5 6 7 0x7F8),
    ([0x0C4531E5, 0x0FE00FF8], .amoMinN ⟨0, 31, 0⟩ true .c .release .core 5 6 7 0x7F8),
    ([0x0C4531C6, 0x0FA017F8], .amoMaxS ⟨0, 31, 0⟩ false .k .strong .core 5 6 7 0x7F8),
    ([0x0C4531E7, 0x0FC81FF8], .amoMaxN ⟨0, 31, 0⟩ true .d .acquire .die 5 6 7 0x7F8),
    ([0x0C4531C8, 0x0FEC07F8], .amoSwap ⟨0, 31, 0⟩ false .g .release .package 5 6 7 0x7F8),
    ([0x0C4531E9, 0x0FA00FF8], .amoCas ⟨0, 31, 0⟩ true .c .strong .core 5 6 7 0x7F8), ([0x0C600000, 0x0F880000], .fence ⟨0, 31, 0⟩ .die),
    ([0x0C600001, 0x0F800044], .xfence ⟨0, 31, 0⟩ 4 1), ([0x0C600002, 0x0F880000], .ptfence ⟨0, 31, 0⟩ .die),
    ([0x0C602143, 0x0F800001], .tlbinv ⟨0, 31, 0⟩ 4 5 1), ([0x0C853000, 0x0F840008], .ldx ⟨0, 31, 0⟩ 5 6 1 8),
    ([0x0C803001, 0x0F800008], .erase ⟨0, 31, 0⟩ 6 8), ([0x0C803002, 0x0F840008], .extest ⟨0, 31, 0⟩ 6 1 8),
    ([0x0C853003, 0x0F800008], .exmap ⟨0, 31, 0⟩ 5 6 8)] :=
  ⟨rfl, rfl, rfl, rfl, rfl, rfl, rfl, rfl, rfl, rfl, rfl, rfl, rfl, rfl, rfl, rfl, rfl, rfl, rfl, rfl, rfl, rfl, rfl, rfl, rfl,
    trivial⟩
theorem decodes_StreamCopy : Decodes [
    ([0x0CA43014, 0x0F800000], .setsBase ⟨0, 31, 0⟩ 3 4 5), ([0x0CA43014, 0x0F800001], .setsDim ⟨0, 31, 0⟩ 3 4 5),
    ([0x0CA43000, 0x0F980002], .setsFmt ⟨0, 31, 0⟩ .s8 3 4), ([0x0CA43014, 0x0F800003], .setsScl ⟨0, 31, 0⟩ 3 4 5),
    ([0x0CA03000, 0x0F800084], .setsXp ⟨0, 31, 0⟩ 3 2), ([0x0CA43000, 0x0F800005], .setsMc ⟨0, 31, 0⟩ 3 4),
    ([0x0CA03480, 0x0F800006], .setsHdl ⟨0, 31, 0⟩ 3 9), ([0x0CA03000, 0x0F800007], .setsClr ⟨0, 31, 0⟩ 3),
    ([0x0CA6301C, 0x0F800008], .gets ⟨0, 31, 0⟩ 6 3 0 7), ([0x0CA6019C, 0x0F800008], .gets ⟨0, 31, 0⟩ 6 0 3 7),
    ([0x0CC03200, 0x0F800280], .copyin ⟨0, 31, 0⟩ 3 4 0 2 2), ([0x0CC03202, 0x0F800201], .copyout ⟨0, 31, 0⟩ 3 4 2 2),
    ([0x0CC10208, 0x0F800302], .copyk ⟨0, 31, 0⟩ 1 4 2 0 3), ([0x0CC10208, 0x0F800303], .copyd ⟨0, 31, 0⟩ 1 4 2 0 3),
    ([0x0CC10208, 0x0F800344], .copylin ⟨0, 31, 0⟩ 1 4 2 0 3 1), ([0x0CE42194, 0x0F800700], .gath ⟨0, 31, 0⟩ 4 2 3 5 7 0),
    ([0x0CE02194, 0x0F800701], .gathmc ⟨0, 31, 0⟩ 2 3 5 7 0), ([0x0CE42194, 0x0F800702], .scat ⟨0, 31, 0⟩ 4 2 3 5 7 0),
    ([0x0CE42194, 0x0F800003], .scatadd ⟨0, 31, 0⟩ .f32 4 2 3 5 0 0)] :=
  ⟨rfl, rfl, rfl, rfl, rfl, rfl, rfl, rfl, rfl, rfl, rfl, rfl, rfl, rfl, rfl, rfl, rfl, rfl, rfl, trivial⟩
theorem decodes_GateRing : Decodes [
    ([0x0D040014, 0x0F800900], .gexp ⟨0, 31, 0⟩ 4 5 9), ([0x0D040014, 0x0F800901], .garr ⟨0, 31, 0⟩ 4 5 9),
    ([0x0D040000, 0x0F800902], .gwait ⟨0, 31, 0⟩ 4 9), ([0x0D040000, 0x0F800903], .ginit ⟨0, 31, 0⟩ 4 9),
    ([0x0D040480, 0x0F800004], .hwait ⟨0, 31, 0⟩ 9 4), ([0x0D040494, 0x0F800005], .hset ⟨0, 31, 0⟩ 9 4 5),
    ([0x0D000480, 0x0F800006], .hfree ⟨0, 31, 0⟩ 9), ([0x0D201114, 0x0F800000], .nzscan ⟨0, 31, 0⟩ 1 2 5),
    ([0x0D240014, 0x0F800001], .thrset ⟨0, 31, 0⟩ 4 5), ([0x0D240014, 0x0F800002], .dmrd ⟨0, 31, 0⟩ 4 5),
    ([0x0D450018, 0x0F800000], .tlget ⟨0, 31, 0⟩ 5 6), ([0x0D450018, 0x0F800001], .tlstat ⟨0, 31, 0⟩ 5 6),
    ([0x0D450018, 0x0F800002], .tlack ⟨0, 31, 0⟩ 5 6), ([0x0D653000, 0x0F880000], .rngtk ⟨0, 31, 0⟩ 2 5 6),
    ([0x0D6531C1, 0x0F880003], .rngput ⟨0, 31, 0⟩ 2 5 6 7 3), ([0x0D653002, 0x0F8C0003], .rngget ⟨0, 31, 0⟩ 3 5 6 3),
    ([0x0D6031C3, 0x0F880000], .rngeos ⟨0, 31, 0⟩ 2 6 7), ([0x0D653004, 0x0F880000], .rngstat ⟨0, 31, 0⟩ 2 5 6),
    ([0x0D802800, 0x0F880000], .qpush ⟨0, 31, 0⟩ 5 2), ([0x0D830001, 0x0F880000], .qpop ⟨0, 31, 0⟩ 3 2),
    ([0x0D830002, 0x0F880000], .qpeek ⟨0, 31, 0⟩ 3 2), ([0x0D830003, 0x0F880000], .qpopp ⟨0, 31, 0⟩ 3 2)] :=
  ⟨rfl, rfl, rfl, rfl, rfl, rfl, rfl, rfl, rfl, rfl, rfl, rfl, rfl, rfl, rfl, rfl, rfl, rfl, rfl, rfl, rfl, rfl, trivial⟩
theorem decodes_VectorArith : Decodes [
    ([0x4E10C518, 0x0B800000], .vaddF ⟨4, 23, 0⟩ .f32 33 34 35), ([0x4E10C518, 0x0B840001], .vsubF ⟨4, 23, 0⟩ .f16 33 34 35),
    ([0x4E10C518, 0x0B880002], .vmulF ⟨4, 23, 0⟩ .bf16 33 34 35), ([0x4E10C518, 0x0B8C2403], .vfma ⟨4, 23, 0⟩ .e4m3 33 34 35 36),
    ([0x4E10C518, 0x0B902404], .vfms ⟨4, 23, 0⟩ .e5m2 33 34 35 36), ([0x4E10C518, 0x0B802405], .vfnma ⟨4, 23, 0⟩ .f32 33 34 35 36),
    ([0x4E10C518, 0x0B840006], .vminF ⟨4, 23, 0⟩ .f16 33 34 35), ([0x4E10C518, 0x0B880007], .vmaxF ⟨4, 23, 0⟩ .bf16 33 34 35),
    ([0x4E10C400, 0x0B8C0008], .vabsF ⟨4, 23, 0⟩ .e4m3 33 34), ([0x4E10C400, 0x0B900009], .vneg ⟨4, 23, 0⟩ .e5m2 33 34),
    ([0x4E10C518, 0x0B80000A], .vdiv ⟨4, 23, 0⟩ .f32 33 34 35), ([0x4E10C400, 0x0B84000B], .vsqrt ⟨4, 23, 0⟩ .f16 33 34),
    ([0x4E239048, 0x0B980000], .vaddI ⟨4, 23, 0⟩ .s8 7 8 9), ([0x4E239048, 0x0B9C0001], .vsubI ⟨4, 23, 0⟩ .n8 7 8 9),
    ([0x4E239048, 0x0BA00002], .vmulI ⟨4, 23, 0⟩ .s16 7 8 9), ([0x4E239048, 0x0BA40003], .vmulh ⟨4, 23, 0⟩ .n16 7 8 9),
    ([0x4E239048, 0x0BA80004], .vand ⟨4, 23, 0⟩ .s32 7 8 9), ([0x4E239048, 0x0BAC0005], .vor ⟨4, 23, 0⟩ .n32 7 8 9),
    ([0x4E239048, 0x0B980006], .vxor ⟨4, 23, 0⟩ .s8 7 8 9), ([0x4E239048, 0x0B9C0007], .vandn ⟨4, 23, 0⟩ .n8 7 8 9),
    ([0x4E239048, 0x0BA00008], .vsll ⟨4, 23, 0⟩ .s16 7 8 9), ([0x4E239048, 0x0BA40009], .vsrl ⟨4, 23, 0⟩ .n16 7 8 9),
    ([0x4E239048, 0x0BA8000A], .vsra ⟨4, 23, 0⟩ .s32 7 8 9), ([0x4E239048, 0x0BAC000B], .vminI ⟨4, 23, 0⟩ .n32 7 8 9),
    ([0x4E239048, 0x0B98000C], .vmaxI ⟨4, 23, 0⟩ .s8 7 8 9), ([0x4E239000, 0x0BA0000D], .vabsI ⟨4, 23, 0⟩ .s16 7 8)] :=
  ⟨rfl, rfl, rfl, rfl, rfl, rfl, rfl, rfl, rfl, rfl, rfl, rfl, rfl, rfl, rfl, rfl, rfl, rfl, rfl, rfl, rfl, rfl, rfl, rfl, rfl,
    rfl, trivial⟩
theorem decodes_VectorConvert : Decodes [
    ([0x0E410828, 0x0F840100], .vcmpEq ⟨0, 31, 0⟩ .f16 2 4 5 1), ([0x0E410828, 0x0F840101], .vcmpNe ⟨0, 31, 0⟩ .f16 2 4 5 1),
    ([0x0E410828, 0x0F840102], .vcmpLt ⟨0, 31, 0⟩ .f16 2 4 5 1), ([0x0E410828, 0x0F840103], .vcmpLe ⟨0, 31, 0⟩ .f16 2 4 5 1),
    ([0x0E410828, 0x0F840104], .vcmpGt ⟨0, 31, 0⟩ .f16 2 4 5 1), ([0x0E410828, 0x0F840105], .vcmpGe ⟨0, 31, 0⟩ .f16 2 4 5 1),
    ([0x0E408C08, 0x0F800006], .vclass ⟨0, 31, 0⟩ .f32 1 6 1 0), ([0x0E641200, 0x0F840100], .cvtRne ⟨0, 31, 0⟩ .f16 .f32 8 9 1),
    ([0x0E641200, 0x0F840101], .cvtRtz ⟨0, 31, 0⟩ .f16 .f32 8 9 1), ([0x0E641200, 0x0F840102], .cvtRup ⟨0, 31, 0⟩ .f16 .f32 8 9 1),
    ([0x0E641200, 0x0F840103], .cvtRdn ⟨0, 31, 0⟩ .f16 .f32 8 9 1), ([0x0E641200, 0x0F840104], .cvtSat ⟨0, 31, 0⟩ .f16 .f32 8 9 1),
    ([0x0E620A00, 0x0F840605], .vpack ⟨0, 31, 0⟩ .f16 .f32 4 5 6), ([0x0E640A08, 0x0F800006], .vunpack ⟨0, 31, 0⟩ .f32 .f16 8 5),
    ([0x0E818800, 0x0F840000], .vexp2 ⟨0, 31, 0⟩ .f16 3 4), ([0x0E818800, 0x0F840001], .vlog2 ⟨0, 31, 0⟩ .f16 3 4),
    ([0x0E818800, 0x0F840002], .vrcp ⟨0, 31, 0⟩ .f16 3 4), ([0x0E818800, 0x0F840003], .vrsqrt ⟨0, 31, 0⟩ .f16 3 4),
    ([0x0E818800, 0x0F840004], .vsig ⟨0, 31, 0⟩ .f16 3 4), ([0x0E818800, 0x0F840005], .vtanh ⟨0, 31, 0⟩ .f16 3 4)] :=
  ⟨rfl, rfl, rfl, rfl, rfl, rfl, rfl, rfl, rfl, rfl, rfl, rfl, rfl, rfl, rfl, rfl, rfl, rfl, rfl, rfl, trivial⟩
theorem decodes_VectorMove : Decodes [
    ([0x0EA08A00, 0x0F800000], .vbcast ⟨0, 31, 0⟩ 1 5), ([0x0EA38620, 0x0F800001], .vlane ⟨0, 31, 0⟩ 7 3 4),
    ([0x0EA10620, 0x0F800002], .vperm ⟨0, 31, 0⟩ 2 3 4), ([0x0EA10620, 0x0F800003], .vrot ⟨0, 31, 0⟩ 2 3 4),
    ([0x0EA10620, 0x0F800004], .vshl ⟨0, 31, 0⟩ 2 3 4), ([0x0EA51600, 0x0F800005], .vredadd ⟨0, 31, 0⟩ .f32 10 11),
    ([0x0EA51600, 0x0F800006], .vredmax ⟨0, 31, 0⟩ .f32 10 11), ([0x0EA51600, 0x0F800007], .vredmin ⟨0, 31, 0⟩ .f32 10 11),
    ([0x0EA51600, 0x0F800008], .vscan ⟨0, 31, 0⟩ .f32 10 11), ([0x0EA08418, 0x0F800409], .vsel ⟨0, 31, 0⟩ 1 2 3 4),
    ([0x0EA08400, 0x0F80000A], .vmov ⟨0, 31, 0⟩ 1 2), ([0x0EC1882C, 0x0F800000], .vld ⟨0, 31, 0⟩ .l .f32 3 4 5),
    ([0x0EC00829, 0x0F800901], .vst ⟨0, 31, 0⟩ .c .f32 4 5 9), ([0x0EC30438, 0x0F9C0002], .vldi ⟨0, 31, 0⟩ .g .n8 6 2 7),
    ([0x0EC00C3A, 0x0FA00803], .vsti ⟨0, 31, 0⟩ .k .s16 6 7 8), ([0x0EC80418, 0x0F800404], .vldb ⟨0, 31, 0⟩ 16 2 3 4),
    ([0x0EEA2AB0, 0x0FAC0500], .vmrg ⟨0, 31, 0⟩ .n32 20 21 22 5), ([0x0EEA2AB0, 0x0F800501], .visect ⟨0, 31, 0⟩ .f32 20 21 22 5),
    ([0x0EEA2AB0, 0x0FA80502], .vunion ⟨0, 31, 0⟩ .s32 20 21 22 5), ([0x0EE08400, 0x0F800003], .vthr ⟨0, 31, 0⟩ .f32 1 2),
    ([0x0EE18800, 0x0F800604], .vcmpr ⟨0, 31, 0⟩ .f32 3 4 6), ([0x0EE28600, 0x0F800105], .vexpd ⟨0, 31, 0⟩ .f32 5 3 1),
    ([0x0EE30800, 0x0F800706], .vnzidx ⟨0, 31, 0⟩ .f32 6 4 7), ([0x0F061A70, 0x0F940000], .vqnt ⟨0, 31, 0⟩ 12 13 14),
    ([0x0F079870, 0x0F800001], .vdqnt ⟨0, 31, 0⟩ 15 12 14), ([0x0F008400, 0x0F800002], .vamax ⟨0, 31, 0⟩ 1 2),
    ([0x0F018200, 0x0FB80003], .vbscl ⟨0, 31, 0⟩ 3 1)] :=
  ⟨rfl, rfl, rfl, rfl, rfl, rfl, rfl, rfl, rfl, rfl, rfl, rfl, rfl, rfl, rfl, rfl, rfl, rfl, rfl, rfl, rfl, rfl, rfl, rfl, rfl,
    rfl, rfl, trivial⟩
theorem decodes_MatrixStore : Decodes [
    ([0x0F40C030, 0x0F980000], .mma ⟨0, 31, 0⟩ .s8 0 3 12 0), ([0x0F4480A0, 0x0F940001], .mmas ⟨0, 31, 0⟩ .e2m1 1 2 40 0),
    ([0x0F4D001C, 0x0F881582], .mmag ⟨0, 31, 0⟩ .bf16 3 4 7 0 5 6), ([0x0F484101, 0x0F8C2403], .mmak ⟨0, 31, 0⟩ .e4m3 2 1 64 1 9),
    ([0x0F600000, 0x0F800000], .mlease ⟨0, 31, 0⟩), ([0x0F600000, 0x0F800001], .mrel ⟨0, 31, 0⟩),
    ([0x0F6080A0, 0x0F940402], .mldb ⟨0, 31, 0⟩ .e2m1 2 40 1), ([0x0F680000, 0x0F800003], .mzero ⟨0, 31, 0⟩ .f32 2),
    ([0x0F748000, 0x0F800004], .maccd ⟨0, 31, 0⟩ 5 2), ([0x0F69C000, 0x0F800005], .mrd ⟨0, 31, 0⟩ 2 7),
    ([0x0F65C000, 0x0F800006], .mwr ⟨0, 31, 0⟩ .f32 1 7), ([0x0F680000, 0x0F800007], .mchk ⟨0, 31, 0⟩ 2),
    ([0x0F8A0000, 0x0F800400], .escale ⟨0, 31, 0⟩ 2 8 1), ([0x0F8A4000, 0x0F800401], .ebias ⟨0, 31, 0⟩ 2 9 1),
    ([0x0F880000, 0x0F800002], .erelu ⟨0, 31, 0⟩ 2), ([0x0F8C0000, 0x0F800003], .esig ⟨0, 31, 0⟩ 3),
    ([0x0F8C0000, 0x0F800004], .esilu ⟨0, 31, 0⟩ 3), ([0x0F88C000, 0x0F800005], .emul ⟨0, 31, 0⟩ 2 3),
    ([0x0F88C000, 0x0F800006], .eadd ⟨0, 31, 0⟩ 2 3), ([0x0F880000, 0x0F8C0407], .econv ⟨0, 31, 0⟩ .e4m3 2 1),
    ([0x0FA03200, 0x0F800000], .swb ⟨0, 31, 0⟩ 3 4 0 0), ([0x0FA43000, 0x0F8C0001], .swbacc ⟨0, 31, 0⟩ .e4m3 4 3 0),
    ([0x0FA43014, 0x0F8C0002], .swbnm ⟨0, 31, 0⟩ .e4m3 4 3 5 0), ([0x0FA43000, 0x0F840603], .swbz ⟨0, 31, 0⟩ .f16 4 3 6),
    ([0x0FA60000, 0x0F800004], .sckstat ⟨0, 31, 0⟩ 6)] :=
  ⟨rfl, rfl, rfl, rfl, rfl, rfl, rfl, rfl, rfl, rfl, rfl, rfl, rfl, rfl, rfl, rfl, rfl, rfl, rfl, rfl, rfl, rfl, rfl, rfl, rfl,
    trivial⟩

/-! ## Terms that are not well-formed: one for each check -/

theorem illFormed_refused : ∀ i ∈ ([
    .dieSelfTestDone 4, .keyinstall 8 0 0, .keyinstall 0 2 0, .dierstWrite 9 0, .glitchAlarm 5, .hbmSelfRefresh 8, .shellGate 12,
    .kickWrite 0 128 0, .dispatchTurn 96, .preemptSave 0 4, .markerRetire ⟨96, 0, .a⟩, .teNop 64,
    .blockHeader 0 0 1 false, .jump 0 24 0, .cmpEq 0 24 0 0, .cmpiEq ⟨0, 25, 0⟩ 0 0 0, .cmpiEq ⟨0, 31, 7⟩ 0 0 0, .pand 0 0 24 0,
    .ppop 0 0 24, .sel ⟨0, 31, 0⟩ 0 0 0 24, .rdc ⟨0, 31, 0⟩ 1 0x00E,
    .loopn ⟨0, 31, 0⟩ 0 7 1, .loopn ⟨0, 31, 0⟩ 0 0 1, .lstride ⟨0, 31, 0⟩ 0 0 7 0 0, .loopgo ⟨0, 31, 0⟩ 0, .post 0 16 1, .await 0 0 0,
    .dsync 0 5, .mon ⟨0, 31, 0⟩ 0 5 0, .stgrd ⟨0, 31, 0⟩ 0 2,
    .ld ⟨0, 31, 0⟩ .l 6 .weak .core 0 0 0, .ld ⟨0, 31, 0⟩ .g 7 .weak .core 0 0 0, .ld ⟨0, 31, 0⟩ .g 6 .release .core 0 0 0,
    .ld ⟨0, 31, 0⟩ .g 6 .strong .die 0 0 0,
    .st ⟨0, 31, 0⟩ .g 1 .weak .core 0 0 0, .st ⟨0, 31, 0⟩ .g 6 .acquire .core 0 0 0, .amoAdd ⟨0, 31, 0⟩ true .g .weak .core 0 0 0 0,
    .ldx ⟨0, 31, 0⟩ 0 0 24 0, .copyin ⟨0, 31, 0⟩ 0 0 3 0 0, .scatadd ⟨0, 31, 0⟩ .f16 0 0 0 0 0 0,
    .rngtk ⟨0, 31, 0⟩ 5 0 0, .qpush ⟨0, 31, 0⟩ 0 8, .qpopp ⟨0, 31, 0⟩ 24 0, .vaddF ⟨0, 31, 0⟩ .s32 0 0 0, .vaddI ⟨0, 31, 0⟩ .f32 0 0 0,
    .vcmpEq ⟨0, 31, 0⟩ .f32 0 0 0 1, .vcmpEq ⟨0, 31, 0⟩ .f32 24 0 0 0, .vclass ⟨0, 31, 0⟩ .n8 0 0 0 0,
    .cvtRne ⟨0, 31, 0⟩ .s64 .f32 0 0 0, .cvtRne ⟨0, 31, 0⟩ .f16 .f32 0 0 2, .vpack ⟨0, 31, 0⟩ .f32 .f32 0 0 0,
    .vunpack ⟨0, 31, 0⟩ .f32 .f16 1 0, .vexp2 ⟨0, 31, 0⟩ .e4m3 0 0, .vlane ⟨0, 0, 0⟩ 0 0 0, .vredadd ⟨0, 31, 0⟩ .s8 0 0,
    .vsel ⟨0, 31, 0⟩ 0 0 0 24,
    .vld ⟨0, 31, 0⟩ .g .e2m1 0 0 0, .vldb ⟨0, 31, 0⟩ 63 0 0 2, .vldb ⟨0, 31, 0⟩ 0 0 0 0, .vmrg ⟨0, 31, 0⟩ .f16 0 0 0 0,
    .vthr ⟨0, 31, 0⟩ .e2m1 0 0, .vcmpr ⟨0, 0, 0⟩ .f32 0 0 0, .vqnt ⟨0, 0, 0⟩ 0 0 0,
    .mma ⟨0, 31, 0⟩ .f32 0 0 0 0, .mma ⟨0, 31, 0⟩ .s8 0 0 0 2, .mmas ⟨0, 31, 0⟩ .e2m1 0 0 4095 0, .mldb ⟨0, 31, 0⟩ .s8 0 0 3,
    .mzero ⟨0, 31, 0⟩ .f16 0, .maccd ⟨0, 31, 0⟩ 0 8, .escale ⟨0, 31, 0⟩ 0 1 3, .escale ⟨0, 31, 0⟩ 0 0 4, .ebias ⟨0, 31, 0⟩ 0 0 2,
    .econv ⟨0, 31, 0⟩ .f32 0 2, .econv ⟨0, 31, 0⟩ .s16 0 0, .swb ⟨0, 31, 0⟩ 0 0 1 0, .swbnm ⟨0, 31, 0⟩ .f32 0 0 0 0,
    .swbz ⟨0, 31, 0⟩ .n32 0 0 0] : List Instr), i.wf = false := by decide +kernel

/-! ## Words that are not instructions (R288, R289, the table of spec/13) -/

theorem rejected_words : decode [0x1C05_3006#32] = .error .truncated ∧ decode [0x0465_3006#32, 0x0F80_0000#32] = .error .wrongWidth ∧
    decode [0x0063_2151#32] = .error .reservedFunction ∧ decode [0x0C05_3006#32, 0x1FC8_0010#32] = .error .tailNibble ∧
    decode [0x0063_204D#32] = .error .unusedField ∧ decode [0x03E0_0000#32] = .error .reservedMajor := ⟨rfl, rfl, rfl, rfl, rfl, rfl⟩

/-! ## One step: the worked examples of spec/16 (R342, R346 to R348) and rules beside them -/

/-- An x register after an instruction at the state w with x1 and x2 given. -/
def x3 (f : State → Out) (a b : W64) : W64 := (after (f (wx .a [(1, a), (2, b)])) (w .a)).x 3
theorem test_divS : x3 (exec (.divS 0 3 1 2)) (-7) 2 = -3 ∧ x3 (exec (.remS 0 3 1 2)) (-7) 2 = -1 := by decide +kernel
theorem test_divN_zero : x3 (exec (.divN 0 3 1 2)) 7 0 = 0xFFFF_FFFF_FFFF_FFFF ∧ x3 (exec (.remN 0 3 1 2)) 7 0 = 7 := by decide +kernel
theorem test_divWN_zero : x3 (exec (.divWN 0 3 1 2)) 0x0000_0001_8000_0004 0 = 0xFFFF_FFFF_FFFF_FFFF ∧
    x3 (exec (.remWN 0 3 1 2)) 0x0000_0001_8000_0004 0 = 0xFFFF_FFFF_8000_0004 := by decide +kernel
theorem test_divWS_overflow : x3 (exec (.divWS 0 3 1 2)) 0x8000_0000 0xFFFF_FFFF = 0xFFFF_FFFF_8000_0000 := by decide +kernel
/-- div.s of 12 by 0 with TRAPEN.DIVZ traps to 64 times its code beyond the table of TVEC, with EVAL 12. -/
theorem test_divz_trap : let t := after (exec (.divS 0 3 1 2) ((wx .a [(1, 12)]).modMy fun t => { t with c := { t.c with trapen := 1, tvec := 0x8001 } })) (w .a)
    t.my.c.tl = 1 ∧ t.my.c.eval1 = 12 ∧ t.me.pc = 0x80C0 := by decide +kernel
theorem test_add_wraps : x3 (exec (.add 0 3 1 2)) 0xFFFF_FFFF_FFFF_FFFF 1 = 0 ∧ x3 (exec (.addW 0 3 1 2)) 0x7FFF_FFFF 1 = 0xFFFF_FFFF_8000_0000 := by
  decide +kernel
theorem test_shift_count : x3 (exec (.sll 0 3 1 2)) 1 65 = 2 ∧ x3 (exec (.sra 0 3 1 2)) 0x8000_0000_0000_0000 63 = 0xFFFF_FFFF_FFFF_FFFF := by decide +kernel
theorem test_x0 : (after (exec (.addi 0 0 0 5) (w .a)) (w .a)).x 0 = 0 ∧ (after (exec (.addi 0 4 4 0x7FF) (w .a)) (w .a)).x 4 = 0xFFFF_FFFF_FFFF_FFFF := by
  decide +kernel
theorem test_lih_keeps_low : x3 (exec (.lih 0 3 5)) 0 0 = 0x0000_0005_0000_0000 ∧ x3 (exec (.liw 0 3 0x8000_0000)) 0 0 = 0xFFFF_FFFF_8000_0000 := by
  decide +kernel
theorem test_cmp_signs : (after (exec (.cmpLtS 0 2 1 2) (wx .a [(1, -1), (2, 1)])) (w .a)).p 2 = 0xFFFF_FFFF_FFFF_FFFF ∧
    (after (exec (.cmpLtN 0 2 1 2) (wx .a [(1, -1), (2, 1)])) (w .a)).p 2 = 0 := by decide +kernel
theorem test_nop_advances : (after (exec (.nop 0) (w .a)) (w .a)).blk.map (·.words) = some [0x005FC000#32] := by decide +kernel

end Sys2Proof.Tests
end

section
/-! SUPPORT. The links an access crosses: a flit sent and a rollover begun change the links and the root's count of keys drawn alone
(R34 to R37). -/

namespace Sys2Proof.Machine

/-- At most the links, and how many values have been drawn for their keys, differ. -/
def LinksOnly (s t : State) : Prop := t = { s with links := t.links, free := t.free }

theorem LinksOnly.refl (s : State) : LinksOnly s s := rfl
theorem LinksOnly.trans {s t u : State} (h : LinksOnly s t) (h' : LinksOnly t u) : LinksOnly s u := by
  unfold LinksOnly at *
  rw [h', h]
theorem LinksOnly.mem {s t : State} (h : LinksOnly s t) : t.mem = s.mem := by rw [h]
theorem LinksOnly.replies {s t : State} (h : LinksOnly s t) : t.replies = s.replies := by rw [h]
theorem LinksOnly.pkg {s t : State} (h : LinksOnly s t) : t.pkg = s.pkg := by rw [h]
theorem LinksOnly.tasks {s t : State} (h : LinksOnly s t) : t.tasks = s.tasks := by rw [h]
theorem LinksOnly.jobs {s t : State} (h : LinksOnly s t) : t.jobs = s.jobs := by rw [h]
theorem LinksOnly.foldl {α : Type} {f : State → α → State} (h : ∀ s a, LinksOnly s (f s a)) (l : List α) (s : State) :
    LinksOnly s (l.foldl f s) :=
  List.foldlRecOn l f (.refl s) fun t ht a _ => ht.trans (h t a)

theorem linksOnly_modLink (s : State) (l : Nat) (f : Link → Link) : LinksOnly s (s.modLink l f) := by
  unfold State.modLink
  split <;> rfl
theorem linksOnly_rollDue (s : State) (l dir : Nat) : LinksOnly s (s.rollDue l dir) :=
  (linksOnly_modLink s l _).trans rfl
theorem linksOnly_rollsDue (s : State) : LinksOnly s s.rollsDue := .foldl (fun s i => linksOnly_rollDue s (i / 2) (i % 2)) _ s
theorem linksOnly_sendFlit (s : State) (l dir : Nat) (f : LinkDir → LinkDir) : LinksOnly s (s.sendFlit l dir f) :=
  (linksOnly_modLink s l _).trans (linksOnly_rollDue _ l dir)
theorem linksOnly_sendFlits (s : State) (l dir n : Nat) : LinksOnly s (s.sendFlits l dir n) := by
  induction n generalizing s with
  | zero => exact .refl s
  | succ n ih => exact (linksOnly_sendFlit s l dir id).trans (ih _)
theorem linksOnly_travel (s : State) (a b n : Nat) : LinksOnly s (travel s a b n) := by
  unfold travel
  split
  · exact .refl s
  · split
    · exact .refl s
    · exact .foldl (fun s (h : Nat × Nat) => linksOnly_sendFlits s h.1 h.2 _) _ s

end Sys2Proof.Machine
end

section
/-! SUPPORT. A read at its home: errors met on the way, lines that move between HBM and the L2 and their coding change no byte of memory
and no answer to the host (R160, R212, R213, R255). -/

namespace Sys2Proof.Machine

/-- At most what the L2 holds and how it is coded, the errors, poison and counts of protected words, and the stacks that are awake
differ. -/
def HomeOnly (s t : State) : Prop :=
  t = { s with
    pkg := t.pkg, soft := t.soft, poison := t.poison, msix := t.msix, tasks := t.tasks, jobs := t.jobs, l2 := t.l2, blkMeta := t.blkMeta }

theorem HomeOnly.refl (s : State) : HomeOnly s s := rfl
theorem HomeOnly.trans {s t u : State} (h : HomeOnly s t) (h' : HomeOnly t u) : HomeOnly s u := by
  unfold HomeOnly at *
  rw [h', h]
theorem HomeOnly.mem {s t : State} (h : HomeOnly s t) : t.mem = s.mem := by rw [h]
theorem HomeOnly.replies {s t : State} (h : HomeOnly s t) : t.replies = s.replies := by rw [h]
theorem HomeOnly.ite {s t u : State} {c : Prop} [Decidable c] (ht : HomeOnly s t) (hu : HomeOnly s u) : HomeOnly s (if c then t else u) := by
  split
  · exact ht
  · exact hu
theorem HomeOnly.foldl {α : Type} {f : State → α → State} (h : ∀ s a, HomeOnly s (f s a)) (l : List α) (s : State) :
    HomeOnly s (l.foldl f s) :=
  List.foldlRecOn l f (.refl s) fun t ht a _ => ht.trans (h t a)

theorem homeOnly_touchHbm (s : State) (k : Nat) : HomeOnly s (touchHbm s k) := by
  unfold touchHbm
  exact .ite rfl rfl

/-! ## Protected words (R255) -/

theorem homeOnly_eccWord (s : State) (k : Nat) : HomeOnly s (eccWord s k) := by
  unfold eccWord
  extract_lets w ks n clear _ _ piece s₁ _
  have h₁ : HomeOnly s s₁ := .ite rfl (.ite rfl rfl)
  exact .ite rfl (.ite rfl (h₁.trans rfl))
theorem homeOnly_eccRead (s : State) (k n : Nat) : HomeOnly s (eccRead s k n) := by
  unfold eccRead
  exact .ite rfl (.foldl (fun s i => homeOnly_eccWord s (4 * i)) _ s)
theorem homeOnly_eccWrite (s : State) (k n : Nat) : HomeOnly s (eccWrite s k n) := by
  unfold eccWrite
  refine .ite rfl (HomeOnly.trans ?_ (homeOnly_eccRead _ k n))
  rfl

/-! ## Lines of the L2 (R160) -/

theorem homeOnly_readHbm (s : State) (line : Nat) : HomeOnly s (readHbm s line) := by
  unfold readHbm
  extract_lets v s₁ ps
  have h₁ : HomeOnly s s₁ := (homeOnly_touchHbm s _).trans (homeOnly_eccRead _ _ _)
  exact .ite rfl (.ite (h₁.trans rfl) h₁)
theorem homeOnly_fetchLine (s : State) (line : Nat) : HomeOnly s (fetchLine s line) := (homeOnly_readHbm s line).trans rfl
theorem homeOnly_writeBack (s : State) (line : Nat) : HomeOnly s (writeBack s line) := by
  unfold writeBack
  extract_lets d s₁ s₂
  have h₁ : HomeOnly s s₁ := .ite rfl (homeOnly_eccRead _ _ _)
  have h₂ : HomeOnly s₁ s₂ := by
    refine .foldl (fun s i => ?_) _ s₁
    exact .ite rfl (.ite (homeOnly_eccWrite s _ 8) (homeOnly_eccRead s _ 8))
  exact .ite rfl ((h₁.trans h₂).trans rfl)
theorem homeOnly_evictLine (s : State) (line : Nat) : HomeOnly s (evictLine s line) := by
  unfold evictLine
  extract_lets st gone s₀ s₁ s₂ s₃
  have h₀ : HomeOnly s s₀ := .foldl homeOnly_readHbm gone s
  have h₁ : HomeOnly s s₁ := .ite (h₀.trans rfl) rfl
  have h₂ : HomeOnly s₁ s₂ := .ite (homeOnly_touchHbm _ _) rfl
  have h₃ : HomeOnly s₂ s₃ := .foldl homeOnly_writeBack gone s₂
  exact ((h₁.trans h₂).trans h₃).trans rfl
theorem homeOnly_l2Alloc (s : State) (line : Nat) : HomeOnly s (l2Alloc s line) := by
  unfold l2Alloc
  split
  · rfl
  · split
    · exact (homeOnly_evictLine s _).trans rfl
    · rfl

theorem homeOnly_homeFetch (s : State) (k n : Nat) : HomeOnly s (homeFetch s k n) := by
  unfold homeFetch
  refine .ite (((homeOnly_touchHbm s k).trans (.foldl (fun s l => ?_) _ _)).trans (homeOnly_eccRead _ _ _)) (homeOnly_eccRead _ _ _)
  exact .ite (homeOnly_l2Alloc s l) ((homeOnly_l2Alloc s l).trans (homeOnly_fetchLine _ l))
theorem homeOnly_homeAlloc (s : State) (k n : Nat) : HomeOnly s (homeAlloc s k n) := by
  unfold homeAlloc
  refine .ite (((homeOnly_touchHbm s k).trans (.foldl (fun s l => ?_) _ _)).trans (homeOnly_eccWrite _ _ _)) (homeOnly_eccWrite _ _ _)
  exact (homeOnly_l2Alloc s l).trans rfl

end Sys2Proof.Machine
end

section
/-! SUPPORT. A write at its home for an agent without a task: it writes its own bytes and no other (R170, R258). -/

namespace Sys2Proof.Machine

theorem tget_writeKeys_within : ∀ (bs : List Byte) (m : List Host.Cell) (k i : Nat), i < bs.length →
    tget 0 (writeKeys m k bs) (k + i) = bs.getD i 0
  | b :: bs, m, k, 0, _ => by
    rw [writeKeys, List.getD_cons_zero]
    exact (tget_writeKeys_below bs _ (k + 1) k (Nat.lt_succ_self k)).trans (tget_tput_self 0 m k b)
  | b :: bs, m, k, i + 1, h => by
    rw [writeKeys, show k + (i + 1) = k + 1 + i by omega, tget_writeKeys_within bs _ (k + 1) i (by simpa using h), List.getD_cons_succ]

/-- A byte inside a write reads as written. -/
theorem byte_write_within (s : State) (k : Nat) (bs : List Byte) (i : Nat) (h : i < bs.length) :
    (s.write k bs).byte (k + i) = bs.getD i 0 := tget_writeKeys_within bs s.mem k i h

@[simp] theorem wroteAt_mem (s : State) (key : Option Nat) (virt : Option (Nat × Nat)) (cnt : Nat) (only : Option Nat) :
    (wroteAt s key virt cnt only).mem = s.mem := by
  unfold wroteAt
  split <;> rfl
@[simp] theorem wroteAt_replies (s : State) (key : Option Nat) (virt : Option (Nat × Nat)) (cnt : Nat) (only : Option Nat) :
    (wroteAt s key virt cnt only).replies = s.replies := by
  unfold wroteAt
  split <;> rfl
@[simp] theorem watch_mem (s : State) (lines : List Nat) : (watch s lines).mem = s.mem := rfl
@[simp] theorem watch_replies (s : State) (lines : List Nat) : (watch s lines).replies = s.replies := rfl
@[simp] theorem mediaWrote_mem (s : State) (k n : Nat) : (mediaWrote s k n).mem = s.mem := by
  unfold mediaWrote
  extract_lets hit
  split <;> rfl
@[simp] theorem mediaWrote_replies (s : State) (k n : Nat) : (mediaWrote s k n).replies = s.replies := by
  unfold mediaWrote
  extract_lets hit
  split <;> rfl

theorem plainWrite_mem (s : State) (virt : Option (Nat × Nat)) (k : Nat) (bs : List Byte) :
    (plainWrite s virt k bs).mem = (s.write k bs).mem := by
  simp [plainWrite, State.write, (homeOnly_homeAlloc s k bs.length).mem]
theorem plainWrite_replies (s : State) (virt : Option (Nat × Nat)) (k : Nat) (bs : List Byte) :
    (plainWrite s virt k bs).replies = s.replies := by
  simp [plainWrite, State.write, (homeOnly_homeAlloc s k bs.length).replies]

/-- Keys below the host bus are never a peer's. -/
theorem peerFails_below (s : State) {k : Nat} (n : Nat) (h : k < busKey 0) : peerFails s k n = false := by
  simp [peerFails, Nat.not_le.mpr h]

/-- An agent that acts for no task stages nothing. -/
theorem homeWrite_host (s : State) (c : Nat) (virt : Option (Nat × Nat)) {k : Nat} (bs : List Byte) (h : k < busKey 0) :
    homeWrite s (hostWho c) virt k bs = plainWrite (hide s (hostWho c) k bs.length) virt k bs := by
  simp only [homeWrite, peerFails_below s bs.length h, Bool.false_eq_true, if_false]
  rfl
theorem homeWrite_host_mem (s : State) (c : Nat) (virt : Option (Nat × Nat)) {k : Nat} (bs : List Byte) (h : k < busKey 0) :
    (homeWrite s (hostWho c) virt k bs).mem = (s.write k bs).mem := by
  rw [homeWrite_host s c virt bs h, plainWrite_mem]
  rfl
theorem homeWrite_host_replies (s : State) (c : Nat) (virt : Option (Nat × Nat)) {k : Nat} (bs : List Byte) (h : k < busKey 0) :
    (homeWrite s (hostWho c) virt k bs).replies = s.replies := by
  rw [homeWrite_host s c virt bs h, plainWrite_replies]
  rfl

end Sys2Proof.Machine
end

section
/-! SUPPORT. BAR4 (R46): what each kind of access through the aperture answers. -/

namespace Sys2Proof.Machine

/-! ## The aperture -/

/-- The physical window reaches a C-die, at an offset of 36 bits. -/
theorem aperture_phys {s : State} {fn off d p : Nat} (h : aperture s fn off = .phys d p) : d < 4 ∧ p < 2 ^ 36 := by
  unfold aperture at h
  extract_lets w f a c e at h
  split at h
  · split at h
    · obtain ⟨rfl, rfl⟩ := Aper.phys.inj h
      exact ⟨Nat.mod_lt _ (by decide), Nat.mod_lt _ (by decide)⟩
    · cases h
  · split at h
    · cases h
    · split at h <;> cases h
theorem hbmKey_below_bus {d p : Nat} (hd : d < 4) (hp : p < 2 ^ 36) : hbmKey d p < busKey 0 := by
  unfold hbmKey busKey
  omega

/-! ## Reads -/

section
variable {s u : State} {fn off n d p c a : Nat} (hfn : fn ≤ 8)
include hfn

theorem bar4Read_closed (h : winOpen s = false) :
    execBar4Read fn off n s = .next { s with replies := s.replies ++ [(fn, some (List.replicate n 0))] } := by
  simp [execBar4Read, Nat.not_lt.mpr hfn, h]
theorem bar4Read_bad (h : winOpen s = true) (ha : aperture s fn off = .bad) :
    execBar4Read fn off n s = .next { apErr s fn with replies := (apErr s fn).replies ++ [(fn, none)] } := by
  simp [execBar4Read, Nat.not_lt.mpr hfn, h, ha]
theorem bar4Read_unreached (h : winOpen s = true) (ha : aperture s fn off = .phys d p) (hr : reaches s 4 d n = false) :
    execBar4Read fn off n s = .next s := by
  simp [execBar4Read, Nat.not_lt.mpr hfn, h, ha, hr]
theorem bar4Read_phys (h : winOpen s = true) (ha : aperture s fn off = .phys d p) (hr : reaches s 4 d n = true) (hp : p + n ≤ hbmBytes)
    (hu : u = homeFetch (travel s 4 d n) (hbmKey d p) n) :
    execBar4Read fn off n s = .next { u with replies := u.replies ++ [(fn, some (u.read (hbmKey d p) n))] } := by
  simp [execBar4Read, Nat.not_lt.mpr hfn, h, ha, hr, hp, hu]
theorem bar4Read_virt {bs : List Byte} (h : winOpen s = true) (ha : aperture s fn off = .virt c a)
    (hr : readPieces (hostWho c) (cutPages a n) s = .ok bs u) :
    execBar4Read fn off n s = .next { u with replies := u.replies ++ [(fn, some bs)] } := by
  simp [execBar4Read, Nat.not_lt.mpr hfn, h, ha, hr]
end

/-! ## Writes -/

theorem bar4Write_held {s : State} (fn off : Nat) (data : List Byte) (h : pkgHeld s = true) : execBar4Write fn off data s = .next s := by
  simp [execBar4Write, h]
theorem bar4Write_unreached {s : State} {fn off d p : Nat} {data : List Byte} (ha : aperture s fn off = .phys d p)
    (hr : reaches s 4 d data.length = false) : execBar4Write fn off data s = .next s := by
  simp [execBar4Write, ha, hr]

section
variable {s u : State} {fn off d p c a : Nat} {data : List Byte} (hfn : fn ≤ 8)
include hfn

theorem bar4Write_bad (h : pkgHeld s = false) (ha : aperture s fn off = .bad) : execBar4Write fn off data s = .next (apErr s fn) := by
  simp [execBar4Write, Nat.not_lt.mpr hfn, h, ha]
theorem bar4Write_phys (h : pkgHeld s = false) (ha : aperture s fn off = .phys d p) (hr : reaches s 4 d data.length = true)
    (hp : p + data.length ≤ hbmBytes) :
    execBar4Write fn off data s = .next (homeWrite (travel s 4 d data.length) (hostWho 0) none (hbmKey d p) data) := by
  simp [execBar4Write, Nat.not_lt.mpr hfn, h, ha, hr, hp]
theorem bar4Write_virt (h : pkgHeld s = false) (ha : aperture s fn off = .virt c a)
    (hw : writePieces (hostWho c) (cutPages a data.length) data s = .ok () u) : execBar4Write fn off data s = .next u := by
  simp [execBar4Write, Nat.not_lt.mpr hfn, h, ha, hw]
end

/-! ## APERR -/

theorem fnAt_modFn_same (s : State) {fn : Nat} (g : Fn → Fn) (h : fn < 9) : fnAt (s.modFn fn g) fn = g (fnAt s fn) := by
  simp [fnAt, State.modFn, h]
theorem apErr_msix (s : State) (fn : Nat) : (apErr s fn).msix = s.msix ++ [(fn, 1)] := by simp [apErr, State.signalVec]
theorem apErr_mem (s : State) (fn : Nat) : (apErr s fn).mem = s.mem := by simp [apErr]
theorem apErr_crstat (s : State) {fn : Nat} (h : fn < 9) : (fnAt (apErr s fn) fn).crstat.getLsbD 1 = true := by
  have e : fnAt (apErr s fn) fn = { fnAt s fn with crstat := (fnAt s fn).crstat ||| 0x2 } := fnAt_modFn_same s _ h
  simp [e]

/-! ## Through the physical window -/

/-- R46: the bytes of HBM are answered, and memory stays. -/
theorem bar4Read_phys_replies {s : State} {off n d p : Nat} (h : winOpen s = true) (ha : aperture s 0 off = .phys d p)
    (hr : reaches s 4 d n = true) (hp : p + n ≤ hbmBytes) : ∃ t, exec (.bar4Read 0 off n) s = .next t ∧
      t.replies = s.replies ++ [(0, some (s.read (hbmKey d p) n))] ∧ t.mem = s.mem := by
  have hl : LinksOnly s (travel s 4 d n) := linksOnly_travel s 4 d n
  have hf := homeOnly_homeFetch (travel s 4 d n) (hbmKey d p) n
  obtain ⟨u, hu⟩ : ∃ u, u = homeFetch (travel s 4 d n) (hbmKey d p) n := ⟨_, rfl⟩
  rw [← hu] at hf
  have hmem : u.mem = s.mem := hf.mem.trans hl.mem
  have hrep : u.replies = s.replies := hf.replies.trans hl.replies
  rw [exec_bar4Read, bar4Read_phys (Nat.zero_le 8) h ha hr hp hu]
  refine ⟨_, rfl, ?_, hmem⟩
  rw [hrep, State.read, hmem, State.read]

/-- R46: the bytes of HBM become those written, and no other byte changes. -/
theorem bar4Write_phys_bytes {s : State} {off d p : Nat} {data : List Byte} (h : pkgHeld s = false) (ha : aperture s 0 off = .phys d p)
    (hr : reaches s 4 d data.length = true) (hp : p + data.length ≤ hbmBytes) : ∃ t, exec (.bar4Write 0 off data) s = .next t ∧
      (∀ i, i < data.length → t.byte (hbmKey d p + i) = data.getD i 0) ∧
      (∀ k, k < hbmKey d p ∨ hbmKey d p + data.length ≤ k → t.byte k = s.byte k) ∧ t.replies = s.replies := by
  obtain ⟨hd, hp36⟩ := aperture_phys ha
  have hbus : hbmKey d p < busKey 0 := hbmKey_below_bus hd hp36
  have hl : LinksOnly s (travel s 4 d data.length) := linksOnly_travel s 4 d data.length
  have hbyte (k : Nat) : (homeWrite (travel s 4 d data.length) (hostWho 0) none (hbmKey d p) data).byte k =
      (s.write (hbmKey d p) data).byte k := by
    rw [State.byte, homeWrite_host_mem _ 0 none data hbus, State.write, hl.mem, State.byte, State.write]
  rw [exec_bar4Write]
  refine ⟨_, bar4Write_phys (Nat.zero_le 8) h ha hr hp, ?_, ?_, ?_⟩
  · intro i hi
    rw [hbyte, byte_write_within s _ data i hi]
  · intro k hk
    rw [hbyte, byte_write_other s _ data k hk]
  · rw [homeWrite_host_replies _ 0 none data hbus, hl.replies]

/-- The clauses of R46, in the order of its statement; the bytes of a read do not depend on its premise that no word holds an error. -/
theorem apertureResults : Rule.ApertureResults :=
  ⟨fun _ _ _ _ hfn h => bar4Read_closed hfn h,
    fun _ fn off data h => bar4Write_held fn off data h,
    fun _ _ _ _ _ h ha hr hp _ => bar4Read_phys_replies h ha hr hp,
    fun _ _ _ _ _ h ha hr hp => bar4Write_phys_bytes h ha hr hp,
    fun _ _ _ _ _ _ _ hfn ha => ⟨fun h hr => bar4Read_unreached hfn h ha hr, fun hr => bar4Write_unreached ha hr⟩,
    fun _ _ _ _ _ _ _ _ hfn h ha hr => bar4Read_virt hfn h ha hr,
    fun _ _ _ _ _ _ _ hfn h ha hw => bar4Write_virt hfn h ha hw,
    fun _ _ _ _ _ hfn ha => ⟨fun h => bar4Read_bad hfn h ha, fun h => bar4Write_bad hfn h ha⟩,
    fun s fn hfn => ⟨apErr_msix s fn, apErr_crstat s (Nat.lt_succ_of_le hfn), apErr_mem s fn⟩⟩

end Sys2Proof.Machine
end

section
/-! SUPPORT. Host writes of registers with no behaviour of their own (R3, R4, R21, R22, R47 to R49): which function writes which register,
and what a read answers afterwards. -/

namespace Sys2Proof.Machine

theorem bits_toNat (v : W64) (lo w : Nat) : bits v.toNat lo w = (v.extractLsb' lo w).toNat := by
  rw [bits, BitVec.extractLsb'_toNat, Nat.shiftRight_eq_div_pow]
theorem ofNat_toNat_W64 (v : W64) : BitVec.ofNat 64 v.toNat = v := (BitVec.ofNat_toNat 64 v).trans (BitVec.setWidth_eq v)

/-! ## One access and the group of its register -/

section
variable {s : State} {fn off : Nat} (v : W64) (hfn : fn ≤ 8)

theorem registerWrite_pkg (h : off < 0x1000) : execRegisterWrite 0 0 off v s = .next (pkgWrite off v s) := by
  simp [execRegisterWrite, h]
theorem registerWrite_pf (h : 0x1040 < off) (h' : off ≠ 0x10D8) : execRegisterWrite 0 0 off v s = .next (pfWrite off v s) := by
  simp [execRegisterWrite, show ¬ off < 0x1000 by omega, Nat.not_le.mpr h, h']
include hfn in
theorem registerWrite_fn (h : 0x1000 ≤ off) (h' : off ≤ 0x1040 ∨ off = 0x10D8) :
    execRegisterWrite fn 0 off v s = .next (fnWrite fn off v s) := by
  simp [execRegisterWrite, Nat.not_lt.mpr hfn, Nat.not_lt.mpr h, h']

/-- R3: the registers of the package and of the PF take no write of another function. -/
theorem registerWrite_other (h : fn ≠ 0) (h' : off < 0x1000 ∨ (0x1040 < off ∧ off ≠ 0x10D8)) :
    execRegisterWrite fn 0 off v s = .next s := by
  simp only [execRegisterWrite, h, if_false, show ¬ (0 = 2) by decide, ne_eq, not_true_eq_false]
  rcases h' with h' | ⟨h₁, h₂⟩
  · simp [h']
  · simp [Nat.not_le.mpr h₁, h₂]

theorem registerWrite_stream (fn i off : Nat) (s : State) (hfn : fn ≤ 8) (h : off < 64) :
    execRegisterWrite fn 2 (64 * i + off) v s = .next (streamWrite fn i off v s) := by
  simp [execRegisterWrite, Nat.not_lt.mpr hfn, show (64 * i + off) / 64 = i by omega, show (64 * i + off) % 64 = off by omega]
/-- A stream's registers take no write of a function that may not use it, nor in a hold of the package (R20). -/
theorem streamWrite_dropped (fn i off : Nat) (s : State) (h : mayUse s fn i = false ∨ pkgHeld s = true) : streamWrite fn i off v s = s := by
  rcases h with h | h <;> simp [streamWrite, h]
theorem registerWrite_stream_dropped (fn i off : Nat) (s : State) (ho : off < 64) (h : mayUse s fn i = false ∨ pkgHeld s = true) :
    execRegisterWrite fn 2 (64 * i + off) v s = .next s := by
  by_cases hfn : fn ≤ 8
  · rw [registerWrite_stream v fn i off s hfn ho, streamWrite_dropped v fn i off s h]
  · simp [execRegisterWrite, Nat.lt_of_not_le hfn]

theorem hostRead_pkg (h : off < 0x1000) : hostRead s 0 0 off = BitVec.ofNat 64 (pkgRead s 0 off) := by
  simp [hostRead, h]
theorem hostRead_pf (h : 0x1040 < off) (h' : off ≠ 0x10D8) : hostRead s 0 0 off = BitVec.ofNat 64 (pfRead s off) := by
  simp [hostRead, show ¬ off < 0x1000 by omega, Nat.not_le.mpr h, h']
include hfn in
theorem hostRead_fn (h : 0x1000 ≤ off) (h' : off ≤ 0x1040 ∨ off = 0x10D8) : hostRead s fn 0 off = BitVec.ofNat 64 (fnRead s fn off) := by
  simp [hostRead, Nat.not_lt.mpr hfn, Nat.not_lt.mpr h, h']
include hfn in
theorem hostRead_stream {i : Nat} (h : winOpen s = true) : hostRead s fn 2 (64 * i) = BitVec.ofNat 64 (streamRead s fn i 0) := by
  simp [hostRead, Nat.not_lt.mpr hfn, h]
end

/-! ## A register that is stored -/

/-- A host write leaves a register reading as a value, and memory, resident tasks and queued ones as they are. -/
def HostStores (s : State) (v : W64) (fn bar off : Nat) (x : W64) : Prop := ∃ t, exec (.registerWrite fn bar off v) s = .next t ∧
  hostRead t fn bar off = x ∧ t.mem = s.mem ∧ t.tasks = s.tasks ∧ t.jobs = s.jobs

section
variable {s t : State} {v x : W64} {fn off : Nat}

theorem HostStores.of_pkg (ho : off < 0x1000) (hw : pkgWrite off v s = t) (hr : BitVec.ofNat 64 (pkgRead t 0 off) = x)
    (hk : t.mem = s.mem ∧ t.tasks = s.tasks ∧ t.jobs = s.jobs) : HostStores s v 0 0 off x :=
  ⟨t, hw ▸ registerWrite_pkg v ho, (hostRead_pkg ho).trans hr, hk⟩
theorem HostStores.of_pf (ho : 0x1040 < off) (ho' : off ≠ 0x10D8) (hw : pfWrite off v s = t) (hr : BitVec.ofNat 64 (pfRead t off) = x)
    (hk : t.mem = s.mem ∧ t.tasks = s.tasks ∧ t.jobs = s.jobs) : HostStores s v 0 0 off x :=
  ⟨t, hw ▸ registerWrite_pf v ho ho', (hostRead_pf ho ho').trans hr, hk⟩

/-- A launch register of a function (R47): the write puts `put` of the function's registers, and the read takes the new value of them. -/
theorem HostStores.of_fn (put : Fn → Fn) (get : Fn → W64) (hfn : fn ≤ 8) (ho : 0x1000 ≤ off) (ho' : off ≤ 0x1040 ∨ off = 0x10D8)
    (hw : fnWrite fn off v s = s.modFn fn put) (hr : ∀ t, fnRead t fn off = (get (fnAt t fn)).toNat) (hx : ∀ f, get (put f) = x) :
    HostStores s v fn 0 off x := by
  refine ⟨s.modFn fn put, hw ▸ registerWrite_fn v hfn ho ho', ?_, modFn_mem s fn put, modFn_tasks s fn put, modFn_jobs s fn put⟩
  rw [hostRead_fn hfn ho ho', hr, fnAt_modFn_same s put (Nat.lt_succ_of_le hfn), hx, ofNat_toNat_W64]
end

/-! ## Each register -/

section
variable (s : State) (v : W64)

theorem stores_pwrlim : HostStores s v 0 0 0x10 (BitVec.ofNat 64 (max 150 (min 600 (v.extractLsb' 0 16).toNat))) :=
  .of_pkg (by decide) rfl (congrArg _ (congrArg (clamp 150 600) (bits_toNat v 0 16))) ⟨rfl, rfl, rfl⟩
theorem stores_thresholds : HostStores s v 0 0 0x38
    (BitVec.ofNat 64 (max 60 (min 100 (v.extractLsb' 0 8).toNat) + max 60 (min 85 (v.extractLsb' 16 8).toNat) * 2 ^ 16)) := by
  refine .of_pkg (by decide) rfl ?_ ⟨rfl, rfl, rfl⟩
  rw [← bits_toNat, ← bits_toNat]
  rfl
/-- The rollovers that a new ROLLCTL makes due leave the register itself (R37). -/
theorem stores_rollctl : HostStores s v 0 0 0x60 (BitVec.ofNat 64 (max 1 (v.extractLsb' 0 8).toNat)) := by
  have h := linksOnly_rollsDue { s with pkg := { s.pkg with rollctl := max 1 (bits v.toNat 0 8) } }
  refine .of_pkg (by decide) rfl ?_ ⟨h.mem, h.tasks, h.jobs⟩
  rw [← bits_toNat]
  exact congrArg (fun p : Pkg => BitVec.ofNat 64 p.rollctl) h.pkg
theorem stores_scrubHours : HostStores s v 0 0 0x90 (BitVec.ofNat 64 (max 1 (v.extractLsb' 0 8).toNat)) :=
  .of_pkg (by decide) rfl (congrArg _ (congrArg (max 1) (bits_toNat v 0 8))) ⟨rfl, rfl, rfl⟩
theorem stores_snapSel : HostStores s v 0 0 0xB8 (v &&& 0xF_FFFF) :=
  .of_pkg (by decide) rfl (ofNat_toNat_W64 _) ⟨rfl, rfl, rfl⟩

/-- The launch registers of one function (R47). -/
theorem stores_launch (fn : Nat) (hfn : fn ≤ 8) : HostStores s v fn 0 0x1000 (v &&& 0xFF) ∧
    HostStores s v fn 0 0x1008 (v &&& 0xFFFF_FFFF_FFFF_F000) ∧
    HostStores s v fn 0 0x1030 (BitVec.ofNat 64 (max 1 (v.extractLsb' 0 16).toNat + (v.extractLsb' 16 16).toNat * 2 ^ 16)) ∧
    HostStores s v fn 0 0x1038 (v &&& 0x0000_FFFF_FFFF_F000) ∧ HostStores s v fn 0 0x10D8 (v &&& 0x8FFF) := by
  refine ⟨.of_fn (fun f => { f with apbase := v &&& 0xFF }) Fn.apbase hfn (by decide) (by decide) rfl (fun _ => rfl) fun _ => rfl,
    .of_fn (fun f => { f with crbase := v &&& 0xFFFF_FFFF_FFFF_F000 }) Fn.crbase hfn (by decide) (by decide) rfl (fun _ => rfl) fun _ => rfl,
    .of_fn (fun f => { f with crirq := BitVec.ofNat 64 (max 1 (bits v.toNat 0 16) + bits v.toNat 16 16 * 2 ^ 16) }) Fn.crirq
      hfn (by decide) (by decide) rfl (fun _ => rfl) fun _ => ?_,
    .of_fn (fun f => { f with armbase := v &&& 0x0000_FFFF_FFFF_F000 }) Fn.armbase hfn (by decide) (by decide) rfl (fun _ => rfl) fun _ => rfl,
    .of_fn (fun f => { f with apctx := v &&& 0x8FFF }) Fn.apctx hfn (by decide) (by decide) rfl (fun _ => rfl) fun _ => rfl⟩
  rw [← bits_toNat, ← bits_toNat]

/-! The PF's registers of memory and save frames (R47, R163, R164, R266). -/

theorem stores_ctxtbl : HostStores s v 0 0 0x1058 (v &&& 0xF_FFFC_0000) :=
  .of_pf (by decide) (by decide) rfl (ofNat_toNat_W64 _) ⟨rfl, rfl, rfl⟩
theorem stores_physwin : HostStores s v 0 0 0x1060 (v &&& 7) :=
  .of_pf (by decide) (by decide) rfl (ofNat_toNat_W64 _) ⟨rfl, rfl, rfl⟩
theorem stores_fqbase : HostStores s v 0 0 0x1068 (v &&& 0xFFFF_FFFF_FFFF_F000) :=
  .of_pf (by decide) (by decide) rfl (ofNat_toNat_W64 _) ⟨rfl, rfl, rfl⟩
theorem stores_svcnt : HostStores s v 0 0 0x10D0 (v &&& 0xFFF) :=
  .of_pf (by decide) (by decide) rfl (ofNat_toNat_W64 _) ⟨rfl, rfl, rfl⟩

/-- An even offset of the CTXMAP block lies in no other block of registers. -/
theorem pfWrite_ctxmap {off : Nat} (lo : 0x1500 ≤ off) (hi : off < 0x1600) (even : off % 2 = 0) :
    pfWrite off v s = { s with ctxmap := tput 0 s.ctxmap ((off - 0x1500) / 2) (v &&& 0x8FFF) } := by
  have hne : ∀ n, n < 0x1500 → off ≠ n := fun n hn => by omega
  have hle : ∀ n, n < 0x1500 → ¬ off ≤ n := fun n hn => by omega
  have hlt : ∀ n, n ≤ 0x1500 → ¬ off < n := fun n hn => by omega
  simp [pfWrite, hne, hle, hlt, lo, hi, even]
theorem pfRead_ctxmap {off : Nat} (lo : 0x1500 ≤ off) (hi : off < 0x1600) :
    pfRead s off = (tget 0 s.ctxmap ((off - 0x1500) / 2)).toNat := by
  have hne : ∀ n, n < 0x1500 → off ≠ n := fun n hn => by omega
  have hle : ∀ n, n < 0x1500 → ¬ off ≤ n := fun n hn => by omega
  have hlt : ∀ n, n ≤ 0x1500 → ¬ off < n := fun n hn => by omega
  simp [pfRead, hne, hle, hlt, lo, hi]
/-- CTXMAP of a stream (R164). -/
theorem stores_ctxmap {i : Nat} (hi : i < 128) : HostStores s v 0 0 (0x1500 + 2 * i) (v &&& 0x8FFF) := by
  have hoff : 0x1500 + 2 * i < 0x1600 := by omega
  refine .of_pf (by omega) (by omega) (pfWrite_ctxmap s v (by omega) hoff (by omega)) ?_ ⟨rfl, rfl, rfl⟩
  rw [pfRead_ctxmap _ (by omega) hoff, tget_tput_self, ofNat_toNat_W64]

/-! A stream's block (R47). -/

theorem mayUse_fn {s : State} {fn i : Nat} (h : mayUse s fn i = true) : fn ≤ 8 := by
  simp only [mayUse, Bool.and_eq_true, Bool.or_eq_true, decide_eq_true_eq] at h
  omega
theorem hst_modStrm_same (s : State) (i : Nat) (g : HStream → HStream) : hst (s.modStrm i g) i = g (hst s i) := tget_tput_self ..
/-- SQBASE, which a function that may use the stream writes and reads. -/
theorem stores_sqbase {fn i : Nat} (hu : mayUse s fn i = true) (ho : winOpen s = true) :
    HostStores s v fn 2 (64 * i) (v &&& 0x0000_FFFF_FFFF_FFC0) := by
  have hfn : fn ≤ 8 := mayUse_fn hu
  have hheld : pkgHeld s = false := by
    simp only [winOpen, Bool.and_eq_true, Bool.not_eq_true'] at ho
    exact ho.2
  have hw : streamWrite fn i 0 v s = s.modStrm i fun h => { h with sqbase := v &&& 0x0000_FFFF_FFFF_FFC0 } := by
    simp [streamWrite, hu, hheld]
  generalize ht : (s.modStrm i fun h => { h with sqbase := v &&& 0x0000_FFFF_FFFF_FFC0 }) = t at hw
  have hut : mayUse t fn i = true := ht ▸ hu
  have hbase : (hst t i).sqbase = v &&& 0x0000_FFFF_FFFF_FFC0 := by rw [← ht, hst_modStrm_same]
  have hr : streamRead t fn i 0 = (hst t i).sqbase.toNat := by simp [streamRead, hut]
  refine ⟨t, hw ▸ registerWrite_stream v fn i 0 s hfn (by decide), ?_, ht ▸ rfl, ht ▸ rfl, ht ▸ rfl⟩
  rw [hostRead_stream hfn (ht ▸ ho), hr, hbase, ofNat_toNat_W64]

end

/-- The clauses of the registers, in the order of their statement. -/
theorem registerResults : Rule.RegisterResults := fun s v =>
  ⟨stores_pwrlim s v, stores_thresholds s v, stores_rollctl s v, stores_scrubHours s v, stores_snapSel s v, stores_launch s v,
    stores_ctxtbl s v, stores_physwin s v, stores_fqbase s v, stores_svcnt s v, fun _ hi => stores_ctxmap s v hi,
    fun _ _ hu ho => stores_sqbase s v hu ho, fun _ _ hfn ho => registerWrite_other v hfn ho,
    fun fn i off h _ ho => registerWrite_stream_dropped v fn i off s ho h, registerWrite_pkg v (by decide)⟩

/-- Settles O46: each access through BAR4 by its branch of the aperture, and each register by its group, with the frames of the links and
of the L2 under both. -/
theorem aperturesAndRegisters : Obligations.AperturesAndRegisters := ⟨apertureResults, registerResults⟩

end Sys2Proof.Machine
end

section
/-! SUPPORT. Dies and links: what an update of one leaves of it and of the others, and the state once its dies have come up (R8, R22,
R23, R33). -/

namespace Sys2Proof.Machine

/-! ## Dies -/

theorem dieAt_congr {s t : State} (h : t.pkg.dies = s.pkg.dies) (d : Nat) : dieAt t d = dieAt s d := by simp only [dieAt, h]
theorem dieAt_modDie_same (s : State) {d : Nat} (f : Die → Die) (h : d < 4) : dieAt (s.modDie d f) d = f (dieAt s d) := by
  simp [dieAt, State.modDie, h]
theorem dieAt_modDie_other (s : State) {d e : Nat} (f : Die → Die) (h : e ≠ d) : dieAt (s.modDie d f) e = dieAt s e := by
  unfold State.modDie
  split
  · simp only [dieAt, Vector.getElem_set]
    simp [h.symm]
  · rfl

/-- At most the dies differ. -/
def DiesOnly (s t : State) : Prop := t = { s with pkg := { s.pkg with dies := t.pkg.dies } }

theorem diesOnly_modDie (s : State) (d : Nat) (f : Die → Die) : DiesOnly s (s.modDie d f) := by
  unfold State.modDie
  split <;> rfl
theorem DiesOnly.links {s t : State} (h : DiesOnly s t) : t.links = s.links := by rw [h]
theorem DiesOnly.mem {s t : State} (h : DiesOnly s t) : t.mem = s.mem := by rw [h]
theorem DiesOnly.tasks {s t : State} (h : DiesOnly s t) : t.tasks = s.tasks := by rw [h]
theorem DiesOnly.jobs {s t : State} (h : DiesOnly s t) : t.jobs = s.jobs := by rw [h]
theorem DiesOnly.paths {s t : State} (h : DiesOnly s t) : t.paths = s.paths := by rw [h]
theorem DiesOnly.fwOk {s t : State} (h : DiesOnly s t) : t.pkg.fwOk = s.pkg.fwOk := by rw [h]
theorem DiesOnly.held {s t : State} (h : DiesOnly s t) : pkgHeld t = pkgHeld s := by rw [h]; rfl

/-! ## Links -/

theorem linkAt_congr {s t : State} (h : t.links = s.links) (l : Nat) : linkAt t l = linkAt s l := by simp only [linkAt, h]
theorem linkAt_modLink_same (s : State) {l : Nat} (f : Link → Link) (h : l < 8) : linkAt (s.modLink l f) l = f (linkAt s l) := by
  simp [linkAt, State.modLink, h]
theorem linkAt_modLink_other (s : State) {l m : Nat} (f : Link → Link) (h : m ≠ l) : linkAt (s.modLink l f) m = linkAt s m := by
  unfold State.modLink
  split
  · simp only [linkAt, Vector.getElem_set]
    simp [h.symm]
  · rfl
theorem dieAt_modLink (s : State) (l : Nat) (f : Link → Link) (d : Nat) : dieAt (s.modLink l f) d = dieAt s d :=
  dieAt_congr (congrArg Pkg.dies (linksOnly_modLink s l f).pkg) d
theorem LinksOnly.paths {s t : State} (h : LinksOnly s t) : t.paths = s.paths := by rw [h]

theorem Link.dir_setDir_same (k : Link) {d : Nat} (x : LinkDir) (h : d < 2) : (k.setDir d x).dir d = x := by
  simp [Link.dir, Link.setDir, h]
theorem Link.dir_setDir_other (k : Link) {d e : Nat} (x : LinkDir) (h : e ≠ d) : (k.setDir d x).dir e = k.dir e := by
  unfold Link.setDir
  split
  · simp only [Link.dir, Vector.getElem_set]
    simp [h.symm]
  · rfl
/-- A link has both keys once a direction takes one whose other direction has one. -/
theorem Link.keyed_setDir (k : Link) {d : Nat} (x : LinkDir) (h : d < 2) :
    (k.setDir d x).keyed = (x.key.isSome && (k.dir (1 - d)).key.isSome) := by
  obtain rfl | rfl : d = 0 ∨ d = 1 := by omega
  · rw [Link.keyed, Link.dir_setDir_same k x h, Link.dir_setDir_other k x (by decide)]
  · rw [Link.keyed, Link.dir_setDir_same k x h, Link.dir_setDir_other k x (by decide), Bool.and_comm]

/-- A link of a C-die to the M-die. -/
theorem linkEnds_mdie {l : Nat} (h : l < 4) : linkEnds l = (4, l) := if_pos h
theorem linkReady_congr {s t : State} {l : Nat} (hk : (linkAt t l).dirs = (linkAt s l).dirs) (hf : t.pkg.fwOk = s.pkg.fwOk)
    (hd : ∀ d, (dieAt t d).st = (dieAt s d).st) : linkReady t l = linkReady s l := by
  have hkeyed : (linkAt t l).keyed = (linkAt s l).keyed := by simp only [Link.keyed, Link.dir, hk]
  simp only [linkReady, endTrusted, hkeyed, hf, hd]

/-- What the end of a die's bring-up makes of one of its links (R23 step 4): it carries data if its ends allow. -/
def raiseLink (s : State) (l : Nat) : State := s.modLink l fun k => { k with
  up := linkReady s l && (l < 4 || ((dieAt s (linkEnds l).1).up && (dieAt s (linkEnds l).2).up)) }

theorem raiseLink_dirs (s : State) (l m : Nat) : (linkAt (raiseLink s l) m).dirs = (linkAt s m).dirs := by
  unfold raiseLink
  by_cases h : m = l
  · subst h
    by_cases hm : m < 8
    · rw [linkAt_modLink_same s _ hm]
    · simp [linkAt, hm]
  · rw [linkAt_modLink_other s _ h]
theorem linkReady_raiseLink (s : State) (l m : Nat) : linkReady (raiseLink s l) m = linkReady s m :=
  linkReady_congr (raiseLink_dirs s l m) (congrArg Pkg.fwOk (linksOnly_modLink s l _).pkg) fun d =>
    congrArg Die.st (dieAt_modLink s l _ d)
theorem linksOnly_raiseLinks (s : State) (ls : List Nat) : LinksOnly s (ls.foldl raiseLink s) :=
  .foldl (fun s l => linksOnly_modLink s l _) ls s
theorem linkAt_raiseLinks_other {s : State} {ls : List Nat} {l : Nat} (h : l ∉ ls) : linkAt (ls.foldl raiseLink s) l = linkAt s l := by
  induction ls generalizing s with
  | nil => rfl
  | cons m ls ih =>
    obtain ⟨hm, hls⟩ : l ≠ m ∧ l ∉ ls := by simpa using h
    rw [List.foldl_cons, ih hls, raiseLink, linkAt_modLink_other s _ hm]
/-- Among the links of a die that comes up, the one to the M-die carries data as soon as its keys and ends allow. -/
theorem up_raiseLinks {s : State} {ls : List Nat} {l : Nat} (hl : l < 4) (h : l ∈ ls) :
    (linkAt (ls.foldl raiseLink s) l).up = linkReady s l := by
  induction ls generalizing s with
  | nil => cases h
  | cons m ls ih =>
    rw [List.foldl_cons]
    by_cases hls : l ∈ ls
    · rw [ih hls, linkReady_raiseLink]
    · obtain rfl : l = m := (List.mem_cons.mp h).resolve_right hls
      rw [linkAt_raiseLinks_other hls, raiseLink, linkAt_modLink_same s _ (by omega)]
      simp [hl]

/-! ## READY (R23 step 5) -/

/-- At most READY, the clock, the timebase and the times by it differ. -/
def ReadyOnly (s t : State) : Prop := t = { s with
  timebase := t.timebase
  pkg := { s.pkg with ready := t.pkg.ready, mhz := t.pkg.mhz, capped := t.pkg.capped, stackAt := t.pkg.stackAt } }

theorem readyOnly_checkReady (s : State) : ReadyOnly s (checkReady s) := by
  unfold checkReady
  split <;> rfl
theorem ReadyOnly.dies {s t : State} (h : ReadyOnly s t) : t.pkg.dies = s.pkg.dies := by rw [h]
theorem ReadyOnly.links {s t : State} (h : ReadyOnly s t) : t.links = s.links := by rw [h]
theorem ReadyOnly.mem {s t : State} (h : ReadyOnly s t) : t.mem = s.mem := by rw [h]
theorem ReadyOnly.tasks {s t : State} (h : ReadyOnly s t) : t.tasks = s.tasks := by rw [h]
theorem ReadyOnly.jobs {s t : State} (h : ReadyOnly s t) : t.jobs = s.jobs := by rw [h]
theorem ReadyOnly.paths {s t : State} (h : ReadyOnly s t) : t.paths = s.paths := by rw [h]

/-- R23: READY once the firmware has verified and every die is up or quarantined. -/
theorem ready_checkReady {s : State} (hf : s.pkg.fwOk = true) (hh : pkgHeld s = false)
    (hd : ∀ d, d < 4 → (dieAt s d).up = true ∨ (dieAt s d).st = .quarantined) : (checkReady s).pkg.ready = true := by
  have hall : (s.pkg.dies.toList.all fun d => d.up || d.st == .quarantined) = true := by
    rw [Vector.all_toList, Vector.all_eq_true]
    intro d h
    simpa [dieAt, h] using hd d h
  unfold checkReady
  cases hr : s.pkg.ready <;> simp [hr, hf, hh, hall]

/-! ## Memory -/

/-- A table without the entries of some keys. -/
theorem tget_filter {α : Type} (z : α) (q : Nat → Bool) (t : Tab α) (i : Nat) :
    tget z (t.filter fun e => q e.1) i = if q i then tget z t i else z := by
  induction t with
  | nil => simp [tget]
  | cons e t ih =>
    obtain ⟨k, v⟩ := e
    rw [List.filter_cons]
    by_cases hk : k = i
    · subst hk
      cases hq : q k <;> simp [hq, tget, ih]
    · cases hq : q k <;> simp [tget, hk, ih]

end Sys2Proof.Machine
end

section
/-! SUPPORT. A full bring-up (R23, R24), the keys of links (R33, R37) and the end of a die's bring-up. -/

namespace Sys2Proof.Machine

/-! ## A full bring-up -/

theorem dieAt_bringUp (s : State) (ok : Bool) {d : Nat} (h : d < 4) : dieAt (bringUp s ok) d = { Die.empty with
    st := if ok then .reset else .fused, idKey := (dieAt s d).idKey, serial := (dieAt s d).serial, chain := (dieAt s d).chain
    chainLen := (dieAt s d).chainLen } := by
  simp [dieAt, bringUp, h]
theorem byte_bringUp (s : State) (ok : Bool) (k : Nat) : (bringUp s ok).byte k = if 7 * 2 ^ 40 ≤ k then s.byte k else 0 := by
  rw [State.byte, State.byte]
  refine (tget_filter 0 (fun k => decide (7 * 2 ^ 40 ≤ k)) s.mem k).trans ?_
  simp only [decide_eq_true_eq]

theorem powerOnResults : Rule.PowerOnResults := by
  intro s ok
  refine ⟨bringUp s ok, ?_, fun d hd => dieAt_bringUp s ok hd, rfl, rfl, rfl, rfl, rfl, rfl, rfl, rfl, rfl, rfl, rfl, rfl, rfl, rfl, rfl, rfl,
    rfl, rfl, rfl, rfl, rfl, rfl, rfl, rfl, rfl, rfl, rfl, rfl, fun k hk => ?_, fun k hk => ?_⟩
  · simp only [List.forall_mem_cons, List.not_mem_nil, false_implies, implies_true, and_true]
    exact ⟨rfl, rfl, rfl⟩
  · rw [byte_bringUp, if_neg (by omega)]
  · rw [byte_bringUp, if_pos hk]

/-! ## Keys (R33, R37) -/

theorem keyinstall_ignored {s : State} {l dir : Nat} (key : Nat)
    (h : 8 ≤ l ∨ 2 ≤ dir ∨ pkgHeld s = true ∨ ((linkAt s l).dir dir).key.isSome = true) : execKeyinstall l dir key s = .next s := by
  unfold execKeyinstall
  extract_lets e d
  rw [if_pos]
  rcases h with h | h | h | h <;> simp [h, d]

/-- A direction with its first key. -/
def keyTaken (s : State) (l dir key : Nat) : State := s.modLink l fun k => k.setDir dir { LinkDir.empty with key := some key }

theorem keyed_keyTaken (s : State) {l dir : Nat} (key : Nat) (hl : l < 8) (hdir : dir < 2) :
    (linkAt (keyTaken s l dir key) l).keyed = ((linkAt s l).dir (1 - dir)).key.isSome := by
  rw [keyTaken, linkAt_modLink_same s _ hl, Link.keyed_setDir _ _ hdir]
  rfl

section
variable {s : State} {l dir : Nat} (key : Nat) (hl : l < 4) (hdir : dir < 2) (hheld : pkgHeld s = false) (hfw : s.pkg.fwOk = true)
  (hst : (dieAt s l).st = .attesting) (hstep : (dieAt s l).step = 9) (hrst : (dieAt s l).rst = none) (hring : ringKeyed s l = true)
  (hkey : ((linkAt s l).dir dir).key = none)
include hl hdir hheld hfw hst hstep hrst hring hkey

/-- A die whose session is open takes the keys of its link to the M-die; with the last of them it is TRUSTED. -/
theorem keyinstall_takes : execKeyinstall l dir key s = .next (if ((linkAt s l).dir (1 - dir)).key.isSome then
    (keyTaken s l dir key).modDie l fun x => { x with st := .trusted, att := 0, keys := 1 } else keyTaken s l dir key) := by
  have hu : (s.modLink l fun k => k.setDir dir { LinkDir.empty with key := some key }) = keyTaken s l dir key := rfl
  have hdie : dieAt (keyTaken s l dir key) l = dieAt s l := dieAt_modLink s l _ l
  have hm : sessionOpen s 4 = true := hfw
  have hc : sessionOpen s l = true := by simp [sessionOpen, show l ≠ 4 by omega, hst, hstep, hrst]
  unfold execKeyinstall
  simp only [linkEnds_mdie hl, hu, keyed_keyTaken s key (by omega : l < 8) hdir, hdie]
  rw [if_neg (by simp [hl, hdir, hheld, hkey, hm, hc, hring, show l < 8 by omega])]
  cases ((linkAt s l).dir (1 - dir)).key <;> simp [hl, hst]
end

/-! ## The end of a die's bring-up (R23) -/

/-- The die comes up, its HBM reading zero, and its links with it. -/
def dieUp (s : State) (d : Nat) : State :=
  ({ s with mem := s.mem.filter fun c => !(decide (hbmKey d 0 ≤ c.1) && decide (c.1 < hbmKey (d + 1) 0)) }).modDie d fun x => { x with up := true }
def broughtUp (s : State) (d : Nat) : State := (linksOf d).foldl raiseLink (dieUp s d)

theorem linksOnly_broughtUp (s : State) (d : Nat) : LinksOnly (dieUp s d) (broughtUp s d) := linksOnly_raiseLinks _ _
theorem dieAt_dieUp_same (s : State) {d : Nat} (h : d < 4) : dieAt (dieUp s d) d = { dieAt s d with up := true } :=
  dieAt_modDie_same _ _ h
theorem dieAt_dieUp_other (s : State) {d e : Nat} (h : e ≠ d) : dieAt (dieUp s d) e = dieAt s e := dieAt_modDie_other _ _ h
theorem linkReady_dieUp (s : State) {d : Nat} (h : d < 4) (l : Nat) : linkReady (dieUp s d) l = linkReady s l := by
  have ho := diesOnly_modDie { s with mem := s.mem.filter fun c => !(decide (hbmKey d 0 ≤ c.1) && decide (c.1 < hbmKey (d + 1) 0)) } d
    fun x => { x with up := true }
  refine linkReady_congr (congrArg Link.dirs (linkAt_congr ho.links l)) ho.fwOk fun e => ?_
  by_cases he : e = d
  · subst he
    rw [dieAt_dieUp_same s h]
  · rw [dieAt_dieUp_other s he]
theorem byte_dieUp (s : State) (d k : Nat) :
    (dieUp s d).byte k = if hbmKey d 0 ≤ k ∧ k < hbmKey (d + 1) 0 then 0 else s.byte k := by
  have hm : (dieUp s d).mem = s.mem.filter fun c => !(decide (hbmKey d 0 ≤ c.1) && decide (c.1 < hbmKey (d + 1) 0)) :=
    (diesOnly_modDie _ d _).mem
  rw [State.byte, hm]
  refine (tget_filter 0 (fun k => !(decide (hbmKey d 0 ≤ k) && decide (k < hbmKey (d + 1) 0))) s.mem k).trans ?_
  by_cases h : hbmKey d 0 ≤ k ∧ k < hbmKey (d + 1) 0
  · simp [h]
  · rw [if_neg h, if_pos (by simpa [imp_iff_not_or] using h)]
    rfl

theorem dieBringupDone_up {s : State} {d : Nat} (hd : d < 4) (hst : (dieAt s d).st = .trusted) (hrst : (dieAt s d).rst = none)
    (hup : (dieAt s d).up = false) (hheld : pkgHeld s = false) :
    execDieBringupDone d s = .next (checkReady (broughtUp s d)) := by
  unfold execDieBringupDone
  rw [if_pos (by simp [hd, hst, hrst, hup, hheld])]
  rfl

theorem linkKeyResults : Rule.LinkKeyResults := by
  refine ⟨fun s l dir key hl hdir hheld hfw hst hstep hrst hring hkey => ?_, fun s l dir key h => keyinstall_ignored key h,
    fun s d hd hst hrst hup hheld => ?_⟩
  · have htakes := keyinstall_takes key hl hdir hheld hfw hst hstep hrst hring hkey
    refine ⟨fun hn => ?_, fun hs => ?_⟩
    · rw [exec_keyinstall, htakes, hn]
      rfl
    · rw [exec_keyinstall, htakes, if_pos hs]
      rfl
  · have hdo := diesOnly_modDie { s with mem := s.mem.filter fun c => !(decide (hbmKey d 0 ≤ c.1) && decide (c.1 < hbmKey (d + 1) 0)) } d
      fun x => { x with up := true }
    have hlo := linksOnly_broughtUp s d
    have hro := readyOnly_checkReady (broughtUp s d)
    have hdie (e : Nat) : dieAt (broughtUp s d) e = dieAt (dieUp s d) e := dieAt_congr (congrArg Pkg.dies hlo.pkg) e
    have hdie' (e : Nat) : dieAt (checkReady (broughtUp s d)) e = dieAt (dieUp s d) e := (dieAt_congr hro.dies e).trans (hdie e)
    have hmem : d ∈ linksOf d := by
      simp only [linksOf, List.mem_filter, List.mem_range, linkEnds_mdie hd]
      exact ⟨by omega, by simp⟩
    refine ⟨_, dieBringupDone_up hd hst hrst hup hheld, ?_, ?_, ?_, fun k => ?_, hro.tasks.trans (hlo.tasks.trans hdo.tasks),
      hro.jobs.trans (hlo.jobs.trans hdo.jobs), hro.paths.trans (hlo.paths.trans hdo.paths), fun hfw hothers => ?_⟩
    · rw [hdie', dieAt_dieUp_same s hd]
    · rw [hdie', dieAt_dieUp_same s hd, hst]
    · rw [linkAt_congr hro.links, broughtUp, up_raiseLinks hd hmem, linkReady_dieUp s hd]
    · rw [State.byte, hro.mem, hlo.mem]
      exact byte_dieUp s d k
    · have hfw' : (broughtUp s d).pkg.fwOk = true := by rw [hlo.pkg]; exact hdo.fwOk.trans hfw
      have hheld' : pkgHeld (broughtUp s d) = false := by rw [pkgHeld, hlo.pkg]; exact hdo.held.trans hheld
      refine ready_checkReady hfw' hheld' fun e he => ?_
      rw [hdie]
      by_cases hed : e = d
      · subst hed
        rw [dieAt_dieUp_same s hd]
        exact .inl rfl
      · rw [dieAt_dieUp_other s hed]
        exact hothers e he hed

/-- Settles O43: a full bring-up is everything as after reset but what it names; a first key and the end of a die's bring-up by what each
leaves of the dies and of their links. -/
theorem powerOnAndKeys : Obligations.PowerOnAndKeys := ⟨powerOnResults, linkKeyResults⟩

end Sys2Proof.Machine
end

section
/-! SUPPORT. An accepted flit, and the rollover that the end of the one under way lets begin (R34 to R37): the root counts a key as drawn
for it. -/

namespace Sys2Proof.Machine

theorem flitReceive_accepted {s : State} {l dir count key : Nat} {fl : Flit} {tag : BitVec 128} (hl : l < 8) (hdir : dir < 2)
    (hup : (linkAt s l).up = true) (hkey : ((linkAt s l).dir dir).keyFor fl.keyseq = some key) (htag : tagHolds key l dir count fl tag = true)
    (hseq : fl.keyseq = ((linkAt s l).dir dir).keyseq) (hcount : count = ((linkAt s l).dir dir).flits)
    (hroom : ((linkAt s l).dir dir).replay.length < 64) (hlast : ((linkAt s l).dir dir).flits + 1 < 2 ^ 40) :
    execFlitReceive l dir count true fl tag s = .next (s.sendFlit l dir fun d => { d with replay := d.replay ++ [s.cycle] }) := by
  unfold execFlitReceive
  simp only [hkey, htag]
  rw [if_neg (by simp [hl, hdir, hup]), if_neg (by simp), if_neg (by simp [hseq]), if_neg (by simp [hcount]; omega)]

/-- The 1,024th flit accepted under the next key ends the rollover; those that wait stay. -/
theorem LinkDir.sent_ends {d : LinkDir} (hr : d.rolling = true) (ha : 1024 ≤ d.accepted + 1) :
    d.sent.rolling = false ∧ d.sent.waiting = d.waiting := by
  simp [LinkDir.sent, LinkDir.rollEnd, hr, ha]
/-- The oldest that waits begins. -/
theorem LinkDir.rollNext_waiting {d : LinkDir} (hr : d.rolling = false) (hw : d.waiting ≠ []) (lim key : Nat) :
    (d.rollNext lim key).rolling = true := by
  obtain ⟨k, ks, hk⟩ := List.exists_cons_of_ne_nil hw
  simp [LinkDir.rollNext, LinkDir.roll, hr, hk]

theorem free_modLink (s : State) (l : Nat) (f : Link → Link) : (s.modLink l f).free = s.free := by
  unfold State.modLink
  split <;> rfl
/-- A rollover that begins counts a key as drawn, also one whose key was given when it began to wait. -/
theorem free_rollDue {s : State} {l dir : Nat} (hr : ((linkAt s l).dir dir).rolling = false) (hw : ((linkAt s l).dir dir).waiting ≠ []) :
    (s.rollDue l dir).free = s.free + 1 := by
  have hnext := LinkDir.rollNext_waiting hr hw s.pkg.rollctl (Config.drbgKey s.free)
  simp [State.rollDue, hr, hnext]

theorem free_flitReceive_ends {s : State} {l dir count key : Nat} {fl : Flit} {tag : BitVec 128} (hl : l < 8) (hdir : dir < 2)
    (hup : (linkAt s l).up = true) (hkey : ((linkAt s l).dir dir).keyFor fl.keyseq = some key) (htag : tagHolds key l dir count fl tag = true)
    (hseq : fl.keyseq = ((linkAt s l).dir dir).keyseq) (hcount : count = ((linkAt s l).dir dir).flits)
    (hroom : ((linkAt s l).dir dir).replay.length < 64) (hlast : ((linkAt s l).dir dir).flits + 1 < 2 ^ 40)
    (hr : ((linkAt s l).dir dir).rolling = true) (ha : 1024 ≤ ((linkAt s l).dir dir).accepted + 1)
    (hw : ((linkAt s l).dir dir).waiting ≠ []) :
    ∃ t, exec (.flitReceive l dir count true fl tag) s = .next t ∧ t.free = s.free + 1 := by
  refine ⟨_, flitReceive_accepted hl hdir hup hkey htag hseq hcount hroom hlast, ?_⟩
  obtain ⟨hsr, hsw⟩ := LinkDir.sent_ends hr ha
  have hd : (linkAt (s.modLink l fun k => k.setDir dir { (k.dir dir).sent with replay := (k.dir dir).sent.replay ++ [s.cycle] }) l).dir dir =
      { ((linkAt s l).dir dir).sent with replay := ((linkAt s l).dir dir).sent.replay ++ [s.cycle] } := by
    rw [linkAt_modLink_same s _ hl, Link.dir_setDir_same _ _ hdir]
  rw [State.sendFlit, free_rollDue, free_modLink]
  · rw [hd]
    exact hsr
  · rw [hd]
    exact hsw ▸ hw

/-! ## The counterexample -/

/-- A direction in the middle of a rollover to key 2, 1,023 flits accepted under it, with key 7 waiting behind it. -/
def rollingDir : LinkDir := { LinkDir.empty with key := some 1, nextKey := some 2, accepted := 1023, rolling := true, waiting := [7] }
/-- The device after reset, but that link 0 carries data and its directions stand so. -/
def rollingState : State := { State.reset with links := State.reset.links.set 0 ⟨true, Vector.replicate 2 rollingDir⟩ }
/-- The flit of count 0, under key 2. -/
def lastFlit : Flit × BitVec 128 := sealFlit 2 0 0 0 0 0

theorem tagHolds_lastFlit : tagHolds 2 0 0 0 lastFlit.1 lastFlit.2 = true := beq_self_eq_true _

/-- Refutes O44: the clause of R37 for a rollover that waits has only the link change, while the end of the rollover under way also counts
one more key as drawn (State.free), as the model counts each rollover that begins. With key 7 waiting, the 1,024th flit accepted under key 2
takes that count from 0 to 1. -/
theorem not_attestationAndFlits : ¬ Obligations.AttestationAndFlits := by
  rintro ⟨-, hflit⟩
  have hfits : ((linkAt rollingState 0).dir 0).keyFor lastFlit.1.keyseq = some 2 := rfl
  have hseq : lastFlit.1.keyseq = ((linkAt rollingState 0).dir 0).keyseq := rfl
  obtain ⟨haccepted, -⟩ := hflit rollingState 0 0 0 2 lastFlit.1 lastFlit.2 (by decide) (by decide) rfl
  obtain ⟨-, -, -, -, hwaiting⟩ := haccepted ⟨hfits, tagHolds_lastFlit⟩ hseq rfl (by decide) (by decide)
  obtain ⟨t, ht, hfree⟩ := free_flitReceive_ends (s := rollingState) (by decide) (by decide) rfl hfits tagHolds_lastFlit hseq rfl (by decide)
    (by decide) rfl (by decide) (by decide)
  have hstated := Host.Outcome.next.inj ((hwaiting 7 [] rfl (by decide) rfl).symm.trans ht)
  rw [← hstated, free_modLink] at hfree
  exact Nat.ne_add_one _ hfree

end Sys2Proof.Machine
end

section
/-! SUPPORT. A die whose scrub bit stands before its reset: a reset then neither begins the scrub again nor drops its links (R38). -/

namespace Sys2Proof.Machine

theorem readKeys_nil (k n : Nat) : readKeys [] k n = List.replicate n 0 := by
  induction n generalizing k with
  | zero => rfl
  | succ n ih => rw [readKeys, ih, List.replicate_succ]; rfl
theorem leNat_zeros (n : Nat) : leNat (List.replicate n 0) = 0 := by
  induction n with
  | zero => rfl
  | succ n ih => rw [List.replicate_succ, leNat, ih]; rfl
theorem readN_no_memory {s : State} (h : s.mem = []) (k n : Nat) : s.readN k n = 0 := by
  rw [State.readN, State.read, h, readKeys_nil, leNat_zeros]
/-- Where memory lists nothing no context has a page. -/
theorem mapsDie_no_memory {s : State} (h : s.mem = []) (d c : Nat) : mapsDie s d c = false := by
  simp [mapsDie, ctxEntry, readN_no_memory h]

/-- The device after reset, but that die 0 is TRUSTED with its scrub bit set and no reset under way, and its link to the M-die carries
data. -/
def scrubbingState : State := { State.reset with
  pkg := { Pkg.reset with dies := Pkg.reset.dies.set 0 { Die.empty with st := .trusted, scrub := true } }
  links := State.reset.links.set 0 { Link.empty with up := true } }

theorem dieContexts_scrubbingState : dieContexts scrubbingState 0 = [] := by
  refine List.filter_eq_nil_iff.mpr fun c _ => ?_
  rw [mapsDie_no_memory rfl]
  exact Bool.false_ne_true

/-- Its link is as it was after a DIERST write of die 0. -/
theorem dierstWrite_scrubbingState : ∃ t, exec (.dierstWrite 0 0) scrubbingState = .next t ∧ (linkAt t 0).up = true := by
  refine ⟨resetDie scrubbingState 0 0x12 .reset, rfl, ?_⟩
  rw [resetDie, dieContexts_scrubbingState]
  rfl

/-- Refutes O45: of any TRUSTED die not in reset the statement has a DIERST write drop the links, once no kill drains. The model begins
that step for a die whose scrub has not begun; in a state that sets the scrub bit of a die without a reset under way the link stays up. -/
theorem not_dieResetAndPower : ¬ Obligations.DieResetAndPower := by
  rintro ⟨⟨hwrite, -⟩, -⟩
  obtain ⟨t, ht, hreset, -⟩ := hwrite scrubbingState 0 0
  obtain ⟨-, -, -, hdrained⟩ := hreset rfl (by decide) rfl rfl rfl
  obtain ⟨-, -, hlinks⟩ := hdrained rfl dieContexts_scrubbingState
  obtain ⟨u, hu, hup⟩ := dierstWrite_scrubbingState
  obtain rfl : u = t := Host.Outcome.next.inj (hu.symm.trans ht)
  have hempty : linkAt u 0 = Link.empty := hlinks 0 (by decide)
  rw [hempty] at hup
  exact Bool.false_ne_true hup

end Sys2Proof.Machine
end

section
/-! SUPPORT. Kicks (R50) and the fetch of a queue record (R51 to R55, R89, R97, R98): what each kind of record answers once it stands next. -/

namespace Sys2Proof.Machine

/-! ## KICK (R50) -/

theorem hst_modStrm_other (s : State) {i j : Nat} (g : HStream → HStream) (h : j ≠ i) : hst (s.modStrm i g) j = hst s j :=
  tget_tput_other _ s.strm _ h
theorem hst_congr {s t : State} (h : t.strm = s.strm) (i : Nat) : hst t i = hst s i := by rw [hst, hst, h]

section
variable {s : State} {fn stream : Nat} {v : W64}

theorem kickWrite_ignored (h : mayUse s fn stream = false ∨ enabledCtx s stream = none ∨ pkgHeld s = true) :
    execKickWrite fn stream v s = .next s := by
  rcases h with h | h | h <;> simp [execKickWrite, h]

/-- The value of KICK that a write gives is in range. -/
def KickGood (s : State) (stream : Nat) (k : W32) : Prop :=
  (k - (hst s stream).kick).toNat < 2 ^ 31 ∧ (k - (hst s stream).sqhead).toNat ≤ 2 ^ sqLog s stream

/-- The kick that is taken, and the one that is not, for a stream that the function may use. -/
def kickTaken (s : State) (fn stream : Nat) (k : W32) : State := s.modStrm stream fun h => { h with
  kick := k
  owner := if h.covers.isEmpty then fn else h.owner
  covers := if k = h.kick then h.covers else h.covers ++ [(k.toNat, fn)]
  stall := if h.sqstat.getLsbD 2 then h.stall else false }
def kickRefused (s : State) (fn stream : Nat) : State :=
  ((s.modStrm stream fun h => { h with sqstat := h.sqstat ||| 0x1 }).modFn fn fun f => { f with crstat := f.crstat ||| 0x4 }).signalVec fn 1

section
variable (hu : mayUse s fn stream = true) (hc : (enabledCtx s stream).isSome = true) (hh : pkgHeld s = false)
include hu hc hh

theorem kickWrite_taken (h : KickGood s stream (v.extractLsb' 0 32)) :
    execKickWrite fn stream v s = .next (kickTaken s fn stream (v.extractLsb' 0 32)) := by
  simp only [execKickWrite, hu, hh, Option.isNone_eq_false_iff.mpr hc, Bool.not_true, Bool.or_self, Bool.false_eq_true, if_false]
  rw [if_pos (by simpa [KickGood] using h)]
  rfl
theorem kickWrite_refused (h : ¬ KickGood s stream (v.extractLsb' 0 32)) :
    execKickWrite fn stream v s = .next (kickRefused s fn stream) := by
  simp only [execKickWrite, hu, hh, Option.isNone_eq_false_iff.mpr hc, Bool.not_true, Bool.or_self, Bool.false_eq_true, if_false]
  rw [if_neg (by simpa [KickGood] using h)]
  rfl
end
end

/-- The clauses of R50: a kick in range, and one that is not. -/
theorem kickResults : Rule.KickResults := by
  intro s fn stream v hfn
  refine ⟨kickWrite_ignored, fun hu hc hh => ?_⟩
  by_cases hg : KickGood s stream (v.extractLsb' 0 32)
  · have hs : hst (kickTaken s fn stream (v.extractLsb' 0 32)) stream = _ := hst_modStrm_same ..
    refine ⟨_, kickWrite_taken hu hc hh hg, rfl, rfl, rfl, fun i hi => hst_modStrm_other s _ hi, ?_, fun _ => ⟨?_, rfl⟩,
      fun h => absurd hg h⟩
    · rw [hs]
    · rw [hs]
  · have hs : ∀ i, hst (kickRefused s fn stream) i = hst (s.modStrm stream fun h => { h with sqstat := h.sqstat ||| 0x1 }) i :=
      hst_congr (modFn_strm ..)
    have hf : fnAt (kickRefused s fn stream) fn = { fnAt s fn with crstat := (fnAt s fn).crstat ||| 0x4 } :=
      fnAt_modFn_same _ _ (Nat.lt_succ_of_le hfn)
    refine ⟨_, kickWrite_refused hu hc hh hg, ?_, ?_, ?_, fun i hi => ?_, ?_, fun h => absurd h hg, fun _ => ⟨?_, ?_, ?_, ?_⟩⟩
    · simp [kickRefused]
    · simp [kickRefused]
    · simp [kickRefused]
    · rw [hs, hst_modStrm_other _ _ hi]
    · rw [hs, hst_modStrm_same]
    · rw [hs, hst_modStrm_same]
    · rw [hs, hst_modStrm_same]
      simp
    · rw [hf]
      simp
    · simp [kickRefused, State.signalVec]

/-! ## The fetch of a record (R51, R447) -/

/-- While only management traffic continues no record is read (R20). -/
theorem withRecord_held {s : State} (h : pkgHeld s = true) (stream kind : Nat) (body : State → Head → Out) :
    withRecord s stream kind body = .next s := by
  unfold withRecord
  cases enabledCtx s stream <;> simp [h]

/-- The record that stands next is taken by its own kind, and none of another kind. -/
theorem withRecord_read {s u : State} {stream : Nat} {h : Head} (hr : HeadRead s u stream h) (kind : Nat) (body : State → Head → Out) :
    withRecord s stream kind body = if h.f 510 2 = kind then body u h else .next s := by
  obtain ⟨hrange, hctx, hmore, hopen, ⟨hstop, hstall, hwait⟩, hseq, hfn, bs, ex, bad, hdie, htr, hread, hword⟩ := hr
  obtain ⟨word, cid, seq, fn⟩ := h
  simp only at hctx hseq hfn hdie htr hread hword
  subst hseq hfn hword
  unfold Head.f
  simp only [withRecord, hctx, Nat.not_le.mpr hrange, hopen, hmore, hstop, hstall, hwait, Nat.not_lt.mpr hdie, htr, hread,
    decide_false, Bool.or_self, Option.isSome_none, Bool.not_true, Bool.false_eq_true, if_false]

/-- A record taken off its queue and refused (R52, R54, R89, R97). -/
def refusedHead (t : State) (stream status : Nat) (h : Head) : Out := .next (refuseRecord (takeHead t stream) stream status h)

section
variable {s u : State} {stream : Nat} {h : Head} (hr : HeadRead s u stream h)
include hr

/-! ## Records of the four kinds -/

theorem taskRecord_skips (hk : h.f 510 2 ≠ 0) : execTaskRecordFetch stream s = .next s := by
  rw [execTaskRecordFetch, withRecord_read hr, if_neg hk]
theorem replayRecord_skips (hk : h.f 510 2 ≠ 1) : execReplayRecord stream s = .next s := by
  rw [execReplayRecord, withRecord_read hr, if_neg hk]
theorem patchRecord_skips (hk : h.f 510 2 ≠ 2) : execPatchRecord stream s = .next s := by
  rw [execPatchRecord, withRecord_read hr, if_neg hk]
theorem reservedRecord_skips (hk : h.f 510 2 ≠ 3) : execReservedRecord stream s = .next s := by
  rw [execReservedRecord, withRecord_read hr, if_neg hk]

theorem reservedRecord_refused (hk : h.f 510 2 = 3) : execReservedRecord stream s = refusedHead u stream 3 h := by
  rw [execReservedRecord, withRecord_read hr, if_pos hk]
  rfl

section
variable (hk : h.f 510 2 = 0)
include hk

/-- A task record that R89 refuses. -/
def BadTask (u : State) (stream : Nat) (h : Head) : Prop :=
  badRecord h.word = true ∨ h.f 256 7 ≠ stream ∨ h.f 288 16 ≠ 0xFFFF ∨ badTenant u stream h.fn (h.f 266 3) = true

theorem taskRecord_refused (hb : BadTask u stream h) : execTaskRecordFetch stream s = refusedHead u stream 3 h := by
  rw [execTaskRecordFetch, withRecord_read hr, if_pos hk]
  simp only
  rw [if_pos (by simpa [BadTask, or_assoc] using hb)]
  rfl
theorem taskRecord_armed (hb : ¬ BadTask u stream h) (hroom : armRoom u h.cid (taskOf u h.word h.cid h.seq h.fn true).key none = true) :
    execTaskRecordFetch stream s =
      .next (armFetch (takeHead { u with uid := u.uid + 1 } stream) (taskOf u h.word h.cid h.seq h.fn true)) := by
  rw [execTaskRecordFetch, withRecord_read hr, if_pos hk]
  simp only
  rw [if_neg (by simpa [BadTask, or_assoc] using hb), hroom]
  rfl
theorem taskRecord_waits (hb : ¬ BadTask u stream h) (hroom : armRoom u h.cid (taskOf u h.word h.cid h.seq h.fn true).key none = false) :
    execTaskRecordFetch stream s = .next (armFull u h.cid) := by
  rw [execTaskRecordFetch, withRecord_read hr, if_pos hk]
  simp only
  rw [if_neg (by simpa [BadTask, or_assoc] using hb), hroom]
  rfl
end

section
variable (hk : h.f 510 2 = 1)
include hk

/-- The stream remembers the template a replay names, for patches that name none (R54). -/
def tmplNamed (u : State) (stream : Nat) (h : Head) : State :=
  u.modStrm stream fun x => { x with tmpl := tput 0 x.tmpl (h.f 64 16) (h.f 0 48 + 1) }

theorem replayRecord_refused (hb : h.f 0 64 % 64 ≠ 0 ∨ h.f 48 16 ≠ 0) :
    execReplayRecord stream s = refusedHead (tmplNamed u stream h) stream 4 h := by
  rw [execReplayRecord, withRecord_read hr, if_pos hk]
  simp only
  rw [if_pos (by simpa using hb)]
  rfl
theorem replayRecord_armed {w : State} {tm : Tmpl} {ns : List (BitVec 512)} (ha : h.f 0 64 % 64 = 0) (hz : h.f 48 16 = 0)
    (hl : launchMem (hostWho h.cid) (fun _ ns => !(ns.zipIdx.any fun p => badNode u stream h.fn p.2 p.1)) (h.f 0 48) (h.f 64 16)
      (tmplNamed u stream h) = .ok (some (tm, ns)) w)
    (hroom : nodesRoom u h.cid h.seq.toNat tm.nnode = true) :
    execReplayRecord stream s = .next (armNodes stream w.uid (h.f 64 16) ((tm.nreplay + 1) % 256) (tm.pb (1 - tm.cur)) h.cid h.seq.toNat
      h.fn ns 0 (takeHead { w with
        uid := w.uid + 1
        replays := w.replays ++ [{
          id := w.uid, cid := h.cid, stream := stream, seq := h.seq, gid := h.f 64 16, tmpl := h.f 0 48, gen := 1 - tm.cur
          all := h.f 80 1 = 1, left := tm.nnode, total := tm.nnode, status := 0 }] } stream)) := by
  unfold tmplNamed at hl
  rw [execReplayRecord, withRecord_read hr, if_pos hk]
  simp only
  rw [if_neg (by simp [ha, hz]), hl]
  simp only [hroom, Bool.not_true, Bool.false_eq_true, if_false]
end

section
variable (hk : h.f 510 2 = 2)
include hk

theorem patchRecord_refused (hb : h.f 32 16 % 8 ≠ 0 ∨ h.f 48 8 % 8 ≠ 0 ∨ h.f 48 8 < 8 ∨ 40 < h.f 48 8 ∨ 256 < h.f 32 16 + h.f 48 8) :
    execPatchRecord stream s = refusedHead u stream 4 h := by
  rw [execPatchRecord, withRecord_read hr, if_pos hk]
  simp only
  rw [if_pos]
  · rfl
  · simp only [Bool.or_eq_true, decide_eq_true_eq]
    tauto
theorem patchRecord_written {v w : State} {tm : Tmpl} (hoff : h.f 32 16 % 8 = 0) (hlen : h.f 48 8 % 8 = 0) (hlo : 8 ≤ h.f 48 8)
    (hhi : h.f 48 8 ≤ 40) (hend : h.f 32 16 + h.f 48 8 ≤ 256) (ha : h.f 64 48 ≠ 0) (hal : h.f 64 48 % 64 = 0)
    (ht : readTmpl (hostWho h.cid) (h.f 64 48) u = .ok tm v) (hg : tm.gid = h.f 0 16) (hn : h.f 16 16 < tm.nnode)
    (hfree : (v.replays.any fun r => r.cid == h.cid && r.tmpl == h.f 64 48 && r.gen == 1 - tm.cur) = false)
    (hw : gWrite (hostWho h.cid) (tm.pb (1 - tm.cur) + 256 * h.f 16 16 + h.f 32 16) (toBytes (h.f 48 8) (h.f 128 (8 * h.f 48 8))) v =
      .ok () w) :
    execPatchRecord stream s = .next (takeHead w stream) := by
  rw [execPatchRecord, withRecord_read hr, if_pos hk]
  simp only [ha, ne_eq, not_false_eq_true, if_true]
  rw [if_neg (by simp [hoff, hlen, hal, Nat.not_lt.mpr hlo, Nat.not_lt.mpr hhi, Nat.not_lt.mpr hend]), ht]
  simp only [hg, Nat.not_le.mpr hn, hfree, hw, decide_true, decide_false, Bool.and_false, Bool.or_self, Bool.false_eq_true, if_false,
    not_true_eq_false]
end

/-- No record of another kind is taken. -/
theorem other_kinds_skip (hk : h.f 510 2 = 0) :
    ∀ i ∈ [Instr.replayRecord stream, .patchRecord stream, .reservedRecord stream], exec i s = .next s := by
  simp only [List.forall_mem_cons, List.not_mem_nil, false_implies, implies_true, and_true]
  exact ⟨replayRecord_skips hr (by omega), patchRecord_skips hr (by omega), reservedRecord_skips hr (by omega)⟩

end

theorem records_held {s : State} (h : pkgHeld s = true) (stream : Nat) :
    ∀ i ∈ [Instr.taskRecordFetch stream, .replayRecord stream, .patchRecord stream, .reservedRecord stream], exec i s = .next s := by
  simp only [List.forall_mem_cons, List.not_mem_nil, false_implies, implies_true, exec_taskRecordFetch, exec_replayRecord,
    exec_patchRecord, exec_reservedRecord, execTaskRecordFetch, execReplayRecord, execPatchRecord, execReservedRecord, withRecord_held h,
    and_self]

/-- The clauses of a hold, then of each kind of record that stands next. -/
theorem recordResults : Rule.RecordResults :=
  ⟨fun _ stream h => records_held h stream,
    fun _ _ _ _ hr =>
      ⟨fun hk => ⟨taskRecord_refused hr hk, taskRecord_armed hr hk, taskRecord_waits hr hk, other_kinds_skip hr hk⟩,
        fun hk => ⟨reservedRecord_refused hr hk, taskRecord_skips hr (by omega)⟩,
        fun hk => ⟨replayRecord_refused hr hk, fun _ _ _ ha hz hl hroom => replayRecord_armed hr hk ha hz hl hroom⟩,
        fun hk => ⟨patchRecord_refused hr hk, fun _ _ _ hoff hlen hlo hhi hend ha hal ht hg hn hfree hw =>
          patchRecord_written hr hk hoff hlen hlo hhi hend ha hal ht hg hn hfree hw⟩⟩⟩

/-- Settles O47: a kick by whether its value is in range, and each record by its kind, once it has been read. -/
theorem kicksAndRecords : Obligations.KicksAndRecords := ⟨kickResults, recordResults⟩

end Sys2Proof.Machine
end

section
/-! SUPPORT. Shell leases (R16, R119) and abort lines (R149): the arbitration of a free shell, a lease at its cap, a raised line. -/

namespace Sys2Proof.Machine

/-! ## Arbitration -/

theorem coreClass_le (s : State) (c : Nat) : coreClass s c ≤ 3 := by
  unfold coreClass
  cases ([0, 1, 2, 3].map fun sl => s.task c sl).find? fun t => t.live && t.mtask with
  | none => exact Nat.le_refl 3
  | some t => exact Nat.le_of_lt_succ (Nat.mod_lt _ (by decide))

/-- The round-robin order names the eight cores of a shell. -/
theorem mem_leaseOrder {k last c : Nat} : c ∈ leaseOrder k last ↔ c / 8 = k := by
  simp only [leaseOrder, List.mem_map, List.mem_range]
  constructor
  · rintro ⟨i, _, rfl⟩
    omega
  · intro h
    exact ⟨(c + 7 - last % 8) % 8, by omega, by omega⟩

theorem foldl_min_le (l : List Nat) (a : Nat) : l.foldl min a ≤ a ∧ ∀ x ∈ l, l.foldl min a ≤ x := by
  induction l generalizing a with
  | nil => simp
  | cons b l ih =>
    obtain ⟨ha, hl⟩ := ih (min a b)
    refine ⟨ha.trans (min_le_left a b), fun x hx => ?_⟩
    rcases List.mem_cons.mp hx with rfl | hx
    · exact ha.trans (min_le_right a x)
    · exact hl x hx
theorem foldl_min_mem (l : List Nat) (a : Nat) : l.foldl min a = a ∨ l.foldl min a ∈ l := by
  induction l generalizing a with
  | nil => simp
  | cons b l ih =>
    rw [List.foldl_cons, List.mem_cons]
    rcases ih (min a b) with h | h
    · rw [h]
      rcases min_choice a b with h | h <;> simp [h]
    · exact .inr (.inr h)

/-- Of some requesters the first of the lowest class is found, and there is one. -/
theorem exists_find_lowest (s : State) {req : List Nat} (h : req ≠ []) :
    ∃ c, (req.find? fun c => coreClass s c == (req.map (coreClass s)).foldl min 3) = some c ∧ c ∈ req ∧
      ∀ d ∈ req, coreClass s c ≤ coreClass s d := by
  have hle := (foldl_min_le (req.map (coreClass s)) 3).2
  generalize hb : (req.map (coreClass s)).foldl min 3 = best at hle
  have hex : ∃ c ∈ req, coreClass s c = best := by
    rcases foldl_min_mem (req.map (coreClass s)) 3 with h3 | hmem
    · obtain ⟨c, hc⟩ := List.exists_mem_of_ne_nil req h
      have hc3 : best ≤ coreClass s c := hle _ (List.mem_map_of_mem hc)
      have : coreClass s c ≤ 3 := coreClass_le s c
      exact ⟨c, hc, by omega⟩
    · rw [hb] at hmem
      exact List.mem_map.mp hmem
  obtain ⟨c, hc⟩ := Option.isSome_iff_exists.mp (List.find?_isSome (p := fun c => coreClass s c == best) |>.mpr (by simpa using hex))
  have hcb : coreClass s c = best := by simpa using List.find?_some hc
  exact ⟨c, hc, List.mem_of_find?_eq_some hc, fun d hd => hcb ▸ hle _ (List.mem_map_of_mem hd)⟩

/-- A core of a shell that requests its lease, or requests it again. -/
def Asks (s : State) (k : Nat) (hk : k < 12) (c : Nat) : Prop := c / 8 = k ∧ (c ∈ s.shells[k].reqs ∨ 96 + c ∈ s.shells[k].reqs)

/-- The requesters that the arbitration looks through. -/
def requesters (s : State) (k : Nat) (hk : k < 12) : List Nat :=
  (leaseOrder k s.shells[k].last).filter fun c => s.shells[k].reqs.contains c || s.shells[k].reqs.contains (96 + c)

section
variable {s : State} {k : Nat} (hk : k < 12)

theorem mem_requesters {c : Nat} : c ∈ requesters s k hk ↔ Asks s k hk c := by
  simp [requesters, Asks, mem_leaseOrder]

theorem leaseGrant_held (h : s.shells[k].holder ≠ none) : execLeaseGrant k s = .next s := by
  obtain ⟨c, hc⟩ := Option.ne_none_iff_exists'.mp h
  simp [execLeaseGrant, hk, hc]
theorem leaseGrant_unasked (h : requesters s k hk = []) : execLeaseGrant k s = .next s := by
  unfold requesters at h
  simp only [execLeaseGrant, hk, dif_pos, h, List.map_nil, List.find?_nil]
  split <;> simp_all
theorem leaseGrant_to {c : Nat} (hf : s.shells[k].holder = none)
    (hc : ((requesters s k hk).find? fun c => coreClass s c == ((requesters s k hk).map (coreClass s)).foldl min 3) = some c) :
    execLeaseGrant k s = .next { s with
      shells := s.shells.set k ⟨some c, 0, s.cycle, s.shells[k].reqs.filter fun r => r != c && r != 96 + c, s.shells[k].last⟩
      pkg := { s.pkg with shellGated := s.pkg.shellGated &&& ~~~(1#12 <<< k) } } := by
  unfold requesters at hc
  simp only [execLeaseGrant, hk, dif_pos, hf, hc]

/-! ## The cap -/

theorem leaseCap_kept {c : Nat} (hh : s.shells[k].holder = some c) (h : s.shells[k].capped s.cycle = false ∨ midCommand s c = true) :
    execLeaseCap k s = .next s := by
  rcases h with h | h <;> simp [execLeaseCap, hk, hh, h]
theorem leaseCap_renewed {c : Nat} (hh : s.shells[k].holder = some c) (h : s.shells[k].capped s.cycle = true)
    (hm : midCommand s c = false) (hr : s.shells[k].reqs = []) :
    execLeaseCap k s = .next { s with shells := s.shells.set k { s.shells[k] with cmds := 0, grantAt := s.cycle } } := by
  simp [execLeaseCap, hk, hh, h, hm, hr]
theorem leaseCap_ended {c : Nat} (hh : s.shells[k].holder = some c) (h : s.shells[k].capped s.cycle = true)
    (hm : midCommand s c = false) (hr : s.shells[k].reqs ≠ []) :
    execLeaseCap k s = .next { s with shells := s.shells.set k { s.shells[k] with
      holder := none, cmds := 0, grantAt := s.cycle, last := c, reqs := s.shells[k].reqs ++ [96 + c] } } := by
  simp [execLeaseCap, Shell.free, hk, hh, h, hm, hr]

end

/-- A shell's power gate opens as its bit clears (R16). -/
theorem gate_cleared (g : BitVec 12) {k : Nat} (hk : k < 12) : (g &&& ~~~(1#12 <<< k)).getLsbD k = false := by
  simp [hk]

/-- R119: the grant of a free shell that is requested. -/
theorem leaseGrant_grants (s : State) (k : Nat) (hk : k < 12) (hf : s.shells[k].holder = none) (h : ∃ c, Asks s k hk c) :
    ∃ c t, Asks s k hk c ∧ exec (.leaseGrant k) s = .next t ∧ t.shells[k].holder = some c ∧ t.shells[k].grantAt = s.cycle ∧
      t.shells[k].cmds = 0 ∧ t.pkg.shellGated.getLsbD k = false ∧ c ∉ t.shells[k].reqs ∧
      (∀ d, Asks s k hk d → coreClass s c ≤ coreClass s d) ∧
      (∀ (i : Nat) (hi : i < 12), i ≠ k → t.shells[i] = s.shells[i]) ∧ t.tasks = s.tasks ∧ t.mem = s.mem := by
  obtain ⟨c₀, hc₀⟩ := h
  obtain ⟨c, hc, hmem, hlow⟩ := exists_find_lowest s (List.ne_nil_of_mem ((mem_requesters hk).mpr hc₀))
  refine ⟨c, _, (mem_requesters hk).mp hmem, leaseGrant_to hk hf hc, ?_, ?_, ?_, gate_cleared _ hk, ?_,
    fun d hd => hlow d ((mem_requesters hk).mpr hd), fun i hi hne => Vector.getElem_set_ne hk hi hne.symm, rfl, rfl⟩ <;> simp

/-! ## Abort lines (R149) -/

theorem abortLineArrival_raised {s : State} {core slot : Nat} (h : (s.task core slot).live = true ∧ (s.task core slot).abgrp ≠ 0 ∧
    ∃ a ∈ s.aborts, a.1 = (s.task core slot).cid ∧ a.2.1 = (s.task core slot).abgrp) :
    execAbortLineArrival core slot s = .next (s.setTask core slot { s.task core slot with line := true }) := by
  obtain ⟨hl, hg, ha⟩ := h
  have hany : (s.aborts.any fun a => a.1 == (s.task core slot).cid && a.2.1 == (s.task core slot).abgrp) = true := by
    simpa using ha
  simp [execAbortLineArrival, hl, hg, hany]
theorem abortLineArrival_quiet {s : State} {core slot : Nat} (h : ¬ ((s.task core slot).live = true ∧ (s.task core slot).abgrp ≠ 0 ∧
    ∃ a ∈ s.aborts, a.1 = (s.task core slot).cid ∧ a.2.1 = (s.task core slot).abgrp)) :
    execAbortLineArrival core slot s = .next s := by
  unfold execAbortLineArrival
  extract_lets t
  rw [if_neg]
  intro hc
  simp only [Bool.and_eq_true, bne_iff_ne, List.any_eq_true, beq_iff_eq] at hc
  obtain ⟨⟨hl, hg⟩, ha⟩ := hc
  exact h ⟨hl, hg, ha⟩

/-- Settles O51: the arbitration of a free shell, then a held one by whether its cap is reached, then the line. -/
theorem leaseResults : Obligations.LeaseResults :=
  ⟨fun s k hk hf => ⟨leaseGrant_grants s k hk hf, fun h =>
      leaseGrant_unasked hk (List.eq_nil_iff_forall_not_mem.mpr fun c hc => h c ((mem_requesters hk).mp hc))⟩,
    fun _ _ _ hk hh => ⟨leaseGrant_held hk (by simp [hh]), leaseCap_kept hk hh, leaseCap_renewed hk hh, leaseCap_ended hk hh⟩,
    fun _ _ _ => ⟨abortLineArrival_raised, abortLineArrival_quiet⟩⟩

end Sys2Proof.Machine
end

section
/-! SUPPORT. What the host reads after reset (R21, R41, R47). -/

namespace Sys2Proof.Machine

/-- Until READY every window but management's reads zero (R23). -/
theorem hostRead_stream_closed {s : State} (h : winOpen s = false) (fn off : Nat) : hostRead s fn 2 off = 0 := by
  simp [hostRead, h]

/-- Settles O59: the streams' window is closed after reset, and each register of the management window is evaluated. -/
theorem resetRegisters : Obligations.ResetRegisters :=
  ⟨by decide +kernel, by decide +kernel, by decide +kernel, by decide +kernel, by decide +kernel, by decide +kernel,
    fun _ _ _ _ => hostRead_stream_closed rfl _ _, by decide +kernel, wf_reset⟩

end Sys2Proof.Machine
end

section
/-! SUPPORT. Completion rings (R56 to R59): the oldest record posted or kept back, the timer of CRIRQ, and writes of CRHEAD and CRSIZE. -/

namespace Sys2Proof.Machine

theorem fnAt_modFn_other (s : State) {f g : Nat} (h : g ≠ f) (u : Fn → Fn) : fnAt (s.modFn f u) g = fnAt s g := by
  unfold State.modFn
  split
  · simp only [fnAt, Vector.getElem_set]
    simp [h.symm]
  · rfl
theorem length_recordBytes (r : Record) (wraps : Nat) (time : W64) : (recordBytes r wraps time).length = 16 := length_toBytes 16 _

/-! ## Posting (R56, R58) -/

/-- Where the next record of a ring goes. -/
def recordPlace (f : Fn) : Nat := busKey (bits f.crbase.toNat 12 52 * 4096 + 16 * (f.crtail.toNat % 2 ^ crLog f))
/-- A record written to its place. -/
def recordWritten (s : State) (f : Fn) (r : Record) : State :=
  s.write (recordPlace f) (recordBytes r (f.crtail.toNat / 2 ^ crLog f) s.timebase)
/-- The oldest record taken off the queue of a function, and counted unless its vector is to be sent. -/
def recordTaken (s : State) (fn : Nat) (rs : List Record) (sent : Bool) : State := s.modFn fn fun f => { f with
  queue := rs, crtail := f.crtail + 1
  unsig := if sent then 0 else f.unsig + 1
  unsigAt := if f.unsig = 0 then s.timebase.toNat else f.unsigAt }

/-- The record leaves the queue, and CRTAIL alone of the two ends of the ring moves. -/
theorem recordTaken_ring (s : State) {fn : Nat} (rs : List Record) (sent : Bool) (h : fn ≤ 8) :
    (fnAt (recordTaken s fn rs sent) fn).queue = rs ∧ (fnAt (recordTaken s fn rs sent) fn).crtail = (fnAt s fn).crtail + 1 ∧
    (fnAt (recordTaken s fn rs sent) fn).crhead = (fnAt s fn).crhead := by
  rw [recordTaken, fnAt_modFn_same s _ (Nat.lt_succ_of_le h)]
  exact ⟨rfl, rfl, rfl⟩
@[simp] theorem recordTaken_mem (s : State) (fn : Nat) (rs : List Record) (sent : Bool) :
    (recordTaken s fn rs sent).mem = s.mem := modFn_mem ..
@[simp] theorem recordTaken_tasks (s : State) (fn : Nat) (rs : List Record) (sent : Bool) :
    (recordTaken s fn rs sent).tasks = s.tasks := modFn_tasks ..
@[simp] theorem recordTaken_msix (s : State) (fn : Nat) (rs : List Record) (sent : Bool) :
    (recordTaken s fn rs sent).msix = s.msix := modFn_msix ..

@[simp] theorem recordWritten_tasks (s : State) (f : Fn) (r : Record) : (recordWritten s f r).tasks = s.tasks := write_tasks ..
@[simp] theorem recordWritten_msix (s : State) (f : Fn) (r : Record) : (recordWritten s f r).msix = s.msix := write_msix ..
theorem fnAt_recordWritten (s : State) (f : Fn) (r : Record) (g : Nat) : fnAt (recordWritten s f r) g = fnAt s g := by
  rw [fnAt, fnAt, recordWritten, write_fns]
theorem read_recordWritten (s : State) (f : Fn) (r : Record) :
    (recordWritten s f r).read (recordPlace f) 16 = recordBytes r (f.crtail.toNat / 2 ^ crLog f) s.timebase := by
  have h := read_write s (recordPlace f) (recordBytes r (f.crtail.toNat / 2 ^ crLog f) s.timebase)
  rwa [length_recordBytes] at h
theorem byte_recordWritten_other (s : State) (f : Fn) (r : Record) {a : Nat} (h : a < recordPlace f ∨ recordPlace f + 16 ≤ a) :
    (recordWritten s f r).byte a = s.byte a :=
  byte_write_other s _ _ a (by rwa [length_recordBytes])

/-- What a posted record leaves, its vector apart: its bytes in the ring, the ring and the queue one further. -/
theorem record_posted (s : State) {fn : Nat} (r : Record) (rs : List Record) (h : fn ≤ 8) (sent : Bool) :
    let t := recordTaken (recordWritten s (fnAt s fn) r) fn rs sent
    (fnAt t fn).queue = rs ∧ (fnAt t fn).crtail = (fnAt s fn).crtail + 1 ∧ (fnAt t fn).crhead = (fnAt s fn).crhead ∧
    t.read (recordPlace (fnAt s fn)) 16 = recordBytes r ((fnAt s fn).crtail.toNat / 2 ^ crLog (fnAt s fn)) s.timebase ∧
    (∀ a, a < recordPlace (fnAt s fn) ∨ recordPlace (fnAt s fn) + 16 ≤ a → t.byte a = s.byte a) ∧ t.msix = s.msix ∧ t.tasks = s.tasks := by
  obtain ⟨hqueue, htail, hhead⟩ := recordTaken_ring (recordWritten s (fnAt s fn) r) rs sent h
  rw [fnAt_recordWritten] at htail hhead
  refine ⟨hqueue, htail, hhead, ?_, fun a ha => ?_, by simp, by simp⟩
  · rw [State.read, recordTaken_mem]
    exact read_recordWritten s _ r
  · rw [State.byte, recordTaken_mem]
    exact byte_recordWritten_other s _ r ha

section
variable {s : State} {fn : Nat} {r : Record} {rs : List Record} (hfn : fn ≤ 8) (hq : (fnAt s fn).queue = r :: rs)
  (hl : crLog (fnAt s fn) ≠ 0)
include hfn hq hl

theorem completionPost_full (h : 2 ^ crLog (fnAt s fn) ≤ ((fnAt s fn).crtail - (fnAt s fn).crhead).toNat) :
    execCompletionPost fn s = .next (s.modFn fn fun f => { f with crstat := f.crstat ||| 0x1 }) := by
  unfold execCompletionPost
  simp only [hq]
  rw [if_neg (by simp [hl, hfn]), if_pos h]

variable (h : ((fnAt s fn).crtail - (fnAt s fn).crhead).toNat < 2 ^ crLog (fnAt s fn))
include h

theorem completionPost_sends (hs : bits (fnAt s fn).crirq.toNat 0 16 ≤ (fnAt s fn).unsig + 1) :
    execCompletionPost fn s = .next ((recordTaken (recordWritten s (fnAt s fn) r) fn rs true).signalVec fn 0) := by
  unfold execCompletionPost
  simp only [hq]
  rw [if_neg (by simp [hl, hfn]), if_neg (Nat.not_le.mpr h), if_pos hs]
  simp only [ge_iff_le, hs, if_true, recordTaken, recordWritten, recordPlace]
theorem completionPost_counts (hs : ¬ bits (fnAt s fn).crirq.toNat 0 16 ≤ (fnAt s fn).unsig + 1) :
    execCompletionPost fn s = .next (recordTaken (recordWritten s (fnAt s fn) r) fn rs false) := by
  unfold execCompletionPost
  simp only [hq]
  rw [if_neg (by simp [hl, hfn]), if_neg (Nat.not_le.mpr h), if_neg hs]
  simp only [ge_iff_le, hs, if_false, recordTaken, recordWritten, recordPlace, Bool.false_eq_true]
end

/-! ## The timer, CRHEAD and CRSIZE (R58, R59) -/

theorem completionIrqTimer_sends {s : State} {fn : Nat} (hn : (fnAt s fn).unsig ≠ 0) (hu : bits (fnAt s fn).crirq.toNat 16 16 ≠ 0)
    (ht : (fnAt s fn).unsigAt + 1000 * bits (fnAt s fn).crirq.toNat 16 16 ≤ s.timebase.toNat) :
    execCompletionIrqTimer fn s = .next ((s.modFn fn fun f => { f with unsig := 0 }).signalVec fn 0) := by
  simp [execCompletionIrqTimer, hn, hu, ht]
theorem completionIrqTimer_waits {s : State} {fn : Nat} (h : (fnAt s fn).unsig = 0 ∨ bits (fnAt s fn).crirq.toNat 16 16 = 0 ∨
    s.timebase.toNat < (fnAt s fn).unsigAt + 1000 * bits (fnAt s fn).crirq.toNat 16 16) : execCompletionIrqTimer fn s = .next s := by
  unfold execCompletionIrqTimer
  rw [if_neg]
  rcases h with h | h | h <;> simp [h]

theorem crheadWrite_taken {s : State} {fn : Nat} {v : W64} (h : ((fnAt s fn).crtail - v.extractLsb' 0 32).toNat < 2 ^ 31) :
    execCrheadWrite fn v s = .next (s.modFn fn fun f => { f with crhead := v.extractLsb' 0 32 }) := congrArg _ (if_pos h)
theorem crheadWrite_ignored {s : State} {fn : Nat} {v : W64} (h : 2 ^ 31 ≤ ((fnAt s fn).crtail - v.extractLsb' 0 32).toNat) :
    execCrheadWrite fn v s = .next s := congrArg _ (if_neg (Nat.not_lt.mpr h))

/-- A size of a ring that CRSIZE takes (R48). -/
def SizeInRange (v : W64) : Prop := 8 ≤ (v.extractLsb' 0 5).toNat ∧ (v.extractLsb' 0 5).toNat ≤ 20

section
variable {v : W64}

theorem logField_inside (h : SizeInRange v) :
    logField v 8 20 = BitVec.ofNat 64 (v.extractLsb' 0 5).toNat := by
  simp only [logField, bits_toNat]
  exact if_pos (by simpa only [SizeInRange, Bool.and_eq_true, decide_eq_true_eq] using h)
theorem logField_outside (h : ¬ SizeInRange v) : logField v 8 20 = 0 := by
  simp only [logField, bits_toNat]
  exact if_neg (by simpa only [SizeInRange, Bool.and_eq_true, decide_eq_true_eq] using h)
theorem logField_ne_zero (h : SizeInRange v) : logField v 8 20 ≠ 0 := by
  rw [logField_inside h]
  unfold SizeInRange at h
  generalize (v.extractLsb' 0 5).toNat = l at h
  bv_omega

theorem crsizeWrite_enables (s : State) (fn : Nat) (h : SizeInRange v) :
    execCrsizeWrite fn v s = .next (s.modFn fn fun f =>
      { f with crsize := BitVec.ofNat 64 (v.extractLsb' 0 5).toNat, queue := f.held ++ f.queue, held := [] }) := by
  simp only [execCrsizeWrite, logField_ne_zero h, if_false]
  rw [logField_inside h]
theorem crsizeWrite_disables (s : State) (fn : Nat) (h : ¬ SizeInRange v) :
    execCrsizeWrite fn v s = .next (s.modFn fn fun f =>
      { f with crsize := 0, queue := [], held := f.held ++ f.queue.filter (·.kill) }) := by
  simp only [execCrsizeWrite, logField_outside h, if_true]
end

/-- Settles O48: a record posted, with its place and its vector, or kept back by a full ring; then the timer and the two registers by the
values they take. -/
theorem completionResults : Obligations.CompletionResults := by
  refine ⟨fun s fn r rs hfn hq hl => ⟨fun hroom => ?_, completionPost_full hfn hq hl⟩,
    fun s fn => ⟨completionIrqTimer_sends, completionIrqTimer_waits⟩, fun s fn v => ⟨crheadWrite_taken, crheadWrite_ignored⟩,
    fun s fn v hfn => ?_⟩
  · by_cases hs : bits (fnAt s fn).crirq.toNat 0 16 ≤ (fnAt s fn).unsig + 1
    · obtain ⟨hqueue, htail, hhead, hread, hother, hmsix, htasks⟩ := record_posted s r rs hfn true
      exact ⟨_, completionPost_sends hfn hq hl hroom hs, hqueue, htail, hhead, hread, hother,
        (congrArg (· ++ [(fn, 0)]) hmsix).trans (if_pos hs).symm, htasks⟩
    · obtain ⟨hqueue, htail, hhead, hread, hother, hmsix, htasks⟩ := record_posted s r rs hfn false
      exact ⟨_, completionPost_counts hfn hq hl hroom hs, hqueue, htail, hhead, hread, hother, hmsix.trans (if_neg hs).symm, htasks⟩
  · have hlt : fn < 9 := Nat.lt_succ_of_le hfn
    by_cases h : SizeInRange v
    · refine ⟨_, crsizeWrite_enables s fn h, fun g hg => fnAt_modFn_other s hg _, modFn_mem .., fun _ => ?_, fun hn => absurd h hn⟩
      rw [fnAt_modFn_same s _ hlt]
      exact ⟨rfl, rfl, rfl⟩
    · refine ⟨_, crsizeWrite_disables s fn h, fun g hg => fnAt_modFn_other s hg _, modFn_mem .., fun hin => absurd hin h, fun _ => ?_⟩
      rw [fnAt_modFn_same s _ hlt]
      exact ⟨rfl, rfl, rfl⟩

end Sys2Proof.Machine
end

section
/-! SUPPORT. Registers of the resident tasks in steps of the memory system: monitors, staged copies and MSTAT may change, no x, predicate or
vector register does (R140, R190, R255). -/

namespace Sys2Proof.Machine

/-! ## One task -/

/-- Two tasks whose x, predicate and vector registers agree. -/
structure SameFile (a b : Task) : Prop where
  x : ∀ g, (b.stm g).x = (a.stm g).x
  p : ∀ g, (b.stm g).p = (a.stm g).p
  v : b.v = a.v

theorem SameFile.refl (t : Task) : SameFile t t := ⟨fun _ => rfl, fun _ => rfl, rfl⟩
theorem SameFile.trans {a b c : Task} (h : SameFile a b) (h' : SameFile b c) : SameFile a c :=
  ⟨fun g => (h'.x g).trans (h.x g), fun g => (h'.p g).trans (h.p g), h'.v.trans h.v⟩
theorem SameFile.of_eq {a b : Task} (hs : b.st = a.st) (hv : b.v = a.v) : SameFile a b :=
  ⟨fun g => by rw [Task.stm, hs, Task.stm], fun g => by rw [Task.stm, hs, Task.stm], hv⟩
/-- A trigger of its monitors leaves the registers of a task. -/
theorem sameFile_trig (t : Task) (f : Mon → Mon) : SameFile t { t with st := t.st.map (EStream.trig f) } := by
  have h (g : Eng) : ({ t with st := t.st.map (EStream.trig f) } : Task).stm g = (t.stm g).trig f := Vector.getElem_map _ _
  exact ⟨fun g => by rw [h]; rfl, fun g => by rw [h]; rfl, rfl⟩

/-! ## All resident tasks -/

/-- No x, predicate or vector register of a resident task differs. -/
def RegsKept (s t : State) : Prop := ∀ c i, SameFile (s.task c i) (t.task c i)

theorem RegsKept.refl (s : State) : RegsKept s s := fun _ _ => .refl _
theorem RegsKept.trans {s t u : State} (h : RegsKept s t) (h' : RegsKept t u) : RegsKept s u := fun c i => (h c i).trans (h' c i)
theorem RegsKept.of_tasks {s t : State} (h : t.tasks = s.tasks) : RegsKept s t := fun c i => by
  rw [State.task, State.task, h]
  exact .refl _
theorem RegsKept.ite {s t u : State} {c : Prop} [Decidable c] (ht : RegsKept s t) (hu : RegsKept s u) :
    RegsKept s (if c then t else u) := by
  split
  · exact ht
  · exact hu
theorem RegsKept.foldl {α : Type} {f : State → α → State} (h : ∀ s a, RegsKept s (f s a)) (l : List α) (s : State) :
    RegsKept s (l.foldl f s) :=
  List.foldlRecOn l f (.refl s) fun t ht a _ => ht.trans (h t a)
/-- An update of each task that keeps its registers. -/
theorem RegsKept.of_map {s t : State} {f : Nat × Task → Nat × Task} (hk : ∀ e, (f e).1 = e.1) (hf : ∀ e, SameFile e.2 (f e).2)
    (h : t.tasks = s.tasks.map f) : RegsKept s t := fun c i => by
  rw [State.task, State.task, h]
  rcases tget_map Task.empty f hk s.tasks (slotKey c i) with ⟨ht, hs⟩ | ht
  · rw [ht, hs]
    exact .refl _
  · rw [ht]
    exact hf (slotKey c i, tget Task.empty s.tasks (slotKey c i))
theorem regsKept_modTask (s : State) (c k : Nat) {f : Task → Task} (hf : ∀ t, SameFile t (f t)) : RegsKept s (s.modTask c k f) :=
  fun c' k' => by
    by_cases h : slotKey c' k' = slotKey c k
    · have hs : s.task c' k' = s.task c k := by rw [State.task, State.task, h]
      have ht : (s.modTask c k f).task c' k' = f (s.task c k) := by
        rw [← task_modTask s c k f, State.task, State.task, h]
      rw [hs, ht]
      exact hf _
    · rw [task_modTask_other s c k f h]
      exact .refl _
theorem regsKept_modOwn (s : State) (r : Ref) (tid : Nat) {f : Task → Task} (hf : ∀ t, SameFile t (f t)) :
    RegsKept s (s.modOwn r tid f) := .ite (regsKept_modTask s _ _ hf) (.of_tasks rfl)

/-! ## Protected words (R255) -/

theorem regsKept_poisonStaged (s : State) (tid piece : Nat) : RegsKept s (poisonStaged s tid piece) := by
  unfold poisonStaged
  extract_lets add
  refine .of_map (f := fun e => (e.1, add e.2)) (fun _ => rfl) (fun e => ?_) rfl
  dsimp only [add]
  split
  · exact .of_eq rfl rfl
  · exact .refl _
theorem regsKept_eccWord (s : State) (k : Nat) : RegsKept s (eccWord s k) := by
  unfold eccWord
  extract_lets w ks n clear _ _ piece s₁ _
  have h₁ : RegsKept s s₁ := .ite (.refl s) (.ite ((RegsKept.of_tasks rfl).trans (regsKept_poisonStaged (clear s) _ _)) (.of_tasks rfl))
  exact .ite (.refl s) (.ite (.of_tasks rfl) (h₁.trans (.of_tasks rfl)))
theorem regsKept_eccRead (s : State) (k n : Nat) : RegsKept s (eccRead s k n) :=
  .ite (.refl s) (.foldl (fun s i => regsKept_eccWord s (4 * i)) _ s)
theorem regsKept_eccWrite (s : State) (k n : Nat) : RegsKept s (eccWrite s k n) := by
  unfold eccWrite
  refine .ite (.refl s) (RegsKept.trans ?_ (regsKept_eccRead _ k n))
  exact .of_tasks rfl

/-! ## A write outside HBM, and an acquire -/

theorem regsKept_wroteAt (s : State) (key : Option Nat) (virt : Option (Nat × Nat)) (cnt : Nat) (only : Option Nat) :
    RegsKept s (wroteAt s key virt cnt only) := by
  unfold wroteAt
  split
  · refine .of_map (fun e => ?_) (fun e => ?_) rfl
    · dsimp only
      split <;> rfl
    · dsimp only
      split
      · exact sameFile_trig _ _
      · exact .refl _
  · exact .refl s
theorem regsKept_mediaWrote (s : State) (k n : Nat) : RegsKept s (mediaWrote s k n) := by
  unfold mediaWrote
  extract_lets hit
  exact .ite (.of_tasks rfl) (.refl s)
@[simp] theorem watch_tasks (s : State) (lines : List Nat) : (watch s lines).tasks = s.tasks := rfl
/-- Above HBM no line of the L2 moves. -/
theorem regsKept_plainWrite (s : State) (virt : Option (Nat × Nat)) {k : Nat} (bs : List Byte) (h : 4 * 2 ^ 40 ≤ k) :
    RegsKept s (plainWrite s virt k bs) := by
  have hecc : RegsKept s (homeAlloc s k bs.length) := by
    rw [homeAlloc, if_neg (Nat.not_lt.mpr h)]
    exact regsKept_eccWrite s k _
  unfold plainWrite
  extract_lets s₁ s₂
  have h₁ : RegsKept s s₁ := hecc.trans (.of_tasks (write_tasks ..))
  have h₂ : RegsKept s₁ s₂ := .of_tasks rfl
  have h₃ : RegsKept s₂ (watch (wroteAt s₂ (some (k / 256)) virt (linesIn k bs.length).length none) (linesIn k bs.length)) :=
    (regsKept_wroteAt s₂ _ virt _ none).trans (.of_tasks (watch_tasks ..))
  exact ((h₁.trans h₂).trans h₃).trans (regsKept_mediaWrote _ k _)

theorem regsKept_dropViews (s : State) (core cid : Nat) (sc : Scope) : RegsKept s (s.dropViews core cid sc) := fun c i => by
  rcases task_trigLeave s.tasks core cid _ (slotKey c i) with h | h <;> rw [State.task, State.task, State.dropViews, h]
  · exact .refl _
  · exact sameFile_trig _ _

end Sys2Proof.Machine
end

section
/-! SUPPORT. The side effects of an ordered access (R190, R193), and a store to a window of its own core (R183, R197, R351). -/

namespace Sys2Proof.Machine

/-! ## An ordered access -/

/-- At most tasks, resident and saved, and view caches differ. -/
def TasksOnly (s t : State) : Prop := t = { s with tasks := t.tasks, jobs := t.jobs, views := t.views }

theorem TasksOnly.refl (s : State) : TasksOnly s s := rfl
theorem TasksOnly.trans {s t u : State} (h : TasksOnly s t) (h' : TasksOnly t u) : TasksOnly s u := by
  unfold TasksOnly at *
  rw [h', h]
theorem TasksOnly.mem {s t : State} (h : TasksOnly s t) : t.mem = s.mem := by rw [h]
theorem TasksOnly.fns {s t : State} (h : TasksOnly s t) : t.fns = s.fns := by rw [h]
theorem TasksOnly.kcfg {s t : State} (h : TasksOnly s t) : t.kcfg = s.kcfg := by rw [h]
theorem TasksOnly.slotCid {s t : State} (h : TasksOnly s t) : t.slotCid = s.slotCid := by rw [h]

/-- What a save frame holds of each saved task's window, and which rows of it are live, are as they were. -/
def FramesKept (s t : State) : Prop := ∃ g : Job → Job, t.jobs = s.jobs.map g ∧
  ∀ j, (g j).t.tid = j.t.tid ∧ (g j).rows = j.rows ∧ (g j).t.c.vlive = j.t.c.vlive

theorem FramesKept.of_jobs {s t : State} (h : t.jobs = s.jobs) : FramesKept s t :=
  ⟨id, by rw [h, List.map_id], fun _ => ⟨rfl, rfl, rfl⟩⟩
theorem framesKept_modOwn (s : State) (r : Ref) (tid : Nat) {f : Task → Task}
    (hf : ∀ t, (f t).tid = t.tid ∧ (f t).c.vlive = t.c.vlive) : FramesKept s (s.modOwn r tid f) := by
  unfold State.modOwn
  split
  · exact .of_jobs rfl
  · refine ⟨_, rfl, fun j => ?_⟩
    split
    · exact ⟨(hf j.t).1, rfl, (hf j.t).2⟩
    · exact ⟨rfl, rfl, rfl⟩
theorem FramesKept.away {s t : State} (h : FramesKept s t) (e : Entry) : e.away t = e.away s := by
  obtain ⟨g, hg, hk⟩ := h
  rw [Entry.away, hg, List.any_map, Entry.away]
  exact congrArg (s.jobs.any ·) (funext fun j => congrArg (· == e.tid) (hk j).1)

theorem tasksOnly_modOwn (s : State) (r : Ref) (tid : Nat) (f : Task → Task) : TasksOnly s (s.modOwn r tid f) := by
  unfold State.modOwn
  split <;> rfl

section
variable (s : State) (e : Entry)

theorem tasksOnly_markMiss : TasksOnly s (markMiss s e) := by
  unfold markMiss
  split
  · exact tasksOnly_modOwn s _ _ _
  · exact .refl s
theorem framesKept_markMiss : FramesKept s (markMiss s e) := by
  unfold markMiss
  split
  · exact framesKept_modOwn s _ _ fun _ => ⟨rfl, rfl⟩
  · exact .of_jobs rfl
theorem regsKept_markMiss : RegsKept s (markMiss s e) := .ite (regsKept_modOwn s _ _ fun _ => .of_eq rfl rfl) (.refl s)

/-- An acquire besides drops copies of the view cache. -/
theorem ordered_eq : ordered s e = markMiss s e ∨ ordered s e = (markMiss s e).dropViews e.r.core e.cid e.sc := by
  unfold ordered
  extract_lets u
  split
  · exact .inr rfl
  · exact .inl rfl
theorem tasksOnly_ordered : TasksOnly s (ordered s e) := by
  rcases ordered_eq s e with h | h <;> rw [h]
  · exact tasksOnly_markMiss s e
  · exact (tasksOnly_markMiss s e).trans rfl
theorem framesKept_ordered : FramesKept s (ordered s e) := by
  have hm : FramesKept s (markMiss s e) := framesKept_markMiss s e
  rcases ordered_eq s e with h | h <;> rw [h] <;> exact hm
theorem regsKept_ordered : RegsKept s (ordered s e) := by
  rcases ordered_eq s e with h | h <;> rw [h]
  · exact regsKept_markMiss s e
  · exact (regsKept_markMiss s e).trans (regsKept_dropViews _ _ _ _)
end

/-! ## An entry that is performed leaves -/

@[simp] theorem dropEntry_mem (s : State) (e : Entry) : (s.dropEntry e).mem = s.mem := rfl
theorem regsKept_dropEntry (s : State) (e : Entry) : RegsKept s (s.dropEntry e) := .of_tasks rfl
theorem uid_ne_of_mem_dropEntry (s : State) (e : Entry) : ∀ f ∈ (s.dropEntry e).paths, f.uid ≠ e.uid := fun f hf => by
  simpa using (List.mem_filter.mp hf).2

theorem memPerform_store {s : State} {uid : Nat} {e : Entry} {bs : List Byte} (he : entryOf s uid = some e) (hel : eligible s e = true)
    (hacc : e.acc = .store bs) : exec (.memPerform uid) s = doStore s e bs := by
  simp [execMemPerform, he, hel, performEntry, hacc]

/-! ## Windows of a core -/

theorem localKey_congr {s t : State} (h : t.kcfg = s.kcfg) (r : Ref) (sp : Space) (lane a : Nat) :
    localKey t r sp lane a = localKey s r sp lane a := by
  simp only [localKey, cspan, exportBytes, kexp, kcfgOf, h]
/-- A core's scratchpad and its lanes' memory lie above HBM. -/
theorem localKey_above (s : State) {r : Ref} {sp : Space} (lane a : Nat) (h : sp = .c ∨ sp = .l) :
    4 * 2 ^ 40 ≤ localKey s r sp lane a := by
  rcases h with rfl | rfl
  · simp only [localKey, coreKey]
    omega
  · simp only [localKey, rowKey]
    omega

/-- Where a store to a window of its own core goes. -/
def Entry.windowKey (s : State) (e : Entry) : Nat := localKey s e.r e.sp e.lane e.addr
/-- Whether another context has taken the slot of an entry. -/
def SlotTaken (s : State) (e : Entry) : Prop := tget 0 s.slotCid (slotKey e.r.core e.r.slot) ≠ e.cid + 1
/-- Whether a store reaches its bank: its task is resident, or it is to .c and the slot is still its context's. -/
def ReachesBank (s : State) (e : Entry) : Prop := e.away s = false ∨ (e.sp = .c ∧ ¬ SlotTaken s e)
/-- A store in .l at an offset of its window, in the save frame of its task. -/
def laneSaved (s : State) (e : Entry) (at_ : Nat) (bs : List Byte) : State :=
  { s with jobs := s.jobs.map fun j =>
    if j.t.tid == e.tid && liveRow j.t (at_ / 256) then { j with rows := writeKeys j.rows at_ bs } else j }
/-- A place in a lane's memory as an offset of its slot's window. -/
def Entry.windowOff (s : State) (e : Entry) : Nat := e.windowKey s - rowKey e.r.core (2048 * e.r.slot) 0 0

section
variable {s : State} {e : Entry} {bs : List Byte}

theorem awayStore_bank (h : ReachesBank s e) : awayStore s e bs = none := by
  rcases h with h | ⟨hc, hn⟩
  · simp [awayStore, h]
  · simp only [SlotTaken, ne_eq, not_not] at hn
    simp [awayStore, hc, hn]
theorem awayStore_lane (ha : e.away s = true) (hl : e.sp = .l) : awayStore s e bs = some (laneSaved s e (e.windowOff s) bs) := by
  unfold awayStore
  rw [if_neg (by simp [ha]), if_pos hl]
  rfl
theorem awayStore_taken (ha : e.away s = true) (hc : e.sp = .c) (ht : SlotTaken s e) : awayStore s e bs = some s := by
  unfold SlotTaken at ht
  simp [awayStore, ha, hc, ht]

theorem localWrite_window (hw : e.sp = .c ∨ e.sp = .l) : localWrite s e bs = plainWrite s none (e.windowKey s) bs := by
  rcases hw with h | h <;> simp [localWrite, atBank, claimPart, h, Entry.windowKey]
end

theorem laneSaved_mem (s : State) (e : Entry) (at_ : Nat) (bs : List Byte) : (laneSaved s e at_ bs).mem = s.mem := rfl
/-- The rows of each save frame after a store in .l of a saved task, by what the frames held before the side effects of its order. -/
theorem laneSaved_rows {s o : State} (h : FramesKept s o) (e : Entry) (at_ : Nat) (bs : List Byte) :
    ((laneSaved o e at_ bs).jobs.map fun j => (j.t.tid, j.rows)) = s.jobs.map fun j =>
      (j.t.tid, if j.t.tid = e.tid ∧ liveRow j.t (at_ / 256) = true then writeKeys j.rows at_ bs else j.rows) := by
  obtain ⟨g, hg, hk⟩ := h
  simp only [laneSaved, hg, List.map_map]
  refine List.map_congr_left fun j _ => ?_
  obtain ⟨htid, hrows, hlive⟩ := hk j
  have hlive' : liveRow (g j).t (at_ / 256) = liveRow j.t (at_ / 256) := by rw [liveRow, hlive, liveRow]
  simp only [Function.comp_apply, Bool.and_eq_true, beq_iff_eq, htid, hlive']
  by_cases hin : j.t.tid = e.tid ∧ liveRow j.t (at_ / 256) = true
  · simp only [if_pos hin, htid, hrows]
  · simp only [if_neg hin, htid, hrows]

section
variable {s : State} {e : Entry} {bs : List Byte} (hw : e.sp = .c ∨ e.sp = .l)
include hw

theorem doStore_window : doStore s e bs =
    .next (((awayStore (ordered s e) e bs).getD (plainWrite (ordered s e) none (e.windowKey s) bs)).dropEntry e) := by
  have hg : e.isGlobal = false := by rcases hw with h | h <;> simp [Entry.isGlobal, h]
  have hk : e.windowKey (ordered s e) = e.windowKey s := localKey_congr (tasksOnly_ordered s e).kcfg ..
  simp only [doStore, hg, Bool.not_false, if_true, localWrite_window hw, hk]

theorem doStore_bank (h : ReachesBank s e) :
    doStore s e bs = .next ((plainWrite (ordered s e) none (e.windowKey s) bs).dropEntry e) := by
  have ho : ReachesBank (ordered s e) e := by
    rwa [ReachesBank, (framesKept_ordered s e).away, SlotTaken, (tasksOnly_ordered s e).slotCid]
  rw [doStore_window hw, awayStore_bank ho, Option.getD_none]
theorem doStore_lane (ha : e.away s = true) (hl : e.sp = .l) :
    doStore s e bs = .next ((laneSaved (ordered s e) e (e.windowOff s) bs).dropEntry e) := by
  have hk : e.windowOff (ordered s e) = e.windowOff s := congrArg (· - _) (localKey_congr (tasksOnly_ordered s e).kcfg ..)
  rw [doStore_window hw, awayStore_lane (((framesKept_ordered s e).away e).trans ha) hl, Option.getD_some, hk]
theorem doStore_taken (ha : e.away s = true) (hc : e.sp = .c) (ht : SlotTaken s e) :
    doStore s e bs = .next ((ordered s e).dropEntry e) := by
  have ho : SlotTaken (ordered s e) e := by rwa [SlotTaken, (tasksOnly_ordered s e).slotCid]
  rw [doStore_window hw, awayStore_taken (((framesKept_ordered s e).away e).trans ha) hc ho, Option.getD_some]

end

theorem plainWrite_mem_of_mem {s t : State} (hm : t.mem = s.mem) (virt : Option (Nat × Nat)) (k : Nat) (bs : List Byte) :
    (plainWrite t virt k bs).mem = (s.write k bs).mem := by
  rw [plainWrite_mem, State.write, hm, State.write]
/-- The bytes of memory once a write is all that was done to it. -/
theorem bytes_of_write {s t : State} {k : Nat} {bs : List Byte} (h : t.mem = (s.write k bs).mem) :
    (∀ i, i < bs.length → t.byte (k + i) = bs.getD i 0) ∧ ∀ a, a < k ∨ k + bs.length ≤ a → t.byte a = s.byte a := by
  have hb (a : Nat) : t.byte a = (s.write k bs).byte a := by rw [State.byte, h, State.byte]
  exact ⟨fun i hi => (hb _).trans (byte_write_within s k bs i hi), fun a ha => (hb a).trans (byte_write_other s k bs a ha)⟩

/-- The clauses of a store to a window of its core: at its bank, in the save frame of its task, or lost to another context. -/
theorem localStorePerformed : Rule.LocalStorePerformed := by
  intro s uid e bs he hel hacc hw
  rw [memPerform_store he hel hacc]
  have ho : RegsKept s (ordered s e) := regsKept_ordered s e
  have hregs {t : State} (h : RegsKept (ordered s e) t) : ∀ c i g, (((t.dropEntry e).task c i).stm g).x = ((s.task c i).stm g).x ∧
      (((t.dropEntry e).task c i).stm g).p = ((s.task c i).stm g).p ∧ ((t.dropEntry e).task c i).v = (s.task c i).v := fun c i g =>
    have hf := ((ho.trans h).trans (regsKept_dropEntry t e)) c i
    ⟨hf.x g, hf.p g, hf.v⟩
  have hmem : (ordered s e).mem = s.mem := (tasksOnly_ordered s e).mem
  by_cases hb : ReachesBank s e
  · have hnot (ha : e.away s = true) : ¬ (e.sp = .l ∨ SlotTaken s e) := by
      obtain ⟨hc, ht⟩ := hb.resolve_left (by simp [ha])
      simp [hc, ht]
    have hwrite : ((plainWrite (ordered s e) none (e.windowKey s) bs).dropEntry e).mem = (s.write (e.windowKey s) bs).mem :=
      (dropEntry_mem ..).trans (plainWrite_mem_of_mem hmem ..)
    exact ⟨_, doStore_bank hw hb, fun _ => bytes_of_write hwrite, fun ha h => absurd h (hnot ha),
      fun ha hl => absurd (.inl hl) (hnot ha), uid_ne_of_mem_dropEntry _ e,
      hregs (regsKept_plainWrite _ none bs (localKey_above s e.lane e.addr hw))⟩
  · have ha : e.away s = true := by
      simpa using fun h => hb (.inl h)
    rcases hw with hc | hl
    · have ht : SlotTaken s e := by
        by_contra h
        exact hb (.inr ⟨hc, h⟩)
      exact ⟨_, doStore_taken (.inl hc) ha hc ht, fun h => absurd h hb, fun _ _ => hmem, fun _ hl => by simp [hc] at hl,
        uid_ne_of_mem_dropEntry _ e, hregs (.refl _)⟩
    · have hlane : ((laneSaved (ordered s e) e (e.windowOff s) bs).dropEntry e).mem = s.mem :=
        (dropEntry_mem ..).trans ((laneSaved_mem ..).trans hmem)
      exact ⟨_, doStore_lane (.inr hl) ha hl, fun h => absurd h hb, fun _ _ => hlane,
        fun _ _ => laneSaved_rows (framesKept_ordered s e) e (e.windowOff s) bs, uid_ne_of_mem_dropEntry _ e, hregs (.of_tasks rfl)⟩

end Sys2Proof.Machine
end

section
/-! SUPPORT. A store to global space of a task that stages nothing (R60, R183, R351). -/

namespace Sys2Proof.Machine

theorem hide_mem (s : State) (w : Who) (k n : Nat) : (hide s w k n).mem = s.mem := by
  unfold hide
  split <;> rfl
theorem viewWrite_mem (s : State) (core cid a : Nat) (bs : List Byte) (staged : Bool) :
    (viewWrite s core cid a bs staged).mem = s.mem := by
  unfold viewWrite
  extract_lets mine
  split <;> rfl
theorem viewWrite_fns (s : State) (core cid a : Nat) (bs : List Byte) (staged : Bool) :
    (viewWrite s core cid a bs staged).fns = s.fns := by
  unfold viewWrite
  extract_lets mine
  split <;> rfl

/-! ## A write at its home -/

section
variable {s : State} {w : Who} {k : Nat} {bs : List Byte} (virt : Option (Nat × Nat))

theorem homeWrite_unstaged (h : w.stager s = none) (hp : peerFails s k bs.length = false) :
    homeWrite s w virt k bs = plainWrite (hide s w k bs.length) virt k bs := by
  simp [homeWrite, h, hp]
theorem homeWrite_failed (hp : peerFails s k bs.length = true) : homeWrite s w virt k bs = peerLost s w := by
  simp [homeWrite, hp]
end

theorem peerLost_mem (s : State) (w : Who) : (peerLost s w).mem = s.mem := by simp [peerLost]
/-- R60: APERR of the function of the context's tenant. -/
theorem peerLost_crstat (s : State) {w : Who} (h : tenantOf s w.cid < 8) :
    (fnAt (peerLost s w) (tenantOf s w.cid + 1)).crstat.getLsbD 1 = true := by
  have hf : fnAt (peerLost s w) (tenantOf s w.cid + 1) =
      { fnAt s (tenantOf s w.cid + 1) with crstat := (fnAt s (tenantOf s w.cid + 1)).crstat ||| 0x2 } :=
    fnAt_modFn_same s _ (Nat.succ_lt_succ h)
  simp [hf]

theorem gWrite_at {w : Who} {a k : Nat} {bs : List Byte} {ex : Bool} {s u : State} (h : locate w a bs.length .wr s = .ok (.at k, ex) u) :
    gWrite w a bs s = .ok () (homeWrite u w (some (w.cid, a / 256)) k bs) := by
  simp only [gWrite, bind, EStateM.bind, h]
  rfl

/-! ## The store -/

/-- What a store that was written at its home leaves: an acquire's or a release's effects, the copies of its lines in the core's view
cache, and its entry gone. -/
def storeLeft (t : State) (e : Entry) (bs : List Byte) (staged : Bool) : State :=
  (viewWrite (ordered t e) e.r.core e.cid e.addr bs staged).dropEntry e

theorem storeLeft_mem (t : State) (e : Entry) (bs : List Byte) (staged : Bool) : (storeLeft t e bs staged).mem = t.mem :=
  (viewWrite_mem ..).trans (tasksOnly_ordered t e).mem
theorem storeLeft_fns (t : State) (e : Entry) (bs : List Byte) (staged : Bool) : (storeLeft t e bs staged).fns = t.fns :=
  (viewWrite_fns ..).trans (tasksOnly_ordered t e).fns

theorem doStore_global {s u : State} {k : Nat} {e : Entry} {bs : List Byte} {ex : Bool} (hg : e.sp = .g) (hlog : logBlocks s e = false)
    (hloc : locate e.who e.addr bs.length .wr s = .ok (.at k, ex) u) :
    ∃ staged, doStore s e bs = .next (storeLeft (homeWrite u e.who (some (e.cid, e.addr / 256)) k bs) e bs staged) := by
  refine ⟨(e.who.stager s).isSome && (e.who.stager (homeWrite u e.who (some (e.cid, e.addr / 256)) k bs)).isSome, ?_⟩
  simp only [doStore, Entry.isGlobal, hg, BEq.rfl, Bool.not_true, Bool.false_eq_true, if_false, hlog, gWrite_at hloc]
  rfl

/-- The clauses of a store to global space: at its home, or lost by a peer. -/
theorem globalStorePerformed : Rule.GlobalStorePerformed := by
  intro s u uid k e bs ex he hel hacc hg hlog hloc hst
  obtain ⟨staged, hdo⟩ := doStore_global hg hlog hloc
  rw [memPerform_store he hel hacc]
  refine ⟨_, hdo, uid_ne_of_mem_dropEntry _ e, fun hp => ?_, fun hp ht => ?_⟩
  · refine bytes_of_write ((storeLeft_mem ..).trans ?_)
    rw [homeWrite_unstaged _ hst hp]
    exact plainWrite_mem_of_mem (hide_mem ..) ..
  · have hlost : homeWrite u e.who (some (e.cid, e.addr / 256)) k bs = peerLost u e.who := homeWrite_failed _ hp
    rw [hlost]
    refine ⟨(storeLeft_mem ..).trans (peerLost_mem u e.who), ?_⟩
    rw [fnAt, storeLeft_fns, ← fnAt]
    exact peerLost_crstat u ht

/-- Settles O22: a store to a window of its core, by where its task stands, and one to global space, by what its home answers. -/
theorem storesPerformed : Obligations.StoresPerformed := ⟨localStorePerformed, globalStorePerformed⟩

end Sys2Proof.Machine
end

section
/-! SUPPORT. What the output of a stream goes by, the descriptor in use, the count, the previous picture and whether the next is a first
one, is left by every access to memory that the M-die makes: such an access marks at most streams whose watched line it writes (R67, R68). -/

namespace Sys2Proof.Machine

/-- Two streams that put out their next picture alike. -/
structure SameOutput (a b : Media) : Prop where
  used : b.used = a.used
  n : b.n = a.n
  first : b.first = a.first
  last : b.last = a.last

theorem SameOutput.refl (m : Media) : SameOutput m m := ⟨rfl, rfl, rfl, rfl⟩
theorem SameOutput.trans {a b c : Media} (h : SameOutput a b) (h' : SameOutput b c) : SameOutput a c :=
  ⟨h'.used.trans h.used, h'.n.trans h.n, h'.first.trans h.first, h'.last.trans h.last⟩

/-- Every stream puts out its next picture alike. -/
def OutputKept (s t : State) : Prop := ∀ i, SameOutput (mediaOf s i) (mediaOf t i)

theorem OutputKept.refl (s : State) : OutputKept s s := fun _ => .refl _
theorem OutputKept.trans {s t u : State} (h : OutputKept s t) (h' : OutputKept t u) : OutputKept s u := fun i => (h i).trans (h' i)
theorem OutputKept.of_strm {s t : State} (h : t.strm = s.strm) : OutputKept s t := fun i => by
  rw [mediaOf, mediaOf, hst_congr h]
  exact .refl _
theorem OutputKept.ite {s t u : State} {c : Prop} [Decidable c] (ht : OutputKept s t) (hu : OutputKept s u) :
    OutputKept s (if c then t else u) := by
  split
  · exact ht
  · exact hu
theorem LinksOnly.outputKept {s t : State} (h : LinksOnly s t) : OutputKept s t := .of_strm (by rw [h])
theorem HomeOnly.outputKept {s t : State} (h : HomeOnly s t) : OutputKept s t := .of_strm (by rw [h])

theorem mediaOf_modMedia_same (s : State) (i : Nat) (f : Media → Media) : mediaOf (s.modMedia i f) i = f (mediaOf s i) :=
  congrArg HStream.media (hst_modStrm_same s i _)
theorem mediaOf_modMedia_other (s : State) {i j : Nat} (f : Media → Media) (h : j ≠ i) : mediaOf (s.modMedia i f) j = mediaOf s j :=
  congrArg HStream.media (hst_modStrm_other s _ h)
theorem outputKept_modMedia (s : State) (i : Nat) {f : Media → Media} (hf : ∀ m, SameOutput m (f m)) : OutputKept s (s.modMedia i f) :=
  fun j => by
    by_cases h : j = i
    · rw [h, mediaOf_modMedia_same]
      exact hf _
    · rw [mediaOf_modMedia_other s f h]
      exact .refl _

/-! ## A write at its home -/

theorem outputKept_mediaWrote (s : State) (k n : Nat) : OutputKept s (mediaWrote s k n) := by
  unfold mediaWrote
  extract_lets hit
  refine .ite (fun i => ?_) (.refl s)
  rw [mediaOf, mediaOf, hst, hst]
  dsimp only
  rcases tget_map HStream.empty (fun e : Nat × HStream => if hit e.2.media then
      (e.1, { e.2 with media := { e.2.media with auDue := true, relDue := true } }) else e)
    (fun e => by dsimp only; split <;> rfl) s.strm i with ⟨ht, hs⟩ | ht
  · rw [ht, hs]
    exact .refl _
  · rw [ht]
    dsimp only
    split
    · exact ⟨rfl, rfl, rfl, rfl⟩
    · exact .refl _
theorem wroteAt_strm (s : State) (key : Option Nat) (virt : Option (Nat × Nat)) (cnt : Nat) (only : Option Nat) :
    (wroteAt s key virt cnt only).strm = s.strm := by
  unfold wroteAt
  split <;> rfl
theorem watch_strm (s : State) (lines : List Nat) : (watch s lines).strm = s.strm := rfl
theorem hide_strm (s : State) (w : Who) (k n : Nat) : (hide s w k n).strm = s.strm := by
  unfold hide
  split <;> rfl
theorem outputKept_plainWrite (s : State) (virt : Option (Nat × Nat)) (k : Nat) (bs : List Byte) :
    OutputKept s (plainWrite s virt k bs) := by
  unfold plainWrite
  extract_lets s₁ s₂
  have h₁ : OutputKept s s₁ := (homeOnly_homeAlloc s k bs.length).outputKept.trans (.of_strm (write_strm ..))
  have h₂ : OutputKept s₁ s₂ := .of_strm rfl
  have h₃ : OutputKept s₂ (watch (wroteAt s₂ (some (k / 256)) virt (linesIn k bs.length).length none) (linesIn k bs.length)) :=
    .of_strm ((watch_strm ..).trans (wroteAt_strm ..))
  exact ((h₁.trans h₂).trans h₃).trans (outputKept_mediaWrote _ k _)
theorem peerLost_strm (s : State) (w : Who) : (peerLost s w).strm = s.strm := by simp [peerLost]

/-! ## Computations -/

/-- What a computation that succeeds from a state leaves alike. -/
def Keeps {ε α : Type} (m : EStateM ε State α) (s : State) : Prop := ∀ x t, m s = .ok x t → OutputKept s t

section
variable {ε α β : Type} {s : State}

theorem Keeps.pure (x : α) : Keeps (pure x : EStateM ε State α) s := by
  rintro _ _ ⟨⟩
  exact .refl s
theorem Keeps.throw (e : ε) : Keeps (throw e : EStateM ε State α) s := by
  intro x t h
  cases h
theorem Keeps.set {t : State} (h : OutputKept s t) : Keeps (set t : EStateM ε State PUnit) s := by
  rintro _ _ ⟨⟩
  exact h
theorem Keeps.modify {f : State → State} (h : OutputKept s (f s)) : Keeps (modify f : EStateM ε State PUnit) s := by
  rintro _ _ ⟨⟩
  exact h
theorem Keeps.bind {m : EStateM ε State α} {f : α → EStateM ε State β} (hm : Keeps m s) (hf : ∀ x t, Keeps (f x) t) : Keeps (m >>= f) s := by
  intro y u h
  simp only [Bind.bind, EStateM.bind] at h
  split at h
  next x t hx => exact (hm x t hx).trans (hf x t y u h)
  next => cases h
/-- What follows a `get` knows the state it starts in. -/
theorem Keeps.get_bind {f : State → EStateM ε State β} (hf : Keeps (f s) s) : Keeps (get >>= f) s := hf
theorem Keeps.ite {c : Prop} [Decidable c] {m m' : EStateM ε State α} (h : Keeps m s) (h' : Keeps m' s) :
    Keeps (if c then m else m') s := by
  split
  · exact h
  · exact h'
/-- What follows either of two computations. -/
theorem Keeps.ite_bind {c : Prop} [Decidable c] {m m' : EStateM ε State α} {f : α → EStateM ε State β} (h : Keeps m s) (h' : Keeps m' s)
    (hf : ∀ x t, Keeps (f x) t) : Keeps (if c then m >>= f else m' >>= f) s := .ite (.bind h hf) (.bind h' hf)
/-- A computation that ends in an error does not succeed. -/
theorem Keeps.bind_throw (m : EStateM ε State α) (e : α → ε) : Keeps (m >>= fun x => (MonadExcept.throw (e x) : EStateM ε State β)) s := by
  intro y u h
  simp only [Bind.bind, EStateM.bind] at h
  split at h <;> cases h
theorem Keeps.throw_bind (e : ε) (f : β → EStateM ε State α) : Keeps (MonadExcept.throw e >>= f) s := by
  intro x t h
  cases h
/-- What follows a check that may end the computation. -/
theorem Keeps.check {c : Prop} [Decidable c] {e : ε} {f : β → EStateM ε State α} {m : EStateM ε State α} (h : Keeps m s) :
    Keeps (if c then MonadExcept.throw e >>= f else m) s := .ite (.throw_bind e f) h
end

/-! ## Translation (R167) -/

theorem outputKept_homeFetch (s : State) (k n : Nat) : OutputKept s (homeFetch s k n) := (homeOnly_homeFetch s k n).outputKept

theorem keeps_physAt (d p : Nat) (s : State) : Keeps (physAt d p) s := .ite (.pure _) (.throw _)

theorem tlbInstall_strm (s : State) (d sl cid page e : Nat) : (tlbInstall s d sl cid page e).strm = s.strm := rfl

theorem keeps_tableWalk (cid a : Nat) (s : State) : Keeps (tableWalk cid a) s := by
  unfold tableWalk
  refine .bind (.modify (outputKept_homeFetch _ _ _)) fun _ t => .get_bind <| .bind (keeps_physAt _ _ _) fun k₁ _ =>
    .bind (.modify (outputKept_homeFetch _ _ _)) fun _ _ => .get_bind <| .check <| .bind (keeps_physAt _ _ _) fun k₂ _ =>
    .bind (.modify (outputKept_homeFetch _ _ _)) fun _ _ => .get_bind <| .check <| .check <| .bind (.set ?_) fun _ _ => .pure _
  refine .of_strm ((tlbInstall_strm ..).trans ?_)
  split <;> rfl

theorem keeps_leafOf (cid a : Nat) (w : Want) (s : State) : Keeps (leafOf cid a w) s := by
  unfold leafOf
  have allowed (e : Nat) (t : State) : Keeps (if (!leafAllows e w) = true then MonadExcept.throw Miss.prot >>= fun _ : Unit => pure e
      else pure e : TM Nat) t := .check (.pure e)
  refine .get_bind <| .check ?_
  dsimp only
  split
  · exact .ite (.bind (keeps_tableWalk _ _ _) allowed) (.bind (.set (.of_strm rfl)) fun _ _ => .bind (.pure _) allowed)
  · exact .bind (keeps_tableWalk _ _ _) allowed

/-! ## Sparse-existence tiles (R177, R178) -/

theorem keeps_structKey (cid d a : Nat) (w : Want) (s : State) : Keeps (structKey cid d a w) s := by
  unfold structKey
  refine .check <| .get_bind ?_
  split
  case h_1 => exact .bind_throw _ _
  case h_2 => exact .bind_throw _ _
  case h_3 e t ht =>
    exact .bind (.set (keeps_leafOf cid a w s e t ht)) fun _ _ => .ite (.throw _) (.ite (.throw _) (keeps_physAt _ _ _))

theorem keeps_poolTile (r : Rgn) (k : Nat) (s : State) : Keeps (poolTile r k) s := by
  unfold poolTile
  exact .ite (.pure _) <| .ite (.throw _) <| .get_bind <| .bind (.set (.of_strm rfl)) fun _ _ => .pure _

section
variable {w : Who} (hw : w.owner = none)
include hw

theorem stager_none (s : State) : w.stager s = none := by simp [Who.stager, hw]
theorem harden_strm (s : State) : (w.harden s).strm = s.strm := by simp [Who.harden, hw]
theorem stageCheck_none (s : State) (k n : Nat) : stageCheck s w k n = s := by simp [stageCheck, stager_none hw]

theorem outputKept_homeWrite (s : State) (virt : Option (Nat × Nat)) (k : Nat) (bs : List Byte) : OutputKept s (homeWrite s w virt k bs) := by
  by_cases hp : peerFails s k bs.length = true
  · rw [homeWrite_failed virt hp]
    exact .of_strm (peerLost_strm s w)
  · rw [homeWrite_unstaged virt (stager_none hw s) (by simpa using hp)]
    exact OutputKept.trans (.of_strm (hide_strm ..)) (outputKept_plainWrite _ _ _ _)

theorem keeps_fetched (k n : Nat) (s : State) : Keeps (modify fun s => homeFetch (stageCheck s w k n) k n : TM Unit) s :=
  .modify (by rw [stageCheck_none hw]; exact outputKept_homeFetch _ _ _)

theorem keeps_structRead (d a n : Nat) (s : State) : Keeps (structRead w d a n) s :=
  .bind (keeps_structKey _ _ _ _ _) fun _ _ => .bind (keeps_fetched hw _ _ _) fun _ _ => .get_bind (.pure _)
theorem keeps_structWrite (d a n v : Nat) (s : State) : Keeps (structWrite w d a n v) s :=
  .bind (keeps_structKey _ _ _ _ _) fun _ _ => .modify (outputKept_homeWrite hw _ _ _ _)

theorem keeps_regionOf (a reg : Nat) (s : State) : Keeps (regionOf w a reg) s :=
  .get_bind <| .check <| .bind (keeps_structRead hw _ _ _ _) fun _ _ => .check (.pure _)
theorem keeps_tileExists (r : Rgn) (t : Nat) (s : State) : Keeps (tileExists w r t) s :=
  .bind (keeps_structRead hw _ _ _ _) fun _ _ => .pure _
theorem keeps_tileKey (r : Rgn) (a : Nat) (want : Want) (s : State) : Keeps (tileKey w r a want) s :=
  .bind (keeps_structRead hw _ _ _ _) fun _ _ => .bind (keeps_poolTile _ _ _) fun _ _ => keeps_structKey _ _ _ _ _
omit hw in
theorem outputKept_tileWrote (r : Rgn) (a : Nat) (s : State) : OutputKept s (tileWrote w r a s) := .of_strm (wroteAt_strm ..)
theorem keeps_tileBirth (r : Rgn) (a : Nat) (s : State) : Keeps (tileBirth w r a) s := by
  have key (d a : Nat) (want : Want) (t : State) : Keeps (structKey w.cid d a want) t := keeps_structKey _ _ _ _ _
  have put (d a n v : Nat) (t : State) : Keeps (structWrite w d a n v) t := keeps_structWrite hw _ _ _ _ _
  unfold tileBirth
  refine .ite (.bind (key _ _ _ _) fun _ _ => .throw_bind _ _) <|
    .ite_bind (keeps_poolTile _ _ _) (.pure _) fun k _ => .ite_bind (keeps_structRead hw _ _ _ _) (.pure _) fun nxt _ =>
    .bind (keeps_structRead hw _ _ _ _) fun eb _ => .bind (key _ _ _ _) fun dk _ => .bind (key _ _ _ _) fun _ _ =>
    .bind (key _ _ _ _) fun _ _ => .bind (key _ _ _ _) fun _ _ => .bind (.modify (.of_strm (harden_strm hw _))) fun _ _ =>
    .bind (.modify (outputKept_homeWrite hw _ _ _ _)) fun _ _ => .bind (put _ _ _ _ _) fun _ _ => .bind (put _ _ _ _ _) fun _ _ =>
    .ite_bind (put _ _ _ _ _) (put _ _ _ _ _) fun _ _ => .bind (put _ _ _ _ _) fun _ _ => .modify (outputKept_tileWrote _ _ _)

/-! ## One access (R9, R167, R168) -/

omit hw in
theorem keeps_sendOver (a b n : Nat) (s : State) : Keeps (sendOver a b n) s :=
  .get_bind <| .ite (.modify (linksOnly_travel s a b n).outputKept) (.throw _)

theorem keeps_locate (a n : Nat) (want : Want) (s : State) : Keeps (locate w a n want) s := by
  unfold locate
  refine .bind (keeps_sendOver _ _ _ _) fun _ t => .get_bind <| .ite ?_ <| .ite (.throw _) <|
    .bind (keeps_leafOf _ _ _ _) fun e u => .ite ?_ <| .ite ?_ <| .ite ?_ (.throw _)
  case refine_1 =>
    split
    · exact .ite (.bind (.modify (.of_strm (harden_strm hw _))) fun _ _ => .pure _) (.pure _)
    · exact .throw _
  case refine_2 =>
    refine .bind (keeps_regionOf hw _ _ _) fun r _ => .check <| .bind (keeps_tileExists hw _ _ _) fun ex _ => .ite ?_ <| .ite ?_ (.pure _)
    · exact .bind (keeps_tileKey hw _ _ _ _) fun _ _ => .pure _
    · exact .bind (keeps_tileBirth hw _ _ _) fun _ _ => .bind (keeps_regionOf hw _ _ _) fun _ _ =>
        .bind (keeps_tileKey hw _ _ _ _) fun _ _ => .pure _
  case refine_3 => exact .bind (keeps_physAt _ _ _) fun _ _ => .pure _
  case refine_4 =>
    refine .check <| .bind (keeps_sendOver _ _ _ _) fun _ _ => ?_
    split
    · exact .ite (.bind (.modify (.of_strm (harden_strm hw _))) fun _ _ => .pure _) (.pure _)
    · exact .throw _

theorem keeps_gRead (a n : Nat) (want : Want) (s : State) : Keeps (gRead w a n want) s := by
  refine .bind (.bind (keeps_locate hw _ _ _ _) fun p _ => ?_) fun _ _ => .pure _
  obtain ⟨k | v, ex⟩ := p
  · exact .bind (keeps_fetched hw _ _ _) fun _ _ => .get_bind (.pure _)
  · exact .pure _
theorem keeps_gWrite (a : Nat) (bs : List Byte) (s : State) : Keeps (gWrite w a bs) s := by
  refine .bind (keeps_locate hw _ _ _ _) fun p _ => ?_
  obtain ⟨k | v, ex⟩ := p
  · exact .modify (outputKept_homeWrite hw _ _ _ _)
  · exact .throw _
end

end Sys2Proof.Machine
end

section
/-! SUPPORT. The pieces of a stream's work (R65, R81): what a computation answers once each of its steps has, and what accesses of the media
path leave of the output of every stream. -/

namespace Sys2Proof.Machine

/-! ## Work -/

/-- A computation whose first step succeeds goes on from there. -/
theorem bind_ok {ε α β : Type} {m : EStateM ε State α} {f : α → EStateM ε State β} {s t : State} {x : α} {r : EStateM.Result ε State β}
    (h : m s = .ok x t) (h' : f x t = r) : (m >>= f) s = r := by
  simp only [bind, EStateM.bind, h, h']

/-- A computation takes the branch whose condition holds. -/
theorem run_then {ε α : Type} {c : Prop} [Decidable c] {m m' : EStateM ε State α} {s : State} {r : EStateM.Result ε State α} (hc : c)
    (h : m s = r) : (if c then m else m') s = r := by rw [if_pos hc, h]
theorem run_else {ε α : Type} {c : Prop} [Decidable c] {m m' : EStateM ε State α} {s : State} {r : EStateM.Result ε State α} (hc : ¬ c)
    (h : m' s = r) : (if c then m else m') s = r := by rw [if_neg hc, h]

section
variable {waits s t : State} {i cid : Nat} {onStop : Media → Media} {work : Nat → Nat → MM Unit} (hc : streamCtx s i = some cid)
include hc

theorem mediaWork_ok (h : work cid (mediaOf s i).used s = .ok () t) : mediaWork waits s i onStop work = .next t := by
  simp only [mediaWork, hc, h]
/-- Work that has come as far as another state answers as what remains of it does there. -/
theorem mediaWork_from {rest : Nat → Nat → MM Unit} (h : work cid (mediaOf s i).used s = rest cid (mediaOf s i).used t) :
    mediaWork waits s i onStop work = mediaWork waits s i onStop fun cid base _ => rest cid base t := by
  simp only [mediaWork, hc, h]
theorem mediaWork_unsup (h : work cid (mediaOf s i).used s = .error .unsup t) :
    mediaWork waits s i onStop work = .next (mediaStop (t.modMedia i onStop) i 2) := by
  simp only [mediaWork, hc, h]
end

/-! ## Accesses of the media path -/

theorem keeps_media {α : Type} (a : Nat) {m : TM α} {s : State} (h : Keeps m s) : Keeps (media a m) s := by
  intro x t ht
  unfold media at ht
  split at ht
  · cases ht
  · split at ht
    next hm =>
      cases ht
      exact h _ _ hm
    all_goals cases ht

theorem keeps_mRead (cid : Nat) (ps : List (Nat × Nat)) (s : State) : Keeps (mRead cid ps) s := by
  induction ps generalizing s with
  | nil => exact .pure _
  | cons p ps ih => exact .bind (keeps_media _ (keeps_gRead rfl _ _ _ _)) fun _ _ => .bind (ih _) fun _ _ => .pure _
theorem keeps_mWriteAt (cid : Nat) (ps : List (Nat × Nat)) (bs : List Byte) (s : State) : Keeps (mWriteAt cid ps bs) s := by
  induction ps generalizing bs s with
  | nil => exact .pure _
  | cons p ps ih => exact .bind (keeps_media _ (keeps_gWrite rfl _ _ _)) fun _ _ => ih _ _
theorem keeps_mWrite (cid a : Nat) (bs : List Byte) (s : State) : Keeps (mWrite cid a bs) s := keeps_mWriteAt _ _ _ _
theorem keeps_mReadN (cid a n : Nat) (s : State) : Keeps (mReadN cid a n) s := .bind (keeps_mRead _ _ _) fun _ _ => .pure _
theorem keeps_readDesc (cid base : Nat) (s : State) : Keeps (readDesc cid base) s :=
  .bind (keeps_mReadN _ _ _ _) fun _ _ => .ite (.throw _) (.pure _)
theorem keeps_startDesc (i cid base : Nat) (s : State) : Keeps (startDesc i cid base) s :=
  .bind (keeps_readDesc _ _ _) fun _ _ => .bind (keeps_media _ (keeps_locate rfl _ _ _ _)) fun _ _ =>
    .bind (.modify (outputKept_modMedia _ _ fun _ => ⟨rfl, rfl, rfl, rfl⟩)) fun _ _ => .pure _
theorem keeps_writeRows (cid bps depth pitch len : Nat) (rs : List (List Nat)) (a : Nat) (s : State) :
    Keeps (writeRows cid bps depth pitch len rs a) s := by
  induction rs generalizing a s with
  | nil => exact .pure _
  | cons r rs ih => exact .bind (keeps_mWrite _ _ _ _) fun _ _ => ih _ _
theorem keeps_writeTensor (cid row : Nat) (rs : List (List Nat)) (a : Nat) (s : State) : Keeps (writeTensor cid row rs a) s := by
  induction rs generalizing a s with
  | nil => exact .pure _
  | cons r rs ih => exact .bind (keeps_mWrite _ _ _ _) fun _ _ => ih _ _

/-- The information record goes by what an access leaves. -/
theorem SameOutput.sceneCut {a b : Media} (h : SameOutput a b) (x : Desc) (o : OutPic) : sceneCut b x o = sceneCut a x o := by
  rw [Machine.sceneCut, h.first, h.last]
  rfl
theorem SameOutput.infoRecord {a b : Media} (h : SameOutput a b) (x : Desc) (o : OutPic) : infoRecord b x o = infoRecord a x o := by
  rw [Machine.infoRecord, h.n, h.sceneCut]
  rfl

theorem modMedia_congr {s : State} {i : Nat} {f g : Media → Media} (h : f (mediaOf s i) = g (mediaOf s i)) :
    s.modMedia i f = s.modMedia i g :=
  congrArg (fun m => { s with strm := tput HStream.empty s.strm i { hst s i with media := m } }) h

end Sys2Proof.Machine
end

section
/-! SUPPORT. The control of codec streams (R62, R64, R65, R67, R68): writes of MDCTL, and counts that are read again. -/

namespace Sys2Proof.Machine

/-! ## MDCTL -/

theorem mdWrite_pf {s : State} {i : Nat} (hi : i < 128) (hp : pkgHeld s = false) : mdWrite s 0 i = true := by
  simp [mdWrite, mayUse, hi, hp]

section
variable {s : State} {fn i : Nat}

theorem mdctl_dropped (h : mdWrite s fn i = false) (on : Bool) : exec (.mdctlRunSet fn i) s = .next s ∧
    exec (.mdctlRunClear fn i) s = .next s ∧ exec (.mdctlExact fn i on) s = .next s := by
  simp [execMdctlRunSet, execMdctlRunClear, execMdctlExact, h]
theorem mdctlRefine_pf (hi : i < 128) (hp : pkgHeld s = false) (on : Bool) : exec (.mdctlRefine 0 i on) s =
    .next (s.modMedia i fun m => { m with ctl := if on then m.ctl ||| 4 else m.ctl &&& ~~~(4 : W64) }) := by
  simp [execMdctlRefine, mdWrite_pf hi hp]
theorem mdctlRefine_dropped (hf : fn ≠ 0) (on : Bool) : exec (.mdctlRefine fn i on) s = .next s := by
  simp [execMdctlRefine, hf]

theorem mdctlRunSet_running (hr : (mediaOf s i).running = true) : exec (.mdctlRunSet fn i) s = .next s := by
  simp [execMdctlRunSet, hr]
theorem mdctlRunClear_stopped (hr : (mediaOf s i).running = false) : exec (.mdctlRunClear fn i) s = .next s := by
  simp [execMdctlRunClear, hr]

/-- RUN, set in a stream that has still to be opened (R65). -/
def runSet (s : State) (i : Nat) : State := s.modMedia i fun m => { m with ctl := m.ctl ||| 1, opening := true }

section
variable (hw : mdWrite s fn i = true)
include hw

theorem mdctlExact_taken (on : Bool) : exec (.mdctlExact fn i on) s =
    .next (s.modMedia i fun m => { m with ctl := if on then m.ctl ||| 2 else m.ctl &&& ~~~(2 : W64) }) := by
  simp [execMdctlExact, hw]
theorem mdctlRunClear_running (hr : (mediaOf s i).running = true) : exec (.mdctlRunClear fn i) s = .next (s.modMedia i fun m => { m with
    ctl := m.ctl &&& ~~~(1 : W64), opening := false, stopping := m.stopping || (!m.opening && m.cmu.isNone && !m.pending.isEmpty) }) := by
  simp [execMdctlRunClear, hw, hr]
theorem mdctlRunSet_taken (hr : (mediaOf s i).running = false) :
    exec (.mdctlRunSet fn i) s = if (mediaOf s i).stopping then .next (runSet s i) else openRun (runSet s i) i := by
  simp only [exec_mdctlRunSet, execMdctlRunSet, hw, hr, Bool.not_true, Bool.or_self, Bool.false_eq_true, if_false, runSet, mediaOf_modMedia_same]
end
end

/-! ## A stream that is opened -/

theorem takeCounts_ok {x : Desc} (h : (x.f 128 32 + 2 ^ 32 - x.f 160 32) % 2 ^ 32 ≤ 2 ^ x.qlog) (i : Nat) (s : State) :
    takeCounts i x s = .ok () (s.modMedia i fun m => { m with
      prod := BitVec.ofNat 32 (x.f 128 32), cons := BitVec.ofNat 32 (x.f 160 32), rel := BitVec.ofNat 32 (x.f 192 32) }) :=
  bind_ok rfl (run_else (Nat.not_lt.mpr h) rfl)

/-- A stream as RUN, set, opens it (R62, R65). -/
def openedMedia (s : State) (i : Nat) (m : Media) : Media := { m with
  used := m.base.toNat, first := true, stalled := false, opening := false, since := s.cycle, skipping := m.skipping && !m.fresh
  engine := some (pickEngine s i), pending := if m.fresh then [] else m.pending, units := if m.fresh then [] else m.units
  history := if m.fresh then [] else m.history, cmu := m.cmu.map fun j => { j with old := j.old || m.fresh }
  n := if m.fresh then 0 else m.n, fresh := false }

theorem openRun_ok {s u : State} {i cid : Nat} {x : Desc} (hc : streamCtx s i = some cid)
    (hs : startDesc i cid (mediaOf s i).base.toNat (s.modMedia i (openedMedia s i)) = .ok x u)
    (hq : (x.f 128 32 + 2 ^ 32 - x.f 160 32) % 2 ^ 32 ≤ 2 ^ x.qlog) :
    openRun s i = .next (u.modMedia i fun m => { m with
      prod := BitVec.ofNat 32 (x.f 128 32), cons := BitVec.ofNat 32 (x.f 160 32), rel := BitVec.ofNat 32 (x.f 192 32) }) := by
  have hu : (mediaOf (s.modMedia i (openedMedia s i)) i).used = (mediaOf s i).base.toNat := by
    rw [mediaOf_modMedia_same]
    rfl
  rw [← hu] at hs
  unfold openRun
  refine mediaWork_ok (s := s.modMedia i (openedMedia s i)) (cid := cid) hc ?_
  exact bind_ok hs (takeCounts_ok hq i u)

/-! ## Counts read again -/

section
variable {s w : State} {i cid p : Nat}

theorem auprodReread_skips (ho : (mediaOf s i).opening = false ∨ (mediaOf s i).stopping = true)
    (h : (mediaOf s i).running = false ∨ (mediaOf s i).opening = true ∨ (mediaOf s i).auDue = false) : exec (.auprodReread i) s = .next s := by
  rw [exec_auprodReread, execAuprodReread, if_neg (by rcases ho with ho | ho <;> simp [ho]),
    if_neg (by rcases h with h | h | h <;> simp [h])]
theorem relcntReread_skips
    (h : ((mediaOf s i).running = false ∨ (mediaOf s i).opening = true) ∧ (mediaOf s i).stopping = false ∨ (mediaOf s i).relDue = false) :
    exec (.relcntReread i) s = .next s := by
  rw [exec_relcntReread, execRelcntReread]
  rw [if_neg (by rcases h with ⟨h | h, h'⟩ | h <;> simp [*])]

variable (hc : streamCtx s i = some cid)
include hc

theorem auprodReread_reads (hr : (mediaOf s i).running = true) (ho : (mediaOf s i).opening = false) (hd : (mediaOf s i).auDue = true)
    (hp : mReadN cid ((mediaOf s i).used + 16) 4 (s.modMedia i fun m => { m with auDue := false }) = .ok p w)
    (hq : (BitVec.ofNat 32 p - (mediaOf w i).cons).toNat ≤ 2 ^ (mediaOf w i).qlog) :
    exec (.auprodReread i) s = .next (w.modMedia i fun m => { m with
      prod := BitVec.ofNat 32 p, since := if m.prod = m.cons then w.cycle else m.since }) := by
  rw [exec_auprodReread, execAuprodReread, if_neg (by simp [ho]), if_pos (by simp [hr, ho, hd])]
  refine mediaWork_ok (cid := cid) hc ?_
  rw [mediaOf_modMedia_same]
  refine bind_ok hp (bind_ok rfl (bind_ok rfl (run_else ?_ rfl)))
  rw [mediaOf_modMedia_same]
  exact Nat.not_lt.mpr hq

theorem relcntReread_reads (hr : (mediaOf s i).running = true ∧ (mediaOf s i).opening = false ∨ (mediaOf s i).stopping = true)
    (hd : (mediaOf s i).relDue = true)
    (hp : mReadN cid ((mediaOf s i).used + 24) 4 (s.modMedia i fun m => { m with relDue := false }) = .ok p w) :
    exec (.relcntReread i) s = .next (w.modMedia i fun m => { m with rel := BitVec.ofNat 32 p }) := by
  rw [exec_relcntReread, execRelcntReread]
  rw [if_pos (by simpa [hd] using hr)]
  refine mediaWork_ok (cid := cid) hc ?_
  rw [mediaOf_modMedia_same]
  exact bind_ok hp rfl
end

/-- The clauses of R64 and R65 for MDCTL, then those of R67 and R68 for counts. -/
theorem mediaControlResults : Rule.MediaControlResults := by
  refine ⟨fun s fn i hw => ⟨fun hr hs => ?_, fun hr hs cid x u hc hd hq => ?_,
      fun hr => ⟨mdctlRunSet_running hr, mdctlRunClear_running hw hr⟩, mdctlRunClear_stopped, mdctlExact_taken hw⟩,
    fun s fn i on hw => mdctl_dropped hw on, fun s fn i on hi hp => ⟨mdctlRefine_pf hi hp on, fun hf => mdctlRefine_dropped hf on⟩,
    fun s w i cid p hc => ⟨auprodReread_reads hc, relcntReread_reads hc⟩, fun s i => ⟨auprodReread_skips, relcntReread_skips⟩⟩
  · rw [mdctlRunSet_taken hw hr, if_pos hs]
    rfl
  · have hb : (mediaOf (runSet s i) i).base = (mediaOf s i).base := by
      rw [runSet, mediaOf_modMedia_same]
    rw [mdctlRunSet_taken hw hr, if_neg (by simp [hs])]
    refine openRun_ok hc ?_ hq
    rw [hb]
    exact hd

end Sys2Proof.Machine
end

section
/-! SUPPORT. Access units (R61, R62, R66, R67, R73): the steps of a decode up to the use of the work area, and what its result then gives. -/

namespace Sys2Proof.Machine

theorem decodedAs_first {s : State} (h : s.decoded = []) (codec : Nat) (units : List (List Byte)) (r : AuResult) :
    decodedAs s codec units r = r := by simp [decodedAs, h]
theorem decodedAs_again {s : State} (h : s.decoded = []) (codec : Nat) (units : List (List Byte)) (r r' : AuResult) :
    decodedAs (noteDecoded s codec units r) codec units r' = r := by simp [decodedAs, noteDecoded, h]

theorem accessUnitDecode_skips {s : State} {i : Nat}
    (h : (mediaOf s i).running = false ∨ (mediaOf s i).opening = true ∨ (mediaOf s i).prod = (mediaOf s i).cons) (r : AuResult) (use : AuUse) :
    exec (.accessUnitDecode i r use) s = .next s := by
  rw [exec_accessUnitDecode, execAccessUnitDecode]
  exact if_pos (by rcases h with h | h | h <;> simp [h])

/-- The result of a decode, acted on once the work area has been used. -/
def decodeResult (i cid base : Nat) (x : Desc) : AuResult → MM Unit
  | .pictures ps => takePictures i cid base x ps
  | .bitstreamError => do
    modify fun s => s.modMedia i fun m => { m with stat := m.stat ||| 8, skipping := true }
    addErr cid base 1
  | .unsupported => throw .unsup

/-- The next access unit of a stream is given to an engine (R62). -/
def engineGiven (s : State) (i : Nat) : State := s.modMedia i fun m => { m with engine := some (pickEngine s i) }
/-- An access unit read is counted, its bytes and its tag kept, and its result noted (R61, R67). -/
def unitTaken (s : State) (i codec e srange : Nat) (units : List (List Byte)) (r : AuResult) : State :=
  (noteDecoded s codec units r).modMedia i fun m => { m with
    cons := m.cons + 1, since := s.cycle, history := units
    units := ((BitVec.ofNat 32 (bits e 96 32), m.ctl.getLsbD 2, srange) :: m.units).take 64 }

@[simp] theorem engineGiven_used (s : State) (i : Nat) : (mediaOf (engineGiven s i) i).used = (mediaOf s i).used := by
  rw [engineGiven, mediaOf_modMedia_same]

section
variable {s a b c d₀ d : State} {i cid e : Nat} {x : Desc} {bs : List Byte} {r₀ : AuResult} {use : AuUse}

/-- Up to the use of its work area, a decode runs as its accesses do; what remains is its result. -/
theorem accessUnitDecode_eq (hi : i < 128) (hr : (mediaOf s i).running = true) (ho : (mediaOf s i).opening = false)
    (hp : (mediaOf s i).prod ≠ (mediaOf s i).cons) (hc : streamCtx s i = some cid)
    (hx : startDesc i cid (mediaOf s i).used (engineGiven s i) = .ok x a)
    (he : mReadN cid (x.f 64 48 + 16 * ((mediaOf s i).cons.toNat % 2 ^ x.qlog)) 16 a = .ok e b)
    (hb : mRead cid (cutPages (bits e 0 48) (bits e 64 32)) b = .ok bs c)
    (hw : mWrite cid ((mediaOf s i).used + 20) (toBytes 4 (((mediaOf s i).cons.toNat + 1) % 2 ^ 32))
      (unitTaken c i x.codec e use.srange (bs :: (mediaOf s i).history)
        (decodedAs s x.codec (bs :: (mediaOf s i).history) r₀)) = .ok () d₀)
    (hu : workUses cid x use.work d₀ = .ok () d) :
    exec (.accessUnitDecode i r₀ use) s = mediaWork s (engineGiven s i) i id fun cid base _ =>
      decodeResult i cid base x (decodedAs s x.codec (bs :: (mediaOf s i).history) r₀) d := by
  rw [exec_accessUnitDecode, execAccessUnitDecode]
  dsimp only
  rw [if_neg (by simp [hr, ho, hp, Nat.not_le.mpr hi])]
  refine mediaWork_from (s := engineGiven s i) (cid := cid) hc ?_
  rw [engineGiven_used]
  refine bind_ok hx (bind_ok he (bind_ok hb (bind_ok rfl (bind_ok hw (bind_ok hu ?_)))))
  cases decodedAs s x.codec (bs :: (mediaOf s i).history) r₀ <;> rfl
end

/-- The clauses of a unit that is decoded, by its result; of a bitstream met again; and of no unit waiting. -/
theorem decodeResults : Rule.DecodeResults := by
  refine ⟨fun s a b c d₀ d i cid e x bs r₀ use hi hr ho hp hc hx he hb hw hu => ?_,
    fun s codec units r r' h => ⟨decodedAs_first h codec units r, decodedAs_again h codec units r r'⟩,
    fun s i r use h => accessUnitDecode_skips h r use⟩
  have hdec (r : AuResult) (h : decodedAs s x.codec (bs :: (mediaOf s i).history) r₀ = r) : exec (.accessUnitDecode i r₀ use) s =
      mediaWork s (engineGiven s i) i id fun cid base _ => decodeResult i cid base x r d :=
    h ▸ accessUnitDecode_eq hi hr ho hp hc hx he hb hw hu
  refine ⟨fun ps v h hv => (hdec _ h).trans ?_, fun v h hv => (hdec _ h).trans ?_, fun h => (hdec _ h).trans ?_⟩
  · refine mediaWork_ok (s := engineGiven s i) (cid := cid) hc ?_
    rw [engineGiven_used]
    exact hv
  · refine mediaWork_ok (s := engineGiven s i) (cid := cid) hc ?_
    rw [engineGiven_used]
    exact bind_ok rfl hv
  · exact mediaWork_unsup (s := engineGiven s i) (cid := cid) hc rfl

end Sys2Proof.Machine
end

section
/-! SUPPORT. The output of pictures (R68 to R72) and the pass over their tensors (R74 to R80). -/

namespace Sys2Proof.Machine

theorem pictureOutput_none {s : State} {i : Nat} (h : (mediaOf s i).pending = []) : exec (.pictureOutput i) s = .next s := by
  rw [exec_pictureOutput, execPictureOutput]
  simp only [h]

/-- A picture put out leaves its stream as it stood for the picture's record. -/
theorem pictureDone_congr {s e : State} {i : Nat} (h : SameOutput (mediaOf s i) (mediaOf e i)) (x : Desc) (o : OutPic) (os : List OutPic) :
    (e.modMedia i fun m => { m with
      pending := os, first := false, last := some o.pic, stopping := false, stalled := false
      cmu := some ⟨x.d, (mediaOf s i).used, infoRecord (mediaOf s i) x o, false, e.cycle⟩ }) =
    e.modMedia i fun m => { m with
      pending := os, first := false, last := some o.pic, stopping := false, stalled := false
      cmu := some ⟨x.d, m.used, infoRecord m x o, false, e.cycle⟩ } :=
  modMedia_congr (by rw [h.used, h.infoRecord])

theorem cmuPass_none {s : State} {i : Nat} (h : (mediaOf s i).cmu = none) : exec (.cmuPass i) s = .next s := by
  rw [exec_cmuPass, execCmuPass]
  simp only [h]

/-- The clauses of a picture's output, and of the pass over its tensors. -/
theorem pictureResults : Rule.PictureResults := by
  refine ⟨fun s u i cid o os x hp hj hr hc hx => ?_, fun _ _ => pictureOutput_none, fun s a₀ a b c d i cid j ls mv res hj hc => ?_,
    fun _ _ => cmuPass_none⟩
  · intro rel s₁ p k f bw bh used
    rw [exec_pictureOutput, execPictureOutput]
    simp only [hp]
    rw [if_neg (by rcases hr with ⟨hr, ho⟩ | hr <;> simp [*])]
    refine ⟨fun hn => mediaWork_ok hc (bind_ok hx (bind_ok rfl (run_then hn rfl))), fun a b c d e hn hb hy huv hmv hres hinfo => ?_⟩
    have hs₁ : OutputKept u s₁ := outputKept_modMedia u i fun _ => ⟨rfl, rfl, rfl, rfl⟩
    have hkept : OutputKept s e := (keeps_startDesc _ _ _ _ _ _ hx).trans <| hs₁.trans <|
      (keeps_writeRows _ _ _ _ _ _ _ _ _ _ hy).trans <| (keeps_writeRows _ _ _ _ _ _ _ _ _ _ huv).trans <|
      (keeps_writeTensor _ _ _ _ _ _ _ hmv).trans <| (keeps_writeTensor _ _ _ _ _ _ _ hres).trans <| keeps_mWrite _ _ _ _ _ _ hinfo
    rw [← pictureDone_congr (hkept i)]
    refine mediaWork_ok hc (bind_ok hx (bind_ok rfl (run_else (Nat.not_le.mpr hn) (run_else (Bool.eq_false_iff.mp hb) ?_))))
    exact bind_ok hy (bind_ok huv (bind_ok hmv (bind_ok hres (bind_ok hinfo rfl))))
  · intro x info n k bw bh hls hmv hres hpass hout
    rw [exec_cmuPass, execCmuPass]
    simp only [hj]
    refine mediaWork_ok hc (bind_ok hls (bind_ok hmv (bind_ok hres (bind_ok hpass (bind_ok hout (bind_ok rfl ?_))))))
    split <;> rfl

end Sys2Proof.Machine
end

section
/-! SUPPORT. Change-mask decisions (R77 to R79): the first cause that holds for a tile, the fields of its state and list entry, the dominant
vector and the mask. -/

namespace Sys2Proof.Machine

/-! ## The first cause -/

/-- k is the first of the causes that holds. -/
def FirstOf (cause : Nat → Prop) (k : Nat) : Prop := cause k ∧ ∀ j < k, ¬ cause j

theorem FirstOf.unique {cause : Nat → Prop} {j k : Nat} (hj : FirstOf cause j) (hk : FirstOf cause k) : j = k :=
  Nat.le_antisymm (Nat.not_lt.mp fun h => hj.2 k h hk.1) (Nat.not_lt.mp fun h => hk.2 j h hj.1)

/-- A value is what the first cause gives, or another for none. -/
def Decided {α : Type} (cause : Nat → Prop) (re : Nat → α) (keep d : α) : Prop :=
  (∃ k, 1 ≤ k ∧ FirstOf cause k ∧ d = re k) ∨ (∀ k, ¬ cause k) ∧ d = keep

theorem Decided.step {α : Type} {cause : Nat → Prop} {re : Nat → α} {keep rest : α} {c : Prop} [Decidable c] {k : Nat}
    (hc : c ↔ cause (k + 1)) (hlt : ∀ j < k + 1, ¬ cause j) (h : (∀ j < k + 2, ¬ cause j) → Decided cause re keep rest) :
    Decided cause re keep (if c then re (k + 1) else rest) := by
  split
  next hk => exact .inl ⟨k + 1, Nat.succ_pos k, ⟨hc.mp hk, hlt⟩, rfl⟩
  next hk =>
    refine h fun j hj => ?_
    rcases Nat.lt_succ_iff_lt_or_eq.mp hj with hj | rfl
    · exact hlt j hj
    · exact fun hj => hk (hc.mpr hj)

/-- Whether a tile moved by an offset stays inside the layer (R77). -/
def TileInside (l : Layer) (ty tx : Nat) (ox oy : Int) : Prop :=
  let n := l.tp / l.st
  let aw := (l.w + l.st - 1) / l.st
  let ah := (l.h + l.st - 1) / l.st
  0 ≤ (ty * n : Nat) + oy ∧ (ty * n : Nat) + oy + min n (ah - ty * n) ≤ ah ∧
    0 ≤ (tx * n : Nat) + ox ∧ (tx * n : Nat) + ox + min n (aw - tx * n) ≤ aw

/-- The causes of a recomputation (R77), in the order of their codes. -/
def TileCause (l : Layer) (exact sc : Bool) (ty tx st : Nat) (res : List Nat) (mv : List Mv) (k : Nat) : Prop :=
  let e := min res.sum 0xFFFFFFFE
  let dom := dominant mv
  let c := bits l.d 64 16
  let ox := roundTiesZero dom.x (4 * l.st)
  let oy := roundTiesZero dom.y (4 * l.st)
  k = 1 ∧ exact = true ∨ k = 2 ∧ sc = true ∨ k = 3 ∧ (st.testBit 40 = false ∨ bits st 48 8 ≠ l.gen) ∨
    k = 4 ∧ 0xFFFFFFFF ∈ res ∨ k = 5 ∧ bits l.d 32 32 < e ∨ k = 6 ∧ bits l.d 8 8 ≤ bits st 32 8 ∨
    k = 7 ∧ bits l.d 96 32 < min (bits st 0 32 + e) 0xFFFFFFFF ∨
    k = 8 ∧ (∃ v ∈ mv, c < (v.x - dom.x).natAbs ∨ c < (v.y - dom.y).natAbs) ∨
    k = 9 ∧ ¬ (ox = 0 ∧ oy = 0) ∧ ¬ TileInside l ty tx ox oy

/-- A tile's state from its sum and count (R75). -/
def tileState (l : Layer) (a c : Nat) : Nat := a + c * 2 ^ 32 + 2 ^ 40 + l.gen * 2 ^ 48
/-- A tile that is recomputed for a cause. -/
def recomputed (l : Layer) (k : Nat) : TileAct := ⟨0, k, 0, 0, tileState l 0 0⟩
/-- A tile that is reused where it stands or moved. -/
def reused (l : Layer) (st : Nat) (res : List Nat) (mv : List Mv) : TileAct :=
  let ox := roundTiesZero (dominant mv).x (4 * l.st)
  let oy := roundTiesZero (dominant mv).y (4 * l.st)
  ⟨if ox = 0 ∧ oy = 0 then 1 else 2, 0, ox, oy,
    tileState l (min (bits st 0 32 + min res.sum 0xFFFFFFFE) 0xFFFFFFFF) (min (bits st 32 8 + 1) 255)⟩

theorem TileCause.le {l : Layer} {exact sc : Bool} {ty tx st : Nat} {res : List Nat} {mv : List Mv} {k : Nat}
    (h : TileCause l exact sc ty tx st res mv k) : k ≤ 9 := by
  simp only [TileCause] at h
  omega
theorem tileCause_nine (l : Layer) (exact sc : Bool) (ty tx st : Nat) (res : List Nat) (mv : List Mv) :
    TileCause l exact sc ty tx st res mv 9 ↔
      ¬ (roundTiesZero (dominant mv).x (4 * l.st) = 0 ∧ roundTiesZero (dominant mv).y (4 * l.st) = 0) ∧
      ¬ TileInside l ty tx (roundTiesZero (dominant mv).x (4 * l.st)) (roundTiesZero (dominant mv).y (4 * l.st)) := by
  simp [TileCause]

theorem decideTile_decided (l : Layer) (exact sc : Bool) (ty tx st : Nat) (res : List Nat) (mv : List Mv) :
    Decided (TileCause l exact sc ty tx st res mv) (recomputed l) (reused l st res mv) (decideTile l exact sc ty tx st res mv) := by
  have h₀ : ∀ j < 1, ¬ TileCause l exact sc ty tx st res mv j := by simp [TileCause]
  unfold decideTile
  refine .step (k := 0) (by simp [TileCause]) h₀ fun h₁ => .step (by simp [TileCause]) h₁ fun h₂ =>
    .step (by simp [TileCause]) h₂ fun h₃ => .step (by simp [TileCause]) h₃ fun h₄ => .step (by simp [TileCause]) h₄ fun h₅ =>
    .step (by simp [TileCause]) h₅ fun h₆ => .step (by simp [TileCause, sat32]) h₆ fun h₇ => .step (by simp [TileCause]) h₇ fun h₈ => ?_
  have h₉ := tileCause_nine l exact sc ty tx st res mv
  have hnone (h : ¬ TileCause l exact sc ty tx st res mv 9) (k : Nat) : ¬ TileCause l exact sc ty tx st res mv k := fun hk =>
    (Nat.lt_or_eq_of_le hk.le).elim (fun hlt => h₈ k hlt hk) fun he => h (he ▸ hk)
  simp only [Bool.and_eq_true, decide_eq_true_eq]
  split
  next hstay =>
    refine .inr ⟨hnone fun h => (h₉.mp h).1 hstay, ?_⟩
    simp only [reused, hstay, and_self, if_true]
    rfl
  next hmove =>
    split
    next hin =>
      refine .inr ⟨hnone fun h => (h₉.mp h).2 (by simpa [TileInside, and_assoc] using hin), ?_⟩
      simp only [reused, hmove, if_false]
      rfl
    next hout =>
      exact .inl ⟨9, by decide, ⟨h₉.mpr ⟨hmove, fun h => hout (by simpa [TileInside, and_assoc] using h)⟩, h₈⟩, rfl⟩

/-! ## Fields -/

theorem tileState_fields (l : Layer) {a c : Nat} (ha : a < 2 ^ 32) (hc : c < 2 ^ 8) : bits (tileState l a c) 0 32 = a ∧
    bits (tileState l a c) 32 8 = c ∧ (tileState l a c).testBit 40 = true ∧ bits (tileState l a c) 48 8 = l.gen := by
  have hg : l.gen < 2 ^ 8 := Nat.mod_lt _ (by decide)
  simp only [bits, tileState, Nat.testBit_eq_decide_div_mod_eq, decide_eq_true_eq]
  omega

theorem signedField_lt (v : Int) : signedField 16 v < 2 ^ 16 := by
  unfold signedField
  omega

/-- A list entry whose fields are in range reads back as them (R79). -/
theorem listEntry_fields {ty tx : Nat} {d : TileAct} (hy : ty < 256) (hx : tx < 256) (ha : d.act < 4) (hr : d.rsn < 16) :
    bits (listEntry ty tx d) 0 8 = ty ∧ bits (listEntry ty tx d) 8 8 = tx ∧ bits (listEntry ty tx d) 16 2 = d.act ∧
    bits (listEntry ty tx d) 18 4 = d.rsn ∧ bits (listEntry ty tx d) 22 2 = 0 ∧ bits (listEntry ty tx d) 24 8 = bits d.st 32 8 ∧
    bits (listEntry ty tx d) 32 16 = signedField 16 d.ox ∧ bits (listEntry ty tx d) 48 16 = signedField 16 d.oy := by
  have hox := signedField_lt d.ox
  have hoy := signedField_lt d.oy
  have hc : bits d.st 32 8 < 2 ^ 8 := Nat.mod_lt _ (by decide)
  unfold listEntry
  generalize signedField 16 d.ox = ox at *
  generalize signedField 16 d.oy = oy at *
  generalize bits d.st 32 8 = c at *
  simp only [bits]
  omega

/-! ## The dominant vector (R77) -/

/-- A member of a list with the most of something, the first of those that have it. -/
def FirstMost {α : Type} [DecidableEq α] (f : α → Nat) (vs : List α) (u : α) : Prop :=
  u ∈ vs ∧ ∀ v ∈ vs, f v ≤ f u ∧ (f v = f u → vs.idxOf u ≤ vs.idxOf v)

section
variable {α : Type} [DecidableEq α] (f : α → Nat) {vs : List α} {u v : α}

/-- The better of the best so far and the next. -/
def better (b : Option α) (v : α) : Option α := match b with | none => some v | some u => if f v > f u then some v else b

variable {f}
theorem FirstMost.append_less (h : FirstMost f vs u) (hv : f u < f v) : FirstMost f (vs ++ [v]) v := by
  refine ⟨by simp, fun w hw => ?_⟩
  rcases List.mem_append.mp hw with hw | hw
  · have hlt := (h.2 w hw).1.trans_lt hv
    exact ⟨hlt.le, fun he => absurd he hlt.ne⟩
  · rw [List.mem_singleton.mp hw]
    exact ⟨le_rfl, fun _ => le_rfl⟩
theorem FirstMost.append_most (h : FirstMost f vs u) (hv : f v ≤ f u) : FirstMost f (vs ++ [v]) u := by
  refine ⟨List.mem_append_left _ h.1, fun w hw => ?_⟩
  rw [List.idxOf_append_of_mem h.1]
  by_cases hm : w ∈ vs
  · rw [List.idxOf_append_of_mem hm]
    exact h.2 w hm
  · have hwv : w = v := List.mem_singleton.mp ((List.mem_append.mp hw).resolve_left hm)
    rw [List.idxOf_append_of_notMem hm]
    exact ⟨hwv ▸ hv, fun _ => (List.idxOf_lt_length_of_mem h.1).le.trans (Nat.le_add_right _ _)⟩

variable (f) in
theorem foldl_better_firstMost (vs : List α) (hne : vs ≠ []) : ∃ u, vs.foldl (better f) none = some u ∧ FirstMost f vs u := by
  induction vs using List.reverseRecOn with
  | nil => exact absurd rfl hne
  | append_singleton vs v ih =>
    rw [List.foldl_append]
    by_cases h0 : vs = []
    · subst h0
      exact ⟨v, rfl, by simp [FirstMost]⟩
    · obtain ⟨u, hu, hm⟩ := ih h0
      rw [hu]
      by_cases hv : f u < f v
      · exact ⟨v, if_pos hv, hm.append_less hv⟩
      · exact ⟨u, if_neg hv, hm.append_most (Nat.not_lt.mp hv)⟩
end

theorem dominant_eq (vs : List Mv) : dominant vs = (vs.foldl (better fun v => vs.count v) none).getD ⟨0, 0⟩ := by
  simp only [List.count_eq_length_filter]
  refine congrArg (fun g : Option Mv → Mv → Option Mv => (vs.foldl g none).getD ⟨0, 0⟩) (funext₂ fun b v => ?_)
  cases b <;> rfl
theorem dominant_firstMost {vs : List Mv} (h : vs ≠ []) : FirstMost (fun v => vs.count v) vs (dominant vs) := by
  obtain ⟨u, hu, hm⟩ := foldl_better_firstMost (fun v => vs.count v) vs h
  rw [dominant_eq, hu]
  exact hm

/-! ## The mask (R78) -/

/-- The number whose bits below n are given. -/
def bitsSum (b : Nat → Bool) (n : Nat) : Nat := ((List.range n).map fun i => if b i then 2 ^ i else 0).sum

theorem bitsSum_succ (b : Nat → Bool) (n : Nat) : bitsSum b (n + 1) = bitsSum b n + if b n then 2 ^ n else 0 := by
  simp [bitsSum, List.range_succ]
theorem bitsSum_lt (b : Nat → Bool) (n : Nat) : bitsSum b n < 2 ^ n := by
  induction n with
  | zero => simp [bitsSum]
  | succ n ih =>
    rw [bitsSum_succ, pow_succ]
    split <;> omega
theorem testBit_bitsSum (b : Nat → Bool) {n i : Nat} (hi : i < n) : (bitsSum b n).testBit i = b i := by
  induction n with
  | zero => exact absurd hi (Nat.not_lt_zero i)
  | succ n ih =>
    have hlt := bitsSum_lt b n
    rw [bitsSum_succ]
    rcases Nat.lt_succ_iff_lt_or_eq.mp hi with hi | rfl
    · cases b n
      · simpa using ih hi
      · rw [if_pos rfl, Nat.add_comm, Nat.testBit_two_pow_add_gt hi, ih hi]
    · cases hb : b i
      · simpa using Nat.testBit_lt_two_pow hlt
      · rw [if_pos rfl, Nat.add_comm, Nat.testBit_two_pow_add_eq, Nat.testBit_lt_two_pow hlt]
        rfl

theorem maskBytes_length (ts : List (Nat × Nat × TileAct)) : (maskBytes ts).length = (ts.length + 7) / 8 := by simp [maskBytes]

/-- Whether a tile of a layer is recomputed. -/
def recomputes (ts : List (Nat × Nat × TileAct)) (k : Nat) : Bool := ts[k]?.any fun t => t.2.2.act == 0

theorem maskBytes_getD (ts : List (Nat × Nat × TileAct)) {j : Nat} (h : j < (ts.length + 7) / 8) :
    (maskBytes ts).getD j 0 = BitVec.ofNat 8 (bitsSum (fun i => recomputes ts (8 * j + i)) 8) := by
  rw [List.getD_eq_getElem _ _ (by rwa [maskBytes_length])]
  simp only [maskBytes, List.getElem_map, List.getElem_range, bitsSum]
  congr 2
  refine List.map_congr_left fun i _ => ?_
  cases ht : ts[8 * j + i]? with
  | none => simp [recomputes, ht]
  | some t => simp [recomputes, ht]

theorem maskBytes_getLsbD (ts : List (Nat × Nat × TileAct)) {i j : Nat} (hi : i < 8) (h : 8 * j + i < ts.length) :
    ((maskBytes ts).getD j 0).getLsbD i = (ts[8 * j + i].2.2.act == 0) := by
  rw [maskBytes_getD ts (by omega), BitVec.getLsbD_ofNat, testBit_bitsSum _ hi, recomputes, List.getElem?_eq_getElem h]
  simp [hi]

/-! ## The clauses -/

theorem reused_act (l : Layer) (st : Nat) (res : List Nat) (mv : List Mv) : 0 < (reused l st res mv).act ∧ (reused l st res mv).act < 4 := by
  unfold reused
  dsimp only
  split <;> decide
theorem reused_st (l : Layer) (st : Nat) (res : List Nat) (mv : List Mv) :
    bits (reused l st res mv).st 0 32 = min (bits st 0 32 + min res.sum 0xFFFFFFFE) 0xFFFFFFFF ∧
    bits (reused l st res mv).st 32 8 = min (bits st 32 8 + 1) 255 ∧ (reused l st res mv).st.testBit 40 = true ∧
    bits (reused l st res mv).st 48 8 = l.gen := tileState_fields l (by omega) (by omega)

section
variable (l : Layer) (exact sc : Bool) (ty tx st : Nat) (res : List Nat) (mv : List Mv)

/-- A decision's cause is the first that holds. -/
theorem decideTile_rsn {k : Nat} (h : 1 ≤ k) :
    (decideTile l exact sc ty tx st res mv).rsn = k ↔ FirstOf (TileCause l exact sc ty tx st res mv) k := by
  rcases decideTile_decided l exact sc ty tx st res mv with ⟨j, _, hj, hd⟩ | ⟨hno, hd⟩ <;> rw [hd]
  · exact ⟨fun h => h ▸ hj, hj.unique⟩
  · exact ⟨fun h' => absurd h' (Nat.ne_of_lt h), fun h => absurd h.1 (hno k)⟩

theorem decideTile_bounds : (decideTile l exact sc ty tx st res mv).act < 4 ∧ (decideTile l exact sc ty tx st res mv).rsn < 16 := by
  rcases decideTile_decided l exact sc ty tx st res mv with ⟨k, _, hk, hd⟩ | ⟨_, hd⟩ <;> rw [hd]
  · exact ⟨Nat.succ_pos 3, hk.1.le.trans_lt (by decide)⟩
  · exact ⟨(reused_act l st res mv).2, Nat.succ_pos 15⟩

/-- A tile is recomputed for a cause, or reused for none. -/
theorem decideTile_acts : (∃ k, 1 ≤ k ∧ decideTile l exact sc ty tx st res mv = recomputed l k) ∨
    decideTile l exact sc ty tx st res mv = reused l st res mv :=
  (decideTile_decided l exact sc ty tx st res mv).imp (fun ⟨k, h1, _, hd⟩ => ⟨k, h1, hd⟩) And.right

theorem decideTile_act_zero : (decideTile l exact sc ty tx st res mv).act = 0 ↔ (decideTile l exact sc ty tx st res mv).rsn ≠ 0 := by
  rcases decideTile_acts l exact sc ty tx st res mv with ⟨k, h1, hd⟩ | hd <;> rw [hd]
  · exact ⟨fun _ => Nat.ne_of_gt h1, fun _ => rfl⟩
  · exact ⟨fun h => absurd h (reused_act l st res mv).1.ne', fun h => absurd rfl h⟩

variable {l exact sc ty tx st res mv}
theorem decideTile_recomputes (h : (decideTile l exact sc ty tx st res mv).act = 0) :
    ∃ k, decideTile l exact sc ty tx st res mv = recomputed l k :=
  (decideTile_acts l exact sc ty tx st res mv).elim (fun ⟨k, _, hd⟩ => ⟨k, hd⟩) fun hd =>
    absurd (hd ▸ h) (reused_act l st res mv).1.ne'
theorem decideTile_reuses (h : (decideTile l exact sc ty tx st res mv).act ≠ 0) :
    decideTile l exact sc ty tx st res mv = reused l st res mv :=
  (decideTile_acts l exact sc ty tx st res mv).resolve_left fun ⟨_, _, hd⟩ => h (by rw [hd]; rfl)
end

/-- The clauses of a tile's decision, of the dominant vector and of the mask. -/
theorem tileDecisions : Rule.TileDecisions := by
  refine ⟨fun l exact sc ty tx st res mv => ?_, fun vs h => dominant_firstMost h, fun ts j => ⟨maskBytes_length ts, fun i hi h =>
    ⟨_, List.getElem?_eq_getElem h, maskBytes_getLsbD ts hi h⟩⟩⟩
  obtain ⟨hact, hrsn⟩ := decideTile_bounds l exact sc ty tx st res mv
  refine ⟨fun k hk => decideTile_rsn l exact sc ty tx st res mv hk, decideTile_act_zero l exact sc ty tx st res mv, fun h => ?_, fun h => ?_,
    fun hy hx => listEntry_fields hy hx hact hrsn⟩
  · obtain ⟨k, hd⟩ := decideTile_recomputes h
    rw [hd]
    exact ⟨rfl, rfl, by simp [recomputed, tileState]⟩
  · rw [decideTile_reuses h]
    exact ⟨rfl, rfl, rfl, reused_st l st res mv⟩

/-- Settles O53: control by what a write and a re-read find, a decode and an output by running their steps, a decision by its first cause. -/
theorem mediaResults : Obligations.MediaResults := ⟨mediaControlResults, decodeResults, pictureResults, tileDecisions⟩

end Sys2Proof.Machine
end

section
/-! SUPPORT. await and evwait (R94 to R96, R322, R334). -/

namespace Sys2Proof.Machine

/-- R322: the clauses of await, by whether its counter has reached n. -/
theorem awaitTakes : Rule.AwaitTakes := by
  intro s f e n he hi
  rw [exec_await, execAwait]
  exact ⟨fun hn => issue_go hi (by simp [he, Nat.not_lt.mpr hn]), fun hn => issue_hold hi (by simp [he, hn])⟩

/-! ## A waiter arrives at its event -/

/-- The event of a context and a name. -/
def Event.named (cid name : Nat) (e : Event) : Bool := e.cid == cid && e.name == name
/-- The events with that of a name replaced, or dropped. -/
def putEvent (s : State) (cid name : Nat) (o : Option Event) : State :=
  { s with events := s.events.filterMap fun x => if x.named cid name then o else some x }

section
variable {s : State} {cid name : Nat} {w : Waiter}

theorem isWaiter_none (h : s.events.find? (Event.named cid name) = none) : isWaiter s cid name w = false := by
  simp only [List.find?_eq_none, Event.named] at h
  simp only [isWaiter, List.any_eq_false]
  intro e he
  simp [h e he]

theorem eventFull_none (h : s.events.find? (Event.named cid name) = none) : eventFull s cid name = tableFull s name := by
  unfold Event.named at h
  simp only [eventFull, h]
theorem arriveWaiter_none (h : s.events.find? (Event.named cid name) = none) : arriveWaiter s cid name w =
    (false, { s with events := s.events ++
      [⟨cid, name, 0, if tableFull s name then [] else [w], if tableFull s name then [w] else [], tableFull s name⟩] }) := by
  unfold Event.named at h
  simp only [arriveWaiter, h]

variable {e : Event} (h : s.events.find? (Event.named cid name) = some e)
include h

theorem eventFull_some : eventFull s cid name = (e.count == 0 && (e.spilt || decide (4 ≤ e.hw.length))) := by
  unfold Event.named at h
  simp only [eventFull, h, ge_iff_le]
/-- It takes a count where there is one, and the event is gone with the last. -/
theorem arriveWaiter_takes (hc : 0 < e.count) (hh : e.hw = []) (ho : e.ovf = []) : arriveWaiter s cid name w =
    (true, putEvent s cid name (if e.count = 1 then none else some { e with count := e.count - 1 })) := by
  have h1 : e.count - 1 = 0 ↔ e.count = 1 := by omega
  unfold Event.named at h
  simp only [arriveWaiter, h, gt_iff_lt, hc, if_true, putEvent, Event.named, hh, ho, List.isEmpty_nil, Bool.and_true, decide_eq_true_eq, h1]
theorem arriveWaiter_joins (hc : e.count = 0) (hs : e.spilt = false) (hh : e.hw.length < 4) : arriveWaiter s cid name w =
    (false, putEvent s cid name (some { e with hw := e.hw ++ [w] })) := by
  unfold Event.named at h
  simp [arriveWaiter, h, hc, hs, hh, putEvent, Event.named]
theorem arriveWaiter_overflows (hc : e.count = 0) (hs : e.spilt = true ∨ 4 ≤ e.hw.length) : arriveWaiter s cid name w =
    (false, putEvent s cid name (some { e with ovf := e.ovf ++ [w] })) := by
  have hf : (!e.spilt && decide (e.hw.length < 4)) = false := by
    rcases hs with hs | hs <;> simp [hs]
  unfold Event.named at h
  simp [arriveWaiter, h, hc, hf, putEvent, Event.named]
end

/-! ## evwait -/

section
variable {s t : State} {g : Guard} {a : R5} {imm : BitVec 14} {name : Nat} (hi : Issues64 s g ⟨[a], [], [], [a]⟩)
  (hname : name = ((s.x a).toNat + imm.toNat) % 65536) (hr : ∀ b, s.blk = some b → b.evRel = false)
  (hw : isWaiter s s.my.cid name (.stream s.cur s.my.tid) = false)
include hi hname hr hw

/-- With no count and no slot its stream stays in its instruction (R96). -/
theorem evwait_full (hf : eventFull s s.my.cid name = true) (hs : slotFree s s.my.cid = false) :
    execEvwait g a imm s = .next ((armFull s s.my.cid).held .event) := by
  subst hname
  obtain ⟨b, hb⟩ := Option.isSome_iff_exists.mp hi.opened
  rw [execEvwait]
  exact issue_hold hi (by simp [hb, hr b hb, hw, hf, hs])

variable (hroom : (eventFull s s.my.cid name && !slotFree s s.my.cid) = false)
include hroom

theorem evwait_takes (ha : arriveWaiter s s.my.cid name (.stream s.cur s.my.tid) = (true, t)) : execEvwait g a imm s =
    .next (((t.modBlk fun b => { b with taken := b.taken ++ [.evwait name] }).acquire .package).issued g.sync) := by
  subst hname
  obtain ⟨b, hb⟩ := Option.isSome_iff_exists.mp hi.opened
  rw [execEvwait]
  exact issue_go hi (by simp [hb, hr b hb, hw, hroom, ha])
theorem evwait_joins (ha : arriveWaiter s s.my.cid name (.stream s.cur s.my.tid) = (false, t)) :
    execEvwait g a imm s = .next (t.held .event) := by
  subst hname
  obtain ⟨b, hb⟩ := Option.isSome_iff_exists.mp hi.opened
  rw [execEvwait]
  exact issue_hold hi (by simp [hb, hr b hb, hw, hroom, ha])
end

/-- R94 to R96, R334: the clauses of evwait, by whether its event stands, has a count, and has room for one more waiter. -/
theorem eventWait : Rule.EventWait := by
  intro s g a imm hi hr
  refine ⟨fun e he hw => ⟨fun hc hh ho => ?_, fun hc hs hh => ?_, fun hc hs hf => ?_, fun hc hs hf => ?_⟩,
    fun hn ht => ?_, fun hn ht hf => ?_, fun hn ht hf => ?_⟩
  · exact evwait_takes hi rfl hr hw (by simp [eventFull_some he, Nat.pos_iff_ne_zero.mp hc]) (arriveWaiter_takes he hc hh ho)
  · exact evwait_joins hi rfl hr hw (by simp [eventFull_some he, hs, Nat.not_le.mpr hh]) (arriveWaiter_joins he hc hs hh)
  · exact evwait_joins hi rfl hr hw (by simp [hf]) (arriveWaiter_overflows he hc hs)
  · exact evwait_full hi rfl hr hw (by simpa [eventFull_some he, hc] using hs) hf
  · exact evwait_joins hi rfl hr (isWaiter_none hn) (by simp [eventFull_none hn, ht]) (by simp [arriveWaiter_none hn, ht])
  · exact evwait_joins hi rfl hr (isWaiter_none hn) (by simp [hf]) (by simp [arriveWaiter_none hn, ht])
  · exact evwait_full hi rfl hr (isWaiter_none hn) (by simp [eventFull_none hn, ht]) hf

/-- Settles O12: await by its counter, evwait by how its waiter arrives. -/
theorem awaitAndEventWait : Obligations.AwaitAndEventWait := ⟨awaitTakes, eventWait⟩

end Sys2Proof.Machine
end

section
/-! SUPPORT. The choice of a dispatch turn (R99, R107, R108): what the turn's counters change, the class and the stream served, and the
task of a stream that goes first. -/

namespace Sys2Proof.Machine

/-! ## The scheduler's own state -/

/-- At most the scheduler's turn state differs. -/
def SchedOnly (s t : State) : Prop := t = { s with sch := t.sch }

theorem SchedOnly.refl (s : State) : SchedOnly s s := rfl
theorem SchedOnly.trans {s t u : State} (h : SchedOnly s t) (h' : SchedOnly t u) : SchedOnly s u := by
  unfold SchedOnly at *
  rw [h', h]
theorem SchedOnly.jobs {s t : State} (h : SchedOnly s t) : t.jobs = s.jobs := by rw [h]
theorem SchedOnly.tasks {s t : State} (h : SchedOnly s t) : t.tasks = s.tasks := by rw [h]
theorem SchedOnly.mem {s t : State} (h : SchedOnly s t) : t.mem = s.mem := by rw [h]
theorem SchedOnly.paths {s t : State} (h : SchedOnly s t) : t.paths = s.paths := by rw [h]

theorem schedOnly_addDef (s : State) (die cls stream : Nat) (v : Int) : SchedOnly s (addDef s die cls stream v) := rfl
theorem schedOnly_payResidency (s : State) (core : Nat) (t : Task) : SchedOnly s (payResidency s core t) := rfl
theorem SchedOnly.foldl {α : Type} {f : State → α → State} (h : ∀ s a, SchedOnly s (f s a)) (l : List α) (s : State) :
    SchedOnly s (l.foldl f s) :=
  List.foldlRecOn l f (.refl s) fun t ht a _ => ht.trans (h t a)
theorem schedOnly_actSync (s : State) (die cls : Nat) : SchedOnly s (actSync s die cls) :=
  (SchedOnly.foldl (fun s x => schedOnly_addDef s die cls x _) _ s).trans rfl

theorem schedOnly_drrLoop (die cls : Nat) (has : Nat → Bool) : ∀ (fuel : Nat) (s : State) {x : Nat} {u : State},
    drrLoop die cls has fuel s = some (x, u) → SchedOnly s u
  | 0, _, _, _, h => by simp [drrLoop] at h
  | fuel + 1, s, x, u, h => by
    unfold drrLoop at h
    extract_lets act at h
    split at h
    · cases h
    · split at h
      · cases h
        exact schedOnly_addDef ..
      · extract_lets t at h
        refine SchedOnly.trans ?_ (schedOnly_drrLoop die cls has fuel _ h)
        rfl

/-! ## The class of a turn (R107) -/

/-- The first of the four classes that meets a condition is the lowest. -/
theorem find_class_le {p : Nat → Bool} {c d : Nat} (h : [0, 1, 2, 3].find? p = some c) (hp : p d = true) : c ≤ d := by
  have h' : (List.range 4).find? p = some c := h
  rw [List.find?_range_eq_some] at h'
  obtain ⟨_, _, hbefore⟩ := h'
  by_contra hlt
  simpa [hp] using hbefore d (by omega)

theorem turnClass_some {s v : State} {core c : Nat} {cands : List Job} (h : turnClass s core cands = some (c, v)) :
    SchedOnly s v ∧ ((∀ d, d < 4 → tget 0 s.sch.sk (core * 4 + d) + 1 < floorOf s) → ∀ k ∈ cands, c ≤ k.t.cls) := by
  unfold turnClass at h
  extract_lets ready sk at h
  split at h
  · cases h
  · next c0 hc0 =>
    cases h
    refine ⟨rfl, fun hfloor k hk => ?_⟩
    have hnone : ([0, 1, 2, 3].find? fun c => decide (c > c0) && ready c && decide (sk c ≥ floorOf s - 1)) = none := by
      rw [List.find?_eq_none]
      intro d hd
      have : sk d + 1 < floorOf s := hfloor d (List.mem_range.mp hd)
      simp only [Bool.and_eq_true, decide_eq_true_eq, not_and]
      omega
    rw [hnone]
    exact find_class_le hc0 (List.any_eq_true.mpr ⟨k, hk, beq_self_eq_true _⟩)

/-! ## The one that goes first -/

/-- The better of the best so far and the next, the earlier one of those alike. -/
def firstOf {α : Type} (lt : α → α → Bool) (b : Option α) (x : α) : Option α :=
  match b with
  | none => some x
  | some y => if lt x y then some x else b

/-- An order by a key: asymmetric, and of three the first is not before the third unless it, or the second, is before the next. -/
structure WeakOrder {α : Type} (lt : α → α → Bool) : Prop where
  asymm : ∀ a b, lt a b = true → lt b a = false
  trans : ∀ a b c, lt a b = false → lt b c = false → lt a c = false

section
variable {α : Type} {lt : α → α → Bool} (hlt : WeakOrder lt)
include hlt

theorem WeakOrder.irrefl (a : α) : lt a a = false := by
  cases h : lt a a with
  | false => rfl
  | true => exact h ▸ hlt.asymm a a h

theorem foldl_firstOf_some : ∀ (xs : List α) (b : α), ∃ r, xs.foldl (firstOf lt) (some b) = some r ∧ (r = b ∨ r ∈ xs) ∧
    lt b r = false ∧ ∀ x ∈ xs, lt x r = false
  | [], b => ⟨b, rfl, .inl rfl, hlt.irrefl b, by simp⟩
  | x :: xs, b => by
    obtain ⟨c, hc, hmem, hb, hx⟩ : ∃ c, firstOf lt (some b) x = some c ∧ (c = b ∨ c = x) ∧ lt b c = false ∧ lt x c = false := by
      cases h : lt x b with
      | true => exact ⟨x, by simp [firstOf, h], .inr rfl, hlt.asymm x b h, hlt.irrefl x⟩
      | false => exact ⟨b, by simp [firstOf, h], .inl rfl, hlt.irrefl b, h⟩
    obtain ⟨r, hr, hrmem, hcr, hall⟩ := foldl_firstOf_some xs c
    refine ⟨r, by rw [List.foldl_cons, hc, hr], ?_, hlt.trans _ _ _ hb hcr, List.forall_mem_cons.mpr ⟨hlt.trans _ _ _ hx hcr, hall⟩⟩
    rcases hrmem with rfl | h
    · rcases hmem with rfl | rfl
      · exact .inl rfl
      · exact .inr List.mem_cons_self
    · exact .inr (List.mem_cons_of_mem _ h)

/-- Of a list that is not empty one is found before which none stands. -/
theorem foldl_firstOf {xs : List α} (h : xs ≠ []) :
    ∃ r, xs.foldl (firstOf lt) none = some r ∧ r ∈ xs ∧ ∀ x ∈ xs, lt x r = false := by
  obtain ⟨b, xs, rfl⟩ := List.exists_cons_of_ne_nil h
  obtain ⟨r, hr, hmem, hb, hall⟩ := foldl_firstOf_some hlt xs b
  exact ⟨r, hr, List.mem_cons.mpr hmem, List.forall_mem_cons.mpr ⟨hb, hall⟩⟩
end

theorem before99_weakOrder : WeakOrder before99 := by
  constructor
  · intro a b
    simp only [before99, Bool.or_eq_true, Bool.and_eq_true, decide_eq_true_eq, beq_iff_eq, ← Bool.not_eq_true]
    omega
  · intro a b c
    simp only [before99, Bool.or_eq_true, Bool.and_eq_true, decide_eq_true_eq, beq_iff_eq, ← Bool.not_eq_true]
    omega

theorem pick99_eq (js : List Job) : pick99 js = js.foldl (firstOf before99) none :=
  congrArg (js.foldl · none) (funext fun b => funext fun j => by cases b <;> rfl)
theorem pick99_some {js : List Job} {j : Job} (h : pick99 js = some j) : j ∈ js ∧ ∀ k ∈ js, before99 k j = false := by
  have hne : js ≠ [] := by rintro rfl; cases h
  obtain ⟨r, hr, hmem, hfirst⟩ := foldl_firstOf before99_weakOrder hne
  cases ((pick99_eq js).trans hr).symm.trans h
  exact ⟨hmem, hfirst⟩

/-! ## The turn -/

/-- The tasks a turn of a core may serve. -/
def turnCands (s : State) (core : Nat) : List Job := (queueOf s core).filter (canDispatch s core)

theorem mem_queueOf {s : State} {core : Nat} {j : Job} : j ∈ queueOf s core ↔ j ∈ s.jobs ∧ j.st = .ready ∧ j.q = core := by
  simp [queueOf]
theorem mem_turnCands {s : State} {core : Nat} {j : Job} : j ∈ turnCands s core ↔ j ∈ queueOf s core ∧ canDispatch s core j = true :=
  List.mem_filter

/-- A turn that serves a task: its core may dispatch, it chooses a class and a stream, and of these the task that goes first. -/
theorem turnPick_some {s u : State} {core : Nat} {j : Job} (h : turnPick s core = some (j, u)) :
    dieOk s (dieOf core) = true ∧ (freeSlot s core).isSome = true ∧ ∃ c x v w, turnClass s core (turnCands s core) = some (c, v) ∧
      pick99 (((turnCands s core).filter fun j => j.t.cls == c).filter fun j => j.t.stream == x) = some j ∧
      SchedOnly s w ∧ u = { w with jobs := w.jobs.filter fun k => k.t.tid != j.t.tid } := by
  unfold turnPick at h
  extract_lets die cands at h
  split at h
  · cases h
  next hopen =>
  simp only [Bool.or_eq_true, Bool.not_eq_true', not_or, Bool.not_eq_false, Option.isNone_eq_false_iff, Bool.not_eq_true] at hopen
  obtain ⟨⟨⟨_, hdie⟩, hslot⟩, _⟩ := hopen
  split at h
  · cases h
  next c v hclass =>
  extract_lets pool act fuel at h
  split at h
  · cases h
  next x w hloop =>
  split at h
  · next k hpick =>
    cases h
    exact ⟨hdie, hslot, c, x, v, w, hclass, hpick,
      ((turnClass_some hclass).1.trans (schedOnly_actSync v die c)).trans (schedOnly_drrLoop _ _ _ _ _ hloop), rfl⟩
  · cases h

/-- R99, R107, R108: the choice of a turn. -/
theorem turnChoice : Rule.TurnChoice := by
  intro s u core j h
  obtain ⟨hdie, hslot, c, x, v, w, hclass, hpick, hw, rfl⟩ := turnPick_some h
  obtain ⟨hmem, hfirst⟩ := pick99_some hpick
  simp only [List.mem_filter, beq_iff_eq] at hmem hfirst
  obtain ⟨⟨hcand, rfl⟩, rfl⟩ := hmem
  obtain ⟨hq, hmay⟩ := mem_turnCands.mp hcand
  obtain ⟨hjob, hready, hcore⟩ := mem_queueOf.mp hq
  exact ⟨hjob, hready, hcore, hmay, hdie, hslot, fun k hk => by simpa using (List.mem_filter.mp hk).2, hw.mem, hw.tasks,
    fun hfloor k hk hk' => (turnClass_some hclass).2 hfloor k (mem_turnCands.mpr ⟨hk, hk'⟩),
    fun k hk hk' hcls hstream => hfirst k ⟨⟨mem_turnCands.mpr ⟨hk, hk'⟩, hcls⟩, hstream⟩⟩

end Sys2Proof.Machine
end

section
/-! SUPPORT. Dispatch and resumption (R87, R90, R93, R104, R153): a slot made ready, the streams as they start, the arrivals that waited
for a task, and a saved task restored. -/

namespace Sys2Proof.Machine

/-! ## A turn that dispatches -/

/-- A new task as it is placed in its slot: its stream set is still to be read, its A stream to be looked at first. -/
def Job.unstarted (j : Job) (s : State) : Task := { j.t with
  line := s.aborts.any fun a => a.1 == j.t.cid && a.2.1 == j.t.abgrp, since := s.cycle, unread := true, mtask := false, preempt := false
  st := (Vector.replicate 4 EStream.empty).set 0 { EStream.empty with live := true, first := true } }
/-- The slot of a new task, made ready for it with the acquire that its READY asks for (R93, R94, R332). -/
def readiedSlot (s : State) (core slot : Nat) (j : Job) : State :=
  let o := openSlot s core slot j.t.cid
  if j.t.acquires then o.dropViews core j.t.cid .package else o
/-- The core with the new task in its slot. -/
def seated (s : State) (core slot : Nat) (j : Job) : State :=
  settle ((readiedSlot s core slot j).setTask core slot (j.unstarted (readiedSlot s core slot j))) core

theorem dispatchTurn_serves {s0 s1 : State} {core slot : Nat} {j : Job} (he : emptyTurn (unstick s0) core = none)
    (hp : turnPick (latch (unstick s0)) core = some (j, s1)) (hf : freeSlot (unstick s0) core = some slot) (hs : j.t.saved = false) :
    execDispatchTurn core s0 = loadSet (seated s1 core slot j) core slot := by
  unfold execDispatchTurn
  simp only [he, hp, hf]
  exact if_neg (by simp [hs])

/-- A stream set that is read, with an entry in it, starts its task. -/
theorem loadSet_starts {s w : State} {core slot : Nat} {es : List W64} (hd : (s.task core slot).fld 0 48 / 2 ^ 45 ≤ 3)
    (ht : trusted s ((s.task core slot).fld 0 48 / 2 ^ 45) = true)
    (hr : readSet (s.task core slot).cid ((s.task core slot).fld 0 48) s = .ok (some es) w) (ha : (es.all (· == 0)) = false) :
    loadSet s core slot = .next (w.setTask core slot (startAll (s.task core slot) (Vector.ofFn fun i : Fin 4 => es.getD i.val 0))) := by
  unfold loadSet
  simp only [Nat.not_lt.mpr hd, ht, hr, ha, if_false, Bool.not_true, Bool.false_eq_true]

/-! ## The streams as they start (R90) -/

theorem stm_startAll (t : Task) (es : Vector W64 4) (e : Eng) : (startAll t es).stm e = startStream t es[e.idx] (t.stm e) :=
  Vector.getElem_ofFn _

/-- The window and the arguments of the task, in x1 to x3, and zero. -/
theorem rx_startStream (t : Task) (entry : W64) (st : EStream) (a : R5) : (startStream t entry st).rx a =
    if a = 1 then BitVec.ofNat 64 (t.fld 384 64) else if a = 2 then BitVec.ofNat 64 (t.fld 64 48) else if a = 3 then t.pblk else 0 := by
  by_cases h1 : a = 1
  · subst h1; rfl
  by_cases h2 : a = 2
  · subst h2; rfl
  by_cases h3 : a = 3
  · subst h3; rfl
  have hne (n : Nat) (h : ¬ a = BitVec.ofNat 5 n) (hn : n < 32) : ¬ n = a.toFin.val := fun h' =>
    h (BitVec.eq_of_toNat_eq (by rw [BitVec.toNat_ofNat, Nat.mod_eq_of_lt hn]; exact h'.symm))
  have hzero : (startStream t entry st).x.get a.toFin = 0 :=
    (Vector.getElem_set_ne (by decide) _ (hne 3 h3 (by decide))).trans ((Vector.getElem_set_ne _ _ (hne 2 h2 (by decide))).trans
      ((Vector.getElem_set_ne _ _ (hne 1 h1 (by decide))).trans (Vector.getElem_replicate _)))
  rw [if_neg h1, if_neg h2, if_neg h3, EStream.rx, hzero, ite_self]
theorem rp_startStream (t : Task) (entry : W64) (st : EStream) (a : R5) : (startStream t entry st).rp a = 0 := by
  unfold EStream.rp startStream
  split <;> simp

/-! ## Arrivals that waited for a task (R206) -/

/-- An update of a slot, as any slot sees it. -/
theorem task_modTask_or (s : State) (c k : Nat) (f : Task → Task) (c' k' : Nat) :
    s.task c' k' = s.task c k ∧ (s.modTask c k f).task c' k' = f (s.task c k) ∨ (s.modTask c k f).task c' k' = s.task c' k' := by
  by_cases h : slotKey c' k' = slotKey c k
  · have hs (s : State) : s.task c' k' = s.task c k := by rw [State.task, h, State.task]
    exact .inl ⟨hs s, (hs _).trans (task_modTask s c k f)⟩
  · exact .inr (task_modTask_other s c k f h)

/-- At most gates of tasks differ, and which arrivals wait. -/
structure GatesOnly (s t : State) : Prop where
  rest : t = { s with tasks := t.tasks, arrivals := t.arrivals }
  tasks : ∀ c k, ∃ g, t.task c k = { s.task c k with g := g }

theorem GatesOnly.refl (s : State) : GatesOnly s s := ⟨rfl, fun _ _ => ⟨_, rfl⟩⟩
theorem GatesOnly.trans {s t u : State} (h : GatesOnly s t) (h' : GatesOnly t u) : GatesOnly s u where
  rest := by rw [h'.rest, h.rest]
  tasks c k := by
    obtain ⟨g, hg⟩ := h.tasks c k
    obtain ⟨g', hg'⟩ := h'.tasks c k
    exact ⟨g', by rw [hg', hg]⟩
theorem GatesOnly.jobs {s t : State} (h : GatesOnly s t) : t.jobs = s.jobs := by rw [h.rest]
theorem GatesOnly.paths {s t : State} (h : GatesOnly s t) : t.paths = s.paths := by rw [h.rest]

theorem gatesOnly_modTask (s : State) (c k : Nat) (f : Task → Task) (hf : ∀ t, ∃ g, f t = { t with g := g }) :
    GatesOnly s (s.modTask c k f) where
  rest := rfl
  tasks c' k' := by
    rcases task_modTask_or s c k f c' k' with ⟨hs, ht⟩ | h
    · rw [hs, ht]
      exact hf _
    · exact ⟨_, h⟩
theorem GatesOnly.foldl {α : Type} {f : State → α → State} (h : ∀ s a, GatesOnly s (f s a)) (l : List α) (s : State) :
    GatesOnly s (l.foldl f s) :=
  List.foldlRecOn l f (.refl s) fun t ht a _ => ht.trans (h t a)

theorem gatesOnly_settle (s : State) (core : Nat) : GatesOnly s (settle s core) := by
  unfold settle
  extract_lets here s1
  refine GatesOnly.trans (t := s1) (.foldl (fun s a => ?_) _ s) ⟨rfl, fun _ _ => ⟨_, rfl⟩⟩
  split
  · exact gatesOnly_modTask s _ _ _ fun t => ⟨_, rfl⟩
  · exact .refl s

/-! ## A turn that restores (R153) -/

/-- A saved task in the slot made ready for it, its window, its accesses and its side-log entries back (R152, R174). -/
def reseated (s2 : State) (core slot : Nat) (j : Job) : State :=
  let base := rowKey core (2048 * slot) 0 0
  let s3 := { s2 with
    mem := j.rows.foldl (fun m (c : Host.Cell) => tput 0 m (base + c.1) c.2) s2.mem
    paths := (s2.paths.map fun (e : Entry) => if e.tid == j.t.tid then e.at core slot else e) ++ j.paths.map (fun (e : Entry) => e.at core slot)
    logs := s2.logs ++ j.logs.map (fun (l : LogEnt) => { l with e := l.e.at core slot }) }
  s3.setTask core slot { j.t with saved := false, since := s3.cycle }

theorem task_reseated (s : State) (core slot : Nat) (j : Job) :
    (reseated s core slot j).task core slot = { j.t with saved := false, since := s.cycle } := task_setTask ..
theorem reseated_jobs (s : State) (core slot : Nat) (j : Job) : (reseated s core slot j).jobs = s.jobs := rfl
theorem mem_paths_reseated (s : State) (core slot : Nat) {j : Job} {e : Entry} (h : e ∈ j.paths) :
    e.at core slot ∈ (reseated s core slot j).paths := List.mem_append_right _ (List.mem_map_of_mem h)

theorem taskResume_restores {s s1 : State} {core slot : Nat} {j : Job} (hp : turnPick (latch s) core = some (j, s1))
    (hf : freeSlot s core = some slot) (hs : j.t.saved = true) : execTaskResume core s =
      .next (settle (reseated (openSlot (touchFrame s1 (dieOf core)) core slot j.t.cid) core slot j) core) := by
  -- `rw` leaves the cleared window closed, where `simp` would project through it and have the kernel compare it.
  rw [execTaskResume, hp, hf]
  exact if_neg (by simp [hs])

theorem touchHbm_jobs (s : State) (k : Nat) : (touchHbm s k).jobs = s.jobs := by
  unfold touchHbm
  split <;> rfl
theorem openSlot_jobs (s : State) (core slot cid : Nat) : (openSlot s core slot cid).jobs = s.jobs := by
  unfold openSlot
  dsimp only
  split <;> rfl

/-- R87, R90, R93, R104, R153: a dispatch, the streams it starts, and a resumption. -/
theorem dispatchResults : Rule.DispatchResults := by
  refine ⟨fun s0 s1 w core slot j es he hp hf hs hd ht hr ha => ?_, fun t es e => ⟨?_, ?_, ?_, fun a => ?_, fun a _ => ?_⟩,
    fun s s1 core slot j hp hf hs => ?_⟩
  · exact (dispatchTurn_serves he hp hf hs).trans (loadSet_starts hd ht hr ha)
  · rw [stm_startAll]; rfl
  · rw [stm_startAll]; rfl
  · rw [stm_startAll]; rfl
  · rw [stm_startAll]; exact rx_startStream ..
  · rw [stm_startAll]; exact rp_startStream ..
  · have hg := gatesOnly_settle (reseated (openSlot (touchFrame s1 (dieOf core)) core slot j.t.cid) core slot j) core
    obtain ⟨g, ht⟩ := hg.tasks core slot
    rw [task_reseated] at ht
    refine ⟨_, taskResume_restores hp hf hs, ?_, ?_, fun e => ?_, ?_, ?_, ?_, fun e he => ?_, ?_⟩
    · rw [ht]
    · rw [ht]
    · rw [ht]; rfl
    · rw [ht]
    · rw [ht]
    · rw [ht]
    · rw [hg.paths]
      exact mem_paths_reseated _ _ _ he
    · rw [hg.jobs, reseated_jobs, openSlot_jobs, touchFrame, touchHbm_jobs]

end Sys2Proof.Machine
end

section
/-! SUPPORT. Ageing and stealing (R106, R110): a task that becomes stealable, and what an idle core takes. -/

namespace Sys2Proof.Machine

/-! ## Ageing (R106) -/

/-- A task after the expiry of a core's task has been looked for. -/
def agedBy (s : State) (core tid : Nat) (j : Job) : Job :=
  if j.st == .ready && j.q == core && j.t.tid == tid && s.cycle - j.t.since ≥ ageOf s then { j with aged := true } else j

theorem ageExpiry_eq (s : State) (core tid : Nat) : execAgeExpiry core tid s = .next { s with jobs := s.jobs.map (agedBy s core tid) } := rfl

section
variable {s : State} {core tid : Nat} {j : Job}
theorem agedBy_due (hr : j.st = .ready) (hq : j.q = core) (ht : j.t.tid = tid) (ha : ageOf s ≤ s.cycle - j.t.since) :
    agedBy s core tid j = { j with aged := true } := if_pos (by simp [hr, hq, ht, ha])
theorem agedBy_other (h : j.q ≠ core ∨ j.t.tid ≠ tid ∨ s.cycle - j.t.since < ageOf s) : agedBy s core tid j = j :=
  if_neg (by rcases h with h | h | h <;> simp [h])
end

/-! ## One level of a request (R110) -/

/-- Of two stealable tasks, the one taken first. -/
def stolenBefore (a b : Job) : Bool := a.t.readyAt < b.t.readyAt || (a.t.readyAt == b.t.readyAt && a.q < b.q)
/-- A task taken into the queue of a core. -/
def stolen (s : State) (core : Nat) (j : Job) : State :=
  queued (actSync { s with jobs := (s.jobs.filter fun k => k.t.tid != j.t.tid) ++
    [{ j with q := core, aged := false, t := { j.t with since := s.cycle } }] } (dieOf j.q) j.t.cls) core j.t.cls

theorem stolenBefore_weakOrder : WeakOrder stolenBefore := by
  constructor
  · intro a b
    simp only [stolenBefore, Bool.or_eq_true, Bool.and_eq_true, decide_eq_true_eq, beq_iff_eq, ← Bool.not_eq_true]
    omega
  · intro a b c
    simp only [stolenBefore, Bool.or_eq_true, Bool.and_eq_true, decide_eq_true_eq, beq_iff_eq, ← Bool.not_eq_true]
    omega
theorem readyAt_le_of_not_before {j k : Job} (h : stolenBefore k j = false) : j.t.readyAt ≤ k.t.readyAt := by
  by_contra hlt
  simp [stolenBefore, Nat.not_le.mp hlt] at h

/-- A level with a stealable task gives one with the earliest ready time. -/
theorem askLevel_steals {s : State} {core : Nat} {cores : List Nat} (h : ∃ k ∈ s.jobs, stealable s core k = true ∧ k.q ∈ cores) :
    ∃ j ∈ s.jobs, stealable s core j = true ∧ j.q ∈ cores ∧ askLevel s core cores = some (stolen s core j) ∧
      ∀ k ∈ s.jobs, stealable s core k = true → k.q ∈ cores → j.t.readyAt ≤ k.t.readyAt := by
  have hmem {k : Job} : k ∈ s.jobs.filter (fun j => stealable s core j && cores.contains j.q) ↔
      k ∈ s.jobs ∧ stealable s core k = true ∧ k.q ∈ cores := by simp
  obtain ⟨k, hk⟩ := h
  obtain ⟨j, hj, hjmem, hfirst⟩ := foldl_firstOf stolenBefore_weakOrder (List.ne_nil_of_mem (hmem.mpr hk))
  obtain ⟨hjob, hsteal, hcore⟩ := hmem.mp hjmem
  refine ⟨j, hjob, hsteal, hcore, ?_, fun k hk hk' hkq => readyAt_le_of_not_before (hfirst k (hmem.mpr ⟨hk, hk', hkq⟩))⟩
  unfold askLevel
  extract_lets js best
  have hbest : best = some j := by
    refine Eq.trans (congrArg (js.foldl · none) (funext fun b => funext fun j => ?_)) hj
    cases b <;> rfl
  rw [hbest]
  rfl

/-! ## A request -/

section
variable {s : State} {core : Nat}

/-- The first level asks the other cores of the eight. -/
def eightAsked (core : Nat) : List Nat := (List.range 96).filter fun c => eightOf c == eightOf core && c != core

theorem mem_eightAsked {c : Nat} : c ∈ eightAsked core ↔ c < 96 ∧ eightOf c = eightOf core ∧ c ≠ core := by
  simp [eightAsked]

theorem stealRequest_idle (h : freeSlot s core = none ∨ queueOf s core ≠ [] ∨ mayAsk s core = false) :
    execStealRequest core s = .next s := by
  unfold execStealRequest
  rw [if_neg]
  rcases h with h | h | h <;> simp [h]

theorem stealRequest_asks (hc : core < 96) (hd : dieOk s (dieOf core) = true) (hf : (freeSlot s core).isSome = true)
    (hq : queueOf s core = []) (hm : mayAsk s core = true) :
    execStealRequest core s = .next (((stealLevels s core).findSome? (askLevel s core)).getD
      { s with sch := { s.sch with asked := tput 0 s.sch.asked core (s.cycle + 1) } }) :=
  if_pos (by simp [hc, hd, hf, hq, hm])

/-- A stealable task stands in no queue that is empty. -/
theorem q_ne_of_stealable (hq : queueOf s core = []) {k : Job} (hk : k ∈ s.jobs) (hs : stealable s core k = true) : k.q ≠ core := by
  intro h
  have hready : k.st = .ready := by
    simp only [stealable, Bool.and_eq_true, beq_iff_eq] at hs
    obtain ⟨⟨⟨hst, _⟩, _⟩, _⟩ := hs
    exact hst
  have : k ∈ queueOf s core := mem_queueOf.mpr ⟨hk, hready, h⟩
  rw [hq] at this
  cases this
end

/-- R106, R110: ageing, then a request by whether its core is idle and finds a task. -/
theorem stealResults : Rule.StealResults := by
  refine ⟨fun s core tid => ⟨_, ageExpiry_eq s core tid, rfl, rfl, List.length_map _, fun j hj hr hq ht ha => ?_, fun j hj h => ?_⟩,
    fun s core hc hd hf hq hm hex => ?_, fun s core hc hd hf hq hm hno => ?_, fun s core h => stealRequest_idle h⟩
  · exact List.mem_map.mpr ⟨j, hj, agedBy_due hr hq ht ha⟩
  · exact List.mem_map.mpr ⟨j, hj, agedBy_other h⟩
  · have hasked {k : Job} (hk : k ∈ s.jobs) (hs : stealable s core k = true) :
        k.q ∈ eightAsked core ↔ k.q < 96 ∧ eightOf k.q = eightOf core := by
      simp [mem_eightAsked, q_ne_of_stealable hq hk hs]
    obtain ⟨k, hk, hs, hkq⟩ := hex
    obtain ⟨j, hj, hjs, hjq, hask, hfirst⟩ := askLevel_steals (cores := eightAsked core) ⟨k, hk, hs, (hasked hk hs).mpr hkq⟩
    refine ⟨j, hj, hjs, (mem_eightAsked.mp hjq).2.1, ?_, fun k hk hs hlt h8 => hfirst k hk hs ((hasked hk hs).mpr ⟨hlt, h8⟩)⟩
    have hfound : (stealLevels s core).findSome? (askLevel s core) = some (stolen s core j) := by
      rw [show stealLevels s core = eightAsked core :: (stealLevels s core).tail from rfl, List.findSome?_cons, hask]
    rw [exec_stealRequest, stealRequest_asks hc hd hf hq hm, hfound]
    rfl
  · rw [exec_stealRequest, stealRequest_asks hc hd hf hq hm, hno]
    rfl

/-- Settles O49: the choice of a turn, what it dispatches or resumes, and what an idle core takes. -/
theorem dispatch : Obligations.Dispatch := ⟨turnChoice, dispatchResults, stealResults⟩

end Sys2Proof.Machine
end

section
/-! SUPPORT. What a discarded block leaves of the resident tasks: each is the task it was (R94, R130, R334). -/

namespace Sys2Proof.Machine

/-! ## The task of a slot -/

/-- Two states of one task: its number and its record. -/
structure SameRecord (a b : Task) : Prop where
  tid : b.tid = a.tid
  trec : b.trec = a.trec

theorem SameRecord.refl (t : Task) : SameRecord t t := ⟨rfl, rfl⟩
theorem SameRecord.trans {a b c : Task} (h : SameRecord a b) (h' : SameRecord b c) : SameRecord a c :=
  ⟨h'.tid.trans h.tid, h'.trec.trans h.trec⟩

/-- Every slot holds the task it held. -/
def ResidentsKept (s t : State) : Prop := ∀ c k, SameRecord (s.task c k) (t.task c k)

theorem ResidentsKept.refl (s : State) : ResidentsKept s s := fun _ _ => .refl _
theorem ResidentsKept.trans {s t u : State} (h : ResidentsKept s t) (h' : ResidentsKept t u) : ResidentsKept s u :=
  fun c k => (h c k).trans (h' c k)
theorem ResidentsKept.of_tasks {s t : State} (h : t.tasks = s.tasks) : ResidentsKept s t := fun c k => by
  rw [State.task, State.task, h]
  exact .refl _
theorem ResidentsKept.foldl {α : Type} {f : State → α → State} (h : ∀ s a, ResidentsKept s (f s a)) (l : List α) (s : State) :
    ResidentsKept s (l.foldl f s) :=
  List.foldlRecOn l f (.refl s) fun t ht a _ => ht.trans (h t a)
theorem residentsKept_modTask (s : State) (c k : Nat) {f : Task → Task} (hf : SameRecord (s.task c k) (f (s.task c k))) :
    ResidentsKept s (s.modTask c k f) := fun c' k' => by
  rcases task_modTask_or s c k f c' k' with ⟨hs, ht⟩ | h
  · rw [hs, ht]
    exact hf
  · rw [h]
    exact .refl _

theorem residentsKept_modSt (s : State) (r : Ref) (f : EStream → EStream) : ResidentsKept s (s.modSt r f) :=
  residentsKept_modTask s r.core r.slot (f := fun t => t.modStm r.eng f) ⟨rfl, rfl⟩

/-! ## A task that becomes READY -/

theorem armFull_tasks (s : State) (cid : Nat) : (armFull s cid).tasks = s.tasks := modFn_tasks ..
theorem enterQueue_tasks (s : State) (j : Job) (q : Nat) (held : JobState) : (enterQueue s j q held).tasks = s.tasks := by
  unfold enterQueue
  extract_lets t u
  split
  · exact armFull_tasks _ _
  · exact (schedOnly_actSync _ _ _).tasks
theorem enqueue_tasks (s : State) (j : Job) (home : Option Nat) : (enqueue s j home).tasks = s.tasks := enterQueue_tasks ..
theorem stageReady_tasks (t : Task) : ∀ (n : Nat) (s : State) (x : StageTab), (stageReady t n s x).1.tasks = s.tasks
  | 0, _, _ => rfl
  | n + 1, s, x => by
    unfold stageReady
    extract_lets w j
    split
    · exact (stageReady_tasks t n _ _).trans (enqueue_tasks _ _ _)
    · rfl
theorem becomeReady_tasks (s : State) (j : Job) : (becomeReady s j).tasks = s.tasks := by
  unfold becomeReady
  extract_lets u lo hi v key home t w y
  split
  · exact stageReady_tasks _ _ _ _
  · split
    · exact enqueue_tasks _ _ _
    · exact enqueue_tasks _ _ _

/-! ## A signal and a discard -/

theorem residentsKept_releaseWaiter (s : State) (name : Nat) (w : Waiter) : ResidentsKept s (releaseWaiter s name w) := by
  unfold releaseWaiter
  split
  · split
    · exact .of_tasks (becomeReady_tasks _ _)
    · exact .refl s
  · split
    · exact residentsKept_modSt s _ _
    · exact .refl s
theorem evSat_tasks (s : State) (cid : Nat) : (evSat s cid).tasks = s.tasks := by
  simp [evSat]
theorem residentsKept_signalEvent (s : State) (cid name : Nat) : ResidentsKept s (signalEvent s cid name) := by
  unfold signalEvent
  split
  · exact .of_tasks rfl
  · split
    · refine ResidentsKept.trans ?_ (residentsKept_releaseWaiter _ _ _)
      exact .of_tasks rfl
    · split
      · exact .of_tasks (evSat_tasks _ _)
      · exact .of_tasks rfl

theorem sameRecord_giveBack (t : Task) (k : Taken) : SameRecord t (giveBack t k) := by
  cases k with
  | token k => unfold giveBack; dsimp only; split <;> exact ⟨rfl, rfl⟩
  | event e n => unfold giveBack; dsimp only; split <;> exact ⟨rfl, rfl⟩
  | queue q v => unfold giveBack; dsimp only; split <;> exact ⟨rfl, rfl⟩
  | dsync p me => unfold giveBack Task.flipPh; dsimp only; split <;> exact ⟨rfl, rfl⟩
  | evwait name => exact .refl t
  | rel c => exact ⟨rfl, rfl⟩
  | passed => exact .refl t
theorem sameRecord_giveBacks (t : Task) (ks : List Taken) : SameRecord t (ks.foldl giveBack t) :=
  List.foldlRecOn ks giveBack (.refl t) fun u hu k _ => hu.trans (sameRecord_giveBack u k)
theorem residentsKept_discard (s : State) (r : Ref) : ResidentsKept s (discard s r) := by
  unfold discard
  split
  · exact .refl s
  · next b hb =>
    extract_lets t t1 t2 t3 u v
    have ht : SameRecord (s.task r.core r.slot) t3 := (sameRecord_giveBacks t b.taken.reverse).trans ⟨rfl, rfl⟩
    have hu : u.tasks = s.tasks := by
      dsimp only [u]
      split
      · exact modShell_tasks ..
      · rfl
    refine ResidentsKept.trans (.of_tasks hu) (residentsKept_modTask u r.core r.slot (f := fun _ => t3) ?_)
    rwa [State.task, hu]
theorem residentsKept_discardBlock (s : State) (r : Ref) : ResidentsKept s (discardBlock s r) := by
  unfold discardBlock
  split
  · exact .refl s
  · exact (residentsKept_discard s r).trans (.foldl (fun s n => residentsKept_signalEvent s _ n) _ _)

end Sys2Proof.Machine
end

section
/-! SUPPORT. Pre-emption (R109, R151, R152, R266): the request, and the save of a task at its boundary. -/

namespace Sys2Proof.Machine

/-! ## The request (R109) -/

section
variable {s : State} {core : Nat}

theorem quantumExpiry_kept (h : frameFree s (dieOf core) = false ∨ ((residents s core).any fun e => e.2.preempt) = true) :
    execQuantumExpiry core s = .next s := if_pos (by rcases h with h | h <;> simp [h])

variable (hc : core < 96) (hf : frameFree s (dieOf core) = true) (hp : ((residents s core).any fun e => e.2.preempt) = false)
include hc hf hp

theorem quantumExpiry_requests {slot : Nat} (hv : victim s core = some slot) :
    execQuantumExpiry core s = .next (s.modTask core slot fun t => { t with preempt := true }) := by
  rw [execQuantumExpiry, if_neg (by simp [hf, hp, Nat.not_le.mpr hc]), hv]
theorem quantumExpiry_none (hv : victim s core = none) : execQuantumExpiry core s = .next s := by
  rw [execQuantumExpiry, if_neg (by simp [hf, hp, Nat.not_le.mpr hc]), hv]
end

/-! ## A task that enters a queue (R96, R106) -/

/-- The job of a task that has entered a queue: READY, or held before its entry, with what its frame holds. -/
structure Entered (j j' : Job) (q : Nat) (held : JobState) : Prop where
  st : j'.st = .ready ∨ j'.st = held
  q : j'.q = q
  frame : j'.frame = j.frame
  record : SameRecord j.t j'.t
  saved : j'.t.saved = j.t.saved
  c : j'.t.c = j.t.c
  acc : j'.t.acc = j.t.acc

theorem queueLen_append_held (s : State) {j : Job} (h : j.st ≠ .ready) (q : Nat) : queueLen { s with jobs := s.jobs ++ [j] } q = queueLen s q := by
  simp [queueLen, h]
theorem armFull_jobs (s : State) (cid : Nat) : (armFull s cid).jobs = s.jobs := modFn_jobs ..
theorem queueLen_armFull (s : State) (cid q : Nat) : queueLen (armFull s cid) q = queueLen s q := by rw [queueLen, armFull_jobs, queueLen]

/-- It is held only while its queue is full. -/
theorem enterQueue_enters (s : State) (j : Job) (q : Nat) {held : JobState} (hh : held ≠ .ready) :
    ∃ j' ∈ (enterQueue s j q held).jobs, Entered j j' q held ∧ (queueLen (enterQueue s j q held) q < 64 → j'.st = .ready) := by
  unfold enterQueue
  split
  · next hfull =>
    rw [armFull_jobs]
    refine ⟨_, List.mem_append_right _ (List.mem_singleton_self _), ⟨.inr rfl, rfl, rfl, .refl _, rfl, rfl, rfl⟩, fun hlen => ?_⟩
    rw [queueLen_armFull, queueLen_append_held s hh] at hlen
    simp only [Bool.and_eq_true, decide_eq_true_eq] at hfull
    omega
  · extract_lets t u
    rw [(schedOnly_actSync _ _ _).jobs]
    exact ⟨_, List.mem_append_right _ (List.mem_singleton_self _), ⟨.inl rfl, rfl, rfl, ⟨rfl, rfl⟩, rfl, rfl, rfl⟩, fun _ => rfl⟩

theorem enterQueue_paths (s : State) (j : Job) (q : Nat) (held : JobState) : (enterQueue s j q held).paths = s.paths := by
  unfold enterQueue
  extract_lets t u
  split
  · exact modFn_paths ..
  · exact (schedOnly_actSync _ _ _).paths

/-! ## The save (R151, R152) -/

/-- The open blocks of a task's streams discarded. -/
def boundary (s : State) (core slot : Nat) : State := Eng.all.foldl (fun s e => discardBlock s ⟨core, slot, e⟩) s
/-- An access that is saved with a task. -/
def savedWith (t : Task) (e : Entry) : Bool := e.tid == t.tid && e.saved
/-- The job of a saved task (R152). -/
def savedJob (s : State) (core slot : Nat) : Job :=
  let t := s.task core slot
  let base := rowKey core (2048 * slot) 0 0
  let rows := (s.mem.filter fun c => inWindow core slot c.1 && liveRow t ((c.1 - base) / 256)).map fun c => (c.1 - base, c.2)
  let t1 := { t with
    saved := true, preempt := false
    v := t.v.filter fun r => liveRow t r.1
    acc := Vector.ofFn fun i : Fin 8 => if t.c.acclive.getLsbD i.val then t.acc[i] else Accu.empty
    st := t.st.map fun st => { st with mon := none, ibuf := [], fetched := none, fwait := none, hold := .none, looked := false } }
  { t := t1, st := .ready, q := core, aged := false, rows := rows
    paths := s.paths.filter (savedWith t), logs := s.logs.filter fun l => l.e.tid == t.tid
    frame := some (dieOf core) }
/-- The core without what is saved with the task of a slot. -/
def vacated (s : State) (core slot : Nat) : State :=
  let t := s.task core slot
  let base := rowKey core (2048 * slot) 0 0
  let s1 := if t.mtask then dropLease s core else s
  let s2 := freeLogs s1 fun l => l.e.tid == t.tid
  zeroKeys { s2 with paths := s2.paths.filter fun e => !savedWith t e } base (2048 * 256)
/-- The core with an empty slot, a frame of its die written and the residency of its task paid. -/
def unseated (s : State) (core slot : Nat) : State :=
  payResidency (touchFrame ((vacated s core slot).setTask core slot Task.empty) (dieOf core)) core (s.task core slot)

theorem savable_requested {s : State} {core slot : Nat} (h : savable s core slot = true) :
    frameFree s (dieOf core) = true := by
  unfold savable at h
  simp only [Bool.and_eq_true] at h
  obtain ⟨⟨⟨_, hfree⟩, _⟩, _⟩ := h
  exact hfree

section
variable {s : State} {core slot : Nat}

theorem preemptSave_dropped (hp : (s.task core slot).preempt = true) (hf : frameFree s (dieOf core) = false) :
    execPreemptSave core slot s = .next (s.modTask core slot fun t => { t with preempt := false, yielded := false }) :=
  if_pos (by simp [hp, hf])
theorem preemptSave_waits (hs : savable s core slot = false) (h : (s.task core slot).preempt = false ∨ frameFree s (dieOf core) = true) :
    execPreemptSave core slot s = .next s := by
  rw [execPreemptSave, if_neg (by rcases h with h | h <;> simp [h]), if_pos (by simp [hs])]
theorem preemptSave_saves (hs : savable s core slot = true) : execPreemptSave core slot s =
    .next (enterQueue (unseated (boundary s core slot) core slot) (savedJob (boundary s core slot) core slot) core .returning) := by
  rw [execPreemptSave, if_neg (by simp [savable_requested hs]), if_neg (by simp [hs])]
  rw [← boundary]
  -- The state at the boundary stays opaque: comparing what it is computed from is what `rfl` would spend its time on.
  generalize boundary s core slot = d
  rfl
end

theorem touchHbm_tasks (s : State) (k : Nat) : (touchHbm s k).tasks = s.tasks := by
  unfold touchHbm
  split <;> rfl
theorem touchHbm_paths (s : State) (k : Nat) : (touchHbm s k).paths = s.paths := by
  unfold touchHbm
  split <;> rfl
theorem zeroKeys_paths (s : State) (k n : Nat) : (zeroKeys s k n).paths = s.paths := rfl

theorem task_unseated (s : State) (core slot : Nat) : (unseated s core slot).task core slot = Task.empty := by
  rw [unseated, State.task, (schedOnly_payResidency _ _ _).tasks, touchFrame, touchHbm_tasks, ← State.task, task_setTask]
theorem paths_unseated {s : State} {core slot : Nat} {e : Entry} (h : e ∈ (unseated s core slot).paths) :
    savedWith (s.task core slot) e = false := by
  rw [unseated, (schedOnly_payResidency _ _ _).paths, touchFrame, touchHbm_paths, setTask_paths, vacated, zeroKeys_paths] at h
  simpa using (List.mem_filter.mp h).2

theorem sameRecord_savedJob (s : State) (core slot : Nat) : SameRecord (s.task core slot) (savedJob s core slot).t := ⟨rfl, rfl⟩
theorem c_savedJob (s : State) (core slot : Nat) : (savedJob s core slot).t.c = (s.task core slot).c := rfl
theorem accu_congr {t u : Task} (h : u.acc = t.acc) (a : BitVec 3) : u.accu a = t.accu a := by rw [Task.accu, h, Task.accu]
theorem accu_savedJob (s : State) (core slot : Nat) (a : BitVec 3) : (savedJob s core slot).t.accu a =
    if (s.task core slot).c.acclive.getLsbD a.toNat then (s.task core slot).accu a else Accu.empty := Vector.getElem_ofFn _

theorem residentsKept_boundary (s : State) (core slot : Nat) : ResidentsKept s (boundary s core slot) :=
  .foldl (fun s _ => residentsKept_discardBlock s _) _ s

/-- R109, R151, R152, R266: the request, the save, and a request that must wait or is dropped. -/
theorem preemptionResults : Rule.PreemptionResults := by
  refine ⟨fun s core hc hf hp => ⟨fun slot hv => quantumExpiry_requests hc hf hp hv, fun hv => quantumExpiry_none hc hf hp hv⟩,
    fun s core h => quantumExpiry_kept h, fun s core slot hs => ?_, fun s core slot hs h => preemptSave_waits hs h,
    fun s core slot hp hf => preemptSave_dropped hp hf⟩
  intro d
  have hd : d = boundary s core slot := rfl
  clear_value d
  subst hd
  have hkept : SameRecord (s.task core slot) ((boundary s core slot).task core slot) := residentsKept_boundary s core slot core slot
  obtain ⟨j, hj, hin, hready⟩ := enterQueue_enters (unseated (boundary s core slot) core slot) (savedJob (boundary s core slot) core slot)
    core (held := .returning) (by decide)
  have hrec : SameRecord (s.task core slot) j.t := (hkept.trans (sameRecord_savedJob _ core slot)).trans hin.record
  refine ⟨_, preemptSave_saves hs, ?_, fun e he htid => ?_, j, hj, hrec.tid, hin.saved, hin.q, hin.frame, hin.st, hready,
    hin.c.trans (c_savedJob ..), hrec.trec, fun a => ?_⟩
  · rw [State.task, enterQueue_tasks, ← State.task, task_unseated]
    rfl
  · rw [enterQueue_paths] at he
    simpa [savedWith, hkept.tid, htid] using paths_unseated he
  · rw [accu_congr hin.acc, accu_savedJob]

end Sys2Proof.Machine
end

section
/-! SUPPORT. The end of a run of the streams (R93, R110, R111, R124): the next iteration, the end of a task, and what follows it. -/

namespace Sys2Proof.Machine

/-! ## When a run has ended (R124) -/

theorem exists_stm_of_mem {t : Task} {st : EStream} (h : st ∈ t.st.toList) : ∃ e, st = t.stm e := by
  rw [Vector.mem_toList_iff, Vector.mem_iff_getElem] at h
  obtain ⟨i, hi, rfl⟩ := h
  match i with
  | 0 => exact ⟨.a, rfl⟩
  | 1 => exact ⟨.m, rfl⟩
  | 2 => exact ⟨.v, rfl⟩
  | 3 => exact ⟨.s, rfl⟩

section
variable {s : State} {core slot : Nat}

/-- A range part with an iteration left starts its streams anew (R93). -/
theorem taskEnd_iterates (hl : (s.task core slot).live = true) (hu : (s.task core slot).unread = false)
    (hst : ∀ e, ((s.task core slot).stm e).live = false ∧ ((s.task core slot).stm e).deferred = [])
    (ha : (s.task core slot).aborted = false) (hr : (s.task core slot).range = true) (hs : (s.task core slot).staged = false)
    (hi : (s.task core slot).c.iter.toNat + 1 < (s.task core slot).hi.toNat) :
    execTaskEnd core slot s = .next (s.setTask core slot (startAll { s.task core slot with
      c := { (s.task core slot).c with iter := (s.task core slot).c.iter + 1, tl := 0 } } (s.task core slot).entries)) := by
  have hretired : ((s.task core slot).st.toList.all fun st => !st.live) = true := by
    rw [List.all_eq_true]
    intro st hmem
    obtain ⟨e, rfl⟩ := exists_stm_of_mem hmem
    simp [hst e]
  have hclean : ((s.task core slot).st.toList.any fun st => !st.deferred.isEmpty) = false := by
    rw [List.any_eq_false]
    intro st hmem
    obtain ⟨e, rfl⟩ := exists_stm_of_mem hmem
    simp [hst e]
  rw [execTaskEnd, if_pos (by simp [hl, hu, hretired, ha, hr, hs, hi]), if_neg (by simp [hclean])]

/-- No iteration is left to begin: the task is not a range part that goes on. -/
def LastRun (t : Task) : Prop := t.aborted = true ∨ t.range = false ∨ t.staged = true ∨ t.hi.toNat ≤ t.c.iter.toNat + 1

theorem LastRun.no_next {t : Task} (h : LastRun t) (retired : Bool) :
    ¬ (retired && !t.aborted && t.range && !t.staged && decide (t.c.iter.toNat + 1 < t.hi.toNat)) = true := by
  rcases h with h | h | h | h <;> simp [h]

theorem taskEnd_waits (hl : LastRun (s.task core slot)) (hd : taskDone s (s.task core slot) = false) :
    execTaskEnd core slot s = .next s := by
  rw [execTaskEnd, if_neg (hl.no_next _), if_pos (by simp [hd])]
end

/-! ## The end of a task (R88, R93, R111) -/

/-- The successor list of a task that ends, read before or now (R88). -/
def FrameRead (f u : State) (t : Task) (l : List W64) : Prop :=
  t.list = some l ∧ u = f ∨
    t.list = none ∧ readFrame (hostWho t.cid) (if releases f t then t.fld 64 48 else 0) f = .ok (some l) u

theorem withFrame_read {f u : State} {t : Task} {l : List W64} (h : FrameRead f u t l) (wait : State → Nat → State)
    (body : State → List W64 → Out) : withFrame f t wait body = body u l := by
  rcases h with ⟨hl, rfl⟩ | ⟨hl, hr⟩
  · simp only [withFrame, hl]
  · simp only [withFrame, hl, hr]

section
variable {s u : State} {core slot : Nat} {l : List W64} (hd : taskDone s (s.task core slot) = true) (hl : LastRun (s.task core slot))
  (hf : FrameRead (flushStage s ⟨core, slot, .a⟩ (s.task core slot).tid) u (s.task core slot) l)
include hd hl hf

theorem taskEnd_ends (hj : joinsFit (s.task core slot) (endKeys u (s.task core slot) l) u = true) :
    let t := s.task core slot
    let v := if t.mtask then dropLease u core else u
    let v := { v.setTask core slot Task.empty with hidden := showAll (fun h => h.tid == t.tid) v.hidden }
    let v := if t.staged then stageRetire v t.part t.c.iter.toNat t else v
    let w := finishTask v t (if t.aborted then 1 else 0) l
    execTaskEnd core slot s = .next (actSync (payResidency w core t) (dieOf core) t.cls) := by
  rw [execTaskEnd, if_neg (hl.no_next _), if_neg (by simp [hd]), withFrame_read hf, if_neg (by simp [hj])]
theorem taskEnd_full (hj : joinsFit (s.task core slot) (endKeys u (s.task core slot) l) u = false) :
    execTaskEnd core slot s =
      .next (armFull (u.modTask core slot fun t => { t with list := some l }) (s.task core slot).cid) := by
  rw [execTaskEnd, if_neg (hl.no_next _), if_neg (by simp [hd]), withFrame_read hf, if_pos (by simp [hj])]
end

/-! ## What follows the end of a task (R58, R88, R93) -/

theorem report_jobs (s : State) (f : Nat) (r : Record) : (s.report f r).jobs = s.jobs := modFn_jobs ..
theorem report_mem (s : State) (f : Nat) (r : Record) : (s.report f r).mem = s.mem := modFn_mem ..
/-- With its ring enabled a function queues a record. -/
theorem report_queue (s : State) {f : Nat} (r : Record) (hf : f ≤ 8) (hc : bits (fnAt s f).crsize.toNat 0 5 ≠ 0) :
    (fnAt (s.report f r) f).queue = (fnAt s f).queue ++ [r] := by
  rw [State.report, fnAt_modFn_same s _ (Nat.lt_succ_of_le hf), if_neg hc]

/-- A task that is no node of a graph has its own record, with node 0xFFFF. -/
theorem taskRecords_task (s : State) {t : Task} (hn : t.isNode = false) (st : Nat) (kill : Bool) :
    taskRecords s t st kill = (s, [(t.fn, ⟨t.seq, 0xFFFF, t.stream, st, kill⟩)]) := if_neg (by simp [hn])

section
variable {s : State} {t : Task} (hp : ∀ p ∈ s.parts, p.key ≠ t.grp)
include hp

theorem no_part : s.parts.find? (fun p => p.key == t.grp) = none := by
  simpa [List.find?_eq_none] using hp

theorem endKeys_whole (hs : t.succ = []) : endKeys s t [] = [] := by
  simp [endKeys, partSucc, no_part hp, hs]

/-- The same of one that is no part of a range task, at its end. -/
theorem endRecords_whole (hn : t.isNode = false) (st : Nat) :
    ∃ u, endRecords s t st false = (u, [(t.fn, ⟨t.seq, 0xFFFF, t.stream, st, false⟩)]) ∧ u.fns = s.fns ∧ u.jobs = s.jobs ∧ u.mem = s.mem := by
  simp only [endRecords, no_part hp, Bool.not_true, Bool.or_self, Bool.false_eq_true, if_false, taskRecords_task _ hn]
  exact ⟨_, rfl, rfl, rfl, rfl⟩
end

/-- The end of a task with no successors and no event: its record follows. -/
theorem finishTask_record {s : State} {t : Task} (st : Nat) (hn : t.isNode = false) (hs : t.succ = []) (he : t.fld 240 16 = 0)
    (hp : ∀ p ∈ s.parts, p.key ≠ t.grp) (hf : t.fn ≤ 8) (hc : bits (fnAt s t.fn).crsize.toNat 0 5 ≠ 0) :
    (fnAt (finishTask s t st []) t.fn).queue = (fnAt s t.fn).queue ++ [⟨t.seq, 0xFFFF, t.stream, st, false⟩] ∧
    (finishTask s t st []).jobs = s.jobs ∧ (finishTask s t st []).mem = s.mem := by
  obtain ⟨u, hend, hfns, hjobs, hmem⟩ := endRecords_whole hp hn st
  have hfn : fnAt u t.fn = fnAt s t.fn := by rw [fnAt, hfns, fnAt]
  have hfin : finishTask s t st [] = lowerLines (u.report t.fn ⟨t.seq, 0xFFFF, t.stream, st, false⟩) := by
    simp [finishTask, endKeys_whole hp hs, he, hend]
  rw [hfin]
  refine ⟨?_, (report_jobs ..).trans hjobs, (report_mem ..).trans hmem⟩
  rw [← hfn]
  exact report_queue u _ hf (hfn ▸ hc)

/-- R93, R110, R111, R124: the end of a run, by whether an iteration is left, whether the task is done, and whether its decrements fit. -/
theorem taskEndResults : Rule.TaskEndResults :=
  ⟨fun _ _ _ hl hu hst ha hr hs hi => taskEnd_iterates hl hu hst ha hr hs hi,
    fun _ _ _ _ _ hd hl hf => ⟨taskEnd_ends hd hl hf, taskEnd_full hd hl hf⟩,
    fun _ _ st hn hs he hp hf hc => finishTask_record st hn hs he hp hf hc,
    fun _ _ _ hr hd => taskEnd_waits (.inr (.inl hr)) hd⟩

/-- Settles O50: a request and a save of a task, and the end of a run of its streams. -/
theorem preemptionAndTaskEnd : Obligations.PreemptionAndTaskEnd := ⟨preemptionResults, taskEndResults⟩

end Sys2Proof.Machine
end

section
/-! SUPPORT. spawn, spawnr and the reads of a task's own state (R117, R330, R332, R337): what they enter at issue, and what the read of a
record meets as it returns. -/

namespace Sys2Proof.Machine

open Sys2Proof

/-- A field of a number that is a word is zero just when the word's own is. -/
theorem bits_eq_zero_iff (v : W64) (lo w : Nat) : bits v.toNat lo w = 0 ↔ v.extractLsb' lo w = 0 := by
  rw [bits_toNat, ← BitVec.toNat_inj]
  rfl

/-! ## Spawns at issue (R332) -/

/-- The record at x[a] is being read, and the entry of its spawn stands for the commit. -/
def spawnSent (s : State) (r : Bool) (d a : R5) : State :=
  (s.load 1 .strong .core .g 0 (s.x a).toNat 64 (.spawn r d (s.x a))).addEff (.entry { sigEntry s (.spawn r 0 d) with uid := s.uid })

section
variable {s : State} {g : Guard} {d a : R5} (h : Issues64 s g ⟨[d, a], [], [], [a]⟩) (r : Bool)
include h

theorem spawnIns_reads (ha : (s.x a).extractLsb' 0 6 = 0) (hc : checkAddr s s.cur s.my.cid .g (s.x a).toNat 64 false = none) :
    spawnIns r g d a s = .next ((spawnSent s r d a).issued g.sync) := by
  refine issue64_go h ?_
  simp only [(bits_eq_zero_iff _ _ _).mpr ha, ne_eq, not_true_eq_false, if_false, hc]
  rfl
theorem spawnIns_unaligned (ha : (s.x a).extractLsb' 0 6 ≠ 0) :
    spawnIns r g d a s = .next (trapAt s s.cur cALIGN (s.x a) false) :=
  issue64_trap h (if_pos fun hb => ha ((bits_eq_zero_iff _ _ _).mp hb))
end

/-! ## The record returns -/

/-- An access that is neither an acquire nor a release has no side effect (R190, R193). -/
theorem ordered_of_strong (s : State) {e : Entry} (h : e.ord = .strong) : ordered s e = s := by
  simp [ordered, markMiss, h]

/-- An entry found and in its turn is performed. -/
theorem memPerform_eligible {s : State} {uid : Nat} {e : Entry} (hf : entryOf s uid = some e) (he : eligible s e = true) :
    execMemPerform uid s = performEntry s e := by
  simp [execMemPerform, hf, he]

section
variable {s u : State} {e : Entry} {r : Bool} {d : R5} {a : W64} {bs : List Byte} {ex : Bool}

/-- A record read without poison is delivered as the task sees it. -/
theorem performEntry_spawn (ha : e.acc = .load (.spawn r d a)) (hsp : e.sp = .g) (hord : e.ord = .strong)
    (hr : gRead e.who e.addr e.n .rd s = .ok (bs, ex, false) u) :
    performEntry s e = .next (deliver u e (.spawn r d a) (patch bs e.ovl) ex) := by
  have hg : e.isGlobal = true := by simp [Entry.isGlobal, hsp]
  simp [performEntry, ha, doLoad, hg, hr, ordered_of_strong u hord]

/-- The effects of a block in which a spawn's entry has received its record. -/
def recordGiven (r : Bool) (rec : BitVec 512) (d : R5) (uid : Nat) (b : Block) : Block :=
  { b with effs := b.effs.map fun f => match f with
    | .entry x => if x.uid == uid then .entry { x with acc := .spawn r rec d } else f
    | f => f }

theorem deliver_spawn_refused (h : spawnRefused (u.task e.r.core e.r.slot) r (BitVec.ofNat 512 (leNat bs)) = true) :
    deliver u e (.spawn r d a) bs ex = trapAt (u.dropEntry e) e.r cILLOP a false := if_pos h
theorem deliver_spawn_full (h : spawnRefused (u.task e.r.core e.r.slot) r (BitVec.ofNat 512 (leNat bs)) = false) (hr : r = true)
    (hn : 16 ≤ successorsBefore (u.dropEntry e) e) :
    deliver u e (.spawn r d a) bs ex = trapAt (u.dropEntry e) e.r cILLOP 17 false :=
  (if_neg (Bool.eq_false_iff.mp h)).trans (if_pos (by simp [hr, hn]))
theorem deliver_spawn_taken (h : spawnRefused (u.task e.r.core e.r.slot) r (BitVec.ofNat 512 (leNat bs)) = false)
    (hn : r = true → successorsBefore (u.dropEntry e) e < 16) :
    deliver u e (.spawn r d a) bs ex = (u.dropEntry e).modSt e.r fun st =>
      { st with blk := st.blk.map (recordGiven r (BitVec.ofNat 512 (leNat bs)) d e.uid) } :=
  (if_neg (Bool.eq_false_iff.mp h)).trans (if_neg (by simpa using hn))
end

/-- R332: a spawn at issue, by the alignment of its record, and the return of the record, by what it holds. -/
theorem spawnResults : Rule.SpawnResults := by
  refine ⟨fun s g d a h => ⟨fun ha hc => ⟨spawnIns_reads h false ha hc, spawnIns_reads h true ha hc⟩, fun ha i hi => ?_⟩,
    fun s u uid e r d a bs ex hf he hacc hsp hord hr => ?_⟩
  · rcases List.mem_pair.mp hi with rfl | rfl
    · exact spawnIns_unaligned h false ha
    · exact spawnIns_unaligned h true ha
  · have hp := (memPerform_eligible hf he).trans (performEntry_spawn hacc hsp hord hr)
    refine ⟨fun href => ?_, fun href hs hn => ?_, fun href hn => ⟨_, hp, ?_⟩⟩
    · rw [exec_memPerform, hp, deliver_spawn_refused href]
      rfl
    · rw [exec_memPerform, hp, deliver_spawn_full href hs hn]
      rfl
    · rw [deliver_spawn_taken href hn]
      simp only [State.modSt, State.stm, task_modTask, stm_modStm, modTask_paths]
      exact ⟨rfl, rfl, trivial⟩

/-! ## A task's own state (R117, R330, R337) -/

/-- The key of a node of a graph is its number under a leading one, that of any other task its SEQ and stream (R330). -/
theorem task_key (t : Task) : t.key = if t.isNode then 1#1 ++ BitVec.ofNat 63 t.node else BitVec.ofNat 64 (t.seq.toNat + 2 ^ 32 * t.stream) := by
  have hn : t.node < 2 ^ 16 := Nat.mod_lt _ (by decide)
  unfold Task.key
  split
  · refine BitVec.eq_of_toNat_eq ?_
    rw [BitVec.toNat_append, BitVec.toNat_ofNat, BitVec.toNat_ofNat, BitVec.toNat_ofNat, ← Nat.shiftLeft_add_eq_or_of_lt (Nat.mod_lt _ (by decide))]
    omega
  · rw [Nat.mul_comm]

section
variable {s : State} {g : Guard} {us rs : List R5} {body : State → Res} (h : Issues64 s g ⟨us, [], [], rs⟩)
include h

theorem stageIns_staged {t : State} (hs : s.my.staged = true) (hb : body s = .go t) : stageIns g us rs body s = .next (t.issued g.sync) :=
  issue64_go h (by simp [hs, hb])
theorem stageIns_held {t : State} {k : Hold} (hs : s.my.staged = true) (hb : body s = .hold k t) :
    stageIns g us rs body s = .next (t.held k) :=
  issue64_hold h (by simp [hs, hb])
theorem stageIns_trap {c : Nat} {v : W64} (hs : s.my.staged = true) (hb : body s = .trap c v) :
    stageIns g us rs body s = .next (trapAt s s.cur c v false) :=
  issue64_trap h (by simp [hs, hb])
/-- A stage instruction of a task that is not staged (R117). -/
theorem stageIns_unstaged (hs : s.my.staged = false) : stageIns g us rs body s = .next (trapAt s s.cur cSTAGEERR 0 false) :=
  issue64_trap h (by simp [hs])
end

/-- R117, R330, R337: each read of a task's own state writes x[d]. -/
theorem taskReads : Rule.TaskReads := by
  intro s g d imm h
  refine ⟨?_, ?_, fun hs => ?_, fun hs => ?_⟩
  · rw [exec_tself, ← task_key]
    exact issue64_go h rfl
  · rw [exec_abrd]
    exact issue64_go h rfl
  · rw [exec_stgrd]
    exact stageIns_staged h hs rfl
  · rw [exec_stgrd]
    exact stageIns_unstaged h hs

/-- Settles O15: a spawn as it issues and as its record returns, and the reads of a task's own state. -/
theorem spawnAndTaskReads : Obligations.SpawnAndTaskReads := ⟨spawnResults, taskReads⟩

end Sys2Proof.Machine
end

section
/-! SUPPORT. Stage instructions, the abort sample and segments (R114, R117, R118, R150, R262, R263, R337, R338). -/

namespace Sys2Proof.Machine

open Sys2Proof

/-! ## Stage instructions (R117, R118) -/

section
variable {s : State} {g : Guard} {a : R5} {imm : BitVec 14} (h : Issues64 s g ⟨[a], [], [], [a]⟩)
include h

theorem stageIns_all_unstaged (hs : s.my.staged = false) : ∀ k ∈ [Instr.stgadv g a imm, .stgjmp g a imm, .waitl g a imm],
    exec k s = .next (trapAt s s.cur cSTAGEERR 0 false) := by
  intro k hk
  simp only [List.mem_cons, List.not_mem_nil, or_false] at hk
  rcases hk with rfl | rfl | rfl
  · exact (exec_stgadv ..).trans (stageIns_unstaged h hs)
  · exact (exec_stgjmp ..).trans (stageIns_unstaged h hs)
  · exact (exec_waitl ..).trans (stageIns_unstaged h hs)

variable (hs : s.my.staged = true)
include hs

theorem stgadv_staged : execStgadv g a imm s =
    .next ((s.addEff (.stage 0 ((stageC s s.my s.my.c.iter.toNat).getD 0 + stageArg s a imm))).issued g.sync) :=
  stageIns_staged h hs rfl
/-- A jump to a value that the counter has not passed stands for the commit; an infinite counter, whose updates change nothing, lets any
pass (R112). -/
theorem stgjmp_ahead (hv : ∀ c, stageC s s.my s.my.c.iter.toNat = some c → c ≤ stageArg s a imm) :
    execStgjmp g a imm s = .next ((s.addEff (.stage 1 (stageArg s a imm))).issued g.sync) := by
  refine stageIns_staged h hs ?_
  dsimp only
  split
  · next c hc => exact if_neg (Nat.not_lt.mpr (hv c hc))
  · rfl
theorem stgjmp_below {c : Nat} (hc : stageC s s.my s.my.c.iter.toNat = some c) (hv : stageArg s a imm < c) :
    execStgjmp g a imm s = .next (trapAt s s.cur cSTAGEERR (BitVec.ofNat 64 (stageArg s a imm)) false) :=
  stageIns_trap h hs (by simp [hc, hv])
theorem waitl_behind {c : Nat} (hi : s.my.c.iter.toNat ≠ s.my.ilo) (hv : stageArg s a imm ≠ 0)
    (hc : stageLeft s s.my s.my.c.iter.toNat = some c) (hlt : c < stageArg s a imm) : execWaitl g a imm s = .next (s.held .stage) :=
  stageIns_held h hs (by simp [hi, hv, hc, hlt])
theorem waitl_passes (hp : s.my.c.iter.toNat = s.my.ilo ∨ stageArg s a imm = 0 ∨
      ∀ c, stageLeft s s.my s.my.c.iter.toNat = some c → stageArg s a imm ≤ c) :
    execWaitl g a imm s = .next ((s.acquire (leftScope s s.my s.my.c.iter.toNat)).issued g.sync) := by
  refine stageIns_staged h hs ?_
  dsimp only
  split
  · rfl
  · next hn =>
    simp only [Bool.or_eq_true, decide_eq_true_eq, not_or] at hn
    obtain ⟨hi, hv⟩ := hn
    have hle := (hp.resolve_left hi).resolve_left hv
    split
    · rfl
    · next c hc => exact if_pos (hle c hc)
end

/-- R117, R118: the stage instructions of a task, by whether it is staged and by its counters. -/
theorem stageResults : Rule.StageResults := by
  intro s g a imm h
  refine ⟨stageIns_all_unstaged h, fun hs => ⟨stgadv_staged h hs, fun hv => ?_, fun c hc hv => ?_, fun c hi hv hc hlt => ?_, fun hp => ?_⟩⟩
  · exact stgjmp_ahead h hs hv
  · exact stgjmp_below h hs hc hv
  · exact waitl_behind h hs hi hv hc hlt
  · exact waitl_passes h hs hp

/-! ## The abort sample (R150) -/

/-- The sample ends the task: it is aborted, and none of its streams goes on. -/
theorem task_abortTask (s : State) (core slot : Nat) : ((abortTask s core slot).task core slot).aborted = true ∧
    ∀ e, (((abortTask s core slot).task core slot).stm e).live = false := by
  unfold abortTask
  rw [task_modTask]
  exact ⟨rfl, fun e => congrArg EStream.live (Vector.getElem_map _ _)⟩

/-- R150, R337: abchk by whether it samples a raised line, which TL1 and TL2 do not. -/
theorem abortSample : Rule.AbortSample := by
  intro s g h
  refine ⟨fun hq => ?_, fun htl hr => ⟨?_, task_abortTask s _ _⟩⟩
  · rw [exec_abchk]
    refine issue64_go h (if_neg ?_)
    rcases hq with hq | hq <;> simp [hq]
  · rw [exec_abchk]
    exact issue64_stop h (if_pos (by simp [htl, hr]))

/-! ## Segments (R262, R263, R338) -/

/-- Nothing mismatches in a segment of the entry's count and CRC (R263). -/
theorem bad_eq_zero {sg : Seg} (hn : sg.count = sg.ent.extractLsb' 0 32) (hc : sg.crc ^^^ 0xFFFFFFFF = sg.ent.extractLsb' 32 32) :
    sg.bad = 0 := by
  unfold Seg.bad
  rw [if_neg (by simp [hn]), if_neg (bne_iff_ne.not.mpr (not_not.mpr hc))]

section
variable {s : State} {g : Guard} {a : R5} {off : BitVec 14} (h : Issues64 s g ⟨[a], [], [], [a]⟩)
include h

theorem segb_refused (hr : s.my.c.tl ≠ 0 ∨ s.me.seg.isSome = true) :
    execSegb g a off s = .next (trapAt s s.cur cILLOP (s.headWord.zeroExtend 64) false) :=
  issue64_trap h (if_pos (by simpa using hr))

variable (htl : s.my.c.tl = 0) (hseg : s.me.seg = none)
include htl hseg

theorem segb_unaligned (ha : (s.x a + off.signExtend 64).extractLsb' 0 4 ≠ 0) :
    execSegb g a off s = .next (trapAt s s.cur cALIGN (s.x a + off.signExtend 64) false) :=
  issue64_trap h ((if_neg (by simp [htl, hseg])).trans (if_pos fun hb => ha ((bits_eq_zero_iff _ _ _).mp hb)))
theorem segb_reads (ha : (s.x a + off.signExtend 64).extractLsb' 0 4 = 0)
    (hc : checkAddr s s.cur s.my.cid .g (s.x a + off.signExtend 64).toNat 16 false = none) : execSegb g a off s =
      .next (((s.load 1 .strong .core .g 0 (s.x a + off.signExtend 64).toNat 16 .segb).addEff (.segb s.uid 0)).issued g.sync) := by
  refine issue64_go h ((if_neg (by simp [htl, hseg])).trans ((if_neg fun hb => hb ((bits_eq_zero_iff _ _ _).mpr ha)).trans ?_))
  rw [hc]
end

section
variable {s : State} {g : Guard} (h : Issues64 s g ⟨[], [], [], []⟩)
include h

theorem sege_matches {sg : Seg} (htl : s.my.c.tl = 0) (hseg : s.me.seg = some sg) (hb : sg.bad = 0) :
    execSege g s = .next ((s.addEff .sege).issued g.sync) :=
  issue64_go h (by simp [htl, hseg, hb])
theorem sege_refused (hr : s.my.c.tl ≠ 0 ∨ s.me.seg = none) :
    execSege g s = .next (trapAt s s.cur cILLOP (s.headWord.zeroExtend 64) false) := by
  refine issue64_trap h ?_
  split
  · rfl
  · next htl =>
    rw [hr.resolve_left htl]
    rfl
end

/-- R263, R338: segb by where it stands and its entry, sege by whether a segment is open. -/
theorem segmentResults : Rule.SegmentResults :=
  ⟨fun _ _ _ _ h => ⟨segb_reads h, segb_unaligned h, segb_refused h⟩,
    fun _ _ h => ⟨fun _ htl hseg hn hc => sege_matches h htl hseg (bad_eq_zero hn hc), sege_refused h⟩⟩

/-- Settles O16: a staged task's instructions by its counters, the sample by its line, segb and sege by the segment. -/
theorem stagesAbortsSegments : Obligations.StagesAbortsSegments := ⟨stageResults, abortSample, segmentResults⟩

end Sys2Proof.Machine
end

section
/-! SUPPORT. Shell commands and B loads at issue (R119, R399 to R408), and the control of shell and accumulators (R404, R407, R409). -/

namespace Sys2Proof.Machine

open Sys2Proof

/-! ## The issue of an instruction that reads stream registers -/

section
variable {s t : State} {g : Guard} {u : Uses} {is : List (BitVec 4)} {body : State → Res} (h : IssuesS s g u is)
include h

theorem issueS_go (hb : body s = .go t) : issue64 s g u (fun s => readSregs s is body) = .next (t.issued g.sync) :=
  issue64_go h.1 ((readSregs_clean h.2 body).trans hb)
theorem issueS_trap {c : Nat} {v : W64} (hb : body s = .trap c v) :
    issue64 s g u (fun s => readSregs s is body) = .next (trapAt s s.cur c v false) :=
  issue64_trap h.1 ((readSregs_clean h.2 body).trans hb)
end

/-! ## Checks and the lease (R119, R399, R400) -/

@[simp] theorem firstTrap_nil : firstTrap [] = none := rfl
@[simp] theorem firstTrap_none (cs : List (Option (Nat × W64))) : firstTrap (none :: cs) = firstTrap cs := rfl
@[simp] theorem firstTrap_some (x : Nat × W64) (cs : List (Option (Nat × W64))) : firstTrap (some x :: cs) = some x := rfl

section
variable {s : State}

theorem leaseCheck_held (h : (shellAt s s.cur.core).holder = some s.cur.core) : leaseCheck s = none := if_pos h
/-- A core that neither holds the lease nor lost it at a cap. -/
theorem leaseCheck_missing (h : (shellAt s s.cur.core).holder ≠ some s.cur.core) (hr : (shellAt s s.cur.core).reqs = []) :
    leaseCheck s = some (.trap cLEASEERR 0) :=
  (if_neg h).trans (if_neg (by simp [hr]))

/-- A command as it enters, through the handle of its operand if that is fetched (R200). -/
def viaOperand (v : BitVec 512) (c : Cmd) : Cmd := if fetched v then { c with prod := some (sHdl v) } else c

variable {cs : List (Option (Nat × W64))} {v : BitVec 512} {c : Cmd}

theorem issueM_trap {lease : Bool} {o : Option (BitVec 512)} {x : Nat × W64} (hc : firstTrap cs = some x) :
    issueM cs lease o c s = .trap x.1 x.2 := by
  simp only [issueM, hc]
theorem issueM_unleased {o : Option (BitVec 512)} {r : Res} (hc : firstTrap cs = none) (hl : leaseCheck s = some r) :
    issueM cs true o c s = r := by
  simp [issueM, hc, hl]
/-- A command without an operand. -/
theorem issueM_bare (hc : firstTrap cs = none) (hl : leaseCheck s = none) (he : entsTrap s c.ents = none) :
    issueM cs true none c s = .go (s.addEff (.cmd c)) := by
  simp [issueM, hc, hl, he]
/-- A command whose operand is in place, or fetched through a handle that is FREE. -/
theorem issueM_operand (hc : firstTrap cs = none) (hl : leaseCheck s = none) (he : entsTrap s c.ents = none)
    (hf : fetched v = true → s.my.hst (sHdl v) = 0) : issueM cs true (some v) c s = .go (s.addEff (.cmd (viaOperand v c))) := by
  simp only [issueM, hc, hl, he, if_true, viaOperand]
  split
  · next hv => exact if_pos (hf hv)
  · rfl
end

/-! ## mma, mmas and mldb (R402, R403, R408) -/

section
variable {s : State} {g : Guard} {ty : Ty} {acc : BitVec 3} {sa : BitVec 4} {breg : BitVec 12} {sgr : BitVec 2} {form : BitVec 4}

/-- Where the checks of a shell command pass, its list of checks has no trap. -/
theorem firstTrap_operand {n : Nat} (hr : regTrap s sa false (some ty) = none) (ha : mmaAccTrap s ty acc = none)
    (ho : operandTrap s sa true (scalesOf ty) = none) (hi : imageTrap s sa n = none) :
    firstTrap [regTrap s sa false (some ty), mmaAccTrap s ty acc, operandTrap s sa true (scalesOf ty), imageTrap s sa n] = none := by
  simp [hr, ha, ho, hi]

/-- The check of a sparse B load's second B register (R408). -/
theorem lastB_fails (hf : form ≠ 0) (hb : breg = 4095) : (form.toNat ≠ 0 && breg = 4095 : Bool) = true := by
  simpa [hb, ← BitVec.toNat_inj] using hf
theorem lastB_passes (h : ¬ (form ≠ 0 ∧ breg = 4095)) : (form.toNat ≠ 0 && breg = 4095 : Bool) = false := by
  simpa [← BitVec.toNat_inj] using h

/-- The command of a B load. -/
def loadCmd (s : State) (ty : Ty) (sa : BitVec 4) (breg : BitVec 12) (form : BitVec 4) : Cmd :=
  { newCmd s (.mldb ty breg.toNat form.toNat) with s1 := s.sreg sa, ents := loadEntries s (s.sreg sa) ty form.toNat }

variable (h : IssuesS s g ⟨[], [], [], []⟩ [sa])
include h

theorem mma_refused {x : Nat × W64} (hr : regTrap s sa false (some ty) = some x) :
    execMma g ty acc sa breg sgr s = .next (trapAt s s.cur x.1 x.2 false) :=
  issueS_trap h (issueM_trap (by rw [hr]; rfl))
theorem mldb_lastB (hf : form ≠ 0) (hb : breg = 4095) : execMldb g ty sa breg form s = .next (trapAt s s.cur cILLOP 4095 false) := by
  refine issueS_trap h (issueM_trap (x := (cILLOP, 4095)) ?_)
  rw [if_pos (lastB_fails hf hb)]
  rfl
theorem mldb_issues (hl : leaseCheck s = none) (hfree : fetched (s.sreg sa) = true → s.my.hst (sHdl (s.sreg sa)) = 0)
    (hb : ¬ (form ≠ 0 ∧ breg = 4095)) (hr : regTrap s sa false (some ty) = none) (ho : operandTrap s sa true (scalesOf ty) = none)
    (h3 : sStrideN (s.sreg sa) 3 % 8 = 0) (hi : imageTrap s sa (loadLen ty form.toNat) = none)
    (he : entsTrap s (loadCmd s ty sa breg form).ents = none) : execMldb g ty sa breg form s =
      .next ((s.addEff (.cmd (viaOperand (s.sreg sa) (loadCmd s ty sa breg form)))).issued g.sync) := by
  refine issueS_go h (issueM_operand ?_ hl he hfree)
  rw [lastB_passes hb]
  simp [hr, ho, h3, hi]
end

/-! ## mmag (R405) -/

section
variable {s : State}

/-- A state without errors is read as it stands (R255). -/
theorem eccRead_of_no_errors (h : s.soft = []) (k n : Nat) : eccRead s k n = s := if_pos (by simp [h])
theorem homePoison_of_no_errors (h : s.soft = []) (hp : s.poison = []) (k n : Nat) : homePoison s k n = false := by
  simp [homePoison, badWord, h, hp]
/-- A stream with nothing on its paths has no store to come. -/
theorem pendingStore_of_no_paths (h : s.mine = []) (sp : Space) (a n : Nat) : pendingStore s sp a n = false := by
  simp [pendingStore, h]

variable {g : Guard} {ty : Ty} {acc : BitVec 3} {sa si so : BitVec 4} {breg : BitVec 12} {sgr : BitVec 2}

theorem mmag_issues (h : IssuesS s g ⟨[], [], [], []⟩ [sa, si, so]) (hl : leaseCheck s = none) (hs : s.soft = []) (hp : s.poison = [])
    (hm : s.mine = [])
    (hc : firstTrap [regTrap s sa true (some ty), regTrap s si true none, regTrap s so true none, mmaAccTrap s ty acc,
      operandTrap s sa true (scalesOf ty), listAlign s si, listAlign s so] = none)
    (ht : firstTrap [listTrap64 s si, listTrap64 s so] = none)
    (he : entsTrap s (mmaCmd s 2 ty acc sa breg sgr 1 (rowList s si ++ rowList s so)).ents = none) :
    execMmag g ty acc sa breg sgr si so s =
      .next ((s.addEff (.cmd (mmaCmd s 2 ty acc sa breg sgr 1 (rowList s si ++ rowList s so)))).issued g.sync) := by
  refine issueS_go h ?_
  simp only [hc, hl, ht, he, pendingStore_of_no_paths hm, eccRead_of_no_errors hs, homePoison_of_no_errors hs hp, List.foldl_cons,
    List.foldl_nil, Bool.or_self, Bool.false_eq_true, if_false]
end

/-- R119, R399 to R408: each shell command and B load by its list of checks, then the lease, then its bytes of memory. -/
theorem shellResults : Rule.ShellResults := by
  intro s g ty acc sa si so breg sgr form h v out trap held reach clear cmd gathered loaded free
  refine ⟨fun hclean hl hs hp hm hsa hsi hso ha ho hai hao hti hto he => ?_, fun hclean => ?_⟩
  · rw [exec_mmag]
    exact mmag_issues ⟨h, hclean⟩ (leaseCheck_held hl) hs hp hm (by simp [hsa, hsi, hso, ha, ho, hai, hao]) (by simp [hti, hto]) he
  · have hS : IssuesS s g ⟨[], [], [], []⟩ [sa] := ⟨h, hclean⟩
    refine ⟨?_, ?_, ?_, ?_, ?_, ?_⟩
    · rintro hl hfree ⟨hr, ha, ho, hi, he⟩
      rw [exec_mma]
      exact issueS_go hS (issueM_operand (firstTrap_operand hr ha ho hi) (leaseCheck_held hl) he hfree)
    · rintro hl hfree ⟨hr, ha, ho, hi, he⟩
      rw [exec_mmas]
      exact issueS_go hS (issueM_operand (firstTrap_operand hr ha ho hi) (leaseCheck_held hl) he hfree)
    · intro c e hr
      rw [exec_mma]
      exact mma_refused (x := (c, e)) hS hr
    · rintro ⟨hr, ha, ho, hi, -⟩ hl hq
      rw [exec_mma]
      exact issueS_trap hS (issueM_unleased (firstTrap_operand hr ha ho hi) (leaseCheck_missing hl hq))
    · intro hl hfree hb hr ho h3 hi he
      rw [exec_mldb]
      exact mldb_issues hS (leaseCheck_held hl) hfree hb hr ho h3 hi he
    · intro hf hb
      rw [exec_mldb]
      exact mldb_lastB hS hf hb

/-! ## mmak (R404) -/

section
variable {s : State} {g : Guard} {ty : Ty} {acc : BitVec 3} {sa si : BitVec 4} {breg : BitVec 12} {sgr : BitVec 2} {n : Nat}
  (h : IssuesS s g ⟨[si.zeroExtend 5], [], [], [si.zeroExtend 5]⟩ [sa]) (hx : (s.x (si.zeroExtend 5)).toNat = n)
include h hx

/-- The body of mmak under the lease, its checks passed and its count not above 256 without SGR (R119). -/
theorem mmak_go {t : State} (hl : leaseCheck s = none) (hr : regTrap s sa false (some ty) = none) (ha : mmaAccTrap s ty acc = none)
    (ho : operandTrap s sa true (scalesOf ty) = none) (hi : imageTrap s sa (imageLen ty) = none) (hn : n = 0 ∨ breg.toNat + n ≤ 4096)
    (hs : sgr = 0 → n ≤ 256)
    (hb : issueM [] true (if n = 0 then none else some (s.sreg sa)) (mmaCmd s 3 ty acc sa breg sgr n []) s = .go t) :
    execMmak g ty acc sa breg sgr si s = .next (t.issued g.sync) := by
  refine issueS_go h ?_
  have hrange : (n ≠ 0 && breg.toNat + n > 4096 : Bool) = false := by
    rcases hn with hn | hn <;> simp [hn]
  have hcap : (sgr = 0 && n > 256 : Bool) = false := by simpa using hs
  simp only [hx, hrange, hcap, hl, hr, ha, ho, hi, hb, firstTrap_none, firstTrap_nil, Bool.false_eq_true, if_false]
theorem mmak_out_of_range (hz : n ≠ 0) (hn : 4096 < breg.toNat + n) :
    execMmak g ty acc sa breg sgr si s = .next (trapAt s s.cur cILLOP (s.x (si.zeroExtend 5)) false) := by
  refine issueS_trap h ?_
  simp [hx, hz, hn]
end

/-! ## mlease (R407) -/

/-- A core below 96 has a shell. -/
theorem shellAt_modShell_same (s : State) {core : Nat} (f : Shell → Shell) (h : core < 96) :
    shellAt (s.modShell core f) core = f (shellAt s core) := by
  have hk : eightOf core < 12 := Nat.div_lt_of_lt_mul h
  simp [shellAt, State.modShell, hk]

/-- The moving core's request for its shell's lease stands; the shell's power gate opens (R16). -/
def leaseAsked (s : State) : State :=
  ({ s with pkg := { s.pkg with shellGated := s.pkg.shellGated &&& ~~~(1#12 <<< eightOf s.cur.core) } } : State).modShell s.cur.core
    fun sh => { sh with reqs := sh.reqs ++ [s.cur.core] }

theorem my_leaseAsked (s : State) : (leaseAsked s).my = s.my := by
  simp [leaseAsked, State.my, State.task]
theorem me_held (s : State) (k : Hold) : (s.held k).me = { s.me with hold := k } := me_modMe ..
/-- The stream that asks is held, and only that of it changes. -/
theorem me_leaseAsked_held (s : State) : ((leaseAsked s).held .lease).me = { s.me with hold := .lease } := by
  rw [me_held, State.me, my_leaseAsked, leaseAsked, modShell_cur]
  rfl
theorem shellAt_leaseAsked {s : State} (h : s.cur.core < 96) : shellAt ((leaseAsked s).held .lease) s.cur.core =
    { shellAt s s.cur.core with reqs := (shellAt s s.cur.core).reqs ++ [s.cur.core] } := shellAt_modShell_same _ _ h

theorem mlease_held {s : State} {g : Guard} (h : Issues64 s g ⟨[], [], [], []⟩) (hh : (shellAt s s.cur.core).holder = some s.cur.core) :
    execMlease g s = .next ((cancelRel s).issued g.sync) := issue64_go h (if_pos hh)
theorem mlease_asks {s : State} {g : Guard} (h : Issues64 s g ⟨[], [], [], []⟩) (hh : (shellAt s s.cur.core).holder ≠ some s.cur.core)
    (hr : (shellAt s s.cur.core).reqs = []) : execMlease g s = .next ((leaseAsked s).held .lease) :=
  issue64_hold h ((if_neg hh).trans (if_neg (by simp [hr])))

/-- R404, R407, R409: mmak by its count, mlease by the lease, and the commands that always issue. -/
theorem shellControlResults : Rule.ShellControlResults := by
  refine ⟨?_, ?_⟩
  · intro s g ty acc sa si breg sgr h v n hl hr ha ho hi
    refine ⟨fun hn => ?_, fun hn hle hs he hfree => ?_, fun hn hgt => ?_⟩
    · rw [exec_mmak]
      refine mmak_go h hn (leaseCheck_held hl) hr ha ho hi (.inl rfl) (fun _ => Nat.zero_le 256) ?_
      exact issueM_bare firstTrap_nil (leaseCheck_held hl) rfl
    · rw [exec_mmak]
      refine mmak_go h rfl (leaseCheck_held hl) hr ha ho hi (.inr hle) hs ?_
      rw [if_neg hn]
      exact issueM_operand firstTrap_nil (leaseCheck_held hl) he hfree
    · rw [exec_mmak]
      exact mmak_out_of_range h rfl hn hgt
  · intro s g ty acc src h sh
    refine ⟨fun hh => ?_, fun hc hh hr => ⟨_, (exec_mlease ..).trans (mlease_asks h hh hr), ?_⟩, ?_, ?_, ?_⟩
    · rw [exec_mlease]
      exact mlease_held h hh
    · have hshell := shellAt_leaseAsked hc
      have hme := me_leaseAsked_held s
      refine ⟨?_, ?_, ?_, ?_, ?_, ?_⟩
      · rw [hme]
      · rw [hshell]
        exact congrArg (· ++ [s.cur.core]) hr
      · rw [hshell]
      · exact modShell_mem ..
      · intro a
        rw [State.x, hme]
        rfl
      · rw [hme]
    · rw [exec_mrel]
      exact issue64_go h rfl
    · rw [exec_mzero]
      exact issue64_go h rfl
    · rw [exec_maccd]
      exact issue64_go h rfl

/-- Settles O40: each command by its list of checks, mmak besides by its count, mlease by the lease. -/
theorem shellCommands : Obligations.ShellCommands := ⟨shellResults, shellControlResults⟩

end Sys2Proof.Machine
end

section
/-! SUPPORT. The frame of the scalar shapes: the one register each writes, and nothing else (R280, R341 to R348). -/

namespace Sys2Proof.Machine

open Sys2Proof

variable {s t : State} {f : Sync} {g : Guard} {d a b : R5}

/-- An outcome that is an issue after one register write keeps all but that register. -/
theorem kept_of_setX_issued {v : W64} {o : Out} (ho : o = .next ((s.setX d v).issued f)) (ht : o = .next t) : KeptBut [d] [] [] s t := by
  obtain rfl := Host.Outcome.next.inj (ho.symm.trans ht)
  exact (kept_setX s d v).trans (kept_issued _ f)
theorem kept_of_setP_issued {v : W64} {o : Out} (ho : o = .next ((s.setP d v).issued f)) (ht : o = .next t) : KeptBut [] [d] [] s t := by
  obtain rfl := Host.Outcome.next.inj (ho.symm.trans ht)
  exact (kept_setP s d v).trans (kept_issued _ f)

theorem alu2_kept {op : W64 → W64 → W64} (h : Issues32 s f ⟨[d, a, b], [], [], [a, b]⟩) :
    alu2 f d a b op s = .next t → KeptBut [d] [] [] s t := kept_of_setX_issued (alu2_next op h)
theorem alu1_kept {op : W64 → W64} (h : Issues32 s f ⟨[d, a], [], [], [a]⟩) :
    alu1 f d a op s = .next t → KeptBut [d] [] [] s t := kept_of_setX_issued (alu1_next op h)
theorem cmp2_kept {op : W64 → W64 → Bool} (h : Issues32 s f ⟨[a, b], [d], [], [a, b]⟩) :
    cmp2 f d a b op s = .next t → KeptBut [] [d] [] s t := kept_of_setP_issued (cmp2_next op h)
theorem cmpImm_kept {imm : BitVec 14} {op : W64 → W64 → Bool} (h : Issues64 s g ⟨[a], [d], [], [a]⟩) :
    cmpImm g d a imm op s = .next t → KeptBut [] [d] [] s t := kept_of_setP_issued (cmpImm_next op h)
theorem pred2_kept {op : W64 → W64 → W64} (h : Issues32 s f ⟨[], [d, a, b], [], []⟩) :
    pred2 f d a b op s = .next t → KeptBut [] [d] [] s t := kept_of_setP_issued (pred2_next op h)
theorem pred1_kept {op : W64 → W64} (h : Issues32 s f ⟨[], [d, a], [], []⟩) :
    pred1 f d a op s = .next t → KeptBut [] [d] [] s t := kept_of_setP_issued (pred1_next op h)
/-- A division that does not trap: its divisor is not zero, or TRAPEN.DIVZ is clear. -/
theorem divide_kept {z : W64 → Bool} {op : W64 → W64 → W64} (h : Issues32 s f ⟨[d, a, b], [], [], [a, b]⟩)
    (hz : z (s.x b) = false ∨ (s.csr 0x00B).getLsbD 0 = false) : divide f d a b z op s = .next t → KeptBut [d] [] [] s t :=
  kept_of_setX_issued (divide_next z op h (by rcases hz with hz | hz <;> simp only [hz, Bool.false_and, Bool.and_false]))

/-- A divisor whose low half is not zero is zero to neither test (R348). -/
theorem not_isZero_of_lo32 {v : W64} (h : lo32 v ≠ 0) : isZero v = false ∧ isZeroW v = false := by
  refine ⟨?_, by simpa [isZeroW] using h⟩
  have : v ≠ 0 := fun hv => h (by rw [hv]; rfl)
  simpa [isZero] using this

/-- Settles O4: each scalar instruction is one of seven shapes, and each shape writes its one register and then issues. -/
theorem scalarFrame : Obligations.ScalarFrame := by
  refine ⟨fun s t f d a b h hdiv => ?_, fun s t f d a imm sh h => ?_, fun s t f d a b h => ?_, fun s t f d a b h => ?_,
    fun s t f d a h => ?_, fun s t g d a b c h => ?_, fun s t g d a imm h => ?_⟩
  · have alu {op} := alu2_kept (t := t) (op := op) h
    have zero : (isZero (s.x b) = false ∨ (s.csr 0x00B).getLsbD 0 = false) ∧
        (isZeroW (s.x b) = false ∨ (s.csr 0x00B).getLsbD 0 = false) := by
      rcases hdiv with hd | hx
      · exact ⟨.inr hd, .inr hd⟩
      · exact ⟨.inl (not_isZero_of_lo32 hx).1, .inl (not_isZero_of_lo32 hx).2⟩
    have div {op} := divide_kept (t := t) (op := op) h zero.1
    have divW {op} := divide_kept (t := t) (op := op) h zero.2
    simp only [List.forall_mem_cons, exec_add, exec_sub, exec_and, exec_or, exec_xor, exec_andn, exec_sll, exec_srl, exec_sra,
      exec_minS, exec_minN, exec_maxS, exec_maxN, exec_addW, exec_subW, exec_mul, exec_mulhS, exec_mulhN, exec_mulW, exec_divS,
      exec_divN, exec_remS, exec_remN, exec_divWS, exec_divWN, exec_remWS, exec_remWN]
    exact ⟨alu, alu, alu, alu, alu, alu, alu, alu, alu, alu, alu, alu, alu, alu, alu, alu, alu, alu, alu,
      div, div, div, div, divW, divW, divW, divW, List.forall_mem_nil _⟩
  · have alu {op} := alu1_kept (t := t) (op := op) h
    simp only [List.forall_mem_cons, exec_clz, exec_popc, exec_addi, exec_andi, exec_ori, exec_xori, exec_slli, exec_srli,
      exec_srai]
    exact ⟨alu, alu, alu, alu, alu, alu, alu, alu, alu, List.forall_mem_nil _⟩
  · have cmp {op} := cmp2_kept (t := t) (op := op) h
    simp only [List.forall_mem_cons, exec_cmpEq, exec_cmpNe, exec_cmpLtS, exec_cmpLtN, exec_cmpGeS, exec_cmpGeN]
    exact ⟨cmp, cmp, cmp, cmp, cmp, cmp, List.forall_mem_nil _⟩
  · have pred {op} := pred2_kept (t := t) (op := op) h
    simp only [List.forall_mem_cons, exec_pand, exec_por, exec_pxor, exec_pandn]
    exact ⟨pred, pred, pred, pred, List.forall_mem_nil _⟩
  · have pred {op} := pred1_kept (t := t) (op := op) h
    simp only [List.forall_mem_cons, exec_pnot, exec_pmov, exec_pall, exec_pnone, exec_pfirst]
    exact ⟨pred, pred, pred, pred, pred, List.forall_mem_nil _⟩
  · rw [exec_sel]
    exact kept_of_setX_issued (issue64_go h (Issuing.readPreds h (by simp) (by simp) _))
  · have cmp {op} := cmpImm_kept (t := t) (op := op) (imm := imm) h
    simp only [List.forall_mem_cons, exec_cmpiEq, exec_cmpiNe, exec_cmpiLtS, exec_cmpiLtN, exec_cmpiGeS, exec_cmpiGeN]
    exact ⟨cmp, cmp, cmp, cmp, cmp, cmp, List.forall_mem_nil _⟩

end Sys2Proof.Machine
end

section
/-! SUPPORT. What holds an instruction at issue: a register that is awaited (R339), and tokens that are not there (R133, R135). -/

namespace Sys2Proof.Machine

open Sys2Proof

variable {s : State} {f : Sync} {u : Uses} {body : State → Res}

/-! ## An instruction that names no register waits for none -/

theorem Acc.hits_nothing (a : Acc) : a.hits ⟨[], [], [], []⟩ = false := by
  cases a with
  | load dst => cases dst <;> simp [Acc.hits, LoadDst.hits]
  | _ => simp [Acc.hits]
theorem Cmd.hits_nothing (c : Cmd) : c.hits ⟨[], [], [], []⟩ = false := by
  unfold Cmd.hits
  split <;> simp
theorem listHits_nothing (s : State) : listHits s ⟨[], [], [], []⟩ = false := by
  rw [listHits, List.any_eq_false]
  intro e _
  cases e <;> simp [Cmd.hits_nothing]
theorem hazard_nothing (s : State) : hazard s ⟨[], [], [], []⟩ = false := by
  have heff : ∀ e : Eff, e.hits ⟨[], [], [], []⟩ = false := by
    intro e
    cases e <;> simp [Eff.hits, Acc.hits_nothing]
  simp [hazard, Acc.hits_nothing, Cmd.hits_nothing, heff]

/-- A word without a guard: the loop condition and the predicate hold, and no list command or access writes the predicate. -/
theorem liHolds_zero (t : Task) (st : EStream) : liHolds t st 0 = true := by simp [liHolds]
theorem predHolds_31 (st : EStream) : predHolds st 31 = true := rfl
theorem readPs_nil (s : State) : readPs s [] = s := rfl

/-- The checks of an issue without a guard, in their order (R133, R290, R339). -/
theorem issue32_opened (hb : s.blk.isSome = true) : issue32 s f u body =
    if listHits s u then .next (trapAt s s.cur cILLOP (s.headWord.zeroExtend 64) false)
    else if hazard s u then .next (s.held .memory)
    else match tokens? s f with
      | .dead k => .next (trapAt s s.cur cHSTALL (BitVec.ofNat 64 (0x100 + k)) false)
      | .empty => .next (s.held .token)
      | .there => if regsBad (readRegs s u) u then .next (poisonedReg (readRegs s u)) else match body (readRegs s u) with
        | .hold h s => .next (s.held h)
        | .trap c v => .next (trapAt (readRegs s u) (readRegs s u).cur c v false)
        | .stop s => .next s
        | .go s => .next (s.issued f) := by
  obtain ⟨b, hb⟩ := Option.isSome_iff_exists.mp hb
  have hp : Uses.ofPred 31 = ⟨[], [], [], []⟩ := rfl
  have hg : predsBad s [] = false := rfl
  simp only [issue32, issue, hb, liHolds_zero, hp, listHits_nothing, hazard_nothing, readPs_nil, hg, predHolds_31, Bool.not_true,
    Bool.false_eq_true, if_false]
  rfl

/-- R339: an instruction whose registers an access still out writes is held. -/
theorem issue32_awaits (hb : s.blk.isSome = true) (hl : listHits s u = false) (hz : hazard s u = true) :
    issue32 s f u body = .next (s.held .memory) := by
  rw [issue32_opened hb, hl, hz]
  rfl

/-! ## Tokens -/

/-- An empty counter of a wait whose sender has retired, with no token on its way. -/
def neverSent (s : State) (k : Nat) : Bool :=
  s.my.tok k == 0 && (!(s.my.stm (tokSender k)).live && !s.paths.any fun x => x.tid == s.my.tid && x.acc == .token k)

/-- The first empty counter that is never sent is the first counter that is empty and never sent. -/
theorem find?_neverSent (s : State) (ks : List Nat) :
    (ks.filter fun k => s.my.tok k == 0).find? (fun k => !(s.my.stm (tokSender k)).live &&
      !s.paths.any fun x => x.tid == s.my.tid && x.acc == .token k) = ks.find? (neverSent s) := by
  rw [List.find?_filter]
  congr 1
  funext k
  rw [Bool.eq_iff_iff]
  simp [neverSent]
theorem tokens?_dead {k : Nat} (h : (waitToks s.cur.eng f).find? (neverSent s) = some k) : tokens? s f = .dead k := by
  simp only [tokens?, find?_neverSent, h]
theorem tokens?_empty (h : ∀ k ∈ waitToks s.cur.eng f, neverSent s k = false) (hk : ∃ k ∈ waitToks s.cur.eng f, s.my.tok k = 0) :
    tokens? s f = .empty := by
  have hn : (waitToks s.cur.eng f).find? (neverSent s) = none := List.find?_eq_none.mpr fun k hk => by simp [h k hk]
  obtain ⟨k, hk, h0⟩ := hk
  have he : ((waitToks s.cur.eng f).filter fun k => s.my.tok k == 0).isEmpty = false :=
    List.isEmpty_eq_false_iff_exists_mem.mpr ⟨k, List.mem_filter.mpr ⟨hk, by simp [h0]⟩⟩
  simp only [tokens?, find?_neverSent, hn, he, Bool.false_eq_true, if_false]
theorem tokens?_there (h : ∀ k ∈ waitToks s.cur.eng f, s.my.tok k ≠ 0) : tokens? s f = .there := by
  have he : ((waitToks s.cur.eng f).filter fun k => s.my.tok k == 0) = [] := List.filter_eq_nil_iff.mpr fun k hk => by simpa using h k hk
  simp [tokens?, he]

/-- A word that names no register issues as its tokens have it. -/
theorem issue32_unnamed (hb : s.blk.isSome = true) : issue32 s f ⟨[], [], [], []⟩ body = match tokens? s f with
    | .dead k => .next (trapAt s s.cur cHSTALL (BitVec.ofNat 64 (0x100 + k)) false)
    | .empty => .next (s.held .token)
    | .there => match body (readRegs s ⟨[], [], [], []⟩) with
      | .hold h s => .next (s.held h)
      | .trap c v => .next (trapAt (readRegs s ⟨[], [], [], []⟩) (readRegs s ⟨[], [], [], []⟩).cur c v false)
      | .stop s => .next s
      | .go s => .next (s.issued f) := by
  rw [issue32_opened hb, listHits_nothing, hazard_nothing]
  rfl

/-! ## The rules -/

theorem awaitedRegisterHolds : Rule.AwaitedRegisterHolds := by
  intro s f d a b hb hl hz i hi
  refine ⟨?_, kept_held s .memory, by rw [State.held, me_modMe]⟩
  have held {body} := issue32_awaits (f := f) (u := ⟨[d, a, b], [], [], [a, b]⟩) (body := body) hb hl hz
  simp only [List.mem_cons, List.not_mem_nil, or_false] at hi
  rcases hi with rfl | rfl | rfl | rfl
  · rw [exec_add, execAdd, alu2]; exact held
  · rw [exec_sub, execSub, alu2]; exact held
  · rw [exec_mul, execMul, alu2]; exact held
  · rw [exec_divS, execDivS, divide]; exact held

theorem tokenWaitHolds : Rule.TokenWaitHolds := by
  intro s f hq hk hsent
  have hn : ∀ k ∈ waitToks s.cur.eng f, neverSent s k = false := by
    intro k hk
    by_cases h0 : s.my.tok k = 0
    · rcases hsent k hk h0 with h | h <;> simp [neverSent, h]
    · simp [neverSent, h0]
  rw [exec_nop, execNop, issue32_unnamed hq.opened, tokens?_empty hn hk]

theorem tokenWaitStalls : Rule.TokenWaitStalls := by
  intro s f k hq hk
  rw [exec_nop, execNop, issue32_unnamed hq.opened, tokens?_dead hk]
  rfl

/-- Settles O6: the checks of an issue, in their order, as the registers and the tokens of the word have them. -/
theorem held : Obligations.Held := ⟨awaitedRegisterHolds, tokenWaitHolds, tokenWaitStalls⟩

end Sys2Proof.Machine
end

section
/-! SUPPORT. Control registers: what a write leaves to the reads after it in its block, register by register (R127, R291, R316). -/

namespace Sys2Proof.Machine

open Sys2Proof

variable {s : State}

/-! ## A write and the reads after it -/

/-- Under the mask m the new value shows, outside it the old one. -/
theorem mix_and (v old m : W64) : ((v &&& m) ||| (old &&& ~~~m)) &&& m = v &&& m := by
  ext i hi
  simp only [BitVec.getElem_or, BitVec.getElem_and, BitVec.getElem_not]
  cases m[i] <;> simp
theorem mix_and_not (v old m : W64) : ((v &&& m) ||| (old &&& ~~~m)) &&& ~~~m = old &&& ~~~m := by
  ext i hi
  simp only [BitVec.getElem_or, BitVec.getElem_and, BitVec.getElem_not]
  cases m[i] <;> simp

/-- Register n, read back after a write of v to it, shows v in the writable bits; below 0x100 it shows its old value in the others. -/
def ReadsBack (n : Nat) (v old new : W64) : Prop :=
  new &&& csrMask n = v &&& csrMask n ∧ (n < 0x100 → new &&& ~~~(csrMask n) = old &&& ~~~(csrMask n))

theorem readsBack_mix (n : Nat) (v old : W64) : ReadsBack n v old ((v &&& csrMask n) ||| (old &&& ~~~(csrMask n))) :=
  ⟨mix_and _ _ _, fun _ => mix_and_not _ _ _⟩
/-- A register without writable bits. -/
theorem readsBack_readOnly {n : Nat} (h : csrMask n = 0) (v old : W64) : ReadsBack n v old old := ⟨by simp [h], fun _ => rfl⟩

/-- The control registers that are one field of the task. -/
def plainCsrs : List Nat :=
  [0x004, 0x005, 0x006, 0x007, 0x008, 0x00A, 0x00B, 0x00C, 0x00D, 0x011, 0x012, 0x013, 0x014, 0x015, 0x016, 0x017, 0x018, 0x040]

theorem csrPut_plain (s : State) (t : Task) (r : Ref) {n : Nat} (v : W64) (h : n ∈ plainCsrs) :
    csrGet s (csrPut t r.eng n v) r n = (v &&& csrMask n) ||| (csrGet s t r n &&& ~~~(csrMask n)) := by
  simp only [plainCsrs, List.mem_cons, List.not_mem_nil, or_false] at h
  rcases h with rfl | rfl | rfl | rfl | rfl | rfl | rfl | rfl | rfl | rfl | rfl | rfl | rfl | rfl | rfl | rfl | rfl | rfl <;> rfl

/-- A register that is none of these, no loop count, no rendezvous and in no array has no writable bits, and a write leaves the task. -/
theorem csrPut_readOnly (t : Task) (e : Eng) {n : Nat} (v : W64) (hp : n ∉ plainCsrs) (hl : ¬ (0x020 ≤ n ∧ n ≤ 0x02B))
    (hr : n ≠ 0x031) (ha : ¬ (0x100 ≤ n ∧ n ≤ 0x17F)) : csrMask n = 0 ∧ csrPut t e n v = t := by
  simp only [plainCsrs, List.mem_cons, List.not_mem_nil, or_false, not_or] at hp
  have h0 : ¬ (0x020 ≤ n ∧ n ≤ 0x025) := by omega
  have h1 : ¬ (0x026 ≤ n ∧ n ≤ 0x02B) := by omega
  have h2 : ¬ (0x100 ≤ n ∧ n ≤ 0x13F) := by omega
  have h3 : ¬ (0x140 ≤ n ∧ n ≤ 0x17F) := by omega
  constructor
  · simp only [csrMask, hp, hl, hr, h2, h3, if_false, or_self]
  · simp only [csrPut, hp, hr, h0, h1, h2, h3, if_false, dite_false]

/-- The shadow loop counts, the thresholds of the layers and their dropped magnitudes, each in its place of an array. -/
theorem csrGet_shadow (s : State) (t : Task) (r : Ref) {n : Nat} (h : 0x026 ≤ n ∧ n ≤ 0x02B) :
    csrGet s t r n = ((t.stm r.eng).loop.sn[n - 0x026]).zeroExtend 64 := by
  simp (disch := omega) only [csrGet, if_neg, dif_neg, dif_pos]
theorem csrGet_threshold (s : State) (t : Task) (r : Ref) {n : Nat} (h : 0x100 ≤ n ∧ n ≤ 0x13F) :
    csrGet s t r n = tget 0 t.c.thr (n - 0x100) := by
  simp (disch := omega) only [csrGet, if_neg, dif_neg, if_pos]
theorem csrGet_magnitude (s : State) (t : Task) (r : Ref) {n : Nat} (h : 0x140 ≤ n ∧ n ≤ 0x17F) :
    csrGet s t r n = tget 0 t.c.dmag (n - 0x140) := by
  simp (disch := omega) only [csrGet, if_neg, dif_neg, if_pos]
theorem csrPut_shadow (t : Task) (e : Eng) {n : Nat} (v : W64) (h : 0x026 ≤ n ∧ n ≤ 0x02B) : csrPut t e n v =
    t.modStm e fun st => { st with loop := { st.loop with sn := st.loop.sn.set (n - 0x026) (v.extractLsb' 0 32) } } := by
  simp (disch := omega) only [csrPut, if_neg, dif_pos]
theorem csrPut_threshold (t : Task) (e : Eng) {n : Nat} (v : W64) (h : 0x100 ≤ n ∧ n ≤ 0x13F) :
    csrPut t e n v = { t with c := { t.c with thr := tput 0 t.c.thr (n - 0x100) (v &&& csrMask n) } } := by
  simp (disch := omega) only [csrPut, if_neg, dif_neg, if_pos]
theorem csrPut_magnitude (t : Task) (e : Eng) {n : Nat} (v : W64) (h : 0x140 ≤ n ∧ n ≤ 0x17F) :
    csrPut t e n v = { t with c := { t.c with dmag := tput 0 t.c.dmag (n - 0x140) v } } := by
  simp (disch := omega) only [csrPut, if_neg, dif_neg, if_pos]
theorem csrMask_shadow {n : Nat} (h : 0x026 ≤ n ∧ n ≤ 0x02B) : csrMask n = 0xFFFF_FFFF := by
  simp (disch := omega) only [csrMask, if_neg, if_pos]

/-- A 32-bit value stands in the low half. -/
theorem zeroExtend_eq_and (w : W32) : w.zeroExtend 64 = w.zeroExtend 64 &&& 0xFFFF_FFFF := by
  apply BitVec.eq_of_toNat_eq
  have h := Nat.and_two_pow_sub_one_eq_mod w.toNat 32
  simp at h
  simp
  rw [Nat.mod_eq_of_lt (by omega), h]
  omega
theorem zeroExtend_lo32 (v : W64) : (v.extractLsb' 0 32).zeroExtend 64 = v &&& 0xFFFF_FFFF := by
  apply BitVec.eq_of_toNat_eq
  have h := Nat.and_two_pow_sub_one_eq_mod v.toNat 32
  simp at h
  simp
  omega
theorem and_and_not (v m : W64) : v &&& m &&& ~~~m = 0 := by simp [BitVec.and_assoc]

/-- R291, R317: what a write leaves in its register, loop counts LC0 to LC5 and RDV apart. -/
theorem csrPut_readsBack (s : State) (t : Task) (r : Ref) (n : Nat) (v : W64) (hl : ¬ (0x020 ≤ n ∧ n ≤ 0x025)) (hr : n ≠ 0x031) :
    ReadsBack n v (csrGet s t r n) (csrGet s (csrPut t r.eng n v) r n) := by
  by_cases hp : n ∈ plainCsrs
  · rw [csrPut_plain s t r v hp]
    exact readsBack_mix _ _ _
  by_cases hs : 0x026 ≤ n ∧ n ≤ 0x02B
  · rw [csrPut_shadow t r.eng v hs, csrGet_shadow s t r hs, csrGet_shadow s _ r hs, stm_modStm, Vector.getElem_set_self, zeroExtend_lo32]
    refine ⟨?_, fun _ => ?_⟩
    · rw [csrMask_shadow hs, BitVec.and_assoc, BitVec.and_self]
    · rw [csrMask_shadow hs, zeroExtend_eq_and, and_and_not, and_and_not]
  by_cases ht : 0x100 ≤ n ∧ n ≤ 0x13F
  · rw [csrPut_threshold t r.eng v ht, csrGet_threshold s t r ht, csrGet_threshold s _ r ht, tget_tput_self]
    exact ⟨by rw [BitVec.and_assoc, BitVec.and_self], fun hn => absurd hn (by omega)⟩
  by_cases hd : 0x140 ≤ n ∧ n ≤ 0x17F
  · rw [csrPut_magnitude t r.eng v hd, csrGet_magnitude s t r hd, csrGet_magnitude s _ r hd, tget_tput_self]
    exact ⟨rfl, fun hn => absurd hn (by omega)⟩
  · obtain ⟨hm, he⟩ := csrPut_readOnly t r.eng v hp (by omega) hr (by omega)
    rw [he]
    exact readsBack_readOnly hm _ _

/-- What an open block's stream sees after one more effect. -/
theorem view_addEff (hb : s.blk.isSome = true) (e : Eff) : SameRegs (viewEff s.cur.eng s.view e) (s.addEff e).view := by
  unfold State.view
  rw [effs_addEff hb, List.foldl_append]
  refine viewEff_same (view_same ?_ _ _) _ _
  show SameRegs s.my (s.modMy _).my
  rw [my_modMy]
  exact same_modStm _ _ _ rfl rfl

theorem csrWriteSeenInBlock : Rule.CsrWriteSeenInBlock := by
  intro s n v hb hl hr
  by_cases h4 : n = 4
  · subst h4
    have hc : (s.addEff (.csr 4 v)).csr 4 = (v &&& csrMask 4) ||| (s.csr 4 &&& ~~~(csrMask 4)) := by
      have hmy : (s.addEff (.csr 4 v)).my.c = s.my.c := (kept_addEff s _).c
      unfold State.csr
      rw [effs_addEff hb, List.foldl_append, hmy]
      rfl
    rw [hc]
    exact readsBack_mix _ _ _
  · have hold : s.csr n = csrGet s s.view s.cur n := if_neg h4
    have hnew : (s.addEff (.csr n v)).csr n = csrGet s (csrPut s.view s.cur.eng n v) s.cur n := by
      have hv : viewEff s.cur.eng s.view (.csr n v) = csrPut s.view s.cur.eng n v := if_neg h4
      have hg : (s.addEff (.csr n v)).csr n = csrGet s (s.addEff (.csr n v)).view s.cur n := if_neg h4
      rw [hg, csrGet_same (view_addEff hb _), hv]
    rw [hold, hnew]
    exact csrPut_readsBack s s.view s.cur n v hl hr

/-! ## SYS and CSR at issue (R249, R314, R316, R317) -/

/-- Bit 63 and the rest of a word. -/
theorem bit63_append (v : W64) : v.extractLsb' 63 1 ++ v.extractLsb' 0 63 = v := BitVec.extractLsb'_append_extractLsb' (w := 1) (len := 63)
theorem and_low63 (v : W64) : v &&& 0x7FFF_FFFF_FFFF_FFFF = 0#1 ++ v.extractLsb' 0 63 := by
  have hm : (0x7FFF_FFFF_FFFF_FFFF : W64) = 0#1 ++ BitVec.allOnes 63 := rfl
  calc v &&& 0x7FFF_FFFF_FFFF_FFFF
    _ = (v.extractLsb' 63 1 ++ v.extractLsb' 0 63) &&& (0#1 ++ BitVec.allOnes 63) := by rw [bit63_append, hm]
    _ = (v.extractLsb' 63 1 &&& 0#1) ++ (v.extractLsb' 0 63 &&& BitVec.allOnes 63) := BitVec.and_append
    _ = 0#1 ++ v.extractLsb' 0 63 := by rw [BitVec.and_zero, BitVec.and_allOnes]
theorem or_bit63 (v : W64) : v ||| 0x8000_0000_0000_0000 = 1#1 ++ v.extractLsb' 0 63 := by
  have hm : (0x8000_0000_0000_0000 : W64) = BitVec.allOnes 1 ++ 0#63 := rfl
  calc v ||| 0x8000_0000_0000_0000
    _ = (v.extractLsb' 63 1 ++ v.extractLsb' 0 63) ||| (BitVec.allOnes 1 ++ 0#63) := by rw [bit63_append, hm]
    _ = (v.extractLsb' 63 1 ||| BitVec.allOnes 1) ++ (v.extractLsb' 0 63 ||| 0#63) := BitVec.or_append
    _ = 1#1 ++ v.extractLsb' 0 63 := by rw [BitVec.or_allOnes, BitVec.or_zero]; rfl

theorem systemResults : Rule.SystemResults := by
  refine ⟨fun s f h => ⟨?_, ?_, fun h0 he => ?_, fun hill => ?_⟩, fun s f a h => ⟨?_, ?_⟩⟩
  · rw [exec_nop]
    exact issue32_go h rfl
  · rw [exec_kill]
    exact issue32_stop h rfl
  · rw [exec_eret]
    exact issue32_go h (by simp [h0, he])
  · rw [exec_eret]
    exact issue32_trap h (by rcases hill with h0 | he <;> simp [*, illop, cILLOP])
  · rw [exec_trap, ← and_low63]
    exact issue32_trap h rfl
  · rw [exec_brk, ← or_bit63]
    exact issue32_trap h rfl

/-- R317: a write that leaves NBV a VER of 1 or 2, or is of another register, stands for the commit; any other is refused. -/
theorem csrWrite_go {n : Nat} {new : W64} (h : n ≠ 4 ∨ new &&& 0xFF = 1 ∨ new &&& 0xFF = 2) (e : Eff) (u : State) :
    csrWrite n new e u = .go (u.addEff e) := by
  unfold csrWrite
  generalize new &&& 0xFF = v at h ⊢
  refine if_neg ?_
  rcases h with h | rfl | rfl
  · simp [h]
  · simp
  · simp
theorem csrWrite_trap {n : Nat} {new : W64} (h : ¬ (n ≠ 4 ∨ new &&& 0xFF = 1 ∨ new &&& 0xFF = 2)) (e : Eff) (u : State) :
    csrWrite n new e u = .trap 0x01 (new &&& 0xFF) := by
  simp only [not_or, not_not] at h
  unfold csrWrite
  generalize new &&& 0xFF = v at h ⊢
  refine if_pos ?_
  simpa using h

theorem csrResults : Rule.CsrResults := by
  refine ⟨fun s g d n h => ?_, fun s g a n h => ⟨fun ok => ?_, fun h4 h1 h2 => ?_⟩, fun s g d a n h =>
    ⟨fun w => ?_, fun w => ?_, fun w => ?_, fun w => ?_, fun w => ?_, fun w => ?_⟩⟩
  · rw [exec_rdc]
    exact issue64_go h rfl
  · rw [exec_wrc]
    exact issue64_go h (csrWrite_go ok _ _)
  · rw [exec_wrc]
    exact issue64_trap h (csrWrite_trap (by simp only [h4, h1, h2, ne_eq, not_true, or_self, not_false_iff]) _ _)
  · rw [exec_swpc]
    exact issue64_go h (csrWrite_go w _ _)
  · rw [exec_setc]
    exact issue64_go h (csrWrite_go w _ _)
  · rw [exec_clrc]
    exact issue64_go h (csrWrite_go w _ _)
  · rw [exec_swpc]
    exact issue64_trap h (csrWrite_trap w _ _)
  · rw [exec_setc]
    exact issue64_trap h (csrWrite_trap w _ _)
  · rw [exec_clrc]
    exact issue64_trap h (csrWrite_trap w _ _)

/-- Settles O7: SYS and CSR by what their bodies answer, the reads after a write by the register written. -/
theorem systemAndControlRegisters : Obligations.SystemAndControlRegisters := ⟨systemResults, csrResults, csrWriteSeenInBlock⟩

end Sys2Proof.Machine
end

section
/-! SUPPORT. The loop instructions: a body at TL0, ILLOP above (R143, R319, R320). -/

namespace Sys2Proof.Machine

open Sys2Proof

variable {s t : State} {g : Guard} {us : List R5} {body : State → Res}

theorem loopIns_next (h : Issues64 s g ⟨us, [], [], us⟩) (h0 : s.my.c.tl = 0) (hb : body s = .go t) :
    loopIns g us body s = .next (t.issued g.sync) := issue64_go h (by simp only [h0, ne_eq, not_true, if_false, hb])
/-- A body that is itself ILLOP, as that of loopgo while the nest runs. -/
theorem loopIns_refused (h : Issues64 s g ⟨us, [], [], us⟩) (hb : s.my.c.tl ≠ 0 ∨ body s = illop s) :
    loopIns g us body s = .next (trapAt s s.cur 0x01 (s.headWord.zeroExtend 64) false) := by
  refine issue64_trap h ?_
  rcases hb with h0 | hb
  · rw [if_pos h0]; rfl
  · rw [hb, ite_self]; rfl

/-- The low half of a sum is the sum of the low halves. -/
theorem extractLsb'_add_count (x : W64) (cnt : BitVec 11) :
    (x + cnt.zeroExtend 64).extractLsb' 0 32 = x.extractLsb' 0 32 + cnt.zeroExtend 32 := by
  apply BitVec.eq_of_toNat_eq
  simp

/-- Settles O8: each loop instruction is loopIns of its body. -/
theorem loopResults : Obligations.LoopResults := by
  intro s g a d lvl ent cnt str len ill
  refine ⟨fun h => ⟨fun h0 => ⟨?_, ?_⟩, fun h0 => ⟨?_, ?_⟩⟩,
    fun h => ⟨fun h0 => ⟨?_, fun hr => ?_, fun hr => ?_⟩, fun h0 => ⟨?_, ?_⟩⟩⟩
  · rw [exec_loopn, ← extractLsb'_add_count]
    exact loopIns_next h h0 rfl
  · rw [exec_lstride]
    exact loopIns_next h h0 rfl
  · rw [exec_loopn]
    exact loopIns_refused h (.inl h0)
  · rw [exec_lstride]
    exact loopIns_refused h (.inl h0)
  · rw [exec_loopbrk]
    exact loopIns_next h h0 rfl
  · rw [exec_loopgo]
    exact loopIns_next h h0 (by simp only [hr, Bool.false_eq_true, if_false])
  · rw [exec_loopgo]
    exact loopIns_refused h (.inr (by simp only [hr, if_true]))
  · rw [exec_loopbrk]
    exact loopIns_refused h (.inl h0)
  · rw [exec_loopgo]
    exact loopIns_refused h (.inl h0)

end Sys2Proof.Machine
end

section
/-! SUPPORT. Trap entry: what stands in the task that has entered its trap, and when a trap is another stream's or none (R246, R247, R250). -/

namespace Sys2Proof.Machine

open Sys2Proof

variable {s : State} {t : Task} {r : Ref} {e : Eng} {code : Nat} {eval : W64} {deferred : Bool}

/-- An update of every stream of a task, each in its own way. -/
theorem stm_modEach (t : Task) (f : Eng → EStream → EStream) (g : Eng) :
    (Eng.all.foldl (fun t e => t.modStm e (f e)) t).stm g = f g (t.stm g) := by
  cases g <;> simp [Eng.all, stm_modStm, stm_modStm_other]

/-- It changes nothing but the streams. -/
theorem modEach_only (f : Eng → EStream → EStream) (es : List Eng) (t : Task) :
    ∃ st, es.foldl (fun t e => t.modStm e (f e)) t = { t with st := st } := by
  induction es generalizing t with
  | nil => exact ⟨t.st, rfl⟩
  | cons e es ih =>
    obtain ⟨st, h⟩ := ih (t.modStm e (f e))
    exact ⟨st, h⟩

/-! ## The task in its trap -/

def trapCause (e : Eng) (code : Nat) (deferred : Bool) : W64 := BitVec.ofNat 64 (code + e.idx.val * 2 ^ 8 + (if deferred then 2 ^ 10 else 0))
def trapVector (t : Task) (code : Nat) : W64 := (t.c.tvec &&& 0x0000_FFFF_FFFF_F000) + BitVec.ofNat 64 (64 * code)
/-- What the entry makes of a stream: the one that traps goes to its vector, another stops. -/
def trapStream (e : Eng) (pc : W64) (f : Eng) (st : EStream) : EStream :=
  if f = e then { st with pc := pc, hold := .none, fetched := none, looked := false } else { st with stopped := true }
/-- The banked registers of the level that a trap enters from TL0 or TL1. -/
def trapBank (t : Task) (e : Eng) (cause eval : W64) : Task :=
  let epc := (t.stm e).pc &&& 0x0000_FFFF_FFFF_FFFF
  if t.c.tl = 0 then { t with c := { t.c with tl := 1, cause1 := cause, epc1 := epc, eval1 := eval }, trap1 := e }
  else { t with c := { t.c with tl := 2, cause2 := cause, epc2 := epc, eval2 := eval }, trap2 := e }
/-- A task that has entered a trap in one of its streams (R247). -/
def Task.entered (t : Task) (e : Eng) (code : Nat) (eval : W64) (deferred : Bool) : Task :=
  Eng.all.foldl (fun u f => u.modStm f (trapStream e (trapVector t code) f)) (trapBank t e (trapCause e code deferred) eval)

theorem stm_trapBank (t : Task) (e f : Eng) (cause eval : W64) : (trapBank t e cause eval).stm f = t.stm f := by
  unfold trapBank
  dsimp only
  split <;> rfl
theorem stm_entered (t : Task) (e f : Eng) (code : Nat) (eval : W64) (deferred : Bool) :
    (t.entered e code eval deferred).stm f = trapStream e (trapVector t code) f (t.stm f) := by
  rw [Task.entered, stm_modEach, stm_trapBank]
theorem entered_c (t : Task) (e : Eng) (code : Nat) (eval : W64) (deferred : Bool) :
    (t.entered e code eval deferred).c = (trapBank t e (trapCause e code deferred) eval).c := by
  obtain ⟨st, h⟩ := modEach_only (trapStream e (trapVector t code)) Eng.all (trapBank t e (trapCause e code deferred) eval)
  rw [Task.entered, h]
theorem entered_trap1 (t : Task) (e : Eng) (code : Nat) (eval : W64) (deferred : Bool) :
    (t.entered e code eval deferred).trap1 = (trapBank t e (trapCause e code deferred) eval).trap1 := by
  obtain ⟨st, h⟩ := modEach_only (trapStream e (trapVector t code)) Eng.all (trapBank t e (trapCause e code deferred) eval)
  rw [Task.entered, h]

theorem trapBank_zero (h : t.c.tl = 0) (cause : W64) : trapBank t e cause eval = { t with
    c := { t.c with tl := 1, cause1 := cause, epc1 := (t.stm e).pc &&& 0x0000_FFFF_FFFF_FFFF, eval1 := eval }, trap1 := e } := if_pos h
theorem trapBank_one (h : t.c.tl = 1) (cause : W64) : trapBank t e cause eval = { t with
    c := { t.c with tl := 2, cause2 := cause, epc2 := (t.stm e).pc &&& 0x0000_FFFF_FFFF_FFFF, eval2 := eval }, trap2 := e } :=
  if_neg (by omega)

/-! ## When a trap is entered -/

/-- R247: with a vector, and no snapshot at the trap, the trap is entered. -/
theorem trapEntry_enters (hl : ((discardOthers s r).task r.core r.slot).c.tl < 2)
    (hv : ((discardOthers s r).task r.core r.slot).c.tvec.getLsbD 0 = true)
    (hs : ((discardOthers s r).task r.core r.slot).c.snapctl.getLsbD 0 = false) :
    trapEntry s r code eval deferred =
      (discardOthers s r).setTask r.core r.slot (((discardOthers s r).task r.core r.slot).entered r.eng code eval deferred) := by
  have hk : (decide (((discardOthers s r).task r.core r.slot).c.tl ≥ 2) ||
      !((discardOthers s r).task r.core r.slot).c.tvec.getLsbD 0) = false := by
    simp only [hv, Bool.not_true, Bool.or_false, decide_eq_false_iff_not]
    omega
  simp only [trapEntry, hk, hs, Bool.false_eq_true, if_false]
  unfold Task.entered trapBank
  dsimp only
  split <;> rfl
/-- R246: at TL2 or without a vector the context is killed. -/
theorem trapEntry_kills (h : ((discardOthers s r).task r.core r.slot).c.tl ≥ 2 ∨
      ((discardOthers s r).task r.core r.slot).c.tvec.getLsbD 0 = false) :
    trapEntry s r code eval deferred = kill (discardOthers s r) ((discardOthers s r).task r.core r.slot).cid 0x11 :=
  if_pos (by rcases h with h | h <;> simp only [h, decide_true, Bool.true_or, Bool.not_false, Bool.or_true])

theorem dueBefore_of_tl (h : t.c.tl ≠ 0) : dueBefore t e = none := if_pos h

/-- R250: a trap of a stream at TL0, or in its own handler, with none of an earlier stream due. -/
theorem trapAt_entry (hd : dueBefore ((discardBlock s r).task r.core r.slot) r.eng = none)
    (ht : ((discardBlock s r).task r.core r.slot).c.tl = 0 ∨ ((discardBlock s r).task r.core r.slot).trapEng = r.eng) :
    trapAt s r code eval deferred = trapEntry (discardBlock s r) r code eval deferred := by
  simp only [trapAt, hd]
  refine if_neg ?_
  rcases ht with h | h <;> simp [h]
theorem trapAt_stopped (h0 : ((discardBlock s r).task r.core r.slot).c.tl ≠ 0)
    (ht : ((discardBlock s r).task r.core r.slot).trapEng ≠ r.eng) : trapAt s r code eval deferred = discardBlock s r := by
  simp only [trapAt, dueBefore_of_tl h0]
  exact if_pos (by simp [h0, ht])
theorem trapAt_earlier {d : Deferred} (hd : dueBefore ((discardBlock s r).task r.core r.slot) r.eng = some (e, d)) :
    trapAt s r code eval deferred =
      trapEntry ((discardBlock s r).modSt ⟨r.core, r.slot, e⟩ fun st => { st with deferred := st.deferred.tail }) ⟨r.core, r.slot, e⟩ d.code d.eval true := by
  simp only [trapAt, hd]

/-! ## The rules -/

theorem trapCause_eq (e : Eng) (code : Nat) (deferred : Bool) :
    trapCause e code deferred = BitVec.ofNat 64 (code + 2 ^ 8 * e.idx.val + if deferred then 2 ^ 10 else 0) := by
  rw [trapCause, Nat.mul_comm]
theorem trapStream_same (pc : W64) (st : EStream) : (trapStream e pc e st).pc = pc := by simp [trapStream]
theorem trapStream_other {f : Eng} (h : f ≠ e) (pc : W64) (st : EStream) : trapStream e pc f st = { st with stopped := true } := if_neg h
theorem trapStream_regs (f : Eng) (pc : W64) (st : EStream) : (trapStream e pc f st).x = st.x ∧ (trapStream e pc f st).p = st.p := by
  unfold trapStream
  split <;> exact ⟨rfl, rfl⟩

theorem trapEntry_rule : Rule.TrapEntry := by
  intro s r code eval deferred u v t hd h0 htl hv hs t'
  have hat : trapAt s r code eval deferred = v.setTask r.core r.slot (t.entered r.eng code eval deferred) :=
    (trapAt_entry hd (.inl h0)).trans (trapEntry_enters (lt_of_eq_of_lt htl (by decide)) hv hs)
  have ht' : t' = t.entered r.eng code eval deferred := by simp only [t', hat, task_setTask]
  rw [ht', hat, setTask_mem, entered_c, trapBank_zero htl, Task.trapEng, entered_c, entered_trap1, trapBank_zero htl]
  refine ⟨rfl, trapCause_eq _ _ _, rfl, rfl, ?_, fun e he => ?_, rfl, fun e => ?_, rfl⟩
  · rw [stm_entered, trapStream_same]; rfl
  · rw [stm_entered, trapStream_other he]; exact ⟨rfl, rfl⟩
  · rw [stm_entered]; exact trapStream_regs _ _ _

theorem trapEntryNested : Rule.TrapEntryNested := by
  intro s r code eval deferred u t h1 he htl hv hs t'
  have hat : trapAt s r code eval deferred = (discardOthers u r).setTask r.core r.slot (t.entered r.eng code eval deferred) :=
    (trapAt_entry (dueBefore_of_tl (h1 ▸ Nat.one_ne_zero)) (.inr he)).trans (trapEntry_enters (lt_of_eq_of_lt htl (by decide)) hv hs)
  have ht' : t' = t.entered r.eng code eval deferred := by simp only [t', hat, task_setTask]
  rw [ht', entered_c, trapBank_one htl]
  refine ⟨rfl, trapCause_eq _ _ _, rfl, rfl, rfl, rfl, rfl, ?_⟩
  rw [stm_entered, trapStream_same]; rfl

theorem trapKills : Rule.TrapKills := by
  intro s r code eval deferred u w v t
  exact ⟨fun hd ht hk => (trapAt_entry hd ht).trans (trapEntry_kills hk), trapAt_stopped, fun e d hd => trapAt_earlier hd⟩

/-- Settles O9: a trap is entered, is met again later, or is an earlier stream's; one that is entered fills the bank of its level or kills. -/
theorem trapEntries : Obligations.TrapEntries := ⟨trapEntry_rule, trapEntryNested, trapKills⟩

end Sys2Proof.Machine
end

section
/-! SUPPORT. rdvwait, and dsync by the phase that its member finds (R139, R146 to R148). -/

namespace Sys2Proof.Machine

open Sys2Proof

variable {s : State} {f : Sync}

/-! ## Lists with one element of a kind -/

section
variable {α : Type} {p : α} {ps qs : List α}

theorem find?_unique {c : α → Bool} (h : ∀ q ∈ ps ++ qs, c q = false) (hp : c p = true) : (ps ++ p :: qs).find? c = some p := by
  have hps : ps.find? c = none := List.find?_eq_none.mpr fun q hq => by simp [h q (by simp [hq])]
  rw [List.find?_append, hps, Option.none_or, List.find?_cons_of_pos hp]
theorem find?_absent {c : α → Bool} (h : ∀ q ∈ ps ++ qs, c q = false) (hp : c p = false) : (ps ++ p :: qs).find? c = none := by
  refine List.find?_eq_none.mpr fun q hq => ?_
  simp only [List.mem_append, List.mem_cons] at hq
  rcases hq with hq | rfl | hq
  · simp [h q (by simp [hq])]
  · simp [hp]
  · simp [h q (by simp [hq])]
variable [DecidableEq α]
/-- The one element that equals p is replaced, or left out. -/
theorem map_replace (h : p ∉ ps ++ qs) (p' : α) : (ps ++ p :: qs).map (fun q => if q == p then p' else q) = ps ++ p' :: qs := by
  have hkeep : ∀ l : List α, p ∉ l → l.map (fun q => if q == p then p' else q) = l := fun l hl =>
    (List.map_congr_left fun q hq => if_neg (by simpa using fun hqp : q = p => hl (hqp ▸ hq))).trans (List.map_id l)
  simp only [List.mem_append, not_or] at h
  simp only [List.map_append, List.map_cons, hkeep ps h.1, hkeep qs h.2, beq_self_eq_true, if_true]
theorem filterMap_replace (h : p ∉ ps ++ qs) (c : Prop) [Decidable c] (p' : α) :
    (ps ++ p :: qs).filterMap (fun q => if q == p then (if c then none else some p') else some q) = ps ++ (if c then [] else [p']) ++ qs := by
  have hkeep : ∀ l : List α, p ∉ l → l.filterMap (fun q => if q == p then (if c then none else some p') else some q) = l := fun l hl =>
    (List.filterMap_congr fun q hq => if_neg (by simpa using fun hqp : q = p => hl (hqp ▸ hq))).trans List.filterMap_some
  simp only [List.mem_append, not_or] at h
  rw [List.filterMap_append, hkeep ps h.1, List.filterMap_cons, hkeep qs h.2]
  by_cases hc : c <;> simp [hc]
end

/-! ## The phase of a member -/

section
variable {cid id lvl me : Nat} {members : List Nat} {sc : Scope} {p : Phase} {ps qs : List Phase}

/-- A phase of a context, a barrier and a level. -/
def Phase.sameAs (cid id lvl : Nat) (p : Phase) : Prop := p.cid = cid ∧ p.id = id ∧ p.lvl = lvl
/-- At levels 2 to 4, a phase whose first member came with another DOM. -/
def Phase.differs (s : State) (lvl : Nat) (p : Phase) : Prop := 2 ≤ lvl ∧ p.dom ≠ s.view.c.dom &&& 0xFF_FFFF_FFFF

theorem sameAs_eq_false (h : ¬ p.sameAs cid id lvl) : (p.cid == cid && p.id == id && p.lvl == lvl) = false := by
  by_contra hc
  refine h ?_
  simpa [Phase.sameAs, and_assoc] using hc
theorem sameAs_eq_true (h : p.sameAs cid id lvl) : (p.cid == cid && p.id == id && p.lvl == lvl) = true := by
  obtain ⟨h1, h2, h3⟩ := h
  simp [h1, h2, h3]
theorem differs_iff : (decide (lvl ≥ 2) && p.dom != (s.view.c.dom &&& 0xFF_FFFF_FFFF)) = true ↔ p.differs s lvl := by
  simp [Phase.differs]
theorem sameAs_not_mem (h : p.sameAs cid id lvl) (ho : ∀ q ∈ ps ++ qs, ¬ q.sameAs cid id lvl) : p ∉ ps ++ qs := fun hm => ho p hm h

/-- The first member opens the phase (R148). -/
theorem dsyncAt_opens (h : ∀ q ∈ s.phases, ¬ q.sameAs cid id lvl) : dsyncAt s cid id lvl me members sc = .hold .dsync { s with
    uid := s.uid + 1, phases := s.phases ++ [⟨cid, id, lvl, s.view.c.dom &&& 0xFF_FFFF_FFFF, [(me, s.my.tid, s.uid)], []⟩] } := by
  have h1 : s.phases.find? (fun p => p.cid == cid && p.id == id && p.lvl == lvl && (p.arrived.any fun a => a.1 == me) &&
      !p.passed.contains me) = none := List.find?_eq_none.mpr fun q hq => by simp [sameAs_eq_false (h q hq)]
  have h2 : s.phases.find? (fun p => p.cid == cid && p.id == id && p.lvl == lvl && p.passed.isEmpty) = none :=
    List.find?_eq_none.mpr fun q hq => by simp [sameAs_eq_false (h q hq)]
  simp only [dsyncAt, h1, h2]

/-- A member that has not arrived joins an open phase; another DOM than the first's is ILLOP. -/
theorem dsyncAt_arrives (hp : p.sameAs cid id lvl) (ho : ∀ q ∈ ps ++ qs, ¬ q.sameAs cid id lvl) (hs : s.phases = ps ++ p :: qs)
    (hpass : p.passed = []) (hme : ∀ a ∈ p.arrived, a.1 ≠ me) :
    let u : State := { s with uid := s.uid + 1, phases := ps ++ { p with arrived := p.arrived ++ [(me, s.my.tid, s.uid)] } :: qs }
    (¬ p.differs s lvl → dsyncAt s cid id lvl me members sc = .hold .dsync u) ∧
    (p.differs s lvl → dsyncAt s cid id lvl me members sc = .stop (trapAt u s.cur 0x01 s.view.c.dom false)) := by
  intro u
  have h1 : s.phases.find? (fun p => p.cid == cid && p.id == id && p.lvl == lvl && (p.arrived.any fun a => a.1 == me) &&
      !p.passed.contains me) = none := by
    have ha : (p.arrived.any fun a => a.1 == me) = false := List.any_eq_false.mpr fun a h => by simpa using hme a h
    rw [hs]
    exact find?_absent (fun q hq => by simp [sameAs_eq_false (ho q hq)]) (by simp [ha])
  have h2 : s.phases.find? (fun p => p.cid == cid && p.id == id && p.lvl == lvl && p.passed.isEmpty) = some p := by
    rw [hs]
    exact find?_unique (fun q hq => by simp [sameAs_eq_false (ho q hq)]) (by simp [sameAs_eq_true hp, hpass])
  have h3 := map_replace (sameAs_not_mem hp ho) { p with arrived := p.arrived ++ [(me, s.my.tid, s.uid)] }
  rw [← hs] at h3
  simp only [dsyncAt, h1, h2, h3]
  exact ⟨fun h => if_neg (mt differs_iff.mp h), fun h => if_pos (differs_iff.mpr h)⟩

/-- A member that has arrived waits for the others, and passes once the phase is complete (R148). -/
theorem dsyncAt_waits (hp : p.sameAs cid id lvl) (ho : ∀ q ∈ ps ++ qs, ¬ q.sameAs cid id lvl) (hs : s.phases = ps ++ p :: qs)
    (hme : ∃ a ∈ p.arrived, a.1 = me) (hpass : me ∉ p.passed) :
    let p' : Phase := { p with passed := me :: p.passed }
    (p.differs s lvl → dsyncAt s cid id lvl me members sc = .stop (trapAt s s.cur 0x01 s.view.c.dom false)) ∧
    (¬ p.differs s lvl → phaseDone s p members = false → p.passed = [] →
      dsyncAt s cid id lvl me members sc = .hold .dsync { s with uid := s.uid + 1 }) ∧
    (¬ p.differs s lvl → phaseDone s p members = true ∨ p.passed ≠ [] →
      dsyncAt s cid id lvl me members sc = .go (((({ s with
        phases := ps ++ (if p.arrived.length ≤ p.passed.length + 1 then [] else [p']) ++ qs } : State).modMy (·.flipPh lvl)).modBlk fun b =>
          { b with taken := b.taken ++ [.dsync p' me] }).acquire sc)) := by
  intro p'
  have h1 : s.phases.find? (fun p => p.cid == cid && p.id == id && p.lvl == lvl && (p.arrived.any fun a => a.1 == me) &&
      !p.passed.contains me) = some p := by
    have ha : (p.arrived.any fun a => a.1 == me) = true := List.any_eq_true.mpr (by simpa using hme)
    rw [hs]
    exact find?_unique (fun q hq => by simp [sameAs_eq_false (ho q hq)]) (by simp [sameAs_eq_true hp, ha, hpass])
  have h2 := filterMap_replace (sameAs_not_mem hp ho) (p.arrived.length ≤ p.passed.length + 1) p'
  rw [← hs] at h2
  simp only [dsyncAt, h1]
  refine ⟨fun h => if_pos (differs_iff.mpr h), fun h hd he => ?_, fun h hd => ?_⟩
  · rw [if_neg (mt differs_iff.mp h), if_neg (by simp [hd, he])]
  · rw [if_neg (mt differs_iff.mp h), if_pos (by rcases hd with hd | hd <;> simp [hd])]
    exact congrArg (fun l => Res.go ((((({ s with phases := l } : State).modMy (·.flipPh lvl)).modBlk fun b =>
      { b with taken := b.taken ++ [.dsync p' me] }).acquire sc))) h2
end

/-! ## dsync by its level -/

def dsyncMembers (s : State) (lvl : Nat) : List Nat :=
  if lvl = 1 then (Eng.all.filter fun e => (s.my.stm e).live).map fun e => e.idx.val else domCores s.view.c.dom s.cur.core lvl
def dsyncMe (s : State) (lvl : Nat) : Nat := if lvl = 1 then s.cur.eng.idx.val else s.cur.core
def dsyncId (s : State) (lvl : Nat) : Nat :=
  if lvl = 1 then 16 + s.my.tid
  else (s.view.c.dom.extractLsb' 36 4).toNat + 2 ^ 32 * (if lvl = 2 then eightOf s.cur.core else if lvl = 3 then dieOf s.cur.core else 0)
def dsyncScope (lvl : Nat) : Scope := if lvl = 1 then .core else if lvl = 2 then .eight else if lvl = 3 then .die else .package

theorem bits_eq_extractLsb' (v : W64) (lo n : Nat) : bits v.toNat lo n = (v.extractLsb' lo n).toNat := by
  simp [bits, Nat.shiftRight_eq_div_pow]

/-- The outcome of an issue, its body having answered. -/
def Res.outcome (s : State) (f : Sync) : Res → Out
  | .hold k t => .next (t.held k)
  | .trap c v => .next (trapAt s s.cur c v false)
  | .stop t => .next t
  | .go t => .next (t.issued f)
theorem issue32_outcome {u : Uses} {body : State → Res} (h : Issues32 s f u) : issue32 s f u body = (body s).outcome s f := by
  rw [issue32, issue_issuing h]
  cases body s <;> rfl

/-- R147, R148: the dsync of a member at levels 1 to 4 is one step of its phase. -/
theorem exec_dsync_member {n : BitVec 16} {r : Res} (h : Issues32 s f ⟨[], [], [], []⟩) (h0 : s.my.c.tl = 0) (h1 : 1 ≤ n.toNat)
    (hm : n.toNat = 1 ∨ s.cur.core ∈ dsyncMembers s n.toNat)
    (hr : dsyncAt s s.my.cid (dsyncId s n.toNat) n.toNat (dsyncMe s n.toNat) (dsyncMembers s n.toNat) (dsyncScope n.toNat) = r) :
    exec (.dsync f n) s = r.outcome s f := by
  rw [exec_dsync, execDsync, issue32_outcome h, if_neg (by simpa using h0), if_neg (by omega), ← hr]
  by_cases h1 : n.toNat = 1
  · simp only [h1, dsyncId, dsyncMe, dsyncMembers, dsyncScope, if_true]
  · have hc : (domCores s.view.c.dom s.cur.core n.toNat).contains s.cur.core = true := by
      simpa [dsyncMembers, h1] using hm
    simp only [h1, dsyncId, dsyncMe, dsyncMembers, dsyncScope, if_false, hc, if_true, bits_eq_extractLsb']

theorem dsyncPhases : Rule.DsyncPhases := by
  intro s f n ps qs h h0 lvl core dom members me id sc same differs h1 h4 hm ho
  have run {r : Res} := exec_dsync_member (r := r) h h0 h1 hm
  refine ⟨fun hs => ?_, fun p hp hs hpass hme => ⟨fun hd => ?_, fun hd => ?_⟩,
    fun p hp hs hme hpass => ⟨fun hd => ?_, fun hd hdone hnone => ?_, fun hd hdone => ?_⟩⟩
  · have hq : ∀ q ∈ s.phases, ¬ q.sameAs s.my.cid (dsyncId s n.toNat) n.toNat := fun q hq => ho q (by simp [← hs, hq])
    rw [run (dsyncAt_opens hq), hs]
    rfl
  · exact run ((dsyncAt_arrives hp ho hs hpass hme).1 hd)
  · exact run ((dsyncAt_arrives hp ho hs hpass hme).2 hd)
  · exact run ((dsyncAt_waits hp ho hs hme hpass).1 hd)
  · exact run ((dsyncAt_waits hp ho hs hme hpass).2.1 hd hdone hnone)
  · exact run ((dsyncAt_waits hp ho hs hme hpass).2.2 hd hdone)

theorem dsyncResults : Rule.DsyncResults := by
  intro s f n h
  refine ⟨fun h0 => ?_, fun h0 hn => ⟨fun hb => ?_, fun hb => ?_⟩, fun h0 h2 hm => ?_⟩
  · rw [exec_dsync]
    exact issue32_trap h (if_pos h0)
  · rw [exec_dsync]
    exact issue32_go h (by simp [h0, hn, hb])
  · rw [exec_dsync]
    exact issue32_hold h (by simp [h0, hn, hb])
  · have hc : (domCores s.view.c.dom s.cur.core n.toNat).contains s.cur.core = false := by simpa using hm
    rw [exec_dsync]
    refine issue32_trap h ?_
    rw [if_neg (by simpa using h0), if_neg (by omega), if_neg (by omega)]
    simp only [hc, Bool.false_eq_true, if_false]
    rfl

theorem rendezvousWait : Rule.RendezvousWait := by
  intro s g h
  refine ⟨fun hf => ?_, fun hf ha => ?_, fun hf ha ⟨e, he, harr, hl⟩ => ?_⟩
  · rw [exec_rdvwait]
    exact issue64_go h (by simp only [hf, if_true])
  · rw [exec_rdvwait]
    exact issue64_trap h (by simp only [hf, ha, Bool.not_false, Bool.true_or, Bool.false_eq_true, if_false, if_true]; rfl)
  · have hdead : (Eng.all.all fun e => !s.view.c.rdv.getLsbD (16 + e.idx.val) || s.view.rdvArr.getLsbD e.idx.val ||
        (!(s.my.stm e).live && !hasMark (s.my.stm e) (s.view.c.rdv.extractLsb' 0 16))) = false :=
      List.all_eq_false.mpr ⟨e, by cases e <;> decide, by simp only [he, harr, hl]; simp⟩
    rw [exec_rdvwait]
    exact issue64_hold h (by simp only [hf, ha, hdead, Bool.not_true, Bool.or_false, Bool.false_eq_true, if_false])

/-- Settles O13: rdvwait by its rendezvous, dsync by its level and the phase that its member finds. -/
theorem rendezvousAndDsync : Obligations.RendezvousAndDsync := ⟨rendezvousWait, dsyncResults, dsyncPhases⟩

end Sys2Proof.Machine
end

section
/-! SUPPORT. Monitors: what mon, mclr and mwait answer, and the time-out of mwait (R140, R141, R328). -/

namespace Sys2Proof.Machine

open Sys2Proof

/-- The codes of the spaces without monitors. -/
theorem monSpace_none {c : BitVec 3} (h0 : c ≠ 0) (h2 : c ≠ 2) (h3 : c ≠ 3) : monSpace c = none := by
  simp only [monSpace, if_neg h0, if_neg h2, if_neg h3]

theorem monitorSets : Rule.MonitorSets := by
  refine ⟨fun s g a sp3 off h => ⟨fun sp hsp hc => ?_, fun sp c v hsp hc => ?_, fun h0 h2 h3 => ?_⟩, fun s g h => ?_⟩
  · rw [exec_mon]
    exact issue64_go h (by simp only [hsp, hc])
  · rw [exec_mon]
    exact issue64_trap h (by simp only [hsp, hc])
  · rw [exec_mon]
    exact issue64_trap h (by simp only [monSpace_none h0 h2 h3]; rfl)
  · rw [exec_mclr]
    exact issue64_go h rfl

theorem monitorWait : Rule.MonitorWait := by
  intro s g d a h
  refine ⟨fun hm => ?_, fun m hm ht => ?_, fun m hm ht hx => ?_, fun m b hm ht hx hb hto => ?_⟩
  · rw [exec_mwait]
    exact issue64_go h (by simp only [hm])
  · rw [exec_mwait]
    exact issue64_go h (by simp only [hm, ht, if_true])
  · rw [exec_mwait]
    exact issue64_go h (by simp only [hm, ht, hx, Bool.false_eq_true, if_false, decide_true, Bool.true_or, if_true])
  · rw [exec_mwait]
    exact issue64_hold h (by simp only [hm, ht, hx, hb, hto, Bool.false_eq_true, decide_false, Bool.or_false, if_false])

theorem monitorTimeout : Rule.MonitorTimeout := by
  intro s r b c0 hb hh hc a
  rw [exec_mwaitTimeout]
  refine ⟨fun hle => ?_, fun hlt => ?_⟩
  · simp only [execMwaitTimeout, hb, hh, hc]
    exact if_pos hle
  · simp only [execMwaitTimeout, hb, hh, hc]
    exact if_neg (Nat.not_le.mpr hlt)

/-- Settles O14: each monitor instruction by the state of its monitor. -/
theorem monitors : Obligations.Monitors := ⟨monitorSets, monitorWait, monitorTimeout⟩

end Sys2Proof.Machine
end

section
/-! SUPPORT. Headers: what the tokens that a header takes leave of the block it opens, and the checks before it opens (R125, R133, R154). -/

namespace Sys2Proof.Machine

open Sys2Proof

variable {s : State} {f : Sync} {ni : BitVec 5} {nx : BitVec 2} {ac : Bool} {ws : List W32}

/-! ## What a block keeps while it takes tokens -/

/-- A block's place, its words still to issue, and the registers before it. -/
def Block.frame (b : Block) : W64 × Nat × List W32 × Vector W64 32 × Vector W64 24 := (b.hdr, b.size, b.words, b.x0, b.p0)
/-- The moving stream's block, if one is open, has kept them. -/
def FrameKept (s t : State) : Prop := t.blk.map Block.frame = s.blk.map Block.frame

theorem FrameKept.refl (s : State) : FrameKept s s := rfl
theorem FrameKept.trans {s t u : State} (h : FrameKept s t) (k : FrameKept t u) : FrameKept s u := Eq.trans k h
theorem frameKept_fold {α : Type} {g : State → α → State} (h : ∀ s a, FrameKept s (g s a)) (l : List α) (s : State) :
    FrameKept s (l.foldl g s) :=
  List.foldlRecOn l g (.refl s) fun u hu a _ => hu.trans (h u a)

theorem blk_modBlk (s : State) (g : Block → Block) : (s.modBlk g).blk = s.blk.map g := by
  unfold State.blk State.modBlk
  rw [me_modMe]
theorem frameKept_modBlk (s : State) {g : Block → Block} (h : ∀ b, (g b).frame = b.frame) : FrameKept s (s.modBlk g) := by
  rw [FrameKept, blk_modBlk, Option.map_map]
  exact congrArg (fun k => s.blk.map k) (funext h)
theorem frameKept_addEff (s : State) (e : Eff) : FrameKept s (s.addEff e) := frameKept_modBlk s fun _ => rfl
theorem frameKept_takeTok (s : State) (k : Nat) : FrameKept s (s.modMy fun t => t.takeTok k) := by
  unfold FrameKept State.blk State.me
  rw [my_modMy]
  unfold Task.takeTok
  split <;> rfl
/-- A monitor that triggers touches no more than the arms. -/
theorem frame_trigger (ls : List Nat) (st : EStream) : (st.trigger ls).blk.map Block.frame = st.blk.map Block.frame := by
  unfold EStream.trigger EStream.trig
  cases st.blk with
  | none => rfl
  | some b => simp only [Option.map_some]; split <;> rfl
theorem frameKept_dropViews (s : State) (core cid : Nat) (sc : Scope) : FrameKept s (s.dropViews core cid sc) := by
  have h := task_trigLeave s.tasks core cid
    ((s.views.filter fun v => v.core == core && v.cid == cid && scopeDie sc core (v.line * 64 / 2 ^ 45)).map fun v => v.line * 64 / 256)
    (slotKey s.cur.core s.cur.slot)
  show (((s.dropViews core cid sc).my.stm s.cur.eng).blk).map Block.frame = ((s.my.stm s.cur.eng).blk).map Block.frame
  rcases h with h | h
  · exact congrArg (fun t : Task => (t.stm s.cur.eng).blk.map Block.frame) h
  · refine (congrArg (fun t : Task => (t.stm s.cur.eng).blk.map Block.frame) h).trans ?_
    rw [stm_trigger]
    exact frame_trigger _ _

theorem frameKept_tokens (s : State) (f : Sync) : FrameKept s (s.tokens f) := by
  unfold State.tokens
  have htake : ∀ (s : State) (k : Nat),
      FrameKept s ((s.modMy fun t => t.takeTok k).modBlk fun b => { b with taken := b.taken ++ [.token k] }) := fun s k =>
    (frameKept_takeTok s k).trans (frameKept_modBlk _ fun _ => rfl)
  refine FrameKept.trans ?_ (frameKept_fold (fun s k => frameKept_addEff s _) _ _)
  split
  · exact frameKept_fold htake _ _
  · exact (frameKept_fold htake _ _).trans (frameKept_dropViews _ _ _ _)

/-- R125: the block that opens has its place, its words and the registers before it. -/
theorem blk_openBlock (s : State) (f : Sync) (ws : List W32) :
    ∃ b, (openBlock s f ws).blk = some b ∧ b.frame = (s.me.pc, ws.length, ws.tail, s.me.x, s.me.p) := by
  have h := frameKept_tokens (s.modMe fun st => { st with
    blk := some { hdr := s.me.pc, size := ws.length, words := ws.tail, x0 := s.me.x, p0 := s.me.p, v0 := s.my.v, mon0 := s.me.mon,
                  armed := false, counted := [ws.headD 0], taken := [], effs := [], exits := [], ringDone := false, evRel := false,
                  began := none, timeout := false }
    hold := .none, fetched := none, illegal := none, looked := false, first := st.first && s.my.c.tl != 0 }) f
  rw [FrameKept, State.blk, State.blk, me_modMe] at h
  exact Option.map_eq_some_iff.mp h

/-! ## The checks of a header -/

theorem tokens?_not_dead (h : (waitToks s.cur.eng f).find? (neverSent s) = none) (k : Nat) : tokens? s f ≠ .dead k := by
  simp only [tokens?, find?_neverSent, h]
  split <;> exact nofun

/-- The stream may open the words fetched for it. -/
structure Fetches (s : State) (ws : List W32) : Prop where
  blk : s.me.blk = none
  fetched : s.me.fetched = some ws
  task : s.my.live = true
  live : s.me.live = true
  stopped : s.me.stopped = false

/-- Whether the abort line ends the task at this header (R150). -/
def headerAborts (s : State) (ac : Bool) : Bool := s.my.c.tl == 0 && (s.me.first || ac) && abortRaised s s.cur.core s.my

theorem blockHeader_illegal (h : Fetches s ws) {ev : W64} (hi : s.me.illegal = some ev) :
    execBlockHeader f ni nx ac s = .next (trapAt s s.cur cILLOP ev false) := by
  simp only [execBlockHeader, h.blk, h.fetched, h.task, h.live, h.stopped, hi, Bool.not_true, Bool.or_self, Bool.false_eq_true, if_false]
theorem blockHeader_straddles (h : Fetches s ws) (hi : s.me.illegal = none) (h0 : s.my.c.tl = 0)
    (hs : straddles s.me.loop s.me.pc ws.length = true) :
    execBlockHeader f ni nx ac s = .next (trapAt s s.cur cILLOP ((ws.headD 0).zeroExtend 64) false) := by
  simp only [execBlockHeader, h.blk, h.fetched, h.task, h.live, h.stopped, hi, h0, hs, Bool.not_true, Bool.or_self, Bool.false_eq_true,
    if_false, beq_self_eq_true, Bool.and_self, if_true]
/-- With legal words that lie in the loop body or outside it, its tokens decide. -/
theorem blockHeader_tokens (h : Fetches s ws) (hi : s.me.illegal = none)
    (hs : s.my.c.tl ≠ 0 ∨ straddles s.me.loop s.me.pc ws.length = false) : execBlockHeader f ni nx ac s = match tokens? s f with
      | .dead k => .next (trapAt s s.cur cHSTALL (BitVec.ofNat 64 (0x100 + k)) false)
      | .empty => .next (if headerAborts s ac then abortTask s s.cur.core s.cur.slot else s.held .token)
      | .there => .next (if headerAborts s ac then abortTask s s.cur.core s.cur.slot else openBlock s f ws) := by
  have hc : (s.my.c.tl == 0 && straddles s.me.loop s.me.pc ws.length) = false := by rcases hs with hs | hs <;> simp [hs]
  simp only [execBlockHeader, h.blk, h.fetched, h.task, h.live, h.stopped, hi, hc, Bool.not_true, Bool.or_self, Bool.false_eq_true, if_false]
  rfl

/-! ## The rules -/

theorem blockOpens : Rule.BlockOpens := by
  intro s f ni nx ac ws hb hf ht hl hst hab hi hs hk
  have hna : headerAborts s ac = false := by
    rcases hab with (h | h) | ⟨h1, h2⟩
    · simp [headerAborts, h]
    · simp [headerAborts, h]
    · simp [headerAborts, h1, h2]
  obtain ⟨b, hob, hfr⟩ := blk_openBlock s f ws
  refine ⟨?_, b, hob, ?_⟩
  · rw [exec_blockHeader, blockHeader_tokens ⟨hb, hf, ht, hl, hst⟩ hi hs, tokens?_there hk]
    simp only [hna, Bool.false_eq_true, if_false]
  · simpa [Block.frame] using hfr

theorem blockHeaderStops : Rule.BlockHeaderStops := by
  intro s f ni nx ac ws hb hf ht hl hst dead
  have h : Fetches s ws := ⟨hb, hf, ht, hl, hst⟩
  refine ⟨fun ev hi => ?_, fun hi h0 hs => ?_, fun hi hs => ⟨fun k hk => ?_, fun h0 hab hfirst hk => ?_⟩⟩
  · rw [exec_blockHeader, blockHeader_illegal h hi]
    rfl
  · rw [exec_blockHeader, blockHeader_straddles h hi h0 hs]
    rfl
  · rw [exec_blockHeader, blockHeader_tokens h hi hs, tokens?_dead hk]
    rfl
  · have ha : headerAborts s ac = true := by rcases hfirst with hx | hx <;> simp [headerAborts, h0, hab, hx]
    rw [exec_blockHeader, blockHeader_tokens h hi hs]
    have hd : ∀ k, tokens? s f ≠ .dead k := tokens?_not_dead hk
    split
    next k hk => exact absurd hk (hd k)
    next => rw [if_pos ha]
    next => rw [if_pos ha]

/-- Settles O18: the checks of a header in their order; a block that opens keeps its frame while its tokens are taken. -/
theorem blockHeaders : Obligations.BlockHeaders := ⟨blockOpens, blockHeaderStops⟩

end Sys2Proof.Machine
end

section
/-! SUPPORT. Exits and the commit of a block without effects: where its one true exit leads, and EXITERR (R128, R129, R311, R312). -/

namespace Sys2Proof.Machine

open Sys2Proof

variable {s : State} {f : Sync} {b : Block}

/-! ## Exits issue -/

theorem exit_next {pred : R5} {kind : BitVec 2} {disp : BitVec 14} {us rs : List R5}
    (h : Issues32 s f ⟨us, if pred = 31 then [] else [pred], [], rs⟩) : exit f pred kind disp us rs s =
      .next ((s.modBlk fun b => { b with exits := b.exits ++ [(pred, kind, disp, s.headWord)] }).issued f) := issue32_go h rfl

theorem exitResults : Rule.ExitResults := by
  intro s f pred disp uses out
  refine ⟨fun h => ⟨?_, ?_⟩, fun h => ?_, fun h => ?_⟩
  · rw [exec_jump]
    exact exit_next h
  · rw [exec_done]
    exact exit_next h
  · rw [exec_call]
    exact exit_next h
  · rw [exec_ret]
    exact exit_next h

/-! ## A block that has issued -/

/-- A block whose words have issued, whose loads have returned and whose exits' predicates hold no error. -/
structure Ends (s : State) (b : Block) : Prop where
  blk : s.me.blk = some b
  words : b.words = []
  loads : (s.paths.any fun x => x.tid == s.my.tid && x.r.eng == s.cur.eng && x.inBlock) = false
  preds : PredsClean s (b.exits.map (·.1))

theorem readExits_clean (h : PredsClean s (b.exits.map (·.1))) : readExits s s.cur b = s := by
  unfold readExits
  split
  · rfl
  · refine List.foldlRecOn (motive := fun u => u = s) _ _ rfl fun u hu x hx => ?_
    rw [hu]
    exact (h x.1 (List.mem_map_of_mem (List.mem_of_mem_filter hx))).1
theorem exitsBad_clean (h : PredsClean s (b.exits.map (·.1))) : exitsBad s s.cur b = false :=
  List.any_eq_false.mpr fun x hx => by simp [(h x.1 (List.mem_map_of_mem hx)).2.1]

/-- Its exits decide: a trap of theirs, or the one that is true. -/
theorem commitBlock_trap (h : Ends s b) {c : Nat} {v : W64} (ht : exitTrap s.my s.cur.eng b = some (c, v)) :
    commitBlock s s.cur = trapAt s s.cur c v false := by
  have hb : ((s.task s.cur.core s.cur.slot).stm s.cur.eng).blk = some b := h.blk
  have hl : (s.paths.any fun x => x.tid == (s.task s.cur.core s.cur.slot).tid && x.r.eng == s.cur.eng && x.inBlock) = false := h.loads
  have ht : exitTrap (s.task s.cur.core s.cur.slot) s.cur.eng b = some (c, v) := ht
  simp only [commitBlock, hb, h.words, List.isEmpty_nil, Bool.not_true, Bool.false_eq_true, if_false, hl, readExits_clean h.preds,
    exitsBad_clean h.preds, ht]
theorem commitBlock_one (h : Ends s b) {e : R5 × BitVec 2 × BitVec 14 × W32} (ht : exitTrap s.my s.cur.eng b = none)
    (h1 : trueExits s.me b = [e]) (hh : commitHold s s.cur b = none) : commitBlock s s.cur = commitNow s s.cur b e.2.1 e.2.2.1 := by
  have hb : ((s.task s.cur.core s.cur.slot).stm s.cur.eng).blk = some b := h.blk
  have hl : (s.paths.any fun x => x.tid == (s.task s.cur.core s.cur.slot).tid && x.r.eng == s.cur.eng && x.inBlock) = false := h.loads
  have ht : exitTrap (s.task s.cur.core s.cur.slot) s.cur.eng b = none := ht
  have h1 : trueExits ((s.task s.cur.core s.cur.slot).stm s.cur.eng) b = [e] := h1
  simp only [commitBlock, hb, h.words, List.isEmpty_nil, Bool.not_true, Bool.false_eq_true, if_false, hl, readExits_clean h.preds,
    exitsBad_clean h.preds, ht, h1, hh]

/-! ## EXITERR -/

theorem exitTrap_count {t : Task} {e : Eng} (h : (trueExits (t.stm e) b).length ≠ 1) :
    exitTrap t e b = some (cEXITERR, BitVec.ofNat 64 (trueExits (t.stm e) b).length) := by
  unfold exitTrap
  dsimp only
  split
  next he => exact absurd (congrArg List.length he) h
  next => rfl

theorem exitErrors : Rule.ExitErrors := by
  intro s b hb hw hl hp h1
  have ht := exitTrap_count (t := s.my) (e := s.cur.eng) h1
  have hc := commitBlock_trap ⟨hb, hw, hl, hp⟩ ht
  have hb : s.me.blk = some b := hb
  rw [exec_blockCommit]
  simp only [execBlockCommit, hb, ht, Option.isNone_some, Bool.and_false, Bool.false_and, Bool.false_eq_true, if_false, hc]
  rfl

/-! ## A block without effects -/

theorem exitTrap_none {t : Task} {e : Eng} {x : R5 × BitVec 2 × BitVec 14 × W32} (h1 : trueExits (t.stm e) b = [x])
    (hs : (t.stm e).seg = none) (ha : x.2.1 = 2 → ((t.stm e).rx 31).extractLsb' 0 2 = 0) : exitTrap t e b = none := by
  obtain ⟨p, kind, disp, w⟩ := x
  have hal : (kind == 2 && bits ((t.stm e).rx 31).toNat 0 2 != 0) = false := by
    by_cases hk : kind = 2
    · rw [bits_eq_extractLsb', ha hk]; simp
    · rw [beq_false_of_ne hk, Bool.false_and]
  unfold exitTrap
  simp only [h1, hs, Option.isSome_none, Bool.and_false, Bool.false_and, Bool.false_eq_true, if_false, Bool.and_assoc, hal]

theorem commitHold_none (he : b.effs = []) (hq : s.me.cq.length ≤ 16) : commitHold s s.cur b = none := by
  have hq : ¬ ((s.task s.cur.core s.cur.slot).stm s.cur.eng).cq.length > 16 := Nat.not_lt.mpr hq
  simp [commitHold, he, hq]

/-- The stream after the exit of such a block, no loop nest running (R128). -/
theorem takeExit_plain (acts : Bool) (b : Block) (kind : BitVec 2) (disp : BitVec 14) (st : EStream) :
    takeExit acts false false b kind disp st =
      let st0 := if kind = 1 then st.setX 31 (wordsTo b.hdr b.size) else st
      let st1 : EStream := { st0 with blk := none, hold := .none, first := st0.first && !acts }
      if kind = 3 then { st1 with live := false } else { st1 with pc := if kind = 2 then st.rx 31 else b.hdr + disp.signExtend 64 * 4 } := by
  simp [takeExit]

theorem setX_only (st : EStream) (d : R5) (v : W64) : ∃ x, st.setX d v = { st with x := x } := by
  by_cases h : d = 0
  · exact ⟨st.x, by rw [EStream.setX, if_pos h]⟩
  · exact ⟨_, by rw [EStream.setX, if_neg h]⟩

/-- What the exit of a block without effects does to its stream. -/
structure LeftBy (b : Block) (kind : BitVec 2) (disp : BitVec 14) (st st' : EStream) : Prop where
  blk : st'.blk = none
  pc : st'.pc = if kind = 3 then st.pc else if kind = 2 then st.rx 31 else b.hdr + disp.signExtend 64 * 4
  live : st'.live = if kind = 3 then false else st.live
  x : ∀ a, st'.rx a = if kind = 1 ∧ a = 31 then b.hdr + BitVec.ofNat 64 (4 * b.size) else st.rx a
  p : ∀ a, st'.rp a = st.rp a
  deferred : st'.deferred = st.deferred

theorem leftBy_takeExit (acts : Bool) (b : Block) (kind : BitVec 2) (disp : BitVec 14) (st : EStream) :
    LeftBy b kind disp st (takeExit acts false false b kind disp st) := by
  obtain ⟨x, hx⟩ := setX_only st 31 (wordsTo b.hdr b.size)
  have hrx : ∀ a, ({ st with x := x } : EStream).rx a = if a = 31 then b.hdr + BitVec.ofNat 64 (4 * b.size) else st.rx a := by
    intro a
    rw [← hx, rx_setX]
    simp only [show (31 : R5) ≠ 0 by decide, ne_eq, not_false_iff, and_true]
    rfl
  rw [takeExit_plain]
  dsimp only
  by_cases h3 : kind = 3
  · have h1 : kind ≠ 1 := by rw [h3]; decide
    simp only [if_pos h3, if_neg h1]
    refine ⟨rfl, (if_pos h3).symm, (if_pos h3).symm, fun a => (if_neg fun h => h1 h.1).symm, fun _ => rfl, rfl⟩
  · by_cases h1 : kind = 1
    · simp only [if_neg h3, if_pos h1, hx]
      refine ⟨rfl, (if_neg h3).symm, (if_neg h3).symm, fun a => ?_, fun _ => rfl, rfl⟩
      simp only [h1, true_and]
      exact hrx a
    · simp only [if_neg h3, if_neg h1]
      refine ⟨rfl, (if_neg h3).symm, (if_neg h3).symm, fun a => (if_neg fun h => h1 h.1).symm, fun _ => rfl, rfl⟩

/-- The words of a block counted in its stream's segment (R262). -/
def countWords (acts : Bool) (b : Block) (st : EStream) : EStream :=
  { st with seg := st.seg.map fun g => if acts && !hasSege b then g.count' b.counted else g }
theorem countWords_none {st : EStream} (h : st.seg = none) (acts : Bool) (b : Block) : countWords acts b st = st := by
  rw [countWords, h, Option.map_none, ← h]

/-- R129: such a block commits by its exit alone. -/
theorem commitNow_noEffs (he : b.effs = []) (kind : BitVec 2) (disp : BitVec 14) :
    let acts := !s.my.suspends s.cur.eng
    let u := (s.modMe (countWords acts b)).modMe (takeExit acts s.me.loop.run false b kind disp)
    commitNow s s.cur b kind disp = if !u.me.live && !u.me.deferred.isEmpty then kill u s.my.cid 0x11 else u := by
  have hb : setBody b = id := by
    funext st
    simp [setBody, he]
  have hr : hasEret b = false := by simp [hasEret, he]
  simp only [commitNow, he, List.filter_nil, List.map_nil, commitEffs, hb, hr, Bool.false_eq_true, if_false]
  rfl

/-- It changes its own stream, by the exit, and no other register of the task. -/
theorem commitNow_plain (he : b.effs = []) (hs : s.me.seg = none) (hr : s.me.loop.run = false) (hd : s.me.deferred = [])
    (kind : BitVec 2) (disp : BitVec 14) :
    let u := commitNow s s.cur b kind disp
    LeftBy b kind disp s.me u.me ∧ u.mem = s.mem ∧ u.my.c = s.my.c ∧ u.my.v = s.my.v := by
  have hu := commitNow_noEffs (s := s) he kind disp
  rw [hr] at hu
  generalize (!s.my.suspends s.cur.eng) = acts at hu
  have left : LeftBy b kind disp s.me ((s.modMe (countWords acts b)).modMe (takeExit acts false false b kind disp)).me := by
    rw [me_modMe, me_modMe, countWords_none hs]
    exact leftBy_takeExit acts b kind disp s.me
  simp only [left.deferred, hd, List.isEmpty_nil, Bool.not_true, Bool.and_false, Bool.false_eq_true, if_false] at hu
  rw [hu]
  refine ⟨left, rfl, ?_, ?_⟩
  · rw [my_modMe, my_modMe]; rfl
  · rw [my_modMe, my_modMe]; rfl

theorem blockCommits : Rule.BlockCommits := by
  intro s b e hb hw he h1 hs hr hd hl hq hp ha
  have hb : s.me.blk = some b := hb
  have ht : exitTrap s.my s.cur.eng b = none := exitTrap_none h1 hs ha
  have hc := commitBlock_one ⟨hb, hw, hl, hp⟩ ht h1 (commitHold_none he hq)
  obtain ⟨left, hmem, hcsr, hv⟩ := commitNow_plain he hs hr hd e.2.1 e.2.2.1
  have hlog : logRoom s s.cur.core [] = true := rfl
  have hcap : ∀ u, captureBody b u = u := fun u => by simp [captureBody, he]
  refine ⟨commitNow s s.cur b e.2.1 e.2.2.1, ?_, left.blk, left.pc, left.live, left.x, left.p, hmem, hcsr, hv⟩
  rw [exec_blockCommit]
  simp only [execBlockCommit, hb, ht, hlog, hc, left.blk, hcap, he, Option.isNone_none, Bool.not_true, Bool.and_false,
    Bool.false_eq_true, if_false, Bool.and_self, if_true, List.contains_nil]

/-- Settles O17: an exit is noted as it issues; at the commit the exits that are true decide. -/
theorem exitsAndCommit : Obligations.ExitsAndCommit := ⟨exitResults, blockCommits, exitErrors⟩

end Sys2Proof.Machine
end

section
/-! SUPPORT. A discarded block: what it took goes back, one by one, and its task is as before it (R130, R334, R371). -/

namespace Sys2Proof.Machine

open Sys2Proof

/-! ## One thing given back -/

/-- What no giving back changes: who the task is, its vector registers, and its control registers but for DOM. -/
structure BarDom (t u : Task) : Prop where
  tid : u.tid = t.tid
  v : u.v = t.v
  c : t.c = { u.c with dom := t.c.dom }

theorem BarDom.refl (t : Task) : BarDom t t := ⟨rfl, rfl, rfl⟩
theorem BarDom.trans {t u w : Task} (h : BarDom t u) (k : BarDom u w) : BarDom t w :=
  ⟨k.tid.trans h.tid, k.v.trans h.v, by rw [h.c, k.c]⟩

theorem giveBack_token (t : Task) (k : Nat) :
    giveBack t (.token k) = { t with tk := if h : k < 8 then t.tk.set k (t.tk[k] + 1) else t.tk } := by
  by_cases h : k < 8 <;> simp [giveBack, h]
theorem giveBack_event (t : Task) (e n : Nat) :
    giveBack t (.event e n) = { t with e := if h : e < 16 then t.e.set e (t.e[e] + n) else t.e } := by
  by_cases h : e < 16 <;> simp [giveBack, h]
theorem giveBack_queue (t : Task) (q : Nat) (v : W64) :
    giveBack t (.queue q v) = { t with q := if h : q < 8 then t.q.set q (v :: t.q[q]) else t.q } := by
  by_cases h : q < 8 <;> simp [giveBack, h]
theorem giveBack_dsync (t : Task) (p : Phase) (me : Nat) : giveBack t (.dsync p me) = { t with
    c := { t.c with dom := if p.lvl ≥ 2 then t.c.dom ^^^ ((1 : W64) <<< (38 + p.lvl)) else t.c.dom } } := by
  by_cases h : p.lvl ≥ 2 <;> simp [giveBack, Task.flipPh, h]

theorem barDom_giveBack (t : Task) (k : Taken) : BarDom t (giveBack t k) := by
  cases k with
  | token k => rw [giveBack_token]; exact ⟨rfl, rfl, rfl⟩
  | event e n => rw [giveBack_event]; exact ⟨rfl, rfl, rfl⟩
  | queue q v => rw [giveBack_queue]; exact ⟨rfl, rfl, rfl⟩
  | dsync p me => rw [giveBack_dsync]; exact ⟨rfl, rfl, rfl⟩
  | evwait | rel | passed => exact ⟨rfl, rfl, rfl⟩
/-- Only a dsync that has passed gives back a phase of DOM. -/
theorem giveBack_c (t : Task) {k : Taken} (h : ∀ p me, k ≠ .dsync p me) : (giveBack t k).c = t.c := by
  cases k with
  | token k => rw [giveBack_token]
  | event e n => rw [giveBack_event]
  | queue q v => rw [giveBack_queue]
  | dsync p me => exact absurd rfl (h p me)
  | evwait | rel | passed => rfl

/-- What a taken thing holds for one token counter, one queue and one event counter. -/
def Taken.tokens (j : Nat) (k : Taken) : Nat := if k == .token j then 1 else 0
def Taken.value (j : Nat) : Taken → Option W64
  | .queue q v => if q = j then some v else none
  | _ => none
def Taken.events (j : Nat) : Taken → Nat
  | .event e n => if e = j then n else 0
  | _ => 0

theorem giveBack_tk (t : Task) (k : Taken) {j : Nat} (hj : j < 8) : (giveBack t k).tk[j] = t.tk[j] + k.tokens j := by
  cases k with
  | token k =>
    simp only [giveBack_token, Taken.tokens]
    by_cases hkj : k = j
    · subst hkj; simp [hj]
    · by_cases hk : k < 8 <;> simp [hk, hkj]
  | event e n => simp only [giveBack_event]; rfl
  | queue q v => simp only [giveBack_queue]; rfl
  | dsync p me => simp only [giveBack_dsync]; rfl
  | evwait | rel | passed => rfl
theorem giveBack_q (t : Task) (k : Taken) {j : Nat} (hj : j < 8) : (giveBack t k).q[j] = (k.value j).toList ++ t.q[j] := by
  cases k with
  | queue q v =>
    simp only [giveBack_queue, Taken.value]
    by_cases hqj : q = j
    · subst hqj; simp [hj]
    · by_cases hq : q < 8 <;> simp [hq, hqj]
  | token k => simp only [giveBack_token]; rfl
  | event e n => simp only [giveBack_event]; rfl
  | dsync p me => simp only [giveBack_dsync]; rfl
  | evwait | rel | passed => rfl
theorem giveBack_e (t : Task) (k : Taken) {j : Nat} (hj : j < 16) : (giveBack t k).e[j] = t.e[j] + k.events j := by
  cases k with
  | event e n =>
    simp only [giveBack_event, Taken.events]
    by_cases hej : e = j
    · subst hej; simp [hj]
    · by_cases he : e < 16 <;> simp [he, hej]
  | token k => simp only [giveBack_token]; rfl
  | queue q v => simp only [giveBack_queue]; rfl
  | dsync p me => simp only [giveBack_dsync]; rfl
  | evwait | rel | passed => rfl

/-! ## All that a block took, the last first -/

def giveBacks (t : Task) (ks : List Taken) : Task := ks.reverse.foldl giveBack t
theorem giveBacks_cons (t : Task) (k : Taken) (ks : List Taken) : giveBacks t (k :: ks) = giveBack (giveBacks t ks) k := by
  simp [giveBacks]

theorem barDom_giveBacks (t : Task) (ks : List Taken) : BarDom t (giveBacks t ks) :=
  List.foldlRecOn ks.reverse giveBack (.refl t) fun u hu k _ => hu.trans (barDom_giveBack u k)
theorem giveBacks_c (t : Task) {ks : List Taken} (h : ∀ p me, Taken.dsync p me ∉ ks) : (giveBacks t ks).c = t.c :=
  List.foldlRecOn (motive := fun u => u.c = t.c) ks.reverse giveBack rfl fun u hu _ hk =>
    (giveBack_c u fun p me hd => h p me (List.mem_reverse.mp (hd ▸ hk))).trans hu
theorem giveBacks_tk (t : Task) (ks : List Taken) {j : Nat} (hj : j < 8) : (giveBacks t ks).tk[j] = t.tk[j] + ks.count (.token j) := by
  induction ks with
  | nil => rfl
  | cons k ks ih =>
    simp only [giveBacks_cons, giveBack_tk _ _ hj, ih, List.count_cons, Taken.tokens]
    omega
theorem giveBacks_q (t : Task) (ks : List Taken) {j : Nat} (hj : j < 8) :
    (giveBacks t ks).q[j] = ks.filterMap (Taken.value j) ++ t.q[j] := by
  induction ks with
  | nil => rfl
  | cons k ks ih =>
    simp only [giveBacks_cons, giveBack_q _ _ hj, ih, List.filterMap_cons]
    cases k.value j <;> rfl
theorem giveBacks_e (t : Task) (ks : List Taken) {j : Nat} (hj : j < 16) :
    (giveBacks t ks).e[j] = t.e[j] + (ks.map (Taken.events j)).sum := by
  induction ks with
  | nil => rfl
  | cons k ks ih =>
    simp only [giveBacks_cons, giveBack_e _ _ hj, ih, List.map_cons, List.sum_cons]
    omega

/-! ## The discard -/

/-- The task after the discard of one of its blocks. -/
def discarded (t : Task) (e : Eng) (b : Block) : Task :=
  let u := giveBacks t b.taken
  { u with v := if e == Eng.v then b.v0 else u.v }.modStm e fun st => { st with
    x := b.x0, p := b.p0, mon := if st.hold = Hold.monitor then none else b.mon0, blk := none, hold := .none, fwait := none, pc := b.hdr }

variable {s : State} {r : Ref} {b : Block}

theorem task_discard (h : (s.stm r).blk = some b) : (discard s r).task r.core r.slot = discarded (s.task r.core r.slot) r.eng b := by
  unfold discard
  rw [h]
  exact task_setTask _ _ _ _
theorem discard_mem (h : (s.stm r).blk = some b) : (discard s r).mem = s.mem := by
  by_cases hl : (s.stm r).hold = .lease
  · simp only [discard, h, hl, if_true]
    exact modShell_mem ..
  · simp only [discard, h, hl, if_false]
    rfl
theorem discard_paths (h : (s.stm r).blk = some b) :
    (discard s r).paths = s.paths.filter fun e => !(e.tid == (s.task r.core r.slot).tid && e.r.eng == r.eng && e.inBlock) := by
  have htid : (discarded (s.task r.core r.slot) r.eng b).tid = (s.task r.core r.slot).tid := (barDom_giveBacks _ _).tid
  rw [← htid]
  by_cases hl : (s.stm r).hold = .lease
  · simp only [discard, h, hl, if_true, setTask_paths, modShell_paths]
    rfl
  · simp only [discard, h, hl, if_false, setTask_paths]
    rfl

/-- Settles O19: the task with all given back, its stream as the block found it. -/
theorem discardRestores : Obligations.DiscardRestores := by
  intro s r b hb t t0 t1
  have ht1 : t1 = discarded t0 r.eng b := task_discard hb
  have hst : t.stm r = (discarded t0 r.eng b).stm r.eng := congrArg (fun u : Task => u.stm r.eng) ht1
  have hbar := barDom_giveBacks t0 b.taken
  refine ⟨?_, ?_, ?_, ?_, ?_, discard_mem hb, ?_, fun hd => ?_, fun k hk => ⟨?_, ?_⟩, fun k hk => ?_, ?_, fun e he => ?_⟩
  · rw [hst, discarded, stm_modStm]
  · rw [hst, discarded, stm_modStm]
  · rw [hst, discarded, stm_modStm]
  · rw [hst, discarded, stm_modStm]
  · rw [ht1]
    show (if r.eng == Eng.v then b.v0 else (giveBacks t0 b.taken).v) = _
    rw [hbar.v]
    cases r.eng <;> rfl
  · rw [ht1]
    exact hbar.c
  · rw [ht1]
    exact giveBacks_c t0 hd
  · simp only [ht1]
    exact giveBacks_tk t0 b.taken hk
  · simp only [ht1]
    refine (giveBacks_q t0 b.taken hk).trans (congrArg (· ++ t0.q[k]) ?_)
    exact List.filterMap_congr fun x _ => by cases x <;> rfl
  · simp only [ht1]
    refine (giveBacks_e t0 b.taken hk).trans (congrArg (fun l : List Nat => t0.e[k] + l.sum) ?_)
    exact List.map_congr_left fun x _ => by cases x <;> rfl
  · unfold discardBlock
    rw [hb]
    rfl
  · rw [discard_paths hb] at he
    obtain ⟨hm, hf⟩ := List.mem_filter.mp he
    refine ⟨hm, fun ⟨h1, h2, h3⟩ => ?_⟩
    simp [h1, h2, h3, t0] at hf

end Sys2Proof.Machine
end

section
/-! SUPPORT. Signals when they are performed: what arrives at a task that stands in its slot (R131, R136, R195, R371). -/

namespace Sys2Proof.Machine

open Sys2Proof

/-- A resident task's own update is one of its slot; of the update only its value at that task counts. -/
theorem modOwn_resident {s : State} {r : Ref} {tid : Nat} {f g : Task → Task} (h : (s.task r.core r.slot).tid = tid)
    (hfg : f (s.task r.core r.slot) = g (s.task r.core r.slot)) : s.modOwn r tid f = s.modTask r.core r.slot g := by
  rw [State.modOwn, if_pos h, State.modTask, State.modTask, hfg]

/-- Settles O24: the entry's turn has come, it leaves, and its own kind of signal is added to the task. -/
theorem signalPerformed : Obligations.SignalPerformed := by
  intro s uid e hf he ht t0 done
  have hp : exec (.memPerform uid) s = performEntry s e := memPerform_eligible hf he
  rw [hp]
  refine ⟨fun k hk ha => ?_, fun ev n hev ha => ?_, fun q v hq ha => ?_⟩
  · simp only [performEntry, doSync, ha]
    exact congrArg _ (modOwn_resident ht (dif_pos hk))
  · simp only [performEntry, doSync, ha]
    exact congrArg _ (modOwn_resident ht (dif_pos hev))
  · simp only [performEntry, doSync, ha]
    exact congrArg _ (modOwn_resident ht (dif_pos hq))

end Sys2Proof.Machine
end

section
/-! SUPPORT. The commands at the head of their queues: the fetch of a B load's bytes through a handle (R200, R202, R396, R398). -/

namespace Sys2Proof.Machine

/-- A B load whose operand is a piece fetched through handle 0. -/
def handleLoad : Cmd := newCmd State.reset (.mldb .f32 0 0)
/-- It stands alone in the queue of stream A of core 0, handle 0 is FREE, and its first read is out. -/
def handleLoadReads : State :=
  let s := State.reset.modSt ⟨0, 0, .a⟩ fun st => { st with cq := [handleLoad] }
  { s with paths := [mkEntry s 0 .weak .core .c 0 0 8 (.cread 0 0)] }

theorem handleLoad_reads : cmdReads handleLoadReads handleLoad.id = true := by decide +kernel
theorem handleLoadReads_queue : (handleLoadReads.stm ⟨0, 0, .a⟩).cq = [handleLoad] := by decide +kernel
theorem handleLoadReads_soft : handleLoadReads.soft = [] := rfl
theorem handleLoad_not_stopped :
    cmdStopped (handleLoadReads.task 0 0) [handleLoad] handleLoad (handleLoad.phase * 2 ^ 15) = false := by decide +kernel
theorem handleLoad_viaHandle : handleLoad.viaHandle = true := by decide +kernel
theorem handleLoad_not_behind : readAhead handleLoadReads ⟨0, 0, .a⟩ handleLoad = false := by simp [readAhead]
theorem handleLoad_handle_free : (handleLoadReads.task 0 0).hst (sHdl handleLoad.s1) = 0 := by decide +kernel
theorem handleLoad_handle_taken :
    (((handleLoadReads.setTask 0 0 ((handleLoadReads.task 0 0).setHState (sHdl handleLoad.s1) 1)).modCmd ⟨0, 0, .a⟩ handleLoad.id
      fun k => { k with prod := some (sHdl handleLoad.s1) }).task 0 0).hst 0 ≠ (handleLoadReads.task 0 0).hst 0 := by decide +kernel

/-- Refutes O52: two clauses of Rule.CommandResults contradict each other on a B load whose operand is fetched through a handle. With its
reads out it does nothing, says the last; but its first step takes the handle, FREE to FILLING, as the third says (R200, R202, R396), and
only then can its reads move. -/
theorem not_commandsAndHandles : ¬ Obligations.CommandsAndHandles := by
  rintro ⟨hc, -, -⟩
  obtain ⟨-, -, htakes, -, hwaits⟩ := hc.1 handleLoadReads ⟨0, 0, .a⟩ handleLoad [] handleLoadReads_queue handleLoadReads_soft
  have ht := htakes handleLoad_viaHandle rfl rfl (by decide) handleLoad_handle_free handleLoad_not_stopped handleLoad_not_behind
  have hw := hwaits handleLoad_reads rfl fun fn ty a b n h => nomatch h
  have hs := Host.Outcome.next.inj (ht.symm.trans hw)
  exact handleLoad_handle_taken (congrArg (fun s : State => (s.task 0 0).hst 0) hs)

end Sys2Proof.Machine
end

section
/-! SUPPORT. The fetch of a block: where the words it answers end (R122, R126, R289). -/

namespace Sys2Proof.Machine

/-- A word of the running body or of the instruction buffer is fetched as it stands there (R122, R145). -/
theorem fetchWord_seen {s : State} {a : Nat} {w : W32} (hs : s.soft = [])
    (hw : ((bodyWord s.me a).orElse fun _ => bufWord s.me a) = some w) : fetchWord s a = .ok w s := by
  simp only [fetchWord, cacheRead, hs, List.filter_nil, List.isEmpty_nil, if_true, Bool.false_eq_true, if_false, hw]

theorem wordAddr_one (pc : W64) : wordAddr pc 1 = (pc + 4).toNat := rfl

/-- A block whose second word is no encoding ends before that word: the words fetched are the header's alone. -/
theorem fetchBlock_badWord {s : State} {h w : W32} {i : Instr} (hs : s.soft = []) (hu : s.my.unread = false)
    (h0 : ((bodyWord s.me s.me.pc.toNat).orElse fun _ => bufWord s.me s.me.pc.toNat) = some h)
    (h1 : ((bodyWord s.me (s.me.pc + 4).toNat).orElse fun _ => bufWord s.me (s.me.pc + 4).toNat) = some w)
    (hh : isHeader h = true) (hd : decode [h] = .ok (i, [])) (hw1 : wordsOf w = 1) (hw : ∀ i rest, decode [w] ≠ .ok (i, rest)) :
    fetchBlock s = .block [h] (some (w.zeroExtend 64)) s := by
  have hbad : ∀ eng b, wordOk eng b [w] = false := by
    intro eng b
    unfold wordOk
    split
    next i r he => exact absurd he (hw i r)
    next => rfl
  have hev : illopEval [w] = w.zeroExtend 64 := by
    simp only [illopEval, hw1, OfNat.one_ne_ofNat, if_false]
    exact (BitVec.setWidth_eq_append (by omega)).symm
  simp only [fetchBlock, hu, Bool.false_eq_true, if_false, fetchWord_seen hs h0, hh, Bool.not_true, hd, fetchBody, wordAddr_one,
    fetchWord_seen hs h1, hw1, OfNat.one_ne_ofNat, hbad, hev]

/-- A header of one instruction and one exit, a word that is no encoding, and an exit, all in the instruction buffer of stream A. -/
def badBody : State := State.reset.modMe fun st => { st with ibuf := [(0, 0x00210000), (4, 0x07E00000), (8, 0x005FC000)] }

theorem badBody_header : decode [0x00210000] = .ok (.blockHeader (syncOf 0x00210000) 1 0 ((0x00210000 : W32).getLsbD 13), []) := rfl
theorem badBody_read : badBody.my.unread = false := by decide +kernel
/-- What a fetch of the stream finds without going to memory. -/
def badBodySeen (a : Nat) : Option W32 := (bodyWord badBody.me a).orElse fun _ => bufWord badBody.me a
theorem badBody_at0 : badBodySeen badBody.me.pc.toNat = some 0x00210000 := by decide +kernel
theorem badBody_at4 : badBodySeen (badBody.me.pc + 4).toNat = some 0x07E00000 := by decide +kernel
theorem badBody_at8 : badBodySeen (badBody.me.pc + 8).toNat = some 0x005FC000 := by decide +kernel
theorem badBody_word (i : Instr) (rest : List W32) : decode [0x07E00000] ≠ .ok (i, rest) := nofun

/-- Refutes O58: Rule.FetchReadsBlock says that a block is fetched up to and with its bad word; the model's fetch answers the words before
it, and the bad word in EVAL only. -/
theorem not_stepRunsDecodedInstruction : ¬ Obligations.StepRunsDecodedInstruction := by
  rintro ⟨-, hf, -⟩
  obtain ⟨-, -, hbad⟩ := hf badBody 0x00210000 0x07E00000 0x005FC000 rfl badBody_read badBody_at0 badBody_at4
    badBody_at8
  have hfetch := fetchBlock_badWord rfl badBody_read badBody_at0 badBody_at4 rfl badBody_header rfl badBody_word
  have h := (hbad badBody_header rfl badBody_word).symm.trans hfetch
  simp at h

end Sys2Proof.Machine
end

section
/-! SUPPORT. A load that is performed: the bytes its home gives, and what their delivery to an x register leaves (R183, R350). -/

namespace Sys2Proof.Machine

open Sys2Proof

/-! ## A load delivered to an x register -/

theorem RegsKept.rx {s t : State} (h : RegsKept s t) (r : Ref) (a : R5) : (t.stm r).rx a = (s.stm r).rx a :=
  congrArg (fun x : Vector W64 32 => if a = 0 then 0 else x.get a.toFin) ((h r.core r.slot).x r.eng)
theorem RegsKept.p {s t : State} (h : RegsKept s t) (r : Ref) : (t.stm r).p = (s.stm r).p := (h r.core r.slot).p r.eng
@[simp] theorem stm_modSt (s : State) (r : Ref) (f : EStream → EStream) : (s.modSt r f).stm r = f (s.stm r) := by
  simp [State.stm, State.modSt]
@[simp] theorem p_setX_stream (st : EStream) (d : R5) (v : W64) : (st.setX d v).p = st.p := by
  unfold EStream.setX
  split <;> rfl

section
variable (s : State) (e : Entry) (d : R5) (w : BitVec 3) (bs : List Byte) (ex : Bool)

theorem deliver_x_rx (a : R5) : ((deliver s e (.x d w) bs ex).stm e.r).rx a = if a = d ∧ d ≠ 0 then extendLoad w bs else (s.stm e.r).rx a :=
  (congrArg (·.rx a) (stm_modSt (s.dropEntry e) e.r _)).trans (rx_setX _ d a _)
theorem deliver_x_p : ((deliver s e (.x d w) bs ex).stm e.r).p = (s.stm e.r).p :=
  (congrArg (·.p) (stm_modSt (s.dropEntry e) e.r _)).trans (p_setX_stream _ d _)
theorem deliver_x_mem : (deliver s e (.x d w) bs ex).mem = s.mem := rfl
theorem uid_ne_of_mem_deliver_x : ∀ f ∈ (deliver s e (.x d w) bs ex).paths, f.uid ≠ e.uid := uid_ne_of_mem_dropEntry s e
end

/-! ## At its home -/

theorem read_congr {s t : State} (h : t.mem = s.mem) (k n : Nat) : t.read k n = s.read k n := congrArg (readKeys · k n) h

section
variable {s : State} {e : Entry}

theorem memPerform_load {uid : Nat} {dst : LoadDst} (hf : entryOf s uid = some e) (he : eligible s e = true) (ha : e.acc = .load dst) :
    exec (.memPerform uid) s = doLoad s e dst := by
  simp [memPerform_eligible hf he, performEntry, ha]
/-- A window of its own core is reached without a link, and is no part that a new owner finds at zero. -/
theorem atBank_window (hw : e.sp = .c ∨ e.sp = .l) : atBank s e = s := by
  rcases hw with h | h <;> simp [atBank, claimPart, h]
theorem isGlobal_window (hw : e.sp = .c ∨ e.sp = .l) : e.isGlobal = false := by
  rcases hw with h | h <;> simp [Entry.isGlobal, h]

/-- A load of a window of its own core, its words corrected first. -/
theorem doLoad_window (hw : e.sp = .c ∨ e.sp = .l) (dst : LoadDst)
    (hp : homePoison (eccRead s (e.windowKey s) e.n) (e.windowKey s) e.n = false) : doLoad s e dst =
      .next (deliver (ordered (eccRead s (e.windowKey s) e.n) e) e dst (patch (s.read (e.windowKey s) e.n) e.ovl) true) := by
  have hk : localKey s e.r e.sp e.lane e.addr = e.windowKey s := rfl
  have hr : (eccRead s (e.windowKey s) e.n).read (e.windowKey s) e.n = s.read (e.windowKey s) e.n :=
    read_congr (homeOnly_eccRead s _ _).mem _ _
  simp only [doLoad, isGlobal_window hw, Bool.not_false, if_true, atBank_window hw, hk, hp, Bool.false_eq_true, if_false, hr]
theorem doLoad_global {u : State} {bs : List Byte} {ex : Bool} {d : R5} {w : BitVec 3} (hg : e.sp = .g)
    (hr : gRead e.who e.addr e.n .rd s = .ok (bs, ex, false) u) :
    doLoad s e (.x d w) = .next (deliver (ordered u e) e (.x d w) (patch bs e.ovl) ex) := by
  simp [doLoad, Entry.isGlobal, hg, hr]
end

theorem localLoadPerformed : Rule.LocalLoadPerformed := by
  intro s uid e d w hf he ha hw k hp
  have hregs : RegsKept s (ordered (eccRead s (e.windowKey s) e.n) e) := (regsKept_eccRead s _ _).trans (regsKept_ordered _ e)
  have hmem : (ordered (eccRead s (e.windowKey s) e.n) e).mem = s.mem := (tasksOnly_ordered _ e).mem.trans (homeOnly_eccRead s _ _).mem
  refine ⟨_, (memPerform_load hf he ha).trans (doLoad_window hw _ hp), fun a => ?_, ?_, uid_ne_of_mem_deliver_x _ e d w _ _, hmem⟩
  · rw [deliver_x_rx, hregs.rx]
    rfl
  · rw [deliver_x_p, hregs.p]

theorem globalLoadPerformed : Rule.GlobalLoadPerformed := by
  intro s u uid e d w bs ex hf he ha hg hr
  refine ⟨_, (memPerform_load hf he ha).trans (doLoad_global hg hr), fun a => ?_, uid_ne_of_mem_deliver_x _ e d w _ _,
    (tasksOnly_ordered u e).mem⟩
  rw [deliver_x_rx, (regsKept_ordered u e).rx]

/-- Settles O21: a load by its home, delivered to its register. -/
theorem loadsPerformed : Obligations.LoadsPerformed := ⟨localLoadPerformed, globalLoadPerformed⟩

end Sys2Proof.Machine
end

section
/-! SUPPORT. Loads, stores, atomics, fences and existence instructions at issue: the address they form, the access they enter, and what an
issue leaves of the registers (R192, R349 to R352, R354 to R356). -/

namespace Sys2Proof.Machine

open Sys2Proof

/-! ## The address (R349) -/

section
variable {s : State} {sp : Space} {base off : W64} {n : Nat}

theorem formAddr_passes (hc : checkAddr s s.cur s.my.cid sp (base + off).toNat n false = none) (ha : (base + off).toNat % n = 0) :
    formAddr s sp base off n = .ok (base + off).toNat := by
  simp only [formAddr, hc]
  exact if_neg (not_not.mpr ha)
theorem formAddr_unaligned (hc : checkAddr s s.cur s.my.cid sp (base + off).toNat n false = none) (ha : (base + off).toNat % n ≠ 0) :
    formAddr s sp base off n = .error (cALIGN, base + off) := by
  simp only [formAddr, hc]
  exact if_pos ha
theorem formAddr_fails {x : Nat × W64} (hc : checkAddr s s.cur s.my.cid sp (base + off).toNat n false = some x) :
    formAddr s sp base off n = .error x := by
  simp only [formAddr, hc]
/-- At TL0, and in a local space, no store is translated before its commit. -/
theorem syncMiss_none (h : s.my.c.tl = 0 ∨ sp ≠ .g) (a n : Nat) (want : Want) : syncMiss s sp a n want = none :=
  if_pos (by simpa using h)
end

/-- An EXIST instruction reaches single bytes, which are all aligned. -/
theorem existAddr_passes {s : State} {a : R5} {off : BitVec 14}
    (hc : checkAddr s s.cur s.my.cid .g (s.x a + off.signExtend 64).toNat 1 false = none) :
    existAddr s a off = .ok (s.x a + off.signExtend 64).toNat := formAddr_passes hc (Nat.mod_one _)

/-! ## Loads, stores and atomics (R350 to R352) -/

theorem loadIssues : Rule.LoadIssues := by
  intro s g sp w o sc d a off h ad chk
  rw [exec_ld]
  refine ⟨fun hc ha => issue64_go h ?_, fun hc ha => issue64_trap h ?_, fun c v hc => issue64_trap h ?_⟩
  · simp only [formAddr_passes hc ha, beq_iff_eq]
    rfl
  · simp only [formAddr_unaligned hc ha]
    rfl
  · simp only [formAddr_fails hc]

/-- An atomic of any operation, by the registers that its operation reads. -/
theorem amo_issues {s : State} {g : Guard} {op : AmoOp} {w64 : Bool} {sp : Space} {o : Order} {sc : Scope} {d a b : R5} {off : BitVec 11}
    (h : Issues64 s g ⟨[d, a, b], [], [], if op = .cas then [d, a, b] else [a, b]⟩)
    (hc : checkAddr s s.cur s.my.cid sp (s.x a + off.signExtend 64).toNat (if w64 then 8 else 4) false = none)
    (ha : (s.x a + off.signExtend 64).toNat % (if w64 then 8 else 4) = 0) (htl : s.my.c.tl = 0 ∨ sp ≠ .g ∨ d ≠ 0) :
    amo op g w64 sp o sc d a b off s = .next ((s.addEff (.entry (mkEntry s 1 o sc sp 0 (s.x a + off.signExtend 64).toNat
      (if w64 then 8 else 4) (.amo op w64 (s.x b) (s.x d) d)))).issued g.sync) := by
  have hm (n : Nat) : (if d = 0 then syncMiss s sp n (if w64 then 8 else 4) .rw else none) = none := by
    split
    · next hd => exact syncMiss_none (by simpa [hd] using htl) _ _ _
    · rfl
  refine issue64_go h ?_
  simp only [formAddr_passes hc ha, hm]

theorem storeIssues : Rule.StoreIssues := by
  refine ⟨fun s g sp w o sc a b off h => ?_, fun s g w64 sp o sc d a b off => ?_⟩
  · intro ad hc ha htl
    rw [exec_st]
    refine issue64_go h ?_
    simp only [formAddr_passes hc ha, syncMiss_none htl, beq_iff_eq]
    rfl
  · intro n ad hc ha htl out
    rw [exec_amoAdd, exec_amoAnd, exec_amoOr, exec_amoXor, exec_amoMinS, exec_amoMinN, exec_amoMaxS, exec_amoMaxN, exec_amoSwap, exec_amoCas]
    exact ⟨fun h => ⟨amo_issues h hc ha htl, amo_issues h hc ha htl, amo_issues h hc ha htl, amo_issues h hc ha htl, amo_issues h hc ha htl,
      amo_issues h hc ha htl, amo_issues h hc ha htl, amo_issues h hc ha htl, amo_issues h hc ha htl⟩, fun h => amo_issues h hc ha htl⟩

/-! ## Fences (R192, R354, R355) -/

theorem unprivileged_eq {s : State} {b : Bool} (h : ctxMgmt s (dieOf s.cur.core) s.my.cid = b) : unprivileged s = !b := congrArg (! ·) h

theorem fenceResults : Rule.FenceResults := by
  refine ⟨fun s g sc src dst h => ?_, fun s g a b all h => ?_⟩
  · rw [exec_fence, exec_xfence, exec_ptfence]
    refine ⟨issue64_go h rfl, issue64_go h rfl, fun hp hs => issue64_go h ?_, fun hp hs => issue64_hold h ?_, fun hp => issue64_trap h ?_⟩
    · simp [unprivileged_eq hp, hs]
    · simp [unprivileged_eq hp, hs]
    · simp [unprivileged_eq hp, cPRIV]
  · intro die
    rw [exec_tlbinv]
    have hdie : bits (s.x a).toNat 45 3 = die := bits_toNat ..
    refine ⟨fun hp hd => issue64_go h ?_, fun hp hd => issue64_trap h ?_, fun hp => issue64_trap h ?_⟩
    · simp only [unprivileged_eq hp, hdie, gt_iff_lt, Nat.not_lt.mpr hd, Bool.not_true, Bool.false_eq_true, if_false, bits_toNat]
    · simp only [unprivileged_eq hp, hdie, gt_iff_lt, hd, Bool.not_true, Bool.false_eq_true, if_false, if_true, cPROT]
    · simp [unprivileged_eq hp, cPRIV]

/-! ## Existence instructions (R356) -/

theorem existenceIssues : Rule.ExistenceIssues := by
  intro s g d a c off ad
  rw [exec_ldx, exec_erase, exec_extest, exec_exmap]
  refine ⟨fun h hc ha => issue64_go h ?_, fun hc => ⟨fun h => issue64_go h ?_, fun h => issue64_go h ?_, fun h => issue64_go h ?_⟩⟩
  · simp only [formAddr_passes hc ha]
    exact h.readPreds (by simp) (by simp) _
  · simp only [existAddr_passes hc]
    rfl
  · simp only [existAddr_passes hc]
    exact h.readPreds (by simp) (by simp) _
  · simp only [existAddr_passes hc]
    rfl

/-! ## The frame -/

/-- An access that enters a path, or stands for the commit, leaves the tasks; what follows in the issue leaves their registers. -/
theorem memoryIssueFrame : Rule.MemoryIssueFrame := by
  rintro s t f a ord sc sp path lane ad n dst e (rfl | rfl)
  · have h := kept_issued (s.load path ord sc sp lane ad n dst) f
    exact ⟨h.x a (by simp), h.p a (by simp), fun v => h.v v (by simp), h.c, h.acc, h.h, h.sregs, h.e, h.q, h.device.byte⟩
  · have h := (kept_addEff s (.entry e)).trans (kept_issued _ f)
    exact ⟨h.x a (by simp), h.p a (by simp), fun v => h.v v (by simp), h.c, h.acc, h.h, h.sregs, h.e, h.q, h.device.byte⟩

/-- Settles O20: each instruction by its address or its privilege, then the frame of an issue. -/
theorem memoryIssues : Obligations.MemoryIssues := ⟨loadIssues, storeIssues, fenceResults, existenceIssues, memoryIssueFrame⟩

end Sys2Proof.Machine
end

section
/-! SUPPORT. Atomics: the value that each operation forms, and an atomic on the scratchpad of its own core (R183, R197, R352). -/

namespace Sys2Proof.Machine

open Sys2Proof

/-! ## Values (R352) -/

/-- The outcome of an atomic at one width: the bytes of the new value where it is written, and the old value for x[d]. -/
def amoOut {w : Nat} (old : BitVec w) (r : BitVec w × Bool) : Option (List Byte) × W64 :=
  (if r.2 then some (toBytes (w / 8) r.1.toNat) else none, old.signExtend 64)

/-- An atomic of either width is its operation over the operands cut to that width. -/
theorem amoBytes_eq (op : AmoOp) (w64 : Bool) (bs : List Byte) (v e : W64) :
    let n := if w64 then 64 else 32
    let old : BitVec n := BitVec.ofNat n (leNat bs)
    amoBytes op w64 bs v e = amoOut old (amoNew op old (v.setWidth n) (e.setWidth n)) := by
  cases w64 with
  | true => simp [amoBytes, amoOut]
  | false =>
    have hx (x : W64) : x.extractLsb' 0 32 = x.setWidth 32 := rfl
    simp [amoBytes, amoOut, hx]

theorem atomicValues : Rule.AtomicValues := by
  intro w64 bs v e n hlen old x out
  have h (op : AmoOp) : amoBytes op w64 bs v e = amoOut old (amoNew op old x (e.setWidth n)) := amoBytes_eq op w64 bs v e
  have hs (a b c d : BitVec n) : (if a.slt b then c else d) = if a.toInt < b.toInt then c else d := if_congr BitVec.slt_iff_toInt_lt rfl rfl
  have hu (a b c d : BitVec n) : (if a.ult b then c else d) = if a.toNat < b.toNat then c else d := if_congr BitVec.ult_iff_lt rfl rfl
  refine ⟨h .add, h .and, h .or, h .xor, ?_, ?_, ?_, ?_, h .swap, ?_⟩
  · rw [h, amoNew, hs]
    rfl
  · rw [h, amoNew, hu]
    rfl
  · rw [h, amoNew, hs]
    rfl
  · rw [h, amoNew, hu]
    rfl
  · rw [h, amoNew]
    split
    · rfl
    · rfl

/-! ## The task of a slot in steps of the memory system -/

theorem ResidentsKept.ite {s t u : State} {c : Prop} [Decidable c] (ht : ResidentsKept s t) (hu : ResidentsKept s u) :
    ResidentsKept s (if c then t else u) := by
  split
  · exact ht
  · exact hu
/-- An update of each task that keeps its number and record. -/
theorem ResidentsKept.of_map {s t : State} {f : Nat × Task → Nat × Task} (hk : ∀ e, (f e).1 = e.1) (hf : ∀ e, SameRecord e.2 (f e).2)
    (h : t.tasks = s.tasks.map f) : ResidentsKept s t := fun c i => by
  rw [State.task, State.task, h]
  rcases tget_map Task.empty f hk s.tasks (slotKey c i) with ⟨ht, hs⟩ | ht
  · rw [ht, hs]
    exact .refl _
  · rw [ht]
    exact hf (slotKey c i, tget Task.empty s.tasks (slotKey c i))
theorem residentsKept_poisonStaged (s : State) (tid piece : Nat) : ResidentsKept s (poisonStaged s tid piece) := by
  unfold poisonStaged
  extract_lets add
  refine .of_map (f := fun e => (e.1, add e.2)) (fun _ => rfl) (fun e => ?_) rfl
  dsimp only [add]
  split
  · exact ⟨rfl, rfl⟩
  · exact .refl _
theorem residentsKept_eccWord (s : State) (k : Nat) : ResidentsKept s (eccWord s k) := by
  unfold eccWord
  extract_lets w ks n clear _ _ piece s₁ _
  have h₁ : ResidentsKept s s₁ :=
    .ite (.refl s) (.ite ((ResidentsKept.of_tasks rfl).trans (residentsKept_poisonStaged (clear s) _ _)) (.of_tasks rfl))
  exact .ite (.refl s) (.ite (.of_tasks rfl) (h₁.trans (.of_tasks rfl)))
theorem residentsKept_eccRead (s : State) (k n : Nat) : ResidentsKept s (eccRead s k n) :=
  .ite (.refl s) (.foldl (fun s i => residentsKept_eccWord s (4 * i)) _ s)
theorem residentsKept_eccWrite (s : State) (k n : Nat) : ResidentsKept s (eccWrite s k n) := by
  unfold eccWrite
  refine .ite (.refl s) (ResidentsKept.trans ?_ (residentsKept_eccRead _ k n))
  exact .of_tasks rfl
theorem residentsKept_wroteAt (s : State) (key : Option Nat) (virt : Option (Nat × Nat)) (cnt : Nat) (only : Option Nat) :
    ResidentsKept s (wroteAt s key virt cnt only) := by
  unfold wroteAt
  split
  · refine .of_map (fun e => ?_) (fun e => ?_) rfl
    · dsimp only
      split <;> rfl
    · dsimp only
      split
      · exact ⟨rfl, rfl⟩
      · exact .refl _
  · exact .refl s
theorem residentsKept_mediaWrote (s : State) (k n : Nat) : ResidentsKept s (mediaWrote s k n) := by
  unfold mediaWrote
  extract_lets hit
  exact .ite (.of_tasks rfl) (.refl s)
/-- Above HBM no line of the L2 moves. -/
theorem residentsKept_plainWrite (s : State) (virt : Option (Nat × Nat)) {k : Nat} (bs : List Byte) (h : 4 * 2 ^ 40 ≤ k) :
    ResidentsKept s (plainWrite s virt k bs) := by
  have hecc : ResidentsKept s (homeAlloc s k bs.length) := by
    rw [homeAlloc, if_neg (Nat.not_lt.mpr h)]
    exact residentsKept_eccWrite s k _
  unfold plainWrite
  extract_lets s₁ s₂
  have h₂ : ResidentsKept s s₂ := hecc.trans (.of_tasks rfl)
  have h₃ : ResidentsKept s₂ (watch (wroteAt s₂ (some (k / 256)) virt (linesIn k bs.length).length none) (linesIn k bs.length)) :=
    (residentsKept_wroteAt s₂ _ virt _ none).trans (.of_tasks (watch_tasks ..))
  exact (h₂.trans h₃).trans (residentsKept_mediaWrote _ k _)

theorem residentsKept_dropViews (s : State) (core cid : Nat) (sc : Scope) : ResidentsKept s (s.dropViews core cid sc) := fun c i => by
  rcases task_trigLeave s.tasks core cid _ (slotKey c i) with h | h <;> rw [State.task, State.task, State.dropViews, h]
  · exact .refl _
  · exact ⟨rfl, rfl⟩
theorem residentsKept_markMiss (s : State) (e : Entry) : ResidentsKept s (markMiss s e) :=
  .ite (.ite (residentsKept_modTask s _ _ ⟨rfl, rfl⟩) (.of_tasks rfl)) (.refl s)
theorem residentsKept_ordered (s : State) (e : Entry) : ResidentsKept s (ordered s e) := by
  rcases ordered_eq s e with h | h <;> rw [h]
  · exact residentsKept_markMiss s e
  · exact (residentsKept_markMiss s e).trans (residentsKept_dropViews _ _ _ _)

/-! ## An atomic at its home -/

theorem harden_unstaged {w : Who} {s : State} (h : w.stager s = none) : w.harden s = s := by
  unfold Who.harden
  split
  · exact if_neg (by simp [h])
  · rfl
theorem rx_lateX (st : EStream) (d a : R5) (v : W64) : (st.lateX d v).rx a = if a = d ∧ d ≠ 0 then v else st.rx a := rx_setX st d a v
theorem modOwnSt_resident {s : State} {r : Ref} {tid : Nat} (h : (s.task r.core r.slot).tid = tid) (f : EStream → EStream) :
    s.modOwnSt r tid f = s.modSt r f := if_pos h

/-- What an atomic leaves of its home: the new value written where there is one. -/
def amoStored (s : State) (k : Nat) (new : Option (List Byte)) : State := new.elim s (plainWrite s none k)

section
variable (s : State) {k : Nat} (new : Option (List Byte))

theorem regsKept_amoStored (h : 4 * 2 ^ 40 ≤ k) : RegsKept s (amoStored s k new) := by
  cases new with
  | none => exact .refl s
  | some bs => exact regsKept_plainWrite s none bs h
theorem residentsKept_amoStored (h : 4 * 2 ^ 40 ≤ k) : ResidentsKept s (amoStored s k new) := by
  cases new with
  | none => exact .refl s
  | some bs => exact residentsKept_plainWrite s none bs h
end

/-- The home of an atomic as it stands after it: its words corrected, the new value written, and the effects of its order. -/
def amoHome (s : State) (e : Entry) (new : Option (List Byte)) : State :=
  ordered (amoStored (eccRead s (e.windowKey s) e.n) (e.windowKey s) new) e

section
variable {s : State} {e : Entry} (hc : e.sp = .c) (new : Option (List Byte))
include hc

theorem regsKept_amoHome : RegsKept s (amoHome s e new) :=
  ((regsKept_eccRead s _ _).trans (regsKept_amoStored _ new (localKey_above s e.lane e.addr (.inl hc)))).trans (regsKept_ordered _ e)
theorem residentsKept_amoHome : ResidentsKept s (amoHome s e new) :=
  ((residentsKept_eccRead s _ _).trans (residentsKept_amoStored _ new (localKey_above s e.lane e.addr (.inl hc)))).trans
    (residentsKept_ordered _ e)
end
theorem amoHome_mem_none (s : State) (e : Entry) : (amoHome s e none).mem = s.mem :=
  (tasksOnly_ordered _ e).mem.trans (homeOnly_eccRead s _ _).mem
theorem amoHome_mem_some (s : State) (e : Entry) (bs : List Byte) : (amoHome s e (some bs)).mem = (s.write (e.windowKey s) bs).mem :=
  (tasksOnly_ordered _ e).mem.trans (plainWrite_mem_of_mem (homeOnly_eccRead s _ _).mem ..)

section
variable {s : State} {e : Entry} {op : AmoOp} {w64 : Bool} {v ev : W64} {d : R5}

theorem memPerform_amo {uid : Nat} (hf : entryOf s uid = some e) (he : eligible s e = true) (ha : e.acc = .amo op w64 v ev d) :
    exec (.memPerform uid) s = doAmo s e op w64 v ev d := by
  simp [memPerform_eligible hf he, performEntry, ha]
/-- One of a saved task whose slot another context has taken is lost. -/
theorem doAmo_taken (hc : e.sp = .c) (ha : e.away s = true) (ht : SlotTaken s e) : doAmo s e op w64 v ev d = .next (s.dropEntry e) := by
  simp [doAmo, isGlobal_window (.inl hc), awayStore_taken ha hc ht]
theorem doAmo_bank (hc : e.sp = .c) (hb : ReachesBank s e) (hst : e.who.stager s = none)
    (hp : homePoison (eccRead s (e.windowKey s) e.n) (e.windowKey s) e.n = false) :
    doAmo s e op w64 v ev d =
      .next (((amoHome s e (amoBytes op w64 (s.read (e.windowKey s) e.n) v ev).1).dropEntry e).modOwnSt e.r e.tid fun st =>
        st.lateX d (amoBytes op w64 (s.read (e.windowKey s) e.n) v ev).2) := by
  have hk : localKey s e.r e.sp e.lane e.addr = e.windowKey s := rfl
  have hr : (eccRead s (e.windowKey s) e.n).read (e.windowKey s) e.n = s.read (e.windowKey s) e.n :=
    read_congr (homeOnly_eccRead s _ _).mem _ _
  simp only [doAmo, isGlobal_window (.inl hc), awayStore_bank hb, atBank_window (.inl hc), harden_unstaged hst, hk, hr, hp, Option.isSome_none,
    Bool.not_false, Bool.and_false, Bool.false_eq_true, if_false, if_true]
  cases (amoBytes op w64 (s.read (e.windowKey s) e.n) v ev).1 with
  | none => rfl
  | some bs => rfl
end

theorem atomicPerformed : Rule.AtomicPerformed := by
  intro s uid e op w64 v ev d hf he ha hc hst k old
  refine ⟨fun haway ht => ⟨_, (memPerform_amo hf he ha).trans (doAmo_taken hc haway ht), rfl, uid_ne_of_mem_dropEntry s e⟩,
    fun haway htid hp => ?_⟩
  have htid' (new : Option (List Byte)) : (((amoHome s e new).dropEntry e).task e.r.core e.r.slot).tid = e.tid :=
    (residentsKept_amoHome hc new e.r.core e.r.slot).tid.trans htid
  have hdo := (memPerform_amo hf he ha).trans (doAmo_bank hc (.inl haway) hst hp)
  rw [modOwnSt_resident (htid' _)] at hdo
  refine ⟨_, hdo, fun a => ?_, fun bs hbs => bytes_of_write ?_, fun hnone => ?_, uid_ne_of_mem_dropEntry _ e⟩
  · rw [stm_modSt, rx_lateX]
    exact if_congr Iff.rfl rfl ((regsKept_amoHome hc _).rx e.r a)
  · rw [show (amoBytes op w64 (s.read (e.windowKey s) e.n) v ev).1 = some bs from hbs]
    exact amoHome_mem_some s e bs
  · rw [show (amoBytes op w64 (s.read (e.windowKey s) e.n) v ev).1 = none from hnone]
    exact amoHome_mem_none s e

/-- Settles O23: the values by the operation, and an atomic at its home by whether its bank is still its task's. -/
theorem atomics : Obligations.Atomics := ⟨atomicValues, atomicPerformed⟩

end Sys2Proof.Machine
end

section
/-! SUPPORT. View caches: which copies stand after one leaves or enters, and the read of a copy (R183, R188, R255). -/

namespace Sys2Proof.Machine

open Sys2Proof

/-! ## Copies -/

/-- The test by which copies of a line leave. -/
theorem notOfLine_iff {v : View} {core cid line : Nat} : (!(v.core == core && v.cid == cid && v.line == line)) = true ↔
    ¬ (v.core = core ∧ v.cid = cid ∧ v.line = line) := by
  rw [Bool.not_eq_true', Bool.eq_false_iff]
  simp [and_assoc]

section
variable {s t : State} {core cid line : Nat}

theorem viewOf_eq_none : viewOf s core cid line = none ↔ ∀ v ∈ s.views, ¬ (v.core = core ∧ v.cid = cid ∧ v.line = line) := by
  simp [viewOf, List.find?_eq_none, and_assoc]
theorem viewOf_none_of_sublist (hs : ∀ v ∈ t.views, v ∈ s.views) (h : viewOf s core cid line = none) : viewOf t core cid line = none :=
  viewOf_eq_none.mpr fun v hv => viewOf_eq_none.mp h v (hs v hv)
/-- A copy that enters behind copies of other lines is found. -/
theorem viewOf_entered (h : viewOf s core cid line = none) (data : List Byte) :
    viewOf { s with views := s.views ++ [⟨core, cid, line, data⟩] } core cid line = some ⟨core, cid, line, data⟩ := by
  have h' : s.views.find? (fun v => v.core == core && v.cid == cid && v.line == line) = none := h
  simp [viewOf, List.find?_append, h']

variable (s core cid line)

theorem viewOf_dropView : viewOf (dropView s core cid line) core cid line = none := by
  unfold dropView
  split
  · exact viewOf_eq_none.mpr fun _ hv => notOfLine_iff.mp (List.mem_filter.mp hv).2
  · next h => simpa using h
theorem dropView_mem : (dropView s core cid line).mem = s.mem := by
  unfold dropView
  split <;> rfl
theorem dropView_paths : (dropView s core cid line).paths = s.paths := by
  unfold dropView
  split <;> rfl
theorem dropView_pkg : (dropView s core cid line).pkg = s.pkg := by
  unfold dropView
  split <;> rfl
theorem mem_views_of_dropView : ∀ v ∈ (dropView s core cid line).views, v ∈ s.views := by
  unfold dropView
  split
  · exact fun v hv => (List.mem_filter.mp hv).1
  · exact fun v hv => hv
theorem mem_views_dropView_of_ne {v : View} (hv : v ∈ s.views) (h : ¬ (v.core = core ∧ v.cid = cid ∧ v.line = line)) :
    v ∈ (dropView s core cid line).views := by
  unfold dropView
  split
  · exact List.mem_filter.mpr ⟨hv, notOfLine_iff.mpr h⟩
  · exact hv

/-- Room for a line is made by a copy that leaves, or is there (R159). -/
theorem viewRoom_eq : viewRoom s core line = s ∨ ∃ c l, viewRoom s core line = dropView s core c l := by
  unfold viewRoom
  extract_lets mates
  split
  · split
    · exact .inr ⟨_, _, rfl⟩
    · exact .inl rfl
  · exact .inl rfl
theorem viewRoom_mem : (viewRoom s core line).mem = s.mem := by
  rcases viewRoom_eq s core line with h | ⟨c, l, h⟩ <;> rw [h]
  exact dropView_mem s core c l
theorem mem_views_of_viewRoom : ∀ v ∈ (viewRoom s core line).views, v ∈ s.views := by
  rcases viewRoom_eq s core line with h | ⟨c, l, h⟩ <;> rw [h]
  · exact fun v hv => hv
  · exact mem_views_of_dropView s core c l
end

theorem eccClean_mem (s : State) (k n : Nat) : (eccClean s k n).mem = s.mem := by
  unfold eccClean
  split <;> rfl
theorem eccClean_views (s : State) (k n : Nat) : (eccClean s k n).views = s.views := by
  unfold eccClean
  split <;> rfl

/-! ## A load served from a copy -/

/-- The read of a copy finds no error, or counts what it finds and leaves none. -/
theorem cacheRead_eq (s : State) (k n : Nat) :
    cacheRead s k n = (false, s) ∨ ∃ p errs, cacheRead s k n = (true, { s with pkg := p, soft := errs }) := by
  unfold cacheRead eccClean
  extract_lets ws
  split
  · exact .inl rfl
  · split
    · exact .inr ⟨_, s.soft, rfl⟩
    · exact .inr ⟨_, _, rfl⟩

theorem cacheRead_good {s : State} {k n : Nat} (h : (cacheRead s k n).1 = false) : (cacheRead s k n).2 = s := by
  rcases cacheRead_eq s k n with hc | ⟨p, errs, hc⟩ <;> rw [hc] at h ⊢
  cases h
theorem cacheRead_mem (s : State) (k n : Nat) : (cacheRead s k n).2.mem = s.mem := by
  rcases cacheRead_eq s k n with hc | ⟨p, errs, hc⟩ <;> rw [hc]
theorem cacheRead_paths (s : State) (k n : Nat) : (cacheRead s k n).2.paths = s.paths := by
  rcases cacheRead_eq s k n with hc | ⟨p, errs, hc⟩ <;> rw [hc]

/-- The bytes of the copy that a load asks for, with the error found in them or not. -/
def copyRead (s : State) (e : Entry) : Bool × State :=
  cacheRead s (viewKey e.r.core e.cid (e.addr / 64) + e.addr % 64 / 4 * 4) (e.addr % 4 + e.n)

section
variable {s : State} {e : Entry} {dst : LoadDst} {v : View} {uid : Nat} (hf : entryOf s uid = some e) (ha : e.acc = .load dst)
  (hv : viewOf s e.r.core e.cid (e.addr / 64) = some v) (hu : unheld s e = true) (hpath : e.path = 0) (hord : e.ord = .weak)
  (hg : e.sp = .g) (hline : (e.addr + e.n - 1) / 64 = e.addr / 64) (hview : viewable s e.cid e.addr = true)
  (hst : e.who.stager s = none)
include hf ha hv hu hpath hord hg hline hview hst

/-- A load that the copy can answer, by whether the copy is good. -/
theorem viewServe_answers : exec (.viewServe uid) s = if (copyRead s e).1
    then .next (dropView (copyRead s e).2 e.r.core e.cid (e.addr / 64))
    else .next (deliver (copyRead s e).2 e dst (patch ((v.data.drop (e.addr % 64)).take e.n) e.ovl) true) := by
  simp [execViewServe, hf, ha, hv, hu, hpath, hord, hg, hline, hview, hst, viewLine, Entry.isGlobal]
  rfl
end

/-! ## A copy taken -/

/-- The home's bytes are there for the copy: fetched over the links, through the L2. -/
def fillHome (s : State) (core addr k : Nat) : State := homeFetch (travel s (dieOf core) (addr / 2 ^ 45) 64) k 64
/-- Room for the copy: an earlier copy of the line is gone, and the oldest of a full set. -/
def fillRoom (s : State) (core cid line : Nat) : State :=
  viewRoom { s with views := s.views.filter fun v => !(v.core == core && v.cid == cid && v.line == line) } core line

theorem fillHome_mem (s : State) (core addr k : Nat) : (fillHome s core addr k).mem = s.mem :=
  (homeOnly_homeFetch _ k 64).mem.trans (linksOnly_travel s _ _ 64).mem
theorem fillRoom_mem (s : State) (core cid line : Nat) : (fillRoom s core cid line).mem = s.mem := viewRoom_mem _ core line
theorem viewOf_fillRoom (s : State) (core cid line : Nat) : viewOf (fillRoom s core cid line) core cid line = none :=
  viewOf_none_of_sublist (mem_views_of_viewRoom _ core line) (viewOf_eq_none.mpr fun _ hv =>
    notOfLine_iff.mp (List.mem_filter.mp hv).2)

/-- The state in which a copy of a line is about to enter its core's view cache. -/
def fillReady (s : State) (core cid addr k : Nat) : State :=
  eccClean (fillRoom (fillHome s core addr k) core cid (addr / 64)) (viewKey core cid (addr / 64)) 64

theorem fillReady_mem (s : State) (core cid addr k : Nat) : (fillReady s core cid addr k).mem = s.mem :=
  (eccClean_mem ..).trans ((fillRoom_mem ..).trans (fillHome_mem ..))
theorem viewOf_fillReady (s : State) (core cid addr k : Nat) : viewOf (fillReady s core cid addr k) core cid (addr / 64) = none := by
  refine viewOf_none_of_sublist (fun v hv => ?_) (viewOf_fillRoom (fillHome s core addr k) core cid (addr / 64))
  rwa [fillReady, eccClean_views] at hv

theorem viewFill_takes {s : State} {core cid addr k : Nat} (hcore : core < 96) (hview : viewable s cid addr = true)
    (hctx : ctxValid s (addr / 2 ^ 45) cid = true) (hreach : reaches s (dieOf core) (addr / 2 ^ 45) 64 = true)
    (hk : peekKey s cid (64 * (addr / 64)) = some k) (hhbm : k % 2 ^ 40 < hbmBytes)
    (hp : homePoison (fillHome s core addr k) k 64 = false) :
    let t := fillReady s core cid addr k
    exec (.viewFill core cid addr) s = .next { t with views := t.views ++ [⟨core, cid, addr / 64, t.read k 64⟩] } := by
  have hp' : homePoison (homeFetch (travel s (dieOf core) (addr / 2 ^ 45) 64) k 64) k 64 = false := hp
  simp only [exec_viewFill, execViewFill, hcore, hview, hctx, hreach, viewLine, hk, hp', decide_true, Bool.and_self, if_true,
    ge_iff_le, Nat.not_le.mpr hhbm, Bool.false_eq_true, if_false]
  rfl

/-- Settles O25: a load by whether its copy is good, a copy that enters behind those of other lines, and one that leaves. -/
theorem viewCaches : Obligations.ViewCaches := by
  refine ⟨fun s uid e d w v hf ha hv hu hpath hord hg hline hview hst => ?_, fun s core cid addr k hcore hview hctx hreach hk hhbm hp => ?_,
    fun s core cid addr => ?_⟩
  · intro copy
    have hans := viewServe_answers hf ha hv hu hpath hord hg hline hview hst
    refine ⟨fun (hgood : (copyRead s e).1 = false) => ?_, fun (hbad : (copyRead s e).1 = true) => ?_⟩
    · have hs : (copyRead s e).2 = s := cacheRead_good hgood
      rw [hgood, hs] at hans
      exact ⟨_, hans, deliver_x_mem s e d w _ true, fun a => deliver_x_rx s e d w _ true a⟩
    · rw [if_pos hbad] at hans
      exact ⟨_, hans, (dropView_mem ..).trans (cacheRead_mem ..), viewOf_dropView .., (dropView_paths ..).trans (cacheRead_paths ..),
        dropView_pkg ..⟩
  · refine ⟨_, viewFill_takes hcore hview hctx hreach hk hhbm hp, fillReady_mem s core cid addr k, ?_⟩
    rw [viewOf_entered (viewOf_fillReady s core cid addr k), read_congr (fillReady_mem s core cid addr k)]
  · exact ⟨_, rfl, dropView_mem .., viewOf_dropView .., fun v hv hne => mem_views_dropView_of_ne s _ _ _ hv hne⟩

end Sys2Proof.Machine
end

section
/-! SUPPORT. Stream registers: the fields that a set leaves and the ones it writes, and the reads of the access engine (R198, R357, R358,
R366 to R368). -/

namespace Sys2Proof.Machine

open Sys2Proof

/-! ## Fields of a stream register -/

section
variable (v : BitVec 512) {w lo : Nat} (x : BitVec w) (h : lo + w ≤ 512)
include h

theorem getLsbD_sPut (i : Nat) : (sPut v lo x).getLsbD i = if lo ≤ i ∧ i < lo + w then x.getLsbD (i - lo) else v.getLsbD i := by
  have hv : v.getLsbD i = true → i < 512 := BitVec.lt_of_getLsbD
  by_cases hlo : lo ≤ i
  · by_cases hw : i < lo + w
    · have hi : i < 512 := by omega
      have hd : i - lo < w := by omega
      simp [sPut, hlo, hw, hi, hd, not_lt.mpr hlo]
    · have hd : ¬ i - lo < w := by omega
      have hx : x.getLsbD (i - lo) = false := BitVec.getLsbD_of_ge _ _ (by omega)
      simpa +contextual [sPut, hw, hd, hx] using hv
  · simpa +contextual [sPut, hlo, not_le.mp hlo] using hv
/-- A field that is put is the value put. -/
theorem extract_sPut_same : (sPut v lo x).extractLsb' lo w = x := by
  ext i hi
  simp [getLsbD_sPut v x h, hi]
/-- A field that ends below the one put, or begins above it, stays. -/
theorem extract_sPut_other {p n : Nat} (hp : p + n ≤ lo ∨ lo + w ≤ p) : (sPut v lo x).extractLsb' p n = v.extractLsb' p n := by
  ext i hi
  have hout : ¬ (lo ≤ p + i ∧ p + i < lo + w) := by omega
  simp [getLsbD_sPut v x h, hout]
end

/-! ## Sets (R357) -/

theorem sregsClean_nil (s : State) : SregsClean s [] := fun _ hi => absurd hi List.not_mem_nil

section
variable {s : State} {g : Guard} {i : BitVec 4} {us : List R5} {rd : List (BitVec 4)} {bad : State → Option W64}
  {f : State → BitVec 512 → BitVec 512} (h : IssuesS s g ⟨us, [], [], us⟩ rd)
include h

/-- A set whose operands pass stands for the commit. -/
theorem setS_sets (hb : bad s = none) : setS g us i bad f s rd = .next ((s.addEff (.setS i (f s (s.sreg i)))).issued g.sync) :=
  issueS_go h (by simp only [hb])
theorem setS_illop {x : W64} (hb : bad s = some x) : setS g us i bad f s rd = .next (trapAt s s.cur cILLOP x false) :=
  issueS_trap h (by simp only [hb])
end

/-- The operand check of sets.fmt: a BLEN unit above 64, or a reserved bit. -/
theorem fmtBad_iff (x : W64) : (bits x.toNat 0 7 > 64 || x.getLsbD 7 || x.extractLsb' 16 48 != 0 : Bool) = true ↔
    64 < (x.extractLsb' 0 7).toNat ∨ x.getLsbD 7 = true ∨ x.extractLsb' 16 48 ≠ 0 := by
  simp only [Bool.or_eq_true, decide_eq_true_eq, bne_iff_ne, gt_iff_lt, bits_toNat, or_assoc]
/-- The operand check of sets.mc: a change mask whose tile size or tile shift is outside its range. -/
theorem mcBad_iff (x : W64) :
    (x.getLsbD 11 && (bits x.toNat 0 4 = 0 || bits x.toNat 0 4 > 8 || bits x.toNat 4 3 > 6) : Bool) = true ↔
    x.getLsbD 11 = true ∧ (x.extractLsb' 0 4 = 0 ∨ 8 < (x.extractLsb' 0 4).toNat ∨ 6 < (x.extractLsb' 4 3).toNat) := by
  rw [← bits_eq_zero_iff]
  simp only [Bool.and_eq_true, Bool.or_eq_true, decide_eq_true_eq, gt_iff_lt, bits_toNat, or_assoc]
/-- Read the other way: what sets.mc accepts. -/
theorem mcBad_eq_false {x : W64}
    (h : x.getLsbD 11 = true → 1 ≤ (x.extractLsb' 0 4).toNat ∧ (x.extractLsb' 0 4).toNat ≤ 8 ∧ (x.extractLsb' 4 3).toNat ≤ 6) :
    (x.getLsbD 11 && (bits x.toNat 0 4 = 0 || bits x.toNat 0 4 > 8 || bits x.toNat 4 3 > 6) : Bool) = false := by
  rw [← Bool.not_eq_true, mcBad_iff]
  rintro ⟨hm, hx⟩
  obtain ⟨h1, h8, h6⟩ := h hm
  rcases hx with hx | hx | hx
  · simp [hx] at h1
  · omega
  · omega

/-- R198, R357: each set by its operand check, and its fields by where they lie. -/
theorem streamRegisterSets : Rule.StreamRegisterSets := by
  intro s g i a b h ty xp reads v x y out ill field fits
  rw [exec_setsBase, exec_setsDim, exec_setsFmt, exec_setsScl, exec_setsXp, exec_setsMc, exec_setsHdl, exec_setsClr]
  have hk : bits x.toNat 16 2 = (x.extractLsb' 16 2).toNat := bits_toNat ..
  have hk4 : (x.extractLsb' 16 2).toNat < 4 := (x.extractLsb' 16 2).isLt
  refine ⟨fun hr hx hy => ⟨_, setS_sets hr ((if_neg (not_not.mpr hx)).trans (if_neg (not_not.mpr hy))), ?_⟩,
    fun hr hx => setS_illop hr (if_pos hx),
    fun hr hx hy => setS_illop hr ((if_neg (not_not.mpr hx)).trans (if_pos hy)),
    fun hr hx hy => ⟨_, setS_sets hr ((if_neg (not_not.mpr hx)).trans (if_neg (not_not.mpr hy))), ?dim⟩,
    fun hr hx => setS_illop hr (if_pos hx),
    fun hr hx hy => setS_illop hr ((if_neg (not_not.mpr hx)).trans (if_pos hy)),
    fun hr hb h7 hx => ⟨_, setS_sets hr (if_neg ((fmtBad_iff x).not.mpr ?fmtPasses)), ?_⟩,
    fun hr hx => setS_illop hr (if_pos ((fmtBad_iff x).mpr hx)),
    fun hr => ⟨_, setS_sets hr rfl, ?_⟩,
    fun hr => ⟨_, setS_sets hr rfl, ?_⟩,
    fun hr hx => ⟨_, setS_sets hr (if_neg (by rw [mcBad_eq_false hx]; exact Bool.false_ne_true)), ?_⟩,
    fun hr hm hx => setS_illop hr (if_pos ((mcBad_iff x).mpr ⟨hm, hx⟩)),
    fun hr => ⟨_, setS_sets hr rfl, ?_⟩,
    fun hr => setS_sets ⟨hr, sregsClean_nil s⟩ rfl⟩
  case fmtPasses =>
    simp only [not_or, not_lt, Bool.not_eq_true, not_not]
    exact ⟨hb, h7, hx⟩
  case dim =>
    intro k
    rw [hk]
    simp (disch := omega) only [field, extract_sPut_same, extract_sPut_other, v, x, y, k, and_self]
  all_goals simp (disch := omega) [field, extract_sPut_same, extract_sPut_other, x, y, v]

/-! ## Reads (R358, R366 to R368) -/

/-- An address without displacement. -/
theorem formAddr_plain {s : State} {sp : Space} {ad : W64} {n : Nat} (hc : checkAddr s s.cur s.my.cid sp ad.toNat n false = none)
    (ha : ad.toNat % n = 0) : formAddr s sp ad 0 n = .ok ad.toNat := by
  simpa using formAddr_passes (base := ad) (off := 0) (by simpa using hc) (by simpa using ha)

section
variable {s : State} {g : Guard} {a b : R5} (h : Issues64 s g ⟨[a, b], [], [], [b]⟩)
include h

section
variable {i : BitVec 4} {hd : R5} {n : Nat} (hn : bits (s.x b).toNat 0 4 = n)
include hn

theorem gets_register (h8 : n < 8) (hc : SregsClean s [i]) :
    execGets g a i hd b s = .next ((s.setX a ((s.sreg i).extractLsb' (64 * n) 64)).issued g.sync) := by
  refine issue64_go h ?_
  simp only [hn, h8, if_true, readSregs_clean hc]
theorem gets_handle (h8 : 8 ≤ n) (h10 : n < 10) :
    execGets g a i hd b s = .next ((s.setX a ((s.hreg hd).extractLsb' (64 * (n - 8)) 64)).issued g.sync) := by
  refine issue64_go h ?_
  simp only [hn, readSregs_clean (sregsClean_nil s), Nat.not_lt.mpr h8, h10, if_true, if_false]
theorem gets_none (h10 : 10 ≤ n) : execGets g a i hd b s = .next (trapAt s s.cur cILLOP (s.x b) false) := by
  refine issue64_trap h ?_
  simp only [hn, readSregs_clean (sregsClean_nil s), Nat.not_lt.mpr h10,
    Nat.not_lt.mpr (Nat.le_trans (by decide) h10 : 8 ≤ n), if_false]
end

theorem listRead_issues {k : BitVec 2} {n : Nat} (hc : checkAddr s s.cur s.my.cid .g (s.x b).toNat n false = none)
    (ha : (s.x b).toNat % n = 0) : listRead k n g a b s = .next ((s.load 2 .weak .core .g 0 (s.x b).toNat n (.tl k a)).issued g.sync) :=
  issue64_go h (by simp only [formAddr_plain hc ha])
theorem rngstat_issues {sp3 : BitVec 3} {sp : Space} (hs : ringSpace sp3 = some sp)
    (hc : checkAddr s s.cur s.my.cid sp (s.x b).toNat 64 false = none) (ha : (s.x b).toNat % 64 = 0) :
    execRngstat g sp3 a b s = .next ((s.load 1 .strong .core sp 0 (s.x b).toNat 16 (.ring a)).issued g.sync) :=
  issue64_go h (by simp only [hs, formAddr_plain hc ha])
end

/-- R358, R366 to R368: gets by its word number, the other reads by the address they form. -/
theorem accessReads : Rule.AccessReads := by
  intro s g i a b hd sp3 h n
  rw [exec_gets, exec_dmrd, exec_rngstat, exec_tlget, exec_tlstat, exec_tlack]
  have hn : bits (s.x b).toNat 0 4 = n := bits_toNat ..
  refine ⟨gets_register h hn, gets_handle h hn, gets_none h hn, issue64_go h ?_, fun sp => rngstat_issues h, listRead_issues h,
    fun hc ha => ⟨listRead_issues h hc ha, listRead_issues h hc ha⟩⟩
  rw [bits_toNat]

/-- Settles O29: the fields of each set by where they lie, and each read by its operand. -/
theorem streamRegisters : Obligations.StreamRegisters := ⟨streamRegisterSets, accessReads⟩

end Sys2Proof.Machine
end

section
/-! SUPPORT. Commands that wait for a handle, and copies: their checks in order, then the state of their handle (R201, R202, R359 to
R361). -/

namespace Sys2Proof.Machine

open Sys2Proof

/-! ## Producers and consumers (R201, R202) -/

section
variable {s : State} {hd : R5} {c : Cmd}

theorem produce_free (hf : s.my.hst hd = 0) : produce s hd c = .go (s.addEff (.cmd { c with prod := some hd })) := if_pos hf
theorem produce_busy (hf : s.my.hst hd ≠ 0) : produce s hd c = .hold .handle (s.modMe fun st => { st with waitH := 0 }) := if_neg hf
theorem consume_full (hf : s.my.hst hd = 2) : consume s hd c = .go ((s.acquire .package).addEff (.cmd { c with cons := [hd] })) :=
  if_pos hf
theorem consume_busy (hf : s.my.hst hd ≠ 2) : consume s hd c = .hold .handle (s.modMe fun st => { st with waitH := hd.toNat + 1 }) :=
  if_neg hf
end

/-- A hold for a handle notes the handle it waits for and changes no register (R202). -/
theorem held_for_handle {s : State} {w : Nat} {o : Out} (ho : o = .next ((s.modMe fun st => { st with waitH := w }).held .handle)) :
    ∃ t, o = .next t ∧ t.me.hold = .handle ∧ KeptBut [] [] [] s t :=
  ⟨_, ho, by rw [me_held],
    (kept_modMe (xs := []) (ps := []) s _ (fun _ _ => rfl) (fun _ _ => rfl) rfl).trans (kept_held _ _)⟩

theorem issueS_hold {s t : State} {g : Guard} {u : Uses} {is : List (BitVec 4)} {body : State → Res} {k : Hold} (h : IssuesS s g u is)
    (hb : body s = .hold k t) : issue64 s g u (fun s => readSregs s is body) = .next (t.held k) :=
  issue64_hold h.1 ((readSregs_clean h.2 body).trans hb)

/-! ## Copies of a layout (R360, R361) -/

/-- The command of a copy whose checks have passed, by its direction. -/
def layoutCopy (inward : Bool) (s : State) (sp : Space) (v : BitVec 512) (hd : R5) (sgr : BitVec 2) (gate : BitVec 6) : Res :=
  let c := { newCmd s .copy with s1 := v, sgr := sgr, gate := gate.toNat }
  let n := layoutN v * sBlen v
  if inward then
    produce s hd { c with
      gateCore := bufHome s hd
      ents := layoutEntries s 2 sp v (.cread 0) ++ bufEntries s 2 hd n (.cwrite 0) }
  else
    consume s hd { c with
      gateCore := gateHome s sp (sBase v)
      ents := bufEntries s 2 hd n (.cread 0) ++ layoutEntries s 2 sp v (.cwrite 0) }

section
variable {s : State} {g : Guard} {i : BitVec 4} {hd : R5} {sgr : BitVec 2} {gate : BitVec 6} (h : IssuesS s g ⟨[], [], [], []⟩ [i])
  (inward : Bool)
include h

theorem copyLayout_reserved (hs : sgr = 1) :
    copyLayout inward g i hd sgr gate s = .next (trapAt s s.cur cILLOP (s.headWord.zeroExtend 64) false) :=
  issueS_trap h (if_pos hs)

variable (hs : sgr ≠ 1)
include hs

theorem copyLayout_noSpace (h4 : 4 ≤ sSp (s.sreg i)) :
    copyLayout inward g i hd sgr gate s = .next (trapAt s s.cur cILLOP (i.zeroExtend 64) false) := by
  refine issueS_trap h ((if_neg hs).trans ?_)
  rw [if_pos h4]

variable {sp : Space} (h4 : sSp (s.sreg i) < 4) (hc : codeSpace (sSp (s.sreg i)) = some sp)
include h4 hc

/-- The checks of a copy through a register that names a space: the ends of its layout, then its handle. -/
theorem copyLayout_trap {k : Nat} {e : W64} (hx : ((endsTrap s sp (layoutEnds (s.sreg i)).1 (layoutEnds (s.sreg i)).2 true).orElse fun _ =>
      handleTrap s hd (layoutN (s.sreg i) * sBlen (s.sreg i))) = some (k, e)) :
    copyLayout inward g i hd sgr gate s = .next (trapAt s s.cur k e false) := by
  refine issueS_trap h ((if_neg hs).trans ?_)
  rw [if_neg (Nat.not_le.mpr h4), hc]
  simp only [hx]

variable (he : endsTrap s sp (layoutEnds (s.sreg i)).1 (layoutEnds (s.sreg i)).2 true = none)
  (hh : handleTrap s hd (layoutN (s.sreg i) * sBlen (s.sreg i)) = none)
include he hh

theorem copyLayout_go {t : State} (hb : layoutCopy inward s sp (s.sreg i) hd sgr gate = .go t) :
    copyLayout inward g i hd sgr gate s = .next (t.issued g.sync) := by
  refine issueS_go h ((if_neg hs).trans ?_)
  rw [if_neg (Nat.not_le.mpr h4), hc]
  simp only [he, hh, Option.orElse_none]
  exact hb
theorem copyLayout_hold {t : State} {k : Hold} (hb : layoutCopy inward s sp (s.sreg i) hd sgr gate = .hold k t) :
    copyLayout inward g i hd sgr gate s = .next (t.held k) := by
  refine issueS_hold h ((if_neg hs).trans ?_)
  rw [if_neg (Nat.not_le.mpr h4), hc]
  simp only [he, hh, Option.orElse_none]
  exact hb
end

/-! ## Copies of a range (R359, R360) -/

/-- The command of a copy of a range whose checks have passed, by its direction. -/
def rangeCopy (inward : Bool) (s : State) (sp : Space) (ad n : Nat) (hd : R5) (sgr : BitVec 2) (gate : BitVec 6) : Res :=
  let c := { newCmd s .copy with xs := [], sgr := sgr, gate := gate.toNat }
  if inward then
    produce s hd { c with gateCore := bufHome s hd, ents := spanEntries s 2 sp ad n 0 (.cread 0) ++ bufEntries s 2 hd n (.cwrite 0) }
  else
    consume s hd { c with
      gateCore := gateHome s sp ad
      ents := bufEntries s 2 hd n (.cread 0) ++ spanEntries s 2 sp ad n 0 (.cwrite 0) }

section
variable {s : State} {g : Guard} {a b hd : R5} {sgr : BitVec 2} {gate : BitVec 6} (h : Issues64 s g ⟨[a, b], [], [], [a, b]⟩)
  (inward : Bool) (sp : Space)
include h

theorem copyLin_reserved (hs : sgr = 1) :
    copyLin inward sp g a hd b sgr gate s = .next (trapAt s s.cur cILLOP (s.headWord.zeroExtend 64) false) :=
  issue64_trap h (if_pos hs)

variable (hs : sgr ≠ 1)
include hs

theorem copyLin_badLength (hn : (s.x b).toNat = 0 ∨ (s.x b).toNat % 64 ≠ 0) :
    copyLin inward sp g a hd b sgr gate s = .next (trapAt s s.cur cALIGN (s.x b) false) :=
  issue64_trap h ((if_neg hs).trans (if_pos (by simpa using hn)))

variable (hn : (s.x b).toNat ≠ 0) (hl : (s.x b).toNat % 64 = 0)
include hn hl

theorem copyLin_unaligned (ha : (s.x a).toNat % 64 ≠ 0) :
    copyLin inward sp g a hd b sgr gate s = .next (trapAt s s.cur cALIGN (s.x a) false) :=
  issue64_trap h ((if_neg hs).trans ((if_neg (by simp [hn, hl])).trans (if_pos ha)))

variable (ha : (s.x a).toNat % 64 = 0)
include ha

/-- The checks of a copy of an aligned range: its two ends, then its handle. -/
theorem copyLin_trap {k : Nat} {e : W64} (hx : ((endsTrap s sp (s.x a).toNat (s.x a + s.x b - 1).toNat true).orElse fun _ =>
    handleTrap s hd (s.x b).toNat) = some (k, e)) : copyLin inward sp g a hd b sgr gate s = .next (trapAt s s.cur k e false) := by
  refine issue64_trap h ((if_neg hs).trans ((if_neg (by simp [hn, hl])).trans ((if_neg (not_not.mpr ha)).trans ?_)))
  simp only [hx]

variable (hx : ((endsTrap s sp (s.x a).toNat (s.x a + s.x b - 1).toNat true).orElse fun _ => handleTrap s hd (s.x b).toNat) = none)
include hx

theorem copyLin_go {t : State} (hb : rangeCopy inward s sp (s.x a).toNat (s.x b).toNat hd sgr gate = .go t) :
    copyLin inward sp g a hd b sgr gate s = .next (t.issued g.sync) := by
  refine issue64_go h ((if_neg hs).trans ((if_neg (by simp [hn, hl])).trans ((if_neg (not_not.mpr ha)).trans ?_)))
  simp only [hx]
  exact hb
theorem copyLin_hold {t : State} {k : Hold} (hb : rangeCopy inward s sp (s.x a).toNat (s.x b).toNat hd sgr gate = .hold k t) :
    copyLin inward sp g a hd b sgr gate s = .next (t.held k) := by
  refine issue64_hold h ((if_neg hs).trans ((if_neg (by simp [hn, hl])).trans ((if_neg (not_not.mpr ha)).trans ?_)))
  simp only [hx]
  exact hb
end

/-- R202, R359 to R361: each copy by its checks in order, and then by its handle: FREE inward, FULL outward. -/
theorem copyResults : Rule.CopyResults := by
  refine ⟨fun s g i hd sgr xp gate h => ?_, fun s g a hd b sgr xp gate h => ?_⟩
  · intro v ends n traps c
    simp only [traps, exec_copyin, exec_copyout]
    refine ⟨fun hs => ⟨copyLayout_reserved h true hs, copyLayout_reserved h false hs⟩,
      fun hs h4 => ⟨copyLayout_noSpace h true hs h4, copyLayout_noSpace h false hs h4⟩, fun sp hs ⟨h4, hc⟩ => ⟨fun k e he => ?_,
      fun k e he hh => ?_, fun he hh => ⟨fun hf => ?_, fun hf => ?_, fun hf => ?_, fun hf => ?_⟩⟩⟩
    · have hx : ((endsTrap s sp ends.1 ends.2 true).orElse fun _ => handleTrap s hd n) = some (k, e) := by rw [he]; rfl
      exact ⟨copyLayout_trap h true hs h4 hc hx, copyLayout_trap h false hs h4 hc hx⟩
    · have hx : ((endsTrap s sp ends.1 ends.2 true).orElse fun _ => handleTrap s hd n) = some (k, e) := by rw [he]; exact hh
      exact ⟨copyLayout_trap h true hs h4 hc hx, copyLayout_trap h false hs h4 hc hx⟩
    · exact copyLayout_go h true hs h4 hc he hh (produce_free hf)
    · exact held_for_handle (copyLayout_hold h true hs h4 hc he hh (produce_busy hf))
    · exact copyLayout_go h false hs h4 hc he hh (consume_full hf)
    · exact held_for_handle (copyLayout_hold h false hs h4 hc he hh (consume_busy hf))
  · intro n ad c ends out forms
    have refusals (i : Instr) (inward : Bool) (sp : Space) (hi : exec i s = copyLin inward sp g a hd b sgr gate s) :
        (sgr = 1 → exec i s = .next (trapAt s s.cur 0x01 (s.headWord.zeroExtend 64) false)) ∧
        (sgr ≠ 1 → n = 0 ∨ n % 64 ≠ 0 → exec i s = .next (trapAt s s.cur 0x05 (s.x b) false)) ∧
        (sgr ≠ 1 → n ≠ 0 → n % 64 = 0 → ad % 64 ≠ 0 → exec i s = .next (trapAt s s.cur 0x05 (s.x a) false)) ∧
        (sgr ≠ 1 → n ≠ 0 → n % 64 = 0 → ad % 64 = 0 →
          (∀ k e, ends sp = some (k, e) → exec i s = .next (trapAt s s.cur k e false)) ∧
          (ends sp = none → s.my.hst hd ≠ (if inward then 0 else 2) →
            ∃ t, exec i s = .next t ∧ t.me.hold = .handle ∧ KeptBut [] [] [] s t)) := by
      rw [hi]
      refine ⟨copyLin_reserved h inward sp, copyLin_badLength h inward sp, copyLin_unaligned h inward sp, fun hs hn hl ha =>
        ⟨fun k e => copyLin_trap h inward sp hs hn hl ha, fun hx hf => ?_⟩⟩
      cases inward
      · exact held_for_handle (copyLin_hold h false sp hs hn hl ha hx (consume_busy hf))
      · exact held_for_handle (copyLin_hold h true sp hs hn hl ha hx (produce_busy hf))
    refine ⟨fun f hf => ?_, fun hs hn hl ha => ⟨fun hx hf => ?_, fun hx hf => ?_, fun hx hf => ?_⟩⟩
    · simp only [forms, List.mem_cons, List.not_mem_nil, or_false] at hf
      rcases hf with rfl | rfl | rfl
      · exact refusals _ false .k (exec_copyk ..)
      · exact refusals _ false .d (exec_copyd ..)
      · exact refusals _ true .g (exec_copylin ..)
    · exact (exec_copyk ..).trans (copyLin_go h false .k hs hn hl ha hx (consume_full hf))
    · exact (exec_copyd ..).trans (copyLin_go h false .d hs hn hl ha hx (consume_full hf))
    · exact (exec_copylin ..).trans (copyLin_go h true .g hs hn hl ha hx (produce_free hf))

/-- Settles O30: each copy by its checks in order, then by the state of its handle. -/
theorem copies : Obligations.Copies := copyResults

end Sys2Proof.Machine
end

section
/-! SUPPORT. Gathers, scatters and scatter-adds of a table, gathers of a change-mask tile, scans and thresholds at issue (R207 to R209,
R362, R365, R366). -/

namespace Sys2Proof.Machine

open Sys2Proof

/-! ## Tables (R207, R208, R362) -/

theorem tableTrap_global {v : BitVec 512} {i : BitVec 4} (h : sSp v = 0) : tableTrap v i = none := by
  simp [tableTrap, h]

/-- The rows that a table command reaches: those whose index the table has, each with its position in the list. -/
def tableRows (s : State) (v : BitVec 512) (la n : Nat) : List (Nat × Nat) :=
  ((List.range n).filter fun k => (indexList s .c la n).getD k 0 < sSize v 1).map fun k =>
    (k, rowAddr v ((indexList s .c la n).getD k 0))
/-- The command of a table instruction, its accesses apart. -/
def tableBase (s : State) (v : BitVec 512) (la n : Nat) (hd : R5) (gate : BitVec 6) : Cmd :=
  { newCmd s .copy with
    s1 := v, idx := (indexList s .c la n).map (BitVec.ofNat 32), gate := gate.toNat
    xs := [BitVec.ofNat 64 (n - (tableRows s v la n).length), hd.zeroExtend 64] }
/-- What a table instruction whose checks have passed does with its command. -/
def tableIssue (op : RowOp) (s : State) (v : BitVec 512) (la n : Nat) (hd : R5) (gate : BitVec 6) : Res :=
  let rows := tableRows s v la n
  let rowB := sSize v 0
  let c := tableBase s v la n hd gate
  match op with
  | .fetch =>
    produce s hd { c with
      gateCore := bufHome s hd
      ents := (rows.flatMap fun r => spanEntries s 3 .g r.2 rowB (r.1 * rowB) (.cread 0)) ++ bufEntries s 3 hd (n * rowB) (.cwrite 0) }
  | .send =>
    consume s hd { c with ents := bufEntries s 3 hd (n * rowB) (.cread 0) ++
      (rows.flatMap fun r => spanEntries s 3 .g r.2 rowB (r.1 * rowB) (.cwrite 0)) }
  | .add ty =>
    consume s hd { c with ents := bufEntries s 3 hd (n * rowB) (.cread 0) ++
      (rows.flatMap fun r => addEntries s r.2 rowB (r.1 * rowB) ty) }

/-- A table instruction whose register, index list, rows and handle all pass (R207, R362). -/
structure TablePasses (s : State) (v : BitVec 512) (la n : Nat) (hd : R5) : Prop where
  global : sSp v = 0
  row4 : sSize v 0 % 4 = 0
  rowLow : 4 ≤ sSize v 0
  rowHigh : sSize v 0 ≤ 4096
  some : 0 < n
  most : n ≤ 256
  aligned : la % 4 = 0
  list : checkAddr s s.cur s.my.cid .c la (4 * n) false = none
  rows : ∀ r ∈ tableRows s v la n, checkAddr s s.cur s.my.cid .g r.2 (sSize v 0) false = none
  handle : handleTrap s hd (n * sSize v 0) = none

theorem tableCmd_go {s t : State} {op : RowOp} {g : Guard} {a hd b : R5} {i : BitVec 4} {gate : BitVec 6}
    (h : IssuesS s g ⟨[a, b], [], [], [a, b]⟩ [i]) (hs : s.soft = []) (hp : s.poison = []) (hm : s.mine = [])
    (ht : TablePasses s (s.sreg i) (s.x a).toNat (s.x b).toNat hd)
    (hb : tableIssue op s (s.sreg i) (s.x a).toNat (s.x b).toNat hd gate = .go t) :
    tableCmd op g a i hd b gate s = .next (t.issued g.sync) := by
  obtain ⟨hg, h4, hlo, hhi, hn, hn', ha, hl, hr, hh⟩ := ht
  have hrow : (sSize (s.sreg i) 0 % 4 ≠ 0 || sSize (s.sreg i) 0 < 4 || sSize (s.sreg i) 0 > 4096 : Bool) = false := by
    simp [h4, hlo, hhi]
  have hcount : ((s.x b).toNat = 0 || (s.x b).toNat > 256 : Bool) = false := by
    simp [Nat.ne_of_gt hn, hn']
  have hrows := List.findSome?_eq_none_iff.mpr hr
  unfold tableRows at hrows
  refine issueS_go h ?_
  simp only [tableTrap_global hg, hrow, hcount, ha, hl, pendingStore_of_no_paths hm, eccRead_of_no_errors hs, homePoison_of_no_errors hs hp,
    hrows, hh, Option.orElse_none, Bool.false_eq_true, if_false, ne_eq, not_true_eq_false]
  simp only [tableIssue, tableBase, tableRows, List.length_map] at hb
  exact hb

section
variable {s : State} {g : Guard} {ty : Ty} {a hd b : R5} {i : BitVec 4} {gate : BitVec 6} {xp : BitVec 2}

/-- An element type that has adds (R208). -/
theorem execScatadd_eq (ht : ty = .f32 ∨ ty = .s32 ∨ ty = .n32) :
    execScatadd g ty a i hd b gate xp s = tableCmd (.add ty) g a i hd b gate s := by
  refine if_pos ?_
  rcases ht with rfl | rfl | rfl <;> rfl
end

/-! ## Tiles of a change mask (R209) -/

/-- Whether an element of a tile with its halo lies inside the layer. -/
def inLayer (v : BitVec 512) (c : Int × Int) : Bool := decide (0 ≤ c.1 ∧ c.1 < sSize v 1 ∧ 0 ≤ c.2 ∧ c.2 < sSize v 0)
/-- The elements of a tile that gathmc reads: those inside the layer, each with its position. -/
def tileRows (v : BitVec 512) (e : W64) : List (Nat × Nat) :=
  (List.range (tileCoords v e).length).filterMap fun p =>
    let c := (tileCoords v e).getD p (0, 0)
    if inLayer v c then some (p, at64 (sBase v) (c.1 * sStride v 1 + c.2 * sStride v 0)) else none
/-- The command of gathmc. -/
def tileCmd (s : State) (v : BitVec 512) (e : W64) (hd : R5) (gate : BitVec 6) : Cmd :=
  { newCmd s .copy with
    s1 := v, gate := gate.toNat, gateCore := bufHome s hd
    ents := ((tileRows v e).flatMap fun r => spanEntries s 3 .g r.2 (sBlen v) (r.1 * sBlen v) (.cread 0)) ++
      bufEntries s 3 hd ((tileCoords v e).length * sBlen v) (.cwrite 0) }

theorem gathmc_issues {s : State} {g : Guard} {i : BitVec 4} {hd b : R5} {gate : BitVec 6} {xp : BitVec 2}
    (h : IssuesS s g ⟨[b], [], [], [b]⟩ [i]) (hg : sSp (s.sreg i) = 0) (hv : (s.sreg i).getLsbD 400 = true)
    (ha : (s.x b).extractLsb' 16 2 = 0 ∨ (s.x b).extractLsb' 16 2 = 2) (hz : (s.x b).extractLsb' 22 2 = 0)
    (hr : ∀ r ∈ tileRows (s.sreg i) (s.x b), checkAddr s s.cur s.my.cid .g r.2 (sBlen (s.sreg i)) false = none)
    (hh : handleTrap s hd ((tileCoords (s.sreg i) (s.x b)).length * sBlen (s.sreg i)) = none) (hf : s.my.hst hd = 0) :
    execGathmc g i hd b gate xp s =
      .next ((s.addEff (.cmd { tileCmd s (s.sreg i) (s.x b) hd gate with prod := some hd })).issued g.sync) := by
  have hreg : (sSp (s.sreg i) ≥ 5 || !(s.sreg i).getLsbD 400 : Bool) = false := by simp [hg, hv]
  have hact : ((bits (s.x b).toNat 16 2 ≠ 0 && bits (s.x b).toNat 16 2 ≠ 2) || bits (s.x b).toNat 22 2 ≠ 0 : Bool) = false := by
    rw [bits_toNat, bits_toNat, hz]
    rcases ha with ha | ha <;> rw [ha] <;> rfl
  have hrows := List.findSome?_eq_none_iff.mpr hr
  unfold tileRows inLayer at hrows
  refine issueS_go h ?_
  simp only [hreg, tableTrap_global hg, hact, hrows, hh, Option.orElse_none, Bool.false_eq_true, if_false]
  exact produce_free hf

/-- R207 to R209: a table instruction by its checks and its handle, gathmc by its tile. -/
theorem tableResults : Rule.TableResults := by
  refine ⟨?_, ?_⟩
  · intro s g ty a hd b i gate xp h hs hp hm v rowB n la hg h4 hlo hhi hn hn' ha hl idx rows hr hh c
    have ht : TablePasses s v la n hd := ⟨hg, h4, hlo, hhi, hn, hn', ha, hl, hr, hh⟩
    rw [exec_gath, exec_scat, exec_scatadd]
    refine ⟨fun hf => tableCmd_go (op := .fetch) h hs hp hm ht (produce_free hf),
      fun hf => tableCmd_go (op := .send) h hs hp hm ht (consume_full hf),
      fun hf hty => ?_⟩
    rw [execScatadd_eq hty]
    exact tableCmd_go h hs hp hm ht (consume_full hf)
  · intro s g hd b i gate xp h v e cs inside good hg hv ha hz hr hh hf
    rw [exec_gathmc]
    exact gathmc_issues h hg hv ha hz hr hh hf

/-! ## Scans and thresholds (R365, R366) -/

/-- The spaces that a scan reads. -/
theorem scanSpace {v : BitVec 512} {sp : Space} (h : sSp v = 1 ∧ sp = .c ∨ sSp v = 2 ∧ sp = .k) :
    (if sSp v = 1 || sSp v = 2 then codeSpace (sSp v) else none) = some sp := by
  rcases h with ⟨h1, rfl⟩ | ⟨h2, rfl⟩
  · simp [h1, codeSpace]
  · simp [h2, codeSpace]

/-- The distance of a scan's elements in bytes: their own size where the register's stride is 0. -/
def scanStride (v : BitVec 512) (ty : Ty) : Int := if sStride v 0 = 0 then (ty.bits / 8 : Nat) else sStride v 0
/-- The lowest and the highest address of a scan. -/
def scanEnds (v : BitVec 512) (ty : Ty) (n : Nat) : Nat × Nat :=
  (at64 (sBase v) (min 0 ((n - 1 : Nat) * scanStride v ty)),
    at64 (sBase v) (max 0 ((n - 1 : Nat) * scanStride v ty) + (ty.bits / 8 : Nat) - 1))
/-- The command of a scan. -/
def scanCmd (s : State) (v : BitVec 512) (sp : Space) (ty : Ty) (n : Nat) (hd : R5) : Cmd :=
  { newCmd s (.scan ty n (bits (s.csr 0x008).toNat 0 6)) with
    s1 := v
    ents := ((List.range n).flatMap fun k : Nat =>
      spanEntries s 2 sp (at64 (sBase v) ((k : Nat) * scanStride v ty)) (ty.bits / 8) (k * (ty.bits / 8)) (.cread 0)) ++
      bufEntries s 2 hd (4 * (n + 1)) (fun p => .cwrite 0 (scanPos + p)) }

theorem nzscan_issues {s : State} {g : Guard} {i : BitVec 4} {hd b : R5} {ty : Ty} {sp : Space} (h : IssuesS s g ⟨[b], [], [], [b]⟩ [i])
    (hsp : sSp (s.sreg i) = 1 ∧ sp = .c ∨ sSp (s.sreg i) = 2 ∧ sp = .k) (hty : typeOf ((s.sreg i).extractLsb' 51 5) = .ok ty)
    (hs : scanTy ty = true) (hn : (s.x b).toNat ≤ 65536)
    (he : (s.x b).toNat ≠ 0 → endsTrap s sp (scanEnds (s.sreg i) ty (s.x b).toNat).1 (scanEnds (s.sreg i) ty (s.x b).toNat).2 false = none)
    (hh : handleTrap s hd (4 * ((s.x b).toNat + 1)) = none) (hf : s.my.hst hd = 0) : execNzscan g i hd b s =
      .next ((s.addEff (.cmd { scanCmd s (s.sreg i) sp ty (s.x b).toNat hd with prod := some hd })).issued g.sync) := by
  have hends : (if (s.x b).toNat = 0 then none else endsTrap s sp (scanEnds (s.sreg i) ty (s.x b).toNat).1
      (scanEnds (s.sreg i) ty (s.x b).toNat).2 false) = none := by
    split
    · rfl
    · next hz => exact he hz
  unfold scanEnds scanStride at hends
  refine issueS_go h ?_
  simp only [scanSpace hsp, hty, hs, Nat.not_lt.mpr hn, hends, hh, Option.orElse_none, Bool.not_true, Bool.false_eq_true, if_false]
  exact produce_free hf

/-- R365, R366: nzscan by its register, its extent and its handle, thrset by its operands. -/
theorem scanResults : Rule.ScanResults := by
  refine ⟨?_, ?_⟩
  · intro s g i hd b ty sp h v n hsp hty hs hn sz st he hh hf
    rw [exec_nzscan, ← bits_toNat]
    exact nzscan_issues h hsp hty hs hn he hh hf
  · intro s g a b h
    rw [exec_thrset]
    refine ⟨fun ha hb => issue64_go h ((if_neg (Nat.not_lt.mpr ha)).trans (if_neg (not_not.mpr hb))), fun ha => issue64_trap h (if_pos ha),
      fun ha hb => issue64_trap h ((if_neg (Nat.not_lt.mpr ha)).trans (if_pos hb))⟩

/-- Settles O31: each command by its checks, over the rows, elements or bytes that these let through. -/
theorem tablesAndScan : Obligations.TablesAndScan := ⟨tableResults, scanResults⟩

end Sys2Proof.Machine
end

section
/-! SUPPORT. Gates and handles at issue, and the phase of a gate (R202, R205, R206, R363, R364). -/

namespace Sys2Proof.Machine

open Sys2Proof

/-! ## Gates at issue (R363) -/

section
variable {s : State} {g : Guard} {a b : R5} {gate : BitVec 6} (h : Issues64 s g ⟨[a, b], [], [], [a, b]⟩) (ha : (s.x a).toNat ≤ 7)
include h ha

section
variable (hb : (s.x b).toNat ≤ 65535)
include hb

theorem gexp_issues (hc : (gateView s gate.toNat).cnt (s.x a).toNat + (s.x b).toNat ≤ 65535) :
    execGexp g a b gate s = .next ((s.addEff (.gexp gate.toNat (s.x a).toNat (s.x b).toNat)).issued g.sync) :=
  issue64_go h ((if_neg (Nat.not_lt.mpr ha)).trans ((if_neg (Nat.not_lt.mpr hb)).trans (if_neg (Int.not_lt.mpr hc))))
theorem gexp_overflows (hc : 65535 < (gateView s gate.toNat).cnt (s.x a).toNat + (s.x b).toNat) :
    execGexp g a b gate s = .next (trapAt s s.cur cGATEOVF (gate.zeroExtend 64) false) :=
  issue64_trap h ((if_neg (Nat.not_lt.mpr ha)).trans ((if_neg (Nat.not_lt.mpr hb)).trans (if_pos hc)))
end
end

/-- The core that x[a] names in the moving core's eight. -/
def garrCore (s : State) (a : R5) : Nat := 8 * eightOf s.cur.core + (s.x a).toNat
/-- Whether the gate that garr's check sees would fall too low (R205): that of the moving task on its own core, elsewhere that of the
task of its context and DOM, if one is resident. -/
def garrLow (s : State) (core gate n : Nat) : Bool :=
  match (if core = s.cur.core then some s.cur.slot else gateSlot s core s.my.cid (bits s.view.c.dom.toNat 36 4)) with
  | some sl => decide (gateDue s core sl gate (inEight s.cur.core) - n < -65536)
  | none => false

theorem garrLow_own {s : State} {core gate n : Nat} (hc : core = s.cur.core) :
    garrLow s core gate n = decide (gateDue s core s.cur.slot gate (inEight s.cur.core) - n < -65536) := by
  simp only [garrLow, if_pos hc]
theorem garrLow_nobody {s : State} {core gate n : Nat} (hc : core ≠ s.cur.core)
    (hs : gateSlot s core s.my.cid (bits s.view.c.dom.toNat 36 4) = none) : garrLow s core gate n = false := by
  simp only [garrLow, if_neg hc, hs]

section
variable {s : State} {g : Guard} {a b : R5} {gate : BitVec 6} (h : Issues64 s g ⟨[a, b], [], [], [a, b]⟩) (ha : (s.x a).toNat ≤ 7)
  (h0 : 0 < (s.x b).toNat) (hb : (s.x b).toNat ≤ 65535)
include h ha h0 hb

theorem garr_issues (hl : garrLow s (garrCore s a) gate.toNat (s.x b).toNat = false) : execGarr g a b gate s =
    .next ((s.addEff (.entry (sigEntry s (.garr (garrCore s a) gate.toNat (inEight s.cur.core) (s.x b).toNat)))).issued g.sync) := by
  refine issue64_go h ((if_neg (Nat.not_lt.mpr ha)).trans ((if_neg ?_).trans (if_neg (ne_true_of_eq_false hl))))
  simp [Nat.ne_of_gt h0, hb]
theorem garr_underflows (hl : garrLow s (garrCore s a) gate.toNat (s.x b).toNat = true) :
    execGarr g a b gate s = .next (trapAt s s.cur cGATEOVF (gate.zeroExtend 64) false) := by
  refine issue64_trap h ((if_neg (Nat.not_lt.mpr ha)).trans ((if_neg ?_).trans (if_pos hl)))
  simp [Nat.ne_of_gt h0, hb]
end

section
variable {s : State} {g : Guard} {a : R5} {gate : BitVec 6} (h : Issues64 s g ⟨[a], [], [], [a]⟩)
include h

theorem gwait_passes (hp : (s.my.gate gate.toNat).ph ≠ (s.x a).getLsbD 0) :
    execGwait g a gate s = .next ((s.acquire .package).passed.issued g.sync) := issue64_go h (if_neg (by simpa using hp))
theorem gwait_held (hp : (s.my.gate gate.toNat).ph = (s.x a).getLsbD 0) : execGwait g a gate s = .next (s.held .gate) :=
  issue64_hold h (if_pos (by simpa using hp))
theorem ginit_issues (ha : (s.x a).toNat ≤ 255) :
    execGinit g a gate s = .next ((s.addEff (.ginit gate.toNat ((s.x a).extractLsb' 0 8))).issued g.sync) :=
  issue64_go h (if_neg (Nat.not_lt.mpr ha))
theorem ginit_illop (ha : 255 < (s.x a).toNat) : execGinit g a gate s = .next (trapAt s s.cur cILLOP (s.x a) false) :=
  issue64_trap h (if_pos ha)
end

/-! ## Handles at issue (R202, R364) -/

section
variable {s : State} {g : Guard} {hd a : R5} (h : Issues64 s g ⟨[a], [], [], [a]⟩)
include h

theorem hwait_illop (ha : 3 < (s.x a).toNat) : execHwait g hd a s = .next (trapAt s s.cur cILLOP (s.x a) false) :=
  issue64_trap h (if_pos ha)

variable (ha : (s.x a).toNat ≤ 3)
include ha

theorem hwait_passes (hs : s.my.hst hd = (s.x a).toNat) :
    execHwait g hd a s = .next ((if s.x a = 2 then s.acquire .package else s).passed.issued g.sync) := by
  have hf : s.x a = 2 ↔ (s.x a).toNat = 2 := (BitVec.toNat_inj (y := 2)).symm
  refine issue64_go h ((if_neg (Nat.not_lt.mpr ha)).trans ((if_pos hs).trans ?_))
  simp only [hf]
theorem hwait_held (hs : s.my.hst hd ≠ (s.x a).toNat) :
    ∃ t, execHwait g hd a s = .next t ∧ t.me.hold = .handle ∧ KeptBut [] [] [] s t :=
  held_for_handle (issue64_hold h ((if_neg (Nat.not_lt.mpr ha)).trans (if_neg hs)))
end

section
variable {s : State} {g : Guard} {hd a b : R5} (h : Issues64 s g ⟨[a, b], [], [], [a, b]⟩)
include h

theorem hset_unaligned (ha : (s.x a).extractLsb' 0 6 ≠ 0) : execHset g hd a b s = .next (trapAt s s.cur cALIGN (s.x a) false) :=
  issue64_trap h (if_pos ((bits_eq_zero_iff ..).not.mpr ha))
theorem hset_issues (ha : (s.x a).extractLsb' 0 6 = 0) (hz : (s.x a).extractLsb' 27 37 = 0) (hb : (s.x b).extractLsb' 0 6 = 0)
    (h24 : (s.x b).extractLsb' 24 8 = 0) (h35 : (s.x b).extractLsb' 35 29 = 0) (hf : s.my.hst hd = 0) : execHset g hd a b s =
      .next ((s.addEff (.hset hd ((s.x a).extractLsb' 0 27) ((s.x b).extractLsb' 0 24) ((s.x b).extractLsb' 32 3))).issued g.sync) := by
  rw [← bits_eq_zero_iff] at ha hb h24 h35
  exact issue64_go h (by simp [ha, hz, hb, h24, h35, hf])
end

/-- R202, R205, R206, R363, R364: each gate and handle instruction by its operands, then by its gate or handle. -/
theorem gateHandleResults : Rule.GateHandleResults := by
  intro s g a b hd gate reads x y k core
  rw [exec_gexp, exec_garr, exec_gwait, exec_ginit, exec_hwait, exec_hset, exec_hfree, ← bits_toNat]
  refine ⟨gexp_issues, gexp_overflows, fun h ha h0 hb hc => garr_issues h ha h0 hb ?_, fun h ha h0 hb hc hlow => garr_underflows h ha h0 hb ?_,
    gwait_passes, gwait_held, ginit_issues, ginit_illop, hwait_passes, hwait_held, hwait_illop, hset_issues, hset_unaligned,
    fun h => issue64_go h rfl⟩
  · rcases hc with ⟨hc, hd⟩ | ⟨hc, hn⟩
    · exact (garrLow_own hc).trans (decide_eq_false (Int.not_lt.mpr hd))
    · exact garrLow_nobody hc hn
  · exact (garrLow_own hc).trans (decide_eq_true hlow)

/-! ## The phase of a gate (R205) -/

section
variable (gt : Gate) {p : Nat} (n : Int)

theorem cnt_add_same (hp : p < 8) : (gt.add p n).cnt p = gt.cnt p + n := by
  simp [Gate.add, Gate.cnt, hp]
theorem cnt_add_other {q : Nat} (hq : q ≠ p) : (gt.add p n).cnt q = gt.cnt q := by
  unfold Gate.add
  split
  · unfold Gate.cnt
    split
    · next hp _ => exact Vector.getElem_set_ne hp _ hq.symm
    · rfl
  · rfl
@[simp] theorem ph_add : (gt.add p n).ph = gt.ph := by
  unfold Gate.add
  split <;> rfl
@[simp] theorem mask_add : (gt.add p n).mask = gt.mask := by
  unfold Gate.add
  split <;> rfl
theorem armd_add : (gt.add p n).armd = gt.armd := by
  unfold Gate.add
  split <;> rfl
end

/-- A gate with an expectation counted, before its check. -/
def Gate.awaiting (g : Gate) (p n : Nat) : Gate := { g.add p n with armd := true }

section
variable (gt : Gate) {p : Nat} (n : Nat)

theorem expect_eq : gt.expect p n = (gt.awaiting p n).check := rfl
@[simp] theorem ph_awaiting : (gt.awaiting p n).ph = gt.ph := ph_add ..
@[simp] theorem mask_awaiting : (gt.awaiting p n).mask = gt.mask := mask_add ..
theorem armd_awaiting : (gt.awaiting p n).armd = true := rfl
theorem cnt_awaiting_same (hp : p < 8) : (gt.awaiting p n).cnt p = gt.cnt p + n := cnt_add_same gt n hp
theorem cnt_awaiting_other {q : Nat} (hq : q ≠ p) : (gt.awaiting p n).cnt q = gt.cnt q := cnt_add_other gt n hq
end

/-- A gate none of whose expected producers has a count left. -/
def Gate.Drained (g : Gate) : Prop := ∀ q, q < 8 → g.mask.getLsbD q = true → g.cnt q = 0

theorem check_drained {g : Gate} (ha : g.armd = true) (hd : g.Drained) : g.check = { g with ph := !g.ph, armd := false } := by
  refine if_pos ?_
  rw [ha, Bool.true_and, List.all_eq_true]
  intro q hq
  by_cases hm : g.mask.getLsbD q = true
  · simp [hd q (List.mem_range.mp hq) hm]
  · simp [hm]
/-- A gate with a count left keeps its phase, and stays armed. -/
theorem check_pending {g : Gate} {p : Nat} (hp : p < 8) (hm : g.mask.getLsbD p = true) (hc : g.cnt p ≠ 0) : g.check = g := by
  refine if_neg ?_
  rw [Bool.and_eq_true, List.all_eq_true]
  rintro ⟨-, h⟩
  simpa [hm, hc] using h p (List.mem_range.mpr hp)

/-- R205: the expectation leaves a count, so the phase stays; the arrivals take it back to zero, so the phase turns. -/
theorem gatePhases : Rule.GatePhases := by
  intro gt p n hp hn hn' hm hc ho
  have hcp : (gt.awaiting p n).cnt p = n := by rw [cnt_awaiting_same gt n hp, hc, zero_add]
  have hexp : gt.expect p n = gt.awaiting p n := by
    rw [expect_eq]
    exact check_pending hp (by rwa [mask_awaiting]) (by omega)
  have hback : ((gt.awaiting p n).add p (-n)).cnt p = 0 := by rw [cnt_add_same _ _ hp, hcp, Int.add_right_neg]
  have hdrained : ((gt.awaiting p n).add p (-n)).Drained := by
    intro q hq hqm
    by_cases hqp : q = p
    · rwa [hqp]
    · rw [cnt_add_other _ _ hqp, cnt_awaiting_other _ _ hqp]
      exact ho q hq hqp (by simpa using hqm)
  rw [hexp]
  refine ⟨ph_awaiting .., hcp, _, if_neg (by omega), ?_⟩
  rw [check_drained ((armd_add ..).trans (armd_awaiting ..)) hdrained]
  exact ⟨by simp, rfl, hback⟩

/-- Settles O32: the instructions by their operands, and the phase by the counts that an expectation and its arrivals leave. -/
theorem gates : Obligations.Gates := ⟨gateHandleResults, gatePhases⟩

end Sys2Proof.Machine
end

section
/-! SUPPORT. Vector loads and stores and vldb at issue: the first lane that fails, and the accesses of the lanes or rows (R198, R372, R382,
R383, R385, R388). -/

namespace Sys2Proof.Machine

open Sys2Proof

/-! ## The checks of lanes (R383) -/

section
variable {s : State} {sp : Space} {n : Nat} {ad : Nat → W64} {first : Option (Nat × Nat × Nat × FaultOf)} {l : Nat} {ls : List Nat}

theorem loadChecks_pass (h : loadCheck s sp n (ad l) = none) :
    loadChecks s sp n ad first (l :: ls) = loadChecks s sp n ad first ls := by
  simp only [loadChecks, h]
theorem loadChecks_miss {a r : Nat} {rg : FaultOf} (h : loadCheck s sp n (ad l) = some (.miss a r rg)) :
    loadChecks s sp n ad first (l :: ls) = loadChecks s sp n ad (first.orElse fun _ => some ((ad l).toNat, a, r, rg)) ls := by
  simp only [loadChecks, h]
theorem loadChecks_trap {c : Nat} {v : W64} (h : loadCheck s sp n (ad l) = some (.trap c v)) :
    loadChecks s sp n ad none (l :: ls) = some (.trap c v) := by
  simp only [loadChecks, h]

/-- Lanes that all pass leave the checks to the lanes behind them. -/
theorem loadChecks_all_pass {pre : List Nat} (h : ∀ k ∈ pre, loadCheck s sp n (ad k) = none) :
    loadChecks s sp n ad first (pre ++ ls) = loadChecks s sp n ad first ls := by
  induction pre with
  | nil => rfl
  | cons k pre ih =>
    rw [List.cons_append, loadChecks_pass (h k (by simp))]
    exact ih fun j hj => h j (by simp [hj])
/-- Behind a first miss, lanes that do not trap leave it the first. -/
theorem loadChecks_no_trap {m : Nat × Nat × Nat × FaultOf} {mid : List Nat}
    (h : ∀ j ∈ mid, ∀ c v, loadCheck s sp n (ad j) ≠ some (.trap c v)) :
    loadChecks s sp n ad (some m) (mid ++ ls) = loadChecks s sp n ad (some m) ls := by
  induction mid with
  | nil => rfl
  | cons j mid ih =>
    have hrest := ih fun i hi => h i (by simp [hi])
    match hj : loadCheck s sp n (ad j) with
    | none => rw [List.cons_append, loadChecks_pass hj, hrest]
    | some (.miss a r rg) => rw [List.cons_append, loadChecks_miss hj, Option.orElse_some, hrest]
    | some (.trap c v) => exact absurd hj (h j (by simp) c v)
/-- Lanes none of which traps let the load issue. -/
theorem loadChecks_none (h : ∀ j ∈ ls, ∀ c v, loadCheck s sp n (ad j) ≠ some (.trap c v)) : loadChecks s sp n ad first ls = none := by
  induction ls generalizing first with
  | nil => rfl
  | cons j ls ih =>
    have hrest (i : Nat) (hi : i ∈ ls) := h i (by simp [hi])
    match hj : loadCheck s sp n (ad j) with
    | none => rw [loadChecks_pass hj, ih hrest]
    | some (.miss a r rg) => rw [loadChecks_miss hj, ih hrest]
    | some (.trap c v) => exact absurd hj (h j (by simp) c v)

/-- A trap behind a first miss waits for that miss's fault, or traps XLATE where it can have no answer. -/
theorem loadChecks_held {c a r d : Nat} {v : W64} {rg : FaultOf} {f : Nat} {u : State} (h : loadCheck s sp n (ad l) = some (.trap c v))
    (hf : raiseFault s s.my.cid a r (rg.kind 0) = (some f, u)) : loadChecks s sp n ad (some (d, a, r, rg)) (l :: ls) =
      some (.hold .memory (u.modMe fun st => { st with fwait := some (f, d) })) := by
  simp only [loadChecks, h, hf]
theorem loadChecks_xlate {c a r d : Nat} {v : W64} {rg : FaultOf} {u : State} (h : loadCheck s sp n (ad l) = some (.trap c v))
    (hf : raiseFault s s.my.cid a r (rg.kind 0) = (none, u)) :
    loadChecks s sp n ad (some (d, a, r, rg)) (l :: ls) = some (.trap cXLATE (BitVec.ofNat 64 d)) := by
  simp only [loadChecks, h, hf]

/-- Lanes of a store that form their addresses, where no store is translated at issue. -/
theorem storeChecks_all_pass {pre : List Nat} (htl : s.my.c.tl = 0 ∨ sp ≠ .g) (h : ∀ k ∈ pre, formAddr s sp (ad k) 0 n = .ok (ad k).toNat) :
    storeChecks s sp n ad (pre ++ ls) = storeChecks s sp n ad ls := by
  induction pre with
  | nil => rfl
  | cons k pre ih =>
    rw [List.cons_append, storeChecks]
    simp only [h k (by simp), syncMiss_none htl]
    exact ih fun j hj => h j (by simp [hj])
theorem storeChecks_none (htl : s.my.c.tl = 0 ∨ sp ≠ .g) (h : ∀ k ∈ ls, formAddr s sp (ad k) 0 n = .ok (ad k).toNat) :
    storeChecks s sp n ad ls = none := by
  simpa [storeChecks] using storeChecks_all_pass (ls := []) htl h
theorem storeChecks_trap {c : Nat} {v : W64} (h : formAddr s sp (ad l) 0 n = .error (c, v)) :
    storeChecks s sp n ad (l :: ls) = some (.trap c v) := by
  simp only [storeChecks, h]
end

/-! ## Loads and stores (R382, R388) -/

section
variable {s : State} {g : Guard} {us : Uses} {rd : List R6} {sp : Space} {ty : Ty} {vr : R6} {ad : State → Nat → W64}
  (h : IssuesVV s g us rd)
include h

theorem vecLoad_busy (hb : lanesBusy s sp = true) :
    vecLoad g us rd sp ty vr ad s = .next (trapAt s s.cur cILLOP (s.headWord.zeroExtend 64) false) := issueVV_trap h (if_pos hb)
theorem vecStore_busy (hb : lanesBusy s sp = true) :
    vecStore g us rd sp ty vr ad s = .next (trapAt s s.cur cILLOP (s.headWord.zeroExtend 64) false) := issueVV_trap h (if_pos hb)

variable (hb : lanesBusy s sp = false)
include hb

theorem vecLoad_go (hc : loadChecks s sp (memW ty) (ad s) none (activeLanes s g.pred) = none) : vecLoad g us rd sp ty vr ad s =
    .next (((activeLanes s g.pred).foldl (fun t l =>
      t.load 0 .weak .core sp (laneOf sp l) (ad s l).toNat (memW ty) (.vlane vr l ty)) s).issued g.sync) :=
  issueVV_go h ((if_neg (ne_true_of_eq_false hb)).trans (by simp only [hc]))
theorem vecLoad_trap {c : Nat} {v : W64} (hc : loadChecks s sp (memW ty) (ad s) none (activeLanes s g.pred) = some (.trap c v)) :
    vecLoad g us rd sp ty vr ad s = .next (trapAt s s.cur c v false) :=
  issueVV_trap h ((if_neg (ne_true_of_eq_false hb)).trans (by simp only [hc]))
theorem vecLoad_hold {k : Hold} {t : State} (hc : loadChecks s sp (memW ty) (ad s) none (activeLanes s g.pred) = some (.hold k t)) :
    vecLoad g us rd sp ty vr ad s = .next (t.held k) :=
  issueVV_hold h ((if_neg (ne_true_of_eq_false hb)).trans (by simp only [hc]))
theorem vecStore_go (hc : storeChecks s sp (memW ty) (ad s) (activeLanes s g.pred) = none) : vecStore g us rd sp ty vr ad s =
    .next (((activeLanes s g.pred).foldl (fun t l => t.addEff (.entry (mkEntry s 0 .weak .core sp (laneOf sp l) (ad s l).toNat (memW ty)
      (.store (toBytes (memW ty) (laneAt (s.v vr) l).toNat))))) s).issued g.sync) :=
  issueVV_go h ((if_neg (ne_true_of_eq_false hb)).trans (by simp only [hc]))
theorem vecStore_trap {c : Nat} {v : W64} (hc : storeChecks s sp (memW ty) (ad s) (activeLanes s g.pred) = some (.trap c v)) :
    vecStore g us rd sp ty vr ad s = .next (trapAt s s.cur c v false) :=
  issueVV_trap h ((if_neg (ne_true_of_eq_false hb)).trans (by simp only [hc]))
end

/-- R382, R383, R388: a load and a store by the first of their lanes that fails. -/
theorem vectorMemoryResults : Rule.VectorMemoryResults := by
  intro s g sp ty vd vb xa xb ls w illop loads stores strided indexed
  have load (us : Uses) (rd : List R6) (i : Instr) (ad : State → Nat → W64) (h : IssuesVV s g us rd)
      (hi : exec i s = vecLoad g us rd sp ty vd ad s) : loads i (ad s) := by
    refine ⟨fun hb => hi.trans (vecLoad_busy h hb), fun hb => ?_⟩
    rw [hi]
    refine ⟨fun hok => vecLoad_go h hb (loadChecks_none hok), fun pre l post c v hls hpre hl => vecLoad_trap h hb ?_,
      fun pre k mid l post c v a r rg hls hpre hk hmid hl => ?_⟩
    · change loadChecks s sp w (ad s) none ls = _
      rw [hls, loadChecks_all_pass hpre, loadChecks_trap hl]
    · have hc : loadChecks s sp w (ad s) none ls = loadChecks s sp w (ad s) (some ((ad s k).toNat, a, r, rg)) (l :: post) := by
        rw [hls, loadChecks_all_pass hpre, loadChecks_miss hk, Option.orElse_none, loadChecks_no_trap hmid]
      refine ⟨fun f u hf => vecLoad_hold h hb (hc.trans (loadChecks_held hl hf)), fun u hf => vecLoad_trap h hb (hc.trans ?_)⟩
      rw [loadChecks_xlate hl hf, BitVec.ofNat_toNat, BitVec.setWidth_eq]
      rfl
  have store (us : Uses) (rd : List R6) (i : Instr) (ad : State → Nat → W64) (h : IssuesVV s g us rd)
      (hi : exec i s = vecStore g us rd sp ty vd ad s) : stores i (ad s) := by
    refine ⟨fun hb => hi.trans (vecStore_busy h hb), fun hb htl => ?_⟩
    rw [hi]
    refine ⟨fun hok => vecStore_go h hb (storeChecks_none htl hok), fun pre l post c v hls hpre hl => vecStore_trap h hb ?_⟩
    change storeChecks s sp w (ad s) ls = _
    rw [hls, storeChecks_all_pass htl hpre, storeChecks_trap hl]
  exact ⟨fun h => load _ _ _ (strideAddr xa xb) h (exec_vld ..), fun h => store _ _ _ (strideAddr xa xb) h (exec_vst ..),
    fun h => load _ _ _ (indexAddr xa vb) h (exec_vldi ..), fun h => store _ _ _ (indexAddr xa vb) h (exec_vsti ..)⟩

/-! ## Loads of a handle's buffer (R372, R385) -/

/-- The loads of the rows of a buffer, by the handle and the mask that each sees as it enters: all see those of the first. -/
theorem rowLoads_eq {hd pred : R5} {sp : Space} {off : Nat} {vd : R6} {base : Nat} {mask : W64} (l : List Nat) (t : State)
    (hh : hBase (t.hreg hd) = base) (hm : laneMask t pred = mask) :
    l.foldl (fun t i => t.load 0 .weak .core sp 0 (hBase (t.hreg hd) + off + 256 * i) 256 (.vrow (vd + BitVec.ofNat 6 i) (laneMask t pred))) t =
      l.foldl (fun t i => t.load 0 .weak .core sp 0 (base + off + 256 * i) 256 (.vrow (vd + BitVec.ofNat 6 i) mask)) t := by
  induction l generalizing t with
  | nil => rfl
  | cons i l ih =>
    rw [List.foldl_cons, List.foldl_cons, hh, hm]
    exact ih _ hh hm

section
variable {s : State} {g : Guard} {vd n : R6} {sa : BitVec 4} {xb : R5} {sp : Space}
  (h : IssuesVV s g ⟨[xb], [], (List.range n.toNat).map fun i => vd + BitVec.ofNat 6 i, [xb]⟩ []) (hc : SregsClean s [sa])
include h hc

theorem vldb_illop (hv : 5 ≤ sSp (s.sreg sa) ∨ (s.sreg sa).getLsbD 63 = false) :
    execVldb g vd sa xb n s = .next (trapAt s s.cur cILLOP (sa.zeroExtend 64) false) :=
  issueVV_trap h ((readSregs_clean hc _).trans (if_pos (by simpa using hv)))

variable (h5 : sSp (s.sreg sa) < 5) (hv : (s.sreg sa).getLsbD 63 = true)
include h5 hv

theorem vldb_held (hf : s.my.hst (sHdl (s.sreg sa)) ≠ 2) :
    ∃ t, execVldb g vd sa xb n s = .next t ∧ t.me.hold = .handle ∧ KeptBut [] [] [] s t :=
  held_for_handle (issueVV_hold h ((readSregs_clean hc _).trans ((if_neg (by simp [h5, hv])).trans (if_pos hf))))

variable (hf : s.my.hst (sHdl (s.sreg sa)) = 2)
include hf

theorem vldb_trap {c : Nat} {e : W64} (ht : handleTrap s (sHdl (s.sreg sa)) (256 * (s.x xb).toNat + 256 * n.toNat) = some (c, e)) :
    execVldb g vd sa xb n s = .next (trapAt s s.cur c e false) := by
  refine issueVV_trap h ((readSregs_clean hc _).trans ((if_neg (by simp [h5, hv])).trans ((if_neg (not_not.mpr hf)).trans ?_)))
  simp only [ht]
theorem vldb_loads (ht : handleTrap s (sHdl (s.sreg sa)) (256 * (s.x xb).toNat + 256 * n.toNat) = none)
    (hs : hSpace (s.hreg (sHdl (s.sreg sa))) = some sp) : execVldb g vd sa xb n s =
      .next ((((List.range n.toNat).foldl (fun t i => t.load 0 .weak .core sp 0
        (hBase (s.hreg (sHdl (s.sreg sa))) + 256 * (s.x xb).toNat + 256 * i) 256 (.vrow (vd + BitVec.ofNat 6 i) (laneMask s g.pred)))
          (s.acquire .package)).addEff (.drain (sHdl (s.sreg sa)))).issued g.sync) := by
  refine issueVV_go h ((readSregs_clean hc _).trans ((if_neg (by simp [h5, hv])).trans ((if_neg (not_not.mpr hf)).trans ?_)))
  have hk : KeptBut [] [] [] s (s.acquire .package) := kept_dropViews ..
  simp only [ht, hs]
  rw [rowLoads_eq]
  · simp only [State.hreg, hk.h]
  · simp only [laneMask, hk.p g.pred (by simp)]
end

/-- R198, R372, R385: vldb by its register, its handle, and then the length of the buffer. -/
theorem bufferLoadResults : Rule.BufferLoadResults := by
  intro s g vd n sa xb sp h hc
  rw [exec_vldb]
  exact ⟨vldb_loads h hc, fun c e h5 hv hf ht => vldb_trap h hc h5 hv hf ht, vldb_held h hc, vldb_illop h hc⟩

/-- Settles O38: the lanes by the first that fails, vldb by its register and its handle. -/
theorem vectorMemory : Obligations.VectorMemory := ⟨vectorMemoryResults, bufferLoadResults⟩

end Sys2Proof.Machine
end

section
/-! SUPPORT. Queues between streams at issue (R370, R371), and a ring operation in its one step (R211, R369). -/

namespace Sys2Proof.Machine

open Sys2Proof

/-! ## Queues (R370, R371) -/

/-- An update of the moving task goes by what it makes of that task. -/
theorem modMy_congr {s : State} {f k : Task → Task} (h : f s.my = k s.my) : s.modMy f = s.modMy k := by
  simp only [State.modMy, State.modTask]
  exact congrArg (s.setTask _ _) h

section
variable {s : State} {g : Guard} {d q : R5}

theorem queueAt_below (hq : q.toNat < 8) : queueAt s.my q = s.my.q[q.toNat] := dif_pos hq

section
variable (hn : queueAt s.my q = [])
include hn

theorem qpop_empty (h : Issues64 s g ⟨[d], [], [], []⟩) : execQpop g d q s = .next (s.held .token) := issue64_hold h (by simp only [hn])
theorem qpeek_empty (h : Issues64 s g ⟨[d], [], [], []⟩) : execQpeek g d q s = .next (s.held .token) := issue64_hold h (by simp only [hn])
theorem qpopp_empty (h : Issues64 s g ⟨[], [d], [], []⟩) : execQpopp g d q s = .next (s.held .token) := issue64_hold h (by simp only [hn])
end

section
variable {v : W64} {vs : List W64} (hv : queueAt s.my q = v :: vs)
include hv

theorem qpop_takes (h : Issues64 s g ⟨[d], [], [], []⟩) : execQpop g d q s = .next (((s.popQueue q v).setX d v).issued g.sync) :=
  issue64_go h (by simp only [hv])
theorem qpeek_reads (h : Issues64 s g ⟨[d], [], [], []⟩) : execQpeek g d q s = .next ((s.setX d v).issued g.sync) :=
  issue64_go h (by simp only [hv])
theorem qpopp_takes (h : Issues64 s g ⟨[], [d], [], []⟩) : execQpopp g d q s = .next (((s.popQueue q v).setP d v).issued g.sync) :=
  issue64_go h (by simp only [hv, h.readPreds (rd := []) (wr := [d]) (by simp) (by simp)])
end

/-- What a pop leaves: the queue without its head, which a discard gives back. -/
theorem popQueue_eq (hq : q.toNat < 8) {v : W64} {vs : List W64} (hv : s.my.q[q.toNat] = v :: vs) :
    s.popQueue q v = ((s.modMy fun t => { t with q := t.q.set q.toNat vs }).modBlk fun b =>
      { b with taken := b.taken ++ [.queue q.toNat v] }).acquire .core := by
  have hm : (s.modMy fun t => if h : q.toNat < 8 then { t with q := t.q.set q.toNat (t.q[q.toNat].tail) } else t) =
      s.modMy fun t => { t with q := t.q.set q.toNat vs } := modMy_congr (by simp only [hq, dite_true, hv, List.tail_cons])
  simp only [State.popQueue, hm]
end

/-- R370, R371: each queue instruction by what stands in its queue. -/
theorem queueResults : Rule.QueueResults := by
  intro s g d a q hq
  rw [exec_qpush]
  refine ⟨fun h => issue64_go h rfl, fun v vs hv => ?_, fun hn => ?_⟩
  · have hat := (queueAt_below hq).trans hv
    rw [exec_qpop, exec_qpeek, exec_qpopp, ← popQueue_eq hq hv]
    exact ⟨fun h => ⟨qpop_takes hat h, qpeek_reads hat h⟩, qpopp_takes hat⟩
  · have hat := (queueAt_below hq).trans hn
    refine ⟨fun h i hi => ?_, fun h => (exec_qpopp ..).trans (qpopp_empty hat h)⟩
    simp only [List.mem_cons, List.not_mem_nil, or_false] at hi
    rcases hi with rfl | rfl
    · exact (exec_qpop ..).trans (qpop_empty hat h)
    · exact (exec_qpeek ..).trans (qpeek_empty hat h)

/-! ## The bank of a ring (R158) -/

/-- What reaching the bank of an access leaves: the tasks, and no error where there was none. -/
structure BankReached (s t : State) : Prop where
  cur : t.cur = s.cur
  tasks : t.tasks = s.tasks
  soft : s.soft = [] → t.soft = []
  poison : s.poison = [] → t.poison = []

theorem BankReached.refl (s : State) : BankReached s s := ⟨rfl, rfl, id, id⟩
theorem BankReached.trans {s t u : State} (h : BankReached s t) (h' : BankReached t u) : BankReached s u :=
  ⟨h'.cur.trans h.cur, h'.tasks.trans h.tasks, fun hs => h'.soft (h.soft hs), fun hs => h'.poison (h.poison hs)⟩

theorem bankReached_travel (s : State) (a b n : Nat) : BankReached s (travel s a b n) := by
  have h := linksOnly_travel s a b n
  unfold LinksOnly at h
  exact ⟨by rw [h], by rw [h], fun hs => by rw [h]; exact hs, fun hs => by rw [h]; exact hs⟩
theorem bankReached_claimOne (s : State) (cid part : Nat) : BankReached s (claimOne s cid part) := by
  unfold claimOne
  split
  · exact .refl s
  · exact ⟨rfl, rfl, fun hs => by simp [zeroKeys, hs], fun hs => by simp [zeroKeys, hs]⟩
theorem bankReached_claimPart (s : State) (sp : Space) (cid a n : Nat) : BankReached s (claimPart s sp cid a n) := by
  cases sp with
  | d => exact (bankReached_claimOne ..).trans (bankReached_claimOne ..)
  | g | c | k | l => exact .refl s
theorem bankReached_atBank (s : State) (e : Entry) : BankReached s (atBank s e) := by
  refine .trans ?_ (bankReached_claimPart ..)
  split
  · exact bankReached_travel ..
  · exact .refl s

section
variable {s t : State} (h : BankReached s t)
include h

theorem BankReached.my : t.my = s.my := by
  unfold State.my State.task
  rw [h.cur, h.tasks]
theorem BankReached.me : t.me = s.me := by
  unfold State.me
  rw [h.my, h.cur]
theorem BankReached.x (a : R5) : t.x a = s.x a := congrArg (EStream.rx · a) h.me
theorem BankReached.blk : t.blk = s.blk := congrArg EStream.blk h.me
end

/-! ## A ring operation (R211, R369) -/

/-- The ring at x[a], its header read once its part of a die scratchpad is claimed. -/
def ringOf (s : State) (sp : Space) (a : R5) : Ring :=
  ringAt (claimPart s sp s.my.cid (s.x a).toNat 64) s.cur sp (s.x a).toNat
/-- The scope of a ring's home. -/
def ringScope (s : State) (sp : Space) (a : R5) : Scope :=
  if sp = .k then .eight else if (s.x a).toNat / 2 ^ 25 = dieOf s.cur.core then .die else .package
/-- The access as which a ring operation waits for its turn. -/
def ringEntry (s : State) (sp : Space) (a : R5) (rel acq : Bool) : Entry :=
  { mkEntry s 1 (if rel then .release else if acq then .acquire else .strong) (ringScope s sp a) sp 0 (s.x a).toNat (ringOf s sp a).bytes
    (.amo .add true 0 0 0) with uid := s.uid }
/-- What is left once a ring operation has given its value: its exits have issued. -/
def ringDone (w y : State) (g : Guard) (d : R5) (v : W64) (acq : Bool) (sc : Scope) : State :=
  runExits (match w.blk with | some b => b.words.length - 2 | none => 0)
    ((((if acq then y.acquire sc else y).setX d v).tokens g.sync).next)

/-- What a ring instruction meets before it performs anything: its ring, its slot and its block are as they should be (R369). -/
structure RingChecks (s : State) (sp3 : BitVec 3) (sp : Space) (a : R5) (slot : Option Nat) : Prop where
  alone : ringAlone s = true
  space : ringSpace sp3 = some sp
  aligned : (s.x a).toNat % 64 = 0
  header : checkAddr s s.cur s.my.cid sp (s.x a).toNat 64 false = none
  slot : (if slot.isSome then checkAddr s s.cur s.my.cid .c (slot.getD 0) 64 false else none) = none
  slots : checkAddr s s.cur s.my.cid sp ((s.x a).toNat + (ringOf s sp a).bytes - 1) 1 false = none
  preds : ∀ b, s.blk = some b → PredsClean s ((b.words.drop 2).map fun w => (exitOf w).1)

section
variable {s : State} {g : Guard} {us : List R5} {sp3 : BitVec 3} {sp : Space} {d a : R5} {t : State → Nat} {slot : Option Nat} {rel acq : Bool}
  {reads : Ring → State → List (Nat × Nat)} {op : Ring → State → RingOut}
  (h : Issues64 s g ⟨d :: us, [], [], us⟩) (hc : RingChecks s sp3 sp a slot)
include h hc

theorem ringIns_exitErr (he : ringExits s ≠ 1) : ringIns g us sp3 d a t slot rel acq reads op s =
    .next (trapAt s s.cur cEXITERR (BitVec.ofNat 64 (ringExits s)) false) := by
  obtain ⟨b, hb⟩ := Option.isSome_iff_exists.mp h.opened
  have hp : PredsClean s (({ b with exits := (b.words.drop 2).map exitOf } : Block).exits.map (·.1)) := by
    simpa [Function.comp_def] using hc.preds b hb
  have hslots := hc.slots
  unfold ringOf at hslots
  refine issue64_trap h ?_
  simp only [hc.alone, hc.space, hc.aligned, hc.header, hc.slot, hslots, hb, readExits_clean hp, exitsBad_clean hp, he, Option.any_some,
    Option.orElse_none, Bool.not_true, Bool.false_eq_true, if_false, ne_eq, not_true_eq_false, not_false_eq_true, if_true]

end

/-- A state without errors is read as it stands, in any number of places. -/
theorem eccReads_of_no_errors {s : State} (h : s.soft = []) (l : List (Nat × Nat)) : l.foldl (fun s x => eccRead s x.1 x.2) s = s :=
  List.foldlRecOn (motive := fun u => u = s) l _ rfl fun u hu x _ => by rw [hu, eccRead_of_no_errors h]
theorem noPoison_of_no_errors {s : State} (h : s.soft = []) (hp : s.poison = []) (l : List (Nat × Nat)) :
    (l.any fun x => homePoison s x.1 x.2) = false := List.any_eq_false.mpr fun x _ => by simp [homePoison_of_no_errors h hp]

/-- How a ring instruction ends once its operation has answered at its bank. -/
def ringAnswer (w : State) (g : Guard) (d : R5) (tkt : Nat) (acq : Bool) (sc : Scope) : RingOut → Res
  | .err => .trap cRINGERR (BitVec.ofNat 64 tkt)
  | .wait => .hold .token w
  | .ok v y =>
    let z := ringDone w y g d v acq sc
    match z.blk with
    | none => .hold .memory w
    | some b =>
      match exitTrap z.my w.cur.eng b with
      | some (c, v) => .trap c v
      | none => match (commitBlock z w.cur).blk with
        | some _ => .hold (commitBlock z w.cur).me.hold w
        | none => .stop (commitBlock z w.cur)

/-- A ring instruction whose turn has come: one exit is true, no older entry is in its way, and its ring is of a size there is. -/
structure RingTurn (s : State) (sp : Space) (a : R5) (rel acq : Bool) : Prop where
  exits : ringExits s = 1
  turn : eligible { s with paths := s.paths ++ [ringEntry s sp a rel acq] } (ringEntry s sp a rel acq) = true
  soft : s.soft = []
  poison : s.poison = []
  size : bits (ringOf s sp a).h 97 4 < 13

section
variable {s : State} {g : Guard} {us : List R5} {sp3 : BitVec 3} {sp : Space} {d a : R5} {t : State → Nat} {slot : Option Nat} {rel acq : Bool}
  {reads : Ring → State → List (Nat × Nat)} {op : Ring → State → RingOut}
  (h : Issues64 s g ⟨d :: us, [], [], us⟩) (hc : RingChecks s sp3 sp a slot) (ht : RingTurn s sp a rel acq)
include h hc ht

theorem ringIns_eq : ringIns g us sp3 d a t slot rel acq reads op s =
    issue64 s g ⟨d :: us, [], [], us⟩ fun s =>
      let w := atBank s (ringEntry s sp a rel acq)
      ringAnswer w g d (t w) acq (ringScope s sp a) (op (ringOf s sp a) ((ringEntry s sp a rel acq).who.harden w)) := by
  obtain ⟨b, hb⟩ := Option.isSome_iff_exists.mp h.opened
  have hp : PredsClean s (({ b with exits := (b.words.drop 2).map exitOf } : Block).exits.map (·.1)) := by
    simpa [Function.comp_def] using hc.preds b hb
  have hslots := hc.slots
  have hturn := ht.turn
  have hsize := Nat.not_le.mpr ht.size
  have hbank := bankReached_atBank s (ringEntry s sp a rel acq)
  have hsoft := hbank.soft ht.soft
  have hpoison := hbank.poison ht.poison
  unfold ringIns issue64
  rw [issue_issuing h, issue_issuing h]
  unfold ringEntry ringOf ringScope at *
  simp only [hc.alone, hc.space, hc.aligned, hc.header, hc.slot, hslots, hb, readExits_clean hp, exitsBad_clean hp, ht.exits, Option.any_some,
    hturn, hsize, eccReads_of_no_errors hsoft, noPoison_of_no_errors hsoft hpoison,
    Option.orElse_none, Bool.not_true, Bool.false_eq_true, if_false, ne_eq, not_true_eq_false]
  rfl

theorem ringIns_ringErr (ho : op (ringOf s sp a) ((ringEntry s sp a rel acq).who.harden (atBank s (ringEntry s sp a rel acq))) = .err) :
    ringIns g us sp3 d a t slot rel acq reads op s =
      .next (trapAt s s.cur cRINGERR (BitVec.ofNat 64 (t (atBank s (ringEntry s sp a rel acq)))) false) := by
  rw [ringIns_eq h hc ht]
  refine issue64_trap h ?_
  simp only [ho, ringAnswer]
theorem ringIns_waits (ho : op (ringOf s sp a) ((ringEntry s sp a rel acq).who.harden (atBank s (ringEntry s sp a rel acq))) = .wait) :
    ringIns g us sp3 d a t slot rel acq reads op s = .next ((atBank s (ringEntry s sp a rel acq)).held .token) := by
  rw [ringIns_eq h hc ht]
  refine issue64_hold h ?_
  simp only [ho, ringAnswer]

/-- An operation that answers with a value issues its exits and commits its block. -/
theorem ringIns_commits {v : W64} {y : State} {b : Block}
    (ho : op (ringOf s sp a) ((ringEntry s sp a rel acq).who.harden (atBank s (ringEntry s sp a rel acq))) = .ok v y)
    (hb : (ringDone s y g d v acq (ringScope s sp a)).blk = some b)
    (hx : exitTrap (ringDone s y g d v acq (ringScope s sp a)).my s.cur.eng b = none)
    (hn : (commitBlock (ringDone s y g d v acq (ringScope s sp a)) s.cur).blk = none) :
    ringIns g us sp3 d a t slot rel acq reads op s = .next (commitBlock (ringDone s y g d v acq (ringScope s sp a)) s.cur) := by
  have hbank := bankReached_atBank s (ringEntry s sp a rel acq)
  have hz : ringDone (atBank s (ringEntry s sp a rel acq)) y g d v acq (ringScope s sp a) = ringDone s y g d v acq (ringScope s sp a) := by
    simp only [ringDone, hbank.blk]
  rw [ringIns_eq h hc ht]
  refine issue64_stop h ?_
  simp only [ho, ringAnswer, hz, hbank.cur, hb, hx, hn]
end

/-- The ticket that x[b] names. -/
def ticketOf (b : R5) (s : State) : Nat := ((s.x b).extractLsb' 0 32).toNat
theorem ticketOf_bank {s w : State} (h : BankReached s w) (b : R5) : ticketOf b w = ticketOf b s := by
  unfold ticketOf
  rw [h.x]
theorem execRngput_eq (g : Guard) (sp3 : BitVec 3) (d a b : R5) (n : BitVec 14) (s : State) : execRngput g sp3 d a b n s =
    ringIns g [a, b] sp3 d a (ticketOf b) (some (64 * n.toNat)) true false (putReads (ticketOf b s))
      (fun r s' => ringPut r (ticketOf b s') (s'.read (localKey s' s'.cur .c 0 (64 * n.toNat)) 64) s') s := by
  simp only [execRngput, bits_toNat]
  rfl
theorem execRngeos_eq (g : Guard) (sp3 : BitVec 3) (a b : R5) (s : State) : execRngeos g sp3 a b s =
    ringIns g [a, b] sp3 0 a (ticketOf b) none false false (eosReads (ticketOf b s)) (fun r s' => ringEos r (ticketOf b s') s') s := by
  simp only [execRngeos, bits_toNat]
  rfl

/-- R211, R369: each of the four instructions is a ring operation, which its checks, its exits and its turn let through. -/
theorem ringResults : Rule.RingResults := by
  intro s g sp3 sp d a b n rel acq slot us op tkt i h halone hsp hal rb t32 c hcases r sc e hhead hend hslot hpreds
  obtain ⟨t, reads, hi, ht, hsl⟩ : ∃ t reads, exec i s = ringIns g us sp3 d a t slot rel acq reads op s ∧
      (∀ w, BankReached s w → t w = tkt s) ∧ (slot = none ∨ slot = some c) := by
    rcases hcases with ⟨rfl, rfl, rfl, rfl, rfl, rfl, rfl⟩ | ⟨rfl, rfl, rfl, rfl, rfl, rfl, rfl⟩ | ⟨rfl, rfl, rfl, rfl, rfl, rfl, rfl⟩ |
      ⟨rfl, rfl, rfl, rfl, rfl, rfl, rfl, rfl⟩
    · exact ⟨_, _, exec_rngtk .., fun _ _ => rfl, .inl rfl⟩
    · exact ⟨_, _, (exec_rngput ..).trans (execRngput_eq ..), fun w hw => ticketOf_bank hw b, .inr rfl⟩
    · exact ⟨_, _, exec_rngget .., fun _ _ => rfl, .inr rfl⟩
    · exact ⟨_, _, (exec_rngeos ..).trans (execRngeos_eq ..), fun w hw => ticketOf_bank hw b, .inl rfl⟩
  have hc : RingChecks s sp3 sp a slot := by
    refine ⟨halone, hsp, hal, hhead, ?_, hend, hpreds⟩
    rcases hsl with rfl | rfl
    · rfl
    · exact hslot rfl
  refine ⟨fun he => hi.trans (ringIns_exitErr h hc he), fun he hturn hs hp hsize => ?_⟩
  intro w u
  have hready : RingTurn s sp a rel acq := ⟨he, hturn, hs, hp, hsize⟩
  refine ⟨fun ho => ?_, fun ho => hi.trans (ringIns_waits h hc hready ho), fun v y ho => ?_⟩
  · rw [hi, ringIns_ringErr h hc hready ho, ht _ (bankReached_atBank ..)]
    rfl
  · intro k z bl hb hx hn
    exact hi.trans (ringIns_commits h hc hready ho hb hx hn)

/-- Settles O33: a queue by what stands in it, a ring by what its operation answers. -/
theorem queuesAndRings : Obligations.QueuesAndRings := ⟨queueResults, ringResults⟩

end Sys2Proof.Machine
end

section
/-! SUPPORT. Transform rings (R217 to R220): whose turn it is, the request that has the turn and its work, and the completion. -/

namespace Sys2Proof.Machine

open Sys2Proof

/-! ## Turns (R217) -/

/-- A find over places counted round from a start: no place that passes stands before the one found. -/
theorem find_round {last ring : Nat} {p : Nat → Bool} (h : ((List.range 64).map fun i => (last + i) % 64).find? p = some ring) :
    p ring = true ∧ ∀ r, r < 64 → p r = true → (ring + 64 - last % 64) % 64 ≤ (r + 64 - last % 64) % 64 := by
  obtain ⟨hp, i, hi, hri, hbefore⟩ := List.find?_eq_some_iff_getElem.mp h
  simp only [List.length_map, List.length_range] at hi
  simp only [List.getElem_map, List.getElem_range] at hri hbefore
  refine ⟨hp, fun r hr hpr => ?_⟩
  by_contra hlt
  have hj : (r + 64 - last % 64) % 64 < i := by omega
  have hr' : (last + (r + 64 - last % 64) % 64) % 64 = r := by omega
  have := hbefore _ hj
  rw [hr', hpr] at this
  exact absurd this (by decide)

theorem teTurn_first {s : State} {die ring : Nat} (h : teTurn s die = some ring) : ringDie s ring = die ∧ ringReady s ring = true ∧
    ∀ r, r < 64 → ringDie s r = die → ringReady s r = true →
      (ring + 64 - tget 0 s.teLast die % 64) % 64 ≤ (r + 64 - tget 0 s.teLast die % 64) % 64 := by
  obtain ⟨hp, hbefore⟩ := find_round h
  simp only [Bool.and_eq_true, beq_iff_eq] at hp hbefore
  exact ⟨hp.1, hp.2, fun r hr hd hr' => hbefore r hr ⟨hd, hr'⟩⟩

/-! ## Requests (R218, R219) -/

/-- A ring that may not be served has no turn, so none of its requests is. -/
theorem teServe_idle {s : State} {ring : Nat} (h : ringReady s ring = false) (isOp : Nat → Bool) (work : Who → Req → TM Nat) :
    teServe ring isOp work s = .next s := by
  refine if_pos fun ht => ?_
  rw [(teTurn_first ht).2.1] at h
  exact absurd h (by decide)

section
variable {s u t : State} {ring st : Nat} {q : Req} {tag : W32} {isOp : Nat → Bool} {work : Who → Req → TM Nat}

/-- The request whose turn it is, of the operation asked for, is done with the status of its work. -/
theorem teServe_works (h : RequestRead s u ring q tag) (hop : isOp (bits q.d 0 4) = true) (hw : work (ringWho s ring) q u = .ok st t) :
    teServe ring isOp work s = .next (t.teDone ring st tag) := by
  obtain ⟨hturn, ⟨hcid, hdie⟩, rfl, x, v, hx, hq, hlo, hhi⟩ := h
  have hq' : (⟨q.d, ringDie s ring, (ringWho s ring).cid⟩ : Req) = q := by
    rw [← hdie]
    exact congrArg (Req.mk q.d q.die) hcid.symm
  have hlog : (bits x 64 4 < 4 || bits x 64 4 > 12 : Bool) = false := by simp [hlo, hhi]
  unfold teServe
  simp only [hturn, hx, hq, hop, hlog, hq', hw, ne_eq, not_true_eq_false, Bool.not_true, Bool.false_eq_true, if_false]

variable (h : RequestRead s u ring q tag)
include h

/-- TRANSP, FCONV and PICT of RM 3 are BADARG, whatever their types. -/
theorem teTransp_badRm (hop : bits q.d 0 4 = 2) (hr : q.rm = 3) : execTeTransp ring s = .next (u.teDone ring teBadarg tag) := by
  refine teServe_works h (by simp [hop]) ?_
  cases q.sty with
  | none => rfl
  | some a => exact run_then (by simp [hr]) rfl
theorem teFconv_badRm (hop : bits q.d 0 4 = 3) (hr : q.rm = 3) : execTeFconv ring s = .next (u.teDone ring teBadarg tag) := by
  refine teServe_works h (by simp [hop]) ?_
  cases q.sty with
  | none => rfl
  | some a =>
    cases q.dty with
    | none => rfl
    | some b => exact run_then (by simp [hr]) rfl
theorem tePict_badRm (hop : bits q.d 0 4 = 1) (hr : q.rm = 3) : execTePict ring s = .next (u.teDone ring teBadarg tag) := by
  refine teServe_works h (by simp [hop]) ?_
  cases q.sty with
  | none => rfl
  | some a =>
    cases q.dty with
    | none => rfl
    | some b => exact run_then (by simp [hr]) rfl

variable (hr : q.rm ≠ 3)
include hr

theorem teRecomp_done (hop : bits q.d 0 4 = 4) (hw : q.w ≠ 0) (hd : q.dst % 512 = 0)
    (ht : recompBlocks (ringWho s ring) q.w q.dst u = .ok () t) : execTeRecomp ring s = .next (t.teDone ring teOk tag) := by
  refine teServe_works h (by simp [hop]) ?_
  exact run_else (by simp [hr, hw, hd]) (bind_ok ht rfl)
theorem teCbload_done (hop : bits q.d 0 4 = 5) (hc : q.cid < 1024) {bs : List (Byte × Bool)}
    (ht : teRead (ringWho s ring) q.src 256 u = .ok bs t) : execTeCbload ring s = .next (({ t with
        books := tput [] t.books (q.die * 8192 + 2 * q.cid + q.f 16 1) (bs.map (·.1))
        bookSt := tput 0 t.bookSt (q.die * 8192 + 2 * q.cid + q.f 16 1)
          (1 + 2 * (1 - bits (tget 0 t.bookSt (q.die * 8192 + 2 * q.cid + q.f 16 1)) 1 1)) } : State).teDone ring teOk tag) := by
  refine teServe_works h (by simp [hop]) ?_
  exact run_else (by simp [hr, hc]) (bind_ok ht rfl)

variable (hw : q.w ≠ 0) (hh : q.h ≠ 0)
include hw hh

theorem teTransp_done (hop : bits q.d 0 4 = 2) {ty : Ty} {gr : List (List (Nat × Bool))} {v : State} (hs : q.sty = some ty)
    (hd : q.dty = some ty) (hg : readRows (ringWho s ring) ty q.w q.spitch q.h q.src u = .ok gr v)
    (ht : writeElems (ringWho s ring) ty q.dpitch ((List.range q.w).map fun x => (List.range q.h).map fun y => gridAt gr y x) q.dst v =
      .ok () t) : execTeTransp ring s = .next (t.teDone ring teOk tag) := by
  refine teServe_works h (by simp [hop]) ?_
  simp only [hs, hd]
  exact run_else (by simp [hr, hw, hh]) (bind_ok hg (bind_ok ht rfl))
theorem teFconv_done (hop : bits q.d 0 4 = 3) {a b : Ty} {gr : List (List (Nat × Bool))} {v : State} (hs : q.sty = some a)
    (hd : q.dty = some b) (ha : a ≠ .e3m5) (hb : b ≠ .e3m5) (hg : readRows (ringWho s ring) a q.w q.spitch q.h q.src u = .ok gr v)
    (ht : writeElems (ringWho s ring) b q.dpitch
      (gr.map fun r => r.map fun e => ((convTo b (if q.rm = 1 then 1 else 0) (q.rm == 2) (fpOf a e.1)).1, e.2)) q.dst v = .ok () t) :
    execTeFconv ring s = .next (t.teDone ring teOk tag) := by
  refine teServe_works h (by simp [hop]) ?_
  simp only [hs, hd]
  exact run_else (by simp [hr, hw, hh, ha, hb]) (bind_ok hg (bind_ok ht rfl))
theorem tePict_done (hop : bits q.d 0 4 = 1) {a b : Ty} {luma chroma : List (List (Nat × Bool))} {v w : State} (hs : q.sty = some a)
    (hd : q.dty = some b) (ha : a = .n8 ∨ a = .n16) (hb : b = .f32 ∨ b = .f16 ∨ b = .bf16 ∨ b = .n8) (how : q.ow ≠ 0) (hoh : q.oh ≠ 0)
    (hl : readRows (ringWho s ring) a q.w q.spitch q.h q.src u = .ok luma v)
    (hc : readRows (ringWho s ring) a (2 * ((q.w + 1) / 2)) q.spitch ((q.h + 1) / 2) (q.src + (q.h + 15) / 16 * 16 * q.spitch) v =
      .ok chroma w)
    (ht : writeElems (ringWho s ring) b q.dpitch
      ((List.range q.oh).map fun oy => (List.range q.ow).flatMap fun ox => pictSample q a b luma chroma oy ox) q.dst w = .ok () t) :
    execTePict ring s = .next (t.teDone ring teOk tag) := by
  refine teServe_works h (by simp [hop]) ?_
  simp only [hs, hd]
  have hty : (¬ a = .n8 → a = .n16) ∧ (¬ b = .f32 → ¬ b = .f16 → ¬ b = .bf16 → b = .n8) :=
    ⟨ha.resolve_left, fun h1 h2 h3 => ((hb.resolve_left h1).resolve_left h2).resolve_left h3⟩
  exact run_else (by simpa [hr, hw, hh, how, hoh] using hty) (bind_ok hl (bind_ok hc (bind_ok ht rfl)))
end

/-! ## Polls and completions (R217, R220) -/

section
variable {s : State} {ring : Nat} (h : ringServed s ring = true) (hw : (teOf s ring).wait = none)
include h hw

theorem teRingPoll_reads {u : State} {p : Nat} (hp : teReadN (ringWho s ring) (ringHdr s ring) 8 s = .ok p u) :
    execTeRingPoll ring s = .next (u.modTe ring fun t => { t with
      prod := some (BitVec.ofNat 32 (bits p 0 32)), cons := BitVec.ofNat 32 (bits p 32 32), since := if t.pending then t.since else s.cycle }) := by
  refine (if_neg (by simp [h, hw])).trans ?_
  simp only [hp]

/-- The completion record of a request, its TAG and its status, with the pass over the ring that it belongs to (R220). -/
def teRecord (st : Nat) (tag : W32) (k n : Nat) : Nat := tag.toNat + st * 2 ^ 32 + (if k / n % 2 = 0 then 2 ^ 63 else 0) + k * 2 ^ 64

theorem teRequestComplete_done {a b c : State} {st x : Nat} {tag : W32} (hd : (teOf s ring).done = some (st, tag))
    (hx : teReadN (ringWho s ring) (ringHdr s ring) 64 s = .ok x a)
    (hrec : teWrite (ringWho s ring) (bits x 96 48 + 16 * (bits x 32 32 % 2 ^ bits x 64 4))
      (clean (toBytes 16 (teRecord st tag (bits x 32 32) (2 ^ bits x 64 4)))) a = .ok () b)
    (hcons : teWrite (ringWho s ring) (ringHdr s ring + 4) (clean (toBytes 4 ((bits x 32 32 + 1) % 2 ^ 32))) b = .ok () c) :
    let d := (c.modTe ring fun t => { t with cons := BitVec.ofNat 32 (bits x 32 32 + 1), since := c.cycle }).modTe ring fun t =>
      { t with done := none }
    execTeRequestComplete ring s =
      .next (if bits x 80 16 ≠ 0 then signalEvent d (ringWho s ring).cid (bits x 80 16) else d) := by
  intro d
  unfold execTeRequestComplete
  simp only [hd, h, hw, Option.isSome_none, Bool.not_true, Bool.or_self, Bool.false_eq_true, if_false]
  rw [bind_ok hx (bind_ok hrec (bind_ok hcons rfl))]
  rfl
end

/-! ## Rings without a request to serve -/

/-- A ring that is not served, waits, has a request done or has none pending, answers to no request. -/
theorem requests_idle {s : State} {ring : Nat} (h : ringReady s ring = false) : ∀ i ∈ [Instr.teNop ring, .tePict ring, .teTransp ring,
    .teFconv ring, .teRecomp ring, .teCbload ring, .teBadop ring], exec i s = .next s := by
  intro i hi
  simp only [List.mem_cons, List.not_mem_nil, or_false] at hi
  rcases hi with rfl | rfl | rfl | rfl | rfl | rfl | rfl
  · exact (exec_teNop ..).trans (teServe_idle h ..)
  · exact (exec_tePict ..).trans (teServe_idle h ..)
  · exact (exec_teTransp ..).trans (teServe_idle h ..)
  · exact (exec_teFconv ..).trans (teServe_idle h ..)
  · exact (exec_teRecomp ..).trans (teServe_idle h ..)
  · exact (exec_teCbload ..).trans (teServe_idle h ..)
  · exact (exec_teBadop ..).trans (teServe_idle h ..)

theorem ringReady_unserved {s : State} {ring : Nat} (h : ringServed s ring = false) : ringReady s ring = false := by
  simp [ringReady, h]
theorem ringReady_busy {s : State} {ring : Nat}
    (h : (teOf s ring).pending = false ∨ (teOf s ring).wait.isSome = true ∨ (teOf s ring).done.isSome = true) : ringReady s ring = false := by
  rcases h with h | h | h
  · simp [ringReady, h]
  · simp [ringReady, Option.isSome_iff_ne_none.mp h]
  · simp [ringReady, Option.isSome_iff_ne_none.mp h]

/-- Settles O54: polls, turns, each operation's work by its arguments, the completion, and the rings that have nothing to serve. -/
theorem transformResults : Obligations.TransformResults := by
  refine ⟨fun s u ring p h hw hp => ?_, fun s die ring => teTurn_first, fun s u ring q tag h => ?_, fun s a b c ring st x tag h hw hd => ?_,
    fun s ring hb => requests_idle (ringReady_busy hb), fun s ring h i hi => ?_⟩
  · exact (exec_teRingPoll ..).trans (teRingPoll_reads h hw hp)
  · intro who ends op
    rw [exec_teNop, exec_teBadop, exec_tePict, exec_teTransp, exec_teFconv, exec_teRecomp, exec_teCbload]
    refine ⟨fun hop => ?_, fun hop => ?_, fun hop a b hs hd ha hb hr hw hh how hoh luma chroma v w t hl hc ht => ?_,
      fun hop ty g v t hs hd hr hw hh hg ht => ?_, fun hop a b g v t hs hd ha hb hr hw hh hg ht => ?_, fun hop hr hw hd t ht => ?_,
      fun hop hr hc bs t ht => ?_, fun hop hr => ?_, fun hop hr => ?_, fun hop hr => ?_⟩
    · exact teServe_works h (beq_iff_eq.mpr hop) rfl
    · exact teServe_works h (decide_eq_true hop) rfl
    · exact tePict_done h hr hw hh hop hs hd ha hb how hoh hl hc ht
    · exact teTransp_done h hr hw hh hop hs hd hg ht
    · exact teFconv_done h hr hw hh hop hs hd ha hb hg ht
    · exact teRecomp_done h hr hop hw hd ht
    · exact teCbload_done h hr hop hc ht
    · exact teTransp_badRm h hop hr
    · exact teFconv_badRm h hop hr
    · exact tePict_badRm h hop hr
  · intro w hx k n hrec hcons
    exact (exec_teRequestComplete ..).trans (teRequestComplete_done h hw hd hx hrec hcons)
  · rcases List.mem_cons.mp hi with rfl | hi
    · exact (exec_teRingPoll ..).trans (if_pos (by simp [h]))
    · exact requests_idle (ringReady_unserved h) i hi

end Sys2Proof.Machine
end

section
/-! SUPPORT. Rounding of a value that its type holds exactly (R222 to R228): the exponent and quotient that roundQ finds of a dyadic value, the
fields of an element's bits, and the bits again. -/

namespace Sys2Proof.Machine

open Sys2Proof

/-! ## Dyadic values: m × 2^i / 2^j -/

section
variable {m i j : Nat} (h : m ≠ 0)
include h

theorem log2_mul_two_pow : Nat.log2 (m * 2 ^ i) = Nat.log2 m + i := by
  rw [Nat.log2_eq_iff (by positivity), pow_add, show Nat.log2 m + i + 1 = Nat.log2 m + 1 + i by omega, pow_add]
  exact ⟨Nat.mul_le_mul_right _ (Nat.log2_self_le h), Nat.mul_lt_mul_of_pos_right Nat.lt_log2_self (by positivity)⟩

theorem log2Q_dyadic : log2Q (m * 2 ^ i) (2 ^ j) = Nat.log2 m + (i - j : Int) := by
  have hm : 2 ^ Nat.log2 m ≤ m := Nat.log2_self_le h
  have hl : ((Nat.log2 (m * 2 ^ i) : Int) - Nat.log2 (2 ^ j)) = Nat.log2 m + (i - j : Int) := by
    rw [log2_mul_two_pow h, Nat.log2_two_pow]; push_cast; omega
  unfold log2Q scaleQ
  rw [hl]
  generalize hk : (Nat.log2 m + (i - j : Int)) = l
  by_cases h0 : 0 ≤ l
  · simp only [if_pos h0]
    refine if_pos ?_
    calc 2 ^ j * 2 ^ l.toNat = 2 ^ Nat.log2 m * 2 ^ i := by rw [← pow_add, ← pow_add]; congr 1; omega
      _ ≤ m * 2 ^ i := Nat.mul_le_mul_right _ hm
  · simp only [if_neg h0]
    refine if_pos ?_
    calc 2 ^ j = 2 ^ Nat.log2 m * 2 ^ i * 2 ^ (-l).toNat := by rw [← pow_add, ← pow_add]; congr 1; omega
      _ ≤ m * 2 ^ i * 2 ^ (-l).toNat := Nat.mul_le_mul_right _ (Nat.mul_le_mul_right _ hm)
end

/-- Scaled by its own exponent, a dyadic value is its significand over 1. -/
theorem scaleQ_dyadic (m i j : Nat) : ∃ k, scaleQ (m * 2 ^ i) (2 ^ j) (i - j) = (m * 2 ^ k, 2 ^ k) := by
  unfold scaleQ
  split
  · refine ⟨i, ?_⟩
    rw [← pow_add]; congr 2; omega
  · refine ⟨j, ?_⟩
    rw [mul_assoc, ← pow_add]; congr 3; omega

theorem roundDiv_exact (rm : Nat) (neg : Bool) (m : Nat) {d : Nat} (h : 0 < d) : roundDiv rm neg (m * d) d = (m, false) := by
  simp [roundDiv, h]

/-! ## Values that a type holds -/

/-- m × 2^e lies on the grid of a type: a subnormal at its least exponent, or a full significand. -/
def onGrid (t : Ty) (m : Nat) (e : Int) : Prop :=
  m < 2 ^ t.mbits ∧ e = t.emin - t.mbits ∨ 2 ^ t.mbits ≤ m ∧ m < 2 ^ (t.mbits + 1) ∧ t.emin - t.mbits ≤ e

/-- A value of the grid has there the exponent that roundQ rounds at. -/
theorem onGrid.exponent {t : Ty} {m : Nat} {e : Int} (h : onGrid t m e) (hm : m ≠ 0) : max (Nat.log2 m + e) t.emin - t.prec + 1 = e := by
  have hp : (t.prec : Int) = t.mbits + 1 := by simp [Ty.prec]
  rcases h with ⟨hlt, he⟩ | ⟨hge, hlt, he⟩
  · have : Nat.log2 m < t.mbits := (Nat.log2_lt hm).mpr hlt
    omega
  · have : Nat.log2 m = t.mbits := (Nat.log2_eq_iff hm).mpr ⟨hge, hlt⟩
    omega

theorem finBits_subnormal {t : Ty} {m : Nat} (neg : Bool) (e : Int) (h : m < 2 ^ t.mbits) :
    finBits t neg m e = (if neg then t.signBit else 0) + m := by
  have hp : m ≠ 2 ^ t.prec := by rw [Ty.prec, pow_succ]; omega
  simp only [finBits, hp, h, if_false, if_true]
theorem finBits_normal {t : Ty} {m : Nat} (neg : Bool) (e : Int) (h : 2 ^ t.mbits ≤ m) (hlt : m < 2 ^ (t.mbits + 1)) :
    finBits t neg m e = (if neg then t.signBit else 0) + (e + t.mbits + t.bias).toNat * 2 ^ t.mbits + (m - 2 ^ t.mbits) := by
  have hp : m ≠ 2 ^ t.prec := hlt.ne
  simp only [finBits, hp, not_lt.mpr h, if_false]

/-- No greater in magnitude than MAX(t). -/
def fits (t : Ty) (m : Nat) (e : Int) : Prop := e ≤ t.max.2 ∧ m ≤ t.max.1 * 2 ^ (t.max.2 - e).toNat

/-- R227: a value on the grid of its type, within its range, rounds to its own bits without a flag. -/
theorem roundQ_exact {t : Ty} {neg : Bool} {m i j : Nat} (rm : Nat) (sat : Bool) (hs : t = .e3m5 → neg = false) (hm : m ≠ 0)
    (hg : onGrid t m (i - j)) (hf : fits t m (i - j)) : roundQ t rm sat neg (m * 2 ^ i) (2 ^ j) = (finBits t neg m (i - j), 0) := by
  obtain ⟨k, hk⟩ := scaleQ_dyadic m i j
  obtain ⟨he, hle⟩ := hf
  have hn : m * 2 ^ i ≠ 0 := by positivity
  have hneg : (t == .e3m5 && neg) = false := by
    rcases eq_or_ne t .e3m5 with ht | ht
    · rw [hs ht, Bool.and_false]
    · rw [beq_eq_false_iff_ne.mpr ht, Bool.false_and]
  have hpast : ¬ (m * 2 ^ ((i - j : Int) - min (i - j : Int) t.max.2).toNat > t.max.1 * 2 ^ (t.max.2 - min (i - j : Int) t.max.2).toNat) := by
    rw [min_eq_left he, sub_self, Int.toNat_zero, pow_zero, mul_one]
    exact not_lt.mpr hle
  unfold roundQ
  simp only [hn, hneg, log2Q_dyadic hm, hg.exponent hm, hk, roundDiv_exact rm neg m (show 0 < 2 ^ k by positivity), hpast, decide_false,
    Bool.false_eq_true, if_false, Bool.false_and]
  rfl

theorem roundD_zero (t : Ty) (rm : Nat) (sat neg : Bool) (e : Int) : roundD t rm sat neg 0 e = (if neg then t.signBit else 0, 0) := by
  simp [roundD, roundQ]

theorem roundD_exact {t : Ty} {neg : Bool} {m : Nat} {e : Int} (rm : Nat) (sat : Bool) (hs : t = .e3m5 → neg = false)
    (hg : onGrid t m e) (hf : fits t m e) : roundD t rm sat neg m e = (finBits t neg m e, 0) := by
  by_cases hm : m = 0
  · subst hm
    rw [roundD_zero, finBits_subnormal neg e (by positivity), add_zero]
  · unfold roundD
    split
    · have he : e = ((e.toNat : Int) - (0 : Nat)) := by omega
      have := roundQ_exact (i := e.toNat) (j := 0) rm sat hs hm (he ▸ hg) (he ▸ hf)
      rwa [← he] at this
    · have he : e = (((0 : Nat) : Int) - (-e).toNat) := by omega
      have := roundQ_exact (i := 0) (j := (-e).toNat) rm sat hs hm (he ▸ hg) (he ▸ hf)
      rwa [← he, pow_zero, mul_one] at this

/-! ## The fields of an element (R222 to R226) -/

/-- The exponent field of an element's bits. -/
def expField (t : Ty) (v : Nat) : Nat := v / 2 ^ t.mbits % 2 ^ t.ebits
/-- Whether an element's sign bit is set; e3m5 has none. -/
def signField (t : Ty) (v : Nat) : Bool := t != .e3m5 && v / 2 ^ (t.ebits + t.mbits) % 2 == 1

/-- The fields of an element that is (−1)^neg × m × 2^e: neither an infinity nor a NaN, and a subnormal or a normal value. -/
structure FiniteFields (t : Ty) (v : Nat) (neg : Bool) (m : Nat) (e : Int) : Prop where
  sign : neg = signField t v
  ieee : t.isIeee = true → expField t v ≠ 2 ^ t.ebits - 1
  e4m3 : t = .e4m3 → v % 128 ≠ 127
  value : expField t v = 0 ∧ m = v % 2 ^ t.mbits ∧ e = t.emin - t.mbits ∨
    expField t v ≠ 0 ∧ m = 2 ^ t.mbits + v % 2 ^ t.mbits ∧ e = expField t v - t.bias - t.mbits

theorem fpOf_fields {t : Ty} {v m : Nat} {neg : Bool} {e : Int} (ht : t.isFloat = true) (h : fpOf t v = .fin neg m e) :
    FiniteFields t v neg m e := by
  rw [fpOf, if_pos ht] at h
  dsimp only at h
  split at h
  · split at h <;> exact absurd h (by simp)
  · rename_i hi
    split at h
    · exact absurd h (by simp)
    · rename_i hn
      have hi' : t.isIeee = true → expField t v ≠ 2 ^ t.ebits - 1 := by simpa [expField] using hi
      have hn' : t = .e4m3 → v % 128 ≠ 127 := by simpa using hn
      split at h <;> rename_i h0 <;> obtain ⟨hs, hm, he⟩ := Fp.fin.inj h
      · exact ⟨hs.symm, hi', hn', .inl ⟨h0, hm.symm, he.symm⟩⟩
      · exact ⟨hs.symm, hi', hn', .inr ⟨h0, hm.symm, he.symm⟩⟩

theorem isFloat_cases {t : Ty} (h : t.isFloat = true) :
    t = .e3m5 ∨ t = .f32 ∨ t = .f16 ∨ t = .bf16 ∨ t = .e4m3 ∨ t = .e5m2 ∨ t = .e2m1 := by
  revert h; cases t <;> decide

/-- A significand up to twice the greatest fits below the greatest exponent. -/
theorem fits_of {t : Ty} {m : Nat} {e : Int} (he : e ≤ t.max.2) (hm : m ≤ 2 * t.max.1) (htop : e = t.max.2 → m ≤ t.max.1) : fits t m e := by
  refine ⟨he, ?_⟩
  rcases eq_or_lt_of_le he with h | h
  · simpa [h] using htop h
  · calc m ≤ t.max.1 * 2 ^ 1 := by omega
      _ ≤ t.max.1 * 2 ^ (t.max.2 - e).toNat := Nat.mul_le_mul_left _ (Nat.pow_le_pow_right (by decide) (by omega))

/-- The sign, the exponent field and the significand field make up the bits. -/
theorem bits_of_fields {t : Ty} {v : Nat} (ht : t.isFloat = true) (hv : v < 2 ^ t.bits) :
    v = (if signField t v then t.signBit else 0) + expField t v * 2 ^ t.mbits + v % 2 ^ t.mbits := by
  unfold signField expField
  rcases isFloat_cases ht with rfl | hx
  · simp only [Ty.bits, Ty.ebits, Ty.mbits] at hv ⊢
    simp
    omega
  · rcases hx with rfl | rfl | rfl | rfl | rfl | rfl <;> simp only [Ty.bits, Ty.ebits, Ty.mbits, Ty.signBit] at hv ⊢ <;> simp <;>
      split <;> omega

section
variable {t : Ty} {v m : Nat} {neg : Bool} {e : Int} (h : FiniteFields t v neg m e)
include h

theorem FiniteFields.onGrid : onGrid t m e := by
  have hlt : v % 2 ^ t.mbits < 2 ^ t.mbits := Nat.mod_lt _ (by positivity)
  rcases h.value with ⟨-, hm, he⟩ | ⟨h0, hm, he⟩
  · exact .inl ⟨hm ▸ hlt, he⟩
  · refine .inr ⟨by omega, by rw [pow_succ]; omega, ?_⟩
    unfold Ty.emin; omega

variable (ht : t.isFloat = true)
include ht

theorem FiniteFields.fits : fits t m e := by
  obtain ⟨-, hi, hn, hf⟩ := h
  unfold expField at hi hf
  apply fits_of <;> rcases isFloat_cases ht with rfl | rfl | rfl | rfl | rfl | rfl | rfl <;>
    simp [Ty.isIeee, Ty.ebits, Ty.mbits, Ty.max, Ty.emin, Ty.bias] at hi hn hf ⊢ <;> omega

theorem FiniteFields.finBits_eq (hv : v < 2 ^ t.bits) : finBits t neg m e = v := by
  have hb := bits_of_fields ht hv
  have hlt : v % 2 ^ t.mbits < 2 ^ t.mbits := Nat.mod_lt _ (by positivity)
  rw [← h.sign] at hb
  rcases h.value with ⟨h0, hm, -⟩ | ⟨h0, hm, he⟩
  · rw [h0, zero_mul, add_zero] at hb
    rw [finBits_subnormal neg e (hm ▸ hlt), hm, ← hb]
  · have hE : (e + t.mbits + t.bias).toNat = expField t v := by omega
    rw [finBits_normal neg e (by omega) (by rw [pow_succ]; omega), hE, hm, Nat.add_sub_cancel_left, ← hb]
end

/-- R227: a value that its type holds exactly rounds to its own bits. -/
theorem exactRounds : Rule.ExactRounds := by
  intro t rm sat neg v m e ht hv h
  have hf := fpOf_fields ht h
  have hs : t = .e3m5 → neg = false := by
    rintro rfl
    exact hf.sign
  have hc : convTo t rm sat (.fin neg m e) = roundD t rm sat neg m e := if_pos ht
  rw [h, hc, roundD_exact rm sat hs hf.onGrid (hf.fits ht), hf.finBits_eq ht hv]

end Sys2Proof.Machine
end

section
/-! SUPPORT. Vector instructions on packed elements: element-wise operations of one, two and three sources, integers modulo their width, and
lanes packed from elements (R226, R231, R372, R374, R375, R379). -/

namespace Sys2Proof.Machine

open Sys2Proof

/-! ## Element-wise operations (R372) -/

section
variable {s : State} {g : Guard} {ty : Ty} {vd va vb vc : R6} {i : Instr}

theorem exec_elem1 (f : State → Nat → Nat × Fl) (hi : exec i s = elem1 g ty vd va f s) (h : IssuesVV s g ⟨[], [], [vd, va], []⟩ [va]) :
    ∃ t, exec i s = .next t ∧ LanesWritten s t g.pred vd fun l => mapElems ty fun j => f s (elem ty (laneAt (s.v va) l) j) :=
  hi ▸ vecOp_next _ h
theorem exec_elem2 (f : State → Nat → Nat → Nat × Fl) (hi : exec i s = elem2 g ty vd va vb f s)
    (h : IssuesVV s g ⟨[], [], [vd, va, vb], []⟩ [va, vb]) :
    ∃ t, exec i s = .next t ∧ LanesWritten s t g.pred vd fun l => mapElems ty fun j =>
      f s (elem ty (laneAt (s.v va) l) j) (elem ty (laneAt (s.v vb) l) j) := hi ▸ vecOp_next _ h

/-! ## Floating point (R374, R379) -/

theorem exec_float1 (f : Nat → Bool → Fp → Nat × Fl) (hi : exec i s = float1 g ty vd va f s)
    (h : IssuesVV s g ⟨[], [], [vd, va], []⟩ [va]) :
    ∃ t, exec i s = .next t ∧ LanesWritten s t g.pred vd fun l => mapElems ty fun j =>
      f s.rm s.sat8 (fpOf ty (elem ty (laneAt (s.v va) l) j)) := hi ▸ vecOp_next _ h
theorem exec_float2 (f : Nat → Bool → Fp → Fp → Nat × Fl) (hi : exec i s = float2 g ty vd va vb f s)
    (h : IssuesVV s g ⟨[], [], [vd, va, vb], []⟩ [va, vb]) :
    ∃ t, exec i s = .next t ∧ LanesWritten s t g.pred vd fun l => mapElems ty fun j =>
      f s.rm s.sat8 (fpOf ty (elem ty (laneAt (s.v va) l) j)) (fpOf ty (elem ty (laneAt (s.v vb) l) j)) := hi ▸ vecOp_next _ h
theorem exec_float3 (f : Nat → Bool → Fp → Fp → Fp → Nat × Fl) (hi : exec i s = float3 g ty vd va vb vc f s)
    (h : IssuesVV s g ⟨[], [], [vd, va, vb, vc], []⟩ [va, vb, vc]) :
    ∃ t, exec i s = .next t ∧ LanesWritten s t g.pred vd fun l => mapElems ty fun j =>
      f s.rm s.sat8 (fpOf ty (elem ty (laneAt (s.v va) l) j)) (fpOf ty (elem ty (laneAt (s.v vb) l) j))
        (fpOf ty (elem ty (laneAt (s.v vc) l) j)) := hi ▸ vecOp_next _ h
end

/-- R374, R231, R379: each floating-point operation is its own function on the elements of its sources. -/
theorem vectorFloatResults : Rule.VectorFloatResults := by
  intro s g ty vd va vb vc el x writes r z
  refine ⟨fun h => ⟨?_, ?_, ?_, ?_, ?_, ?_⟩, fun h => ⟨?_, ?_, ?_⟩, fun h => ⟨?_, ?_, ?_, ?_, ?_, ?_, ?_, ?_, ?_⟩⟩
  · exact exec_float2 (fAdd ty) (exec_vaddF ..) h
  · exact exec_float2 (fun m t a b => fAdd ty m t a (fpNeg b)) (exec_vsubF ..) h
  · exact exec_float2 (fMul ty) (exec_vmulF ..) h
  · exact exec_float2 (fDiv ty) (exec_vdiv ..) h
  · exact exec_elem2 (fun _ a b => fMinMax ty false a b) (exec_vminF ..) h
  · exact exec_elem2 (fun _ a b => fMinMax ty true a b) (exec_vmaxF ..) h
  · exact exec_float3 (fFma ty) (exec_vfma ..) h
  · exact exec_float3 (fun m t a b c => fFma ty m t a b (fpNeg c)) (exec_vfms ..) h
  · exact exec_float3 (fun m t a b c => fFma ty m t (fpNeg a) b c) (exec_vfnma ..) h
  · exact exec_elem1 (fun _ a => (a % ty.signBit, 0)) (exec_vabsF ..) h
  · exact exec_elem1 (fun _ a => (if ty.signBit ≤ a then a - ty.signBit else a + ty.signBit, 0)) (exec_vneg ..) h
  · exact exec_float1 (fSqrt ty) (exec_vsqrt ..) h
  · exact exec_float1 (fExp2 ty) (exec_vexp2 ..) h
  · exact exec_float1 (fLog2 ty) (exec_vlog2 ..) h
  · exact exec_float1 (fRcp ty) (exec_vrcp ..) h
  · exact exec_float1 (fRsqrt ty) (exec_vrsqrt ..) h
  · exact exec_float1 (fSig ty) (exec_vsig ..) h
  · exact exec_float1 (fTanh ty) (exec_vtanh ..) h

/-- Settles O34: exact values round to themselves, and each floating-point operation by its function on elements. -/
theorem floatingPoint : Obligations.FloatingPoint := ⟨exactRounds, vectorFloatResults⟩

/-! ## Integers modulo the width (R375) -/

/-- The value of an element is the element itself modulo its width. -/
theorem iVal_emod (t : Ty) (v : Nat) : iVal t v % (2 ^ t.bits : Nat) = (v % 2 ^ t.bits : Nat) := by
  unfold iVal
  split <;> simp
theorem intBits_iVal (t : Ty) {v : Nat} (h : v < 2 ^ t.bits) : intBits t (iVal t v) = v := by
  rw [intBits, iVal_emod, Int.toNat_natCast, Nat.mod_eq_of_lt h]
theorem elem_lt (t : Ty) (w : W32) (j : Nat) : elem t w j < 2 ^ t.bits := Nat.mod_lt _ (by positivity)

theorem intBits_eq {t : Ty} {i : Int} {n : Nat} (h : i % (2 ^ t.bits : Nat) = (n % 2 ^ t.bits : Nat)) : intBits t i = n % 2 ^ t.bits := by
  rw [intBits, h, Int.toNat_natCast]
theorem iAdd_eq (t : Ty) (a b : Nat) : iAdd t a b = intBits t (iVal t a + iVal t b) := by
  refine (intBits_eq ?_).symm
  rw [Int.add_emod, iVal_emod, iVal_emod]; norm_cast; exact (Nat.add_mod ..).symm
theorem iMul_eq (t : Ty) (a b : Nat) : iMul t a b = intBits t (iVal t a * iVal t b) := by
  refine (intBits_eq ?_).symm
  rw [Int.mul_emod, iVal_emod, iVal_emod]; norm_cast; exact (Nat.mul_mod ..).symm
theorem iSub_eq (t : Ty) (a b : Nat) : iSub t a b = intBits t (iVal t a - iVal t b) := by
  have hb : b % 2 ^ t.bits < 2 ^ t.bits := Nat.mod_lt _ (by positivity)
  refine (intBits_eq ?_).symm
  rw [Int.sub_emod, iVal_emod, iVal_emod]
  have : ((a + 2 ^ t.bits - b % 2 ^ t.bits : Nat) : Int) = a + (2 ^ t.bits : Nat) - (b % 2 ^ t.bits : Nat) := by omega
  push_cast at this ⊢
  rw [this]
  simp [Int.sub_emod]

section
variable (t : Ty) {a b : Nat} (ha : a < 2 ^ t.bits) (hb : b < 2 ^ t.bits)
include ha

theorem iSrl_eq (n : Nat) : iSrl t a n = a / 2 ^ (n % t.bits) := by rw [iSrl, Nat.mod_eq_of_lt ha]

include hb

theorem iMin_eq : iMin t a b = intBits t (min (iVal t a) (iVal t b)) := by
  unfold iMin
  split
  · rw [min_eq_right (by omega), intBits_iVal t hb]
  · rw [min_eq_left (by omega), intBits_iVal t ha]
theorem iMax_eq : iMax t a b = intBits t (max (iVal t a) (iVal t b)) := by
  unfold iMax
  split
  · rw [max_eq_right (by omega), intBits_iVal t hb]
  · rw [max_eq_left (by omega), intBits_iVal t ha]
end

/-- An integer operation by what it gives of two elements. -/
theorem exec_int2 {s : State} {g : Guard} {ty : Ty} {vd va vb : R6} {i : Instr} {op : Nat → Nat → Nat} (f : Nat → Nat → Nat)
    (hi : exec i s = int2 g ty vd va vb op s) (hf : ∀ a b, a < 2 ^ ty.bits → b < 2 ^ ty.bits → op a b = f a b)
    (h : IssuesVV s g ⟨[], [], [vd, va, vb], []⟩ [va, vb]) :
    ∃ t, exec i s = .next t ∧ LanesWritten s t g.pred vd fun l => mapElems ty fun j =>
      (f (elem ty (laneAt (s.v va) l) j) (elem ty (laneAt (s.v vb) l) j), 0) := by
  simp only [← hf _ _ (elem_lt ty _ _) (elem_lt ty _ _)]
  exact exec_elem2 (fun _ a b => (op a b, 0)) hi h

/-- R375: each integer operation is its function on the elements, modulo their width. -/
theorem vectorIntegerResults : Rule.VectorIntegerResults := by
  intro s g ty vd va vb el i writes w
  refine ⟨fun h => ⟨?_, ?_, ?_, ?_, ?_, ?_, ?_, ?_, ?_, ?_, ?_, ?_, ?_⟩, fun h => exec_elem1 (fun _ a => (iAbs ty a, 0)) (exec_vabsI ..) h⟩
  · exact exec_int2 (fun a b => intBits ty (iVal ty a + iVal ty b)) (exec_vaddI ..) (fun a b _ _ => iAdd_eq ty a b) h
  · exact exec_int2 (fun a b => intBits ty (iVal ty a - iVal ty b)) (exec_vsubI ..) (fun a b _ _ => iSub_eq ty a b) h
  · exact exec_int2 (fun a b => intBits ty (iVal ty a * iVal ty b)) (exec_vmulI ..) (fun a b _ _ => iMul_eq ty a b) h
  · exact exec_int2 (iMulh ty) (exec_vmulh ..) (fun _ _ _ _ => rfl) h
  · exact exec_int2 (· &&& ·) (exec_vand ..) (fun _ _ _ _ => rfl) h
  · exact exec_int2 (· ||| ·) (exec_vor ..) (fun _ _ _ _ => rfl) h
  · exact exec_int2 (· ^^^ ·) (exec_vxor ..) (fun _ _ _ _ => rfl) h
  · exact exec_int2 (fun a b => a &&& (2 ^ ty.bits - 1 - b)) (exec_vandn ..) (fun _ _ _ _ => rfl) h
  · exact exec_int2 (iSll ty) (exec_vsll ..) (fun _ _ _ _ => rfl) h
  · exact exec_int2 (fun a b => a / 2 ^ (b % ty.bits)) (exec_vsrl ..) (fun a b ha _ => iSrl_eq ty ha b) h
  · exact exec_int2 (iSra ty) (exec_vsra ..) (fun _ _ _ _ => rfl) h
  · exact exec_int2 (fun a b => intBits ty (min (iVal ty a) (iVal ty b))) (exec_vminI ..) (fun _ _ ha hb => iMin_eq ty ha hb) h
  · exact exec_int2 (fun a b => intBits ty (max (iVal ty a) (iVal ty b))) (exec_vmaxI ..) (fun _ _ ha hb => iMax_eq ty ha hb) h

/-! ## Lanes packed from elements (R226, R372) -/

/-- The elements of a lane as one number, element 0 lowest. -/
def packed (t : Ty) (xs : List Nat) : Nat := xs.foldr (fun v acc => v % 2 ^ t.bits + 2 ^ t.bits * acc) 0

theorem packed_lt (t : Ty) (xs : List Nat) : packed t xs < 2 ^ (t.bits * xs.length) := by
  induction xs with
  | nil => simp [packed]
  | cons x xs ih =>
    have hx : x % 2 ^ t.bits < 2 ^ t.bits := Nat.mod_lt _ (by positivity)
    calc packed t (x :: xs) = x % 2 ^ t.bits + 2 ^ t.bits * packed t xs := rfl
      _ < 2 ^ t.bits * (packed t xs + 1) := by rw [Nat.mul_add_one]; omega
      _ ≤ 2 ^ t.bits * 2 ^ (t.bits * xs.length) := Nat.mul_le_mul_left _ ih
      _ = 2 ^ (t.bits * (x :: xs).length) := by rw [← pow_add, List.length_cons, Nat.mul_add_one, Nat.add_comm]

/-- Each element stands at its place. -/
theorem packed_elem (t : Ty) (xs : List Nat) (j : Nat) : packed t xs / 2 ^ (t.bits * j) % 2 ^ t.bits = xs.getD j 0 % 2 ^ t.bits := by
  induction xs generalizing j with
  | nil => simp [packed]
  | cons x xs ih =>
    have hp : packed t (x :: xs) = x % 2 ^ t.bits + 2 ^ t.bits * packed t xs := rfl
    cases j with
    | zero => simp [hp]
    | succ j =>
      rw [hp, Nat.mul_add_one, Nat.add_comm (t.bits * j), pow_add, ← Nat.div_div_eq_div_mul, Nat.add_mul_div_left _ _ (by positivity),
        Nat.div_eq_of_lt (Nat.mod_lt _ (by positivity)), Nat.zero_add, ih, List.getD_cons_succ]

theorem packedElements : Rule.PackedElements := by
  intro ty xs j h32 hle hj
  have hlt : packed ty xs < 2 ^ 32 :=
    (packed_lt ty xs).trans_le (Nat.pow_le_pow_right (by decide) ((Nat.mul_le_mul_left _ hle).trans h32))
  have hn : (packLane ty xs).toNat = packed ty xs := Nat.mod_eq_of_lt hlt
  rw [elem, hn, packed_elem]

/-- Settles O35: each integer operation by its function on elements, and the elements of a lane at their places. -/
theorem vectorIntegers : Obligations.VectorIntegers := ⟨vectorIntegerResults, packedElements⟩

end Sys2Proof.Machine
end

section
/-! SUPPORT. Vector compares and class tests, which write the bits of a predicate register, and conversions, vpack and vunpack (R372, R376 to
R378). -/

namespace Sys2Proof.Machine

open Sys2Proof

/-! ## The bits of a predicate register (R376) -/

/-- A number made of bits, the first lowest, has each of them at its place. -/
theorem testBit_bits (rs : List (Bool × Fl)) (l : Nat) :
    (rs.foldr (fun (r : Bool × Fl) acc => acc * 2 + if r.1 then 1 else 0) 0).testBit l = (rs.map (·.1)).getD l false := by
  induction rs generalizing l with
  | nil => simp
  | cons r rs ih =>
    rw [List.foldr_cons, List.map_cons]
    cases l with
    | zero => cases r.1 <;> simp [Nat.testBit_zero]
    | succ l =>
      rw [Nat.testBit_succ, List.getD_cons_succ, ← ih]
      congr 1
      split <;> omega

section
variable (s : State) (pred pd : R5) (f : Nat → Bool × Fl)

theorem p_setMask (hpd : pd.toNat < 24) {l : Nat} (hl : l < 64) :
    ((s.setMask pred pd f).p pd).getLsbD l = if laneOn s pred l then (f l).1 else (s.p pd).getLsbD l := by
  unfold State.setMask
  rw [p_flags, p_setP, if_pos ⟨rfl, hpd⟩, BitVec.getLsbD_ofNat, testBit_bits]
  simp only [hl, decide_true, Bool.true_and, List.map_map, List.getD_eq_getElem?_getD, List.getElem?_map, List.getElem?_range,
    Option.map_some, Option.getD_some, Function.comp_apply]
  split <;> rfl
theorem p_setMask_of_ne {q : R5} (hq : q ≠ pd) : (s.setMask pred pd f).p q = s.p q := by
  unfold State.setMask
  rw [p_flags, p_setP, if_neg fun h => hq h.1]
theorem x_setMask (a : R5) : (s.setMask pred pd f).x a = s.x a := by
  unfold State.setMask
  rw [x_flags, x_setP]
theorem v_setMask (a : R6) : (s.setMask pred pd f).v a = s.v a := by
  unfold State.setMask
  rw [v_flags]
  exact (kept_setP s pd _).v a (by simp)
theorem mem_setMask : (s.setMask pred pd f).mem = s.mem := by
  unfold State.setMask
  rw [mem_flags]; rfl
end

/-- After an instruction, the active lanes' bits of p[pd] tell which of them meet a condition; its other bits, every other predicate register,
every x and v register and all of memory are as they were. -/
def MaskWritten (s t : State) (pred pd : R5) (c : Nat → Prop) : Prop :=
  (∀ l, l < 64 → laneOn s pred l = true → ((t.p pd).getLsbD l = true ↔ c l)) ∧
  (∀ l, l < 64 → laneOn s pred l = false → (t.p pd).getLsbD l = (s.p pd).getLsbD l) ∧
  (∀ q, q ≠ pd → t.p q = s.p q) ∧ (∀ v, t.v v = s.v v) ∧ (∀ r, t.x r = s.x r) ∧ t.mem = s.mem

theorem setMask_written (s : State) (pred : R5) {pd : R5} (hpd : pd.toNat < 24) {f : Nat → Bool × Fl} {c : Nat → Prop}
    (hc : ∀ l, (f l).1 = true ↔ c l) (sy : Sync) : MaskWritten s ((s.setMask pred pd f).issued sy) pred pd c := by
  refine ⟨fun l hl hon => ?_, fun l hl hoff => ?_, fun q hq => ?_, fun v => ?_, fun r => ?_, ?_⟩
  · rw [p_issued, p_setMask s pred pd f hpd hl, hon]; exact hc l
  · rw [p_issued, p_setMask s pred pd f hpd hl, hoff]; rfl
  · rw [p_issued, p_setMask_of_ne s pred pd f hq]
  · rw [v_issued, v_setMask]
  · rw [x_issued, x_setMask]
  · rw [mem_issued, mem_setMask]

section
variable {s : State} {g : Guard} {ty : Ty} {pd : R5} {va vb el : R6} {i : Instr} (hpd : pd.toNat < 24)
include hpd

/-- An instruction that writes the bits of p[pd] under its mask. -/
theorem exec_setMask {us : Uses} {rd : List R6} (f : State → Nat → Bool × Fl) (hi : exec i s =
      issueVV s g us rd fun s => readPreds s (if g.pred = 31 then [] else [pd]) [pd] fun s => .go (s.setMask g.pred pd (f s)))
    (h : IssuesVV s g us rd) (hps : us.ps = [pd]) {c : Nat → Prop} (hc : ∀ l, (f s l).1 = true ↔ c l) :
    ∃ t, exec i s = .next t ∧ MaskWritten s t g.pred pd c := by
  rw [hi]
  refine ⟨_, issueVV_go h (h.1.readPreds (fun p hp => ?_) (fun p hp => ?_) _), setMask_written s g.pred hpd hc g.sync⟩
  · split at hp
    · exact absurd hp (by simp)
    · rw [if_neg ‹_›, hps]; exact List.mem_cons_of_mem _ hp
  · split
    · exact hps ▸ hp
    · exact List.mem_cons_of_mem _ (hps ▸ hp)

variable {orders : Bool} {ff : Fp → Fp → Bool} {fi : Int → Int → Bool} (hi : exec i s = vcmp g ty pd va vb el orders ff fi s)
  (h : IssuesVV s g ⟨[], [pd], [va, vb], []⟩ [va, vb])
include hi h

theorem exec_vcmp_int (ht : ty.isFloat = false) (c : Int → Int → Prop) (hc : ∀ a b, fi a b = true ↔ c a b) :
    ∃ t, exec i s = .next t ∧ MaskWritten s t g.pred pd fun l =>
      c (iVal ty (elem ty (laneAt (s.v va) l) el.toNat)) (iVal ty (elem ty (laneAt (s.v vb) l) el.toNat)) := by
  refine exec_setMask hpd _ hi h rfl fun l => ?_
  rw [ht, if_neg Bool.false_ne_true]
  exact hc _ _
theorem exec_vcmp_float (ht : ty.isFloat = true) (c : Fp → Fp → Prop) (hc : ∀ a b, ff a b = true ↔ c a b) :
    ∃ t, exec i s = .next t ∧ MaskWritten s t g.pred pd fun l =>
      c (fpOf ty (elem ty (laneAt (s.v va) l) el.toNat)) (fpOf ty (elem ty (laneAt (s.v vb) l) el.toNat)) := by
  refine exec_setMask hpd _ hi h rfl fun l => ?_
  rw [ht, if_pos rfl]
  exact hc _ _
end

/-- R376, R372: each comparison is its own relation on the values of the two elements, and the class test that of one. -/
theorem vectorCompareResults : Rule.VectorCompareResults := by
  intro s g ty pd va vb el hpd a b writes
  refine ⟨fun h => ⟨fun ht => ⟨?_, ?_, ?_, ?_, ?_, ?_⟩, fun ht => ⟨?_, ?_, ?_, ?_, ?_, ?_⟩⟩, fun h => ?_⟩
  · exact exec_vcmp_int hpd (exec_vcmpEq ..) h ht (· = ·) fun _ _ => decide_eq_true_iff
  · exact exec_vcmp_int hpd (exec_vcmpNe ..) h ht (· ≠ ·) fun _ _ => decide_eq_true_iff
  · exact exec_vcmp_int hpd (exec_vcmpLt ..) h ht (· < ·) fun _ _ => decide_eq_true_iff
  · exact exec_vcmp_int hpd (exec_vcmpLe ..) h ht (· ≤ ·) fun _ _ => decide_eq_true_iff
  · exact exec_vcmp_int hpd (exec_vcmpGt ..) h ht (fun a b => b < a) fun _ _ => decide_eq_true_iff
  · exact exec_vcmp_int hpd (exec_vcmpGe ..) h ht (fun a b => b ≤ a) fun _ _ => decide_eq_true_iff
  · exact exec_vcmp_float hpd (exec_vcmpEq ..) h ht (fun a b => fpEq a b = true) fun _ _ => Iff.rfl
  · exact exec_vcmp_float hpd (exec_vcmpNe ..) h ht (fun a b => fpEq a b = false) fun _ _ => Bool.not_eq_true' _ ▸ Iff.rfl
  · exact exec_vcmp_float hpd (exec_vcmpLt ..) h ht (fun a b => fpLt a b false = true) fun _ _ => Iff.rfl
  · exact exec_vcmp_float hpd (exec_vcmpLe ..) h ht (fun a b => fpLt a b false = true ∨ fpEq a b = true) fun _ _ => Bool.or_eq_true _ _ ▸ Iff.rfl
  · exact exec_vcmp_float hpd (exec_vcmpGt ..) h ht (fun a b => fpLt b a false = true) fun _ _ => Iff.rfl
  · exact exec_vcmp_float hpd (exec_vcmpGe ..) h ht (fun a b => fpLt b a false = true ∨ fpEq a b = true) fun _ _ => Bool.or_eq_true _ _ ▸ Iff.rfl
  · exact exec_setMask hpd (fun s l => (classIn ty vb (elem ty (laneAt (s.v va) l) el.toNat), 0)) (exec_vclass ..) h rfl fun _ => Iff.rfl

/-! ## Two rows written under a mask (R378) -/

section
variable (s : State) (pred : R5) (vd : R6) (f : Nat → W32 × Fl)

theorem laneAt_setLanes {l : Nat} (hl : l < 64) :
    laneAt ((s.setLanes pred vd f).v vd) l = if laneOn s pred l then (f l).1 else laneAt (s.v vd) l := by
  rw [State.setLanes, v_flags, v_cleanRow, v_putV, if_pos rfl]
  simp only [laneAt, hl, dite_true, Vector.getElem_map, Vector.getElem_ofFn]
  split <;> rfl
theorem v_setLanes_of_ne {v : R6} (hv : v ≠ vd) : (s.setLanes pred vd f).v v = s.v v := by
  rw [State.setLanes, v_flags, v_cleanRow, v_putV, if_neg hv]
theorem p_setLanes (a : R5) : (s.setLanes pred vd f).p a = s.p a := by rw [State.setLanes, p_flags, p_cleanRow, p_putV]
theorem laneOn_setLanes (p : R5) (l : Nat) : laneOn (s.setLanes pred vd f) p l = laneOn s p l := by rw [laneOn, p_setLanes, laneOn]
theorem mem_setLanes : (s.setLanes pred vd f).mem = s.mem := by rw [State.setLanes, mem_flags, mem_cleanRow]; rfl
end

/-! ## Conversions (R377, R378) -/

theorem IssuesVV.mono {s : State} {g : Guard} {us : Uses} {rd rd' : List R6} (h : IssuesVV s g us rd) (hr : ∀ v ∈ rd', v ∈ rd) :
    IssuesVV s g us rd' := ⟨h.1, fun v hv => h.2 v (hr v hv)⟩

theorem exec_cvt {s : State} {g : Guard} {ty sty : Ty} {vd va pt : R6} {i : Instr} {rm : Nat} {sat : State → Bool}
    (hi : exec i s = cvt g ty sty vd va pt rm sat s) (h : IssuesVV s g ⟨[], [], [vd, va], []⟩ [vd, va]) :
    ∃ t, exec i s = .next t ∧ LanesWritten s t g.pred vd fun l =>
      cvtLane ty sty rm (sat s) pt.toNat (laneAt (s.v vd) l) (laneAt (s.v va) l) := by
  rw [hi]
  refine vecOp_next _ (h.mono fun v hv => ?_)
  split at hv
  · exact hv
  · exact List.mem_cons_of_mem _ hv

/-- Two rows written under one mask, the second of them the next: each keeps what the other writes. -/
theorem setLanes_setLanes (s : State) (pred : R5) (vd : R6) (f f' : Nat → W32 × Fl) (sy : Sync) :
    let t := ((s.setLanes pred vd f).setLanes pred (vd + 1) f').issued sy
    (∀ l, l < 64 → laneOn s pred l = true → laneAt (t.v vd) l = (f l).1 ∧ laneAt (t.v (vd + 1)) l = (f' l).1) ∧
    (∀ l, l < 64 → laneOn s pred l = false →
      laneAt (t.v vd) l = laneAt (s.v vd) l ∧ laneAt (t.v (vd + 1)) l = laneAt (s.v (vd + 1)) l) ∧
    (∀ v, v ≠ vd → v ≠ vd + 1 → t.v v = s.v v) ∧ t.mem = s.mem := by
  intro t
  have hne : vd ≠ vd + 1 := by simp
  have hlow (l : Nat) (hl : l < 64) : laneAt (t.v vd) l = if laneOn s pred l then (f l).1 else laneAt (s.v vd) l := by
    rw [v_issued, v_setLanes_of_ne _ _ _ _ hne, laneAt_setLanes _ _ _ _ hl]
  have hhigh (l : Nat) (hl : l < 64) : laneAt (t.v (vd + 1)) l = if laneOn s pred l then (f' l).1 else laneAt (s.v (vd + 1)) l := by
    rw [v_issued, laneAt_setLanes _ _ _ _ hl, laneOn_setLanes, v_setLanes_of_ne _ _ _ _ hne.symm]
  refine ⟨fun l hl hon => ?_, fun l hl hoff => ?_, fun v hv hv' => ?_, ?_⟩
  · rw [hlow l hl, hhigh l hl, hon]; exact ⟨rfl, rfl⟩
  · rw [hlow l hl, hhigh l hl, hoff]; exact ⟨rfl, rfl⟩
  · rw [v_issued, v_setLanes_of_ne _ _ _ _ hv', v_setLanes_of_ne _ _ _ _ hv]
  · rw [mem_issued, mem_setLanes, mem_setLanes]

/-- R377, R378: a conversion by its part of each lane, vpack by its two sources, vunpack by its two rows. -/
theorem vectorConvertResults : Rule.VectorConvertResults := by
  intro s g ty sty vd va vc pt lane writes
  refine ⟨fun h => ⟨?_, ?_, ?_, ?_, ?_⟩, fun h => ?_, fun h => ?_⟩
  · exact exec_cvt (exec_cvtRne ..) h
  · exact exec_cvt (exec_cvtRtz ..) h
  · exact exec_cvt (exec_cvtRup ..) h
  · exact exec_cvt (exec_cvtRdn ..) h
  · exact exec_cvt (sat := fun _ => true) (exec_cvtSat ..) h
  · rw [exec_vpack]; exact vecOp_next _ h
  · rw [exec_vunpack]; exact ⟨_, issueVV_go h rfl, setLanes_setLanes s g.pred vd _ _ g.sync⟩

/-- Settles O36: compares by their relations, conversions by the elements of each lane. -/
theorem vectorComparesAndConversions : Obligations.VectorComparesAndConversions := ⟨vectorCompareResults, vectorConvertResults⟩

end Sys2Proof.Machine
end

section
/-! SUPPORT. Lane moves, and operations across the lanes of a register: reductions by their tree, and the running sum (R233, R251, R380,
R381). -/

namespace Sys2Proof.Machine

open Sys2Proof

/-! ## Lane moves (R380) -/

section
variable {s : State} {g : Guard} {us : Uses} {rd : List R6} {vd : R6} {i : Instr}

theorem exec_moveLanes (f : State → Nat → W32) (hi : exec i s = moveLanes g us rd vd f s) (h : IssuesVV s g us rd) :
    ∃ t, exec i s = .next t ∧ LanesWritten s t g.pred vd fun l => (f s l, 0) := hi ▸ vecOp_next _ h
/-- A body that writes lanes under the mask once its own checks have passed. -/
theorem exec_setLanes {body : State → Res} (f : Nat → W32 × Fl) (hi : exec i s = issueVV s g us rd body)
    (hb : body s = .go (s.setLanes g.pred vd f)) (h : IssuesVV s g us rd) : ∃ t, exec i s = .next t ∧ LanesWritten s t g.pred vd f :=
  ⟨_, hi.trans (issueVV_go h hb), setLanes_written h.1.opened _ _ _ _⟩
/-- In its body a predicate register that it reads beside its mask is as it stands. -/
theorem IssuesVV.readPred {pc : R5} (h : IssuesVV s g us rd) (hps : us.ps = [pc]) (body : State → Res) :
    readPreds s [pc] [] body = body s := by
  refine h.1.readPreds (fun p hp => ?_) (by simp) body
  split
  · exact hps ▸ hp
  · exact List.mem_cons_of_mem _ (hps ▸ hp)
end

/-- R380, R251: each lane move by the lane that it takes, shifts and lane numbers by their range first. -/
theorem laneMoves : Rule.LaneMoves := by
  intro s g vd va vb xa pc writes a n
  refine ⟨fun h => ?_, fun h => ?_, fun h => ?_, fun h => ?_, fun h => ⟨?_, fun hn => ?_, fun hn => ?_⟩,
    fun xd h => ⟨fun hn => ?_, fun hn => ?_⟩⟩
  · exact exec_moveLanes (fun s _ => (s.x xa).extractLsb' 0 32) (exec_vbcast ..) h
  · have hbits (w : Nat) : bits w 0 6 = w % 64 := by simp [bits]
    have := exec_moveLanes (fun s l => laneAt (s.v va) (bits (laneAt (s.v vb) l).toNat 0 6)) (exec_vperm g vd va vb s) h
    simpa only [hbits] using this
  · exact exec_setLanes (fun l => (if (s.p pc).getLsbD l then laneAt (s.v va) l else laneAt (s.v vb) l, 0)) (exec_vsel ..)
      (h.readPred rfl _) h
  · exact exec_moveLanes (fun s l => laneAt (s.v va) l) (exec_vmov ..) h
  · exact exec_moveLanes (fun s l => laneAt (s.v va) ((l + (s.x xa).toNat) % 64)) (exec_vrot ..) h
  · exact exec_setLanes (fun l => (if n ≤ l then laneAt (s.v va) (l - n) else 0, 0)) (exec_vshl ..) (if_neg (not_lt.mpr hn)) h
  · exact (exec_vshl ..).trans (issueVV_trap h (if_pos hn))
  · exact (exec_vlane ..).trans (issueVV_go h (if_neg (not_lt.mpr hn)))
  · exact (exec_vlane ..).trans (issueVV_trap h (if_pos hn))

/-! ## Across the lanes (R233, R381) -/

theorem RowWritten.congr {s t : State} {vd : R6} {f f' : Nat → W32} {fl fl' : Fl} (h : RowWritten s t vd f fl)
    (hf : ∀ l, l < 64 → f l = f' l) (hfl : fl = fl') : RowWritten s t vd f' fl' :=
  { h with lanes := fun l hl => (h.lanes l hl).trans (hf l hl), vstat := hfl ▸ h.vstat }

/-- An element position over the 64 lanes, inactive ones giving the identity. -/
def laneCol (s : State) (pred : R5) (ty : Ty) (va : R6) (ident j : Nat) : List Nat :=
  (List.range 64).map fun l => if laneOn s pred l then elem ty (laneAt (s.v va) l) j else ident

section
variable {s : State} {g : Guard} {ty : Ty} {vd va : R6} {i : Instr} (h : IssuesVV s g ⟨[], [], [vd, va], []⟩ [va])
include h

theorem exec_acrossLanes {ident : Nat} {f : List Nat → List Nat × Fl} (hi : exec i s = acrossLanes g ty vd va ident f s) :
    ∃ t, exec i s = .next t ∧ RowWritten s t vd
      (fun l => packLane ty ((List.range ty.epl).map fun j => (f (laneCol s g.pred ty va ident j)).1.getD l 0))
      (orFlags ((List.range ty.epl).map fun j => (f (laneCol s g.pred ty va ident j)).2)) := by
  refine ⟨_, hi.trans (issueVV_go h rfl), (setV_written h.1.opened _ _ _ _).congr (fun l hl => ?_) ?_⟩
  · rw [dif_pos hl, List.map_map]; rfl
  · rw [List.map_map]; rfl

/-- A reduction stands in every lane. -/
theorem exec_reduceAll {ident : Nat} {op : Nat → Nat → Nat × Fl} (hi : exec i s = acrossLanes g ty vd va ident (reduceAll op) s) :
    ∃ t, exec i s = .next t ∧ RowWritten s t vd
      (fun _ => packLane ty ((List.range ty.epl).map fun j => (reduceTree op 6 (laneCol s g.pred ty va ident j)).1))
      (orFlags ((List.range ty.epl).map fun j => (reduceTree op 6 (laneCol s g.pred ty va ident j)).2)) := by
  obtain ⟨t, ht, hw⟩ := exec_acrossLanes h hi
  refine ⟨t, ht, hw.congr (fun l hl => congrArg (packLane ty) (List.map_congr_left fun j _ => ?_)) rfl⟩
  exact List.getD_replicate _ hl
end

/-- The running sum over an element position (R233). -/
def runningSum (ty : Ty) : List Nat → List Nat × Fl
  | [] => ([], 0)
  | x :: xs => (x :: (scanSum (redAdd ty) x xs).1, (scanSum (redAdd ty) x xs).2)

theorem execVscan_eq (g : Guard) (ty : Ty) (vd va : R6) (s : State) :
    execVscan g ty vd va s = acrossLanes g ty vd va (if ty.isFloat then ty.signBit else 0) (runningSum ty) s := by
  refine congrArg (fun f => acrossLanes g ty vd va _ f s) (funext fun xs => ?_)
  cases xs <;> rfl

/-- R381, R233: a reduction is its tree over each element position, and vscan its running sum. -/
theorem reductionResults : Rule.ReductionResults := by
  intro s g ty vd va h col js all
  refine ⟨?_, ?_, ?_, ?_⟩
  · exact exec_reduceAll h (exec_vredadd ..)
  · exact exec_reduceAll h (exec_vredmax ..)
  · exact exec_reduceAll h (exec_vredmin ..)
  · intro scan
    have hs (j : Nat) : scan j = runningSum ty (col (if ty.isFloat then ty.signBit else 0) j) := by
      dsimp only [scan]
      generalize col _ j = c
      cases c <;> rfl
    simp only [hs]
    exact exec_acrossLanes h ((exec_vscan ..).trans (execVscan_eq ..))

/-- Settles O37: lane moves by the lanes they take, reductions and scans by element position. -/
theorem laneMovesAndReductions : Obligations.LaneMovesAndReductions := ⟨laneMoves, reductionResults⟩

end Sys2Proof.Machine
end

section
/-! SUPPORT. Commands over sparse lists, thresholds with the moves of lanes that do not count as zero, and quantisation (R235, R239, R386 to
R392). -/

namespace Sys2Proof.Machine

open Sys2Proof

/-! ## Sparse lists (R386 to R388) -/

section
variable {s : State} {g : Guard} {ty : Ty} {vd va vb : R6} {pc : R5} {op : BitVec 2} {i : Instr}
  (hi : exec i s = listCmd op g ty vd va vb pc s) (h : IssuesVV s g ⟨[], [pc], [vd, va, vb], []⟩ [vd, va, vb])
include hi h

/-- Descriptors that pass their checks let the command stand for the commit, with its reads and writes of each active lane's lists. -/
theorem exec_listCmd_issues
    (hok : ∀ l ∈ activeLanes s g.pred, listTrap (laneAt (s.v va) l) (laneAt (s.v vb) l) (laneAt (s.v vd) l) = none) :
    ∃ t c, exec i s = .next t ∧ t = (s.addEff (.cmd c)).issued g.sync ∧
      c.op = .list op ty vd va vb pc ((activeLanes s g.pred).foldl (fun m l => m ||| (1 : W64) <<< l) 0) ∧
      (∀ l ∈ activeLanes s g.pred, ∀ k, k < 2 * dCnt (laneAt (s.v va) l) →
        mkEntry s 0 .weak .core .l l (dOff (laneAt (s.v va) l) + 4 * k) 4 (.cread 0 (listPos l 0 + 4 * k)) ∈ c.ents) ∧
      (∀ l ∈ activeLanes s g.pred, ∀ k, k < 2 * dCnt (laneAt (s.v vd) l) →
        mkEntry s 0 .weak .core .l l (dOff (laneAt (s.v vd) l) + 4 * k) 4 (.cwrite 0 (listPos l 2 + 4 * k)) ∈ c.ents) := by
  have hfind : ((activeLanes s g.pred).findSome? fun l => listTrap (laneAt (s.v va) l) (laneAt (s.v vb) l) (laneAt (s.v vd) l)) = none :=
    List.findSome?_eq_none_iff.mpr hok
  refine ⟨_, _, hi.trans (issueVV_go h ((h.readPred rfl _).trans (by simp only [hfind]; rfl))), rfl, rfl, fun l hl k hk => ?_,
    fun l hl k hk => ?_⟩
  · refine List.mem_append_left _ (List.mem_flatMap.mpr ⟨l, hl, List.mem_append_left _ ?_⟩)
    exact List.mem_map.mpr ⟨k, List.mem_range.mpr hk, rfl⟩
  · refine List.mem_append_right _ (List.mem_flatMap.mpr ⟨l, hl, ?_⟩)
    exact List.mem_map.mpr ⟨k, List.mem_range.mpr hk, rfl⟩

theorem exec_listCmd_trap {l c : Nat} {v : W64} (hl : (activeLanes s g.pred).head? = some l)
    (hc : listTrap (laneAt (s.v va) l) (laneAt (s.v vb) l) (laneAt (s.v vd) l) = some (c, v)) :
    exec i s = .next (trapAt s s.cur c v false) := by
  obtain ⟨ls, hls⟩ := List.head?_eq_some_iff.mp hl
  refine hi.trans (issueVV_trap h ((h.readPred rfl _).trans ?_))
  simp only [hls, List.findSome?_cons, hc]
end

/-- R386 to R388: each list instruction by the checks of its active lanes. -/
theorem sparseListResults : Rule.SparseListResults := by
  intro s g ty vd va vb pc h ls chk issues
  have list (op : BitVec 2) (i : Instr) (hi : exec i s = listCmd op g ty vd va vb pc s) : issues op i :=
    ⟨exec_listCmd_issues hi h, fun l c v => exec_listCmd_trap hi h⟩
  exact ⟨list 0 _ (exec_vmrg ..), list 1 _ (exec_visect ..), list 2 _ (exec_vunion ..)⟩

/-! ## A row written whole -/

theorem x_drop (s : State) (n : Nat) (a : R5) : (s.drop n).x a = s.x a := by unfold State.drop; split; rfl; exact x_addEff _ _ _
theorem v_drop (s : State) (n : Nat) (a : R6) : (s.drop n).v a = s.v a := by unfold State.drop; split; rfl; exact v_addEff _ _ _
theorem mem_drop (s : State) (n : Nat) : (s.drop n).mem = s.mem := by unfold State.drop; split <;> rfl

section
variable (s : State) (vd : R6) (f : Fin 64 → W32)

theorem laneAt_setV {l : Nat} (hl : l < 64) : laneAt ((s.setV vd (Vector.ofFn f)).v vd) l = f ⟨l, hl⟩ := by
  rw [State.setV, v_cleanRow, v_putV, if_pos rfl, laneAt_ofFn _ hl]
theorem v_setV_of_ne (r : Vector W32 64) {v : R6} (hv : v ≠ vd) : (s.setV vd r).v v = s.v v := by
  rw [State.setV, v_cleanRow, v_putV, if_neg hv]
theorem x_setV (r : Vector W32 64) (a : R5) : (s.setV vd r).x a = s.x a := by rw [State.setV, x_cleanRow, x_putV]
theorem mem_setV (r : Vector W32 64) : (s.setV vd r).mem = s.mem := by rw [State.setV, mem_cleanRow]; rfl
end

theorem v_setX (s : State) (d : R5) (w : W64) (a : R6) : (s.setX d w).v a = s.v a := (kept_setX s d w).v a (by simp)

/-! ## Thresholds, compression and expansion (R239, R389, R390) -/

/-- A masked write that adds to DMAG. -/
theorem setLanes_drop (s : State) (pred : R5) (vd : R6) (f : Nat → W32 × Fl) (n : Nat) (sy : Sync) :
    let t := ((s.setLanes pred vd f).drop n).issued sy
    (∀ l, l < 64 → laneAt (t.v vd) l = if laneOn s pred l then (f l).1 else laneAt (s.v vd) l) ∧ (∀ v, v ≠ vd → t.v v = s.v v) ∧
      t.mem = s.mem := by
  refine ⟨fun l hl => ?_, fun v hv => ?_, ?_⟩
  · rw [v_issued, v_drop, laneAt_setLanes _ _ _ _ hl]
  · rw [v_issued, v_drop, v_setLanes_of_ne _ _ _ _ hv]
  · rw [mem_issued, mem_drop, mem_setLanes]

/-- A whole row and a count in an x register, with what was dropped added to DMAG. -/
theorem setV_setX_drop (s : State) (vd : R6) (f : Fin 64 → W32) (xc : R5) (w : W64) (n : Nat) (sy : Sync) {r : Nat → W32}
    (hr : ∀ l (hl : l < 64), f ⟨l, hl⟩ = r l) :
    let t := (((s.setV vd (Vector.ofFn f)).setX xc w).drop n).issued sy
    (∀ l, l < 64 → laneAt (t.v vd) l = r l) ∧ (xc ≠ 0 → t.x xc = w) ∧ (∀ v, v ≠ vd → t.v v = s.v v) ∧ (∀ a, a ≠ xc → t.x a = s.x a) ∧
      t.mem = s.mem := by
  refine ⟨fun l hl => ?_, fun h0 => ?_, fun v hv => ?_, fun a ha => ?_, ?_⟩
  · rw [v_issued, v_drop, v_setX, laneAt_setV _ _ _ hl, hr l hl]
  · rw [x_issued, x_drop, x_setX, if_pos ⟨rfl, h0⟩]
  · rw [v_issued, v_drop, v_setX, v_setV_of_ne _ _ _ hv]
  · rw [x_issued, x_drop, x_setX, if_neg fun h => ha h.1, x_setV]
  · rw [mem_issued, mem_drop]; exact mem_setV _ _ _

/-- R389, R390, R239: the threshold under its mask, compression and its list of numbers, expansion by its predicate. -/
theorem thresholdResults : Rule.ThresholdResults := by
  refine ⟨fun s g ty vd va h => ?_, fun s g ty vd va xc h => ?_, fun s g ty vd va pc h => ?_⟩
  · intro e
    have hl (l : Nat) : (mapElems ty fun j => (if (countsZero ty s.thr (e l j)).1 then 0 else e l j, (0 : Fl))).1 =
        packLane ty ((List.range ty.epl).map fun j => if (countsZero ty s.thr (e l j)).1 then 0 else e l j) := by
      rw [mapElems, List.map_map]; rfl
    simp only [← hl]
    exact ⟨_, (exec_vthr ..).trans (issueVV_go h rfl), setLanes_drop ..⟩
  · intro live
    have hlive : liveLanes s ty va = live := rfl
    refine ⟨⟨_, (exec_vcmpr ..).trans (issueVV_go h rfl), setV_setX_drop _ _ _ _ _ _ _ fun l _ => ?_⟩,
      ⟨_, (exec_vnzidx ..).trans (issueVV_go h rfl), setV_setX_drop (n := 0) _ _ _ _ _ _ fun l _ => ?_⟩⟩ <;> rw [hlive] <;>
      by_cases hl : l < live.length
    · rw [if_pos hl, List.getElem?_eq_getElem hl, List.getD_eq_getElem _ _ hl]
    · rw [if_neg hl, List.getElem?_eq_none (not_lt.mp hl)]
    · rw [if_pos hl, List.getD_eq_getElem _ _ hl, List.getD_eq_getElem _ _ hl]
    · rw [if_neg hl, List.getD_eq_default _ _ (not_lt.mp hl)]; rfl
  · refine ⟨_, (exec_vexpd ..).trans (issueVV_go h (h.readPred rfl _)), (setV_written h.1.opened _ _ 0 _).congr (fun l hl => ?_) rfl⟩
    exact dif_pos hl

/-! ## Quantisation (R235, R391, R392) -/

theorem getD_map_range {α : Type} (f : Nat → α) (d : α) {n k : Nat} (h : k < n) : ((List.range n).map f).getD k d = f k := by
  rw [List.getD_eq_getElem _ _ (by simpa using h), List.getElem_map, List.getElem_range]

/-- One block of eight lanes quantised under a band scale (R235, R392). -/
def quantBlock (src : Vector W32 64) (scale : Fp) (b : Nat) : Nat × List Nat × Bool × Bool × Bool :=
  quant8 ((List.range 8).map fun i => fpOf .f32 (fDiv .f32 0 false (fpOf .f32 (laneAt src (8 * b + i)).toNat) scale).1)

/-- A whole row with its flags, and perhaps an effect for the commit. -/
theorem setV_flags_addEff (s : State) (vd : R6) (f : Fin 64 → W32) (fl : Fl) (c : Prop) [Decidable c] (e : Eff) (sy : Sync) {r : Nat → W32}
    (hr : ∀ l (hl : l < 64), f ⟨l, hl⟩ = r l) :
    let w := (s.setV vd (Vector.ofFn f)).flags fl
    let t := (if c then w else w.addEff e).issued sy
    (∀ l, l < 64 → laneAt (t.v vd) l = r l) ∧ (∀ v, v ≠ vd → t.v v = s.v v) ∧ t.mem = s.mem := by
  intro w t
  have ht (v : R6) : t.v v = (s.setV vd (Vector.ofFn f)).v v := by
    rw [v_issued, apply_ite (State.v · v), v_addEff, ite_self, v_flags]
  refine ⟨fun l hl => ?_, fun v hv => ?_, ?_⟩
  · rw [ht, laneAt_setV _ _ _ hl, hr l hl]
  · rw [ht, v_setV_of_ne _ _ _ hv]
  · have hm : (if c then w else w.addEff e).mem = w.mem := by split <;> rfl
    rw [mem_issued, hm, mem_flags, mem_setV]

/-- R392: the row that vqnt writes, its codes by block, then its scales four to a lane. -/
theorem vqnt_row {s : State} {g : Guard} {vd va vb : R6} (h : IssuesVV s g ⟨[], [], [vd, va, vb], []⟩ [va, vb]) :
    let blk := quantBlock (s.v va) (bandScale (s.v vb)).1
    ∃ t, exec (.vqnt g vd va vb) s = .next t ∧
      (∀ l, l < 64 → laneAt (t.v vd) l = if l < 8 then packLane .e2m1 (blk l).2.1
        else if l < 10 then packLane .n8 ((List.range 4).map fun i => (blk (4 * (l - 8) + i)).1) else 0) ∧
      (∀ v, v ≠ vd → t.v v = s.v v) ∧ t.mem = s.mem := by
  intro blk
  have hb (b : Nat) (h8 : b < 8) := getD_map_range blk (0, [], false, false, false) h8
  refine ⟨_, (exec_vqnt ..).trans (issueVV_go h rfl), setV_flags_addEff _ _ _ _ _ _ _ fun l _ => ?_⟩
  refine ite_congr rfl (fun h8 => ?_) fun h8 => ite_congr rfl (fun h10 => ?_) fun _ => rfl
  · exact congrArg (fun b => packLane .e2m1 b.2.1) (hb l h8)
  · refine congrArg (packLane .n8) (List.map_congr_left fun i hi => congrArg Prod.fst (hb _ ?_))
    have hi4 : i < 4 := List.mem_range.mp hi
    show 4 * (l - 8) + i < 8
    omega

/-- R391, R392, R235: codes and scales by block, products by lane, magnitudes by block, and scale codes by lane. -/
theorem quantiseResults : Rule.QuantiseResults := by
  intro s g vd va vb band
  refine ⟨fun h => ⟨?_, ?_⟩, fun h => ⟨?_, ?_⟩⟩
  · intro blk
    obtain ⟨t, ht, hl, hv, hm⟩ := vqnt_row h
    refine ⟨t, ht, fun b hb => ?_, fun k hk => ?_, fun l h10 h64 => ?_, hv, hm⟩
    · exact (hl b (by omega)).trans (if_pos hb)
    · rw [hl (8 + k) (by omega), if_neg (by omega), if_pos (by omega), Nat.add_sub_cancel_left]; rfl
    · rw [hl l h64, if_neg (by omega), if_neg (by omega)]
  · intro r
    refine ⟨_, (exec_vdqnt ..).trans (issueVV_go h rfl), (setV_written h.1.opened _ _ _ _).congr (fun l hl => ?_) ?_⟩
    · exact (dif_pos hl).trans (congrArg (fun p => BitVec.ofNat 32 p.1) (getD_map_range r _ hl))
    · rw [List.map_map]; rfl
  · refine ⟨_, (exec_vamax ..).trans (issueVV_go h rfl), (setV_written h.1.opened _ _ _ _).congr (fun l hl => ?_) rfl⟩
    exact dif_pos hl
  · rw [exec_vbscl]; exact vecOp_next _ h

/-- Settles O39: lists by their checks, thresholds by the elements that count as zero, quantisation by its blocks. -/
theorem sparseAndQuantised : Obligations.SparseAndQuantised := ⟨sparseListResults, thresholdResults, quantiseResults⟩

end Sys2Proof.Machine
end

section
/-! SUPPORT. The words of an instruction: what each field of a packed word reads as (R272), that a packed word is parsed to its fields
(R270, R271), and that the fields of every instruction give it back. -/

namespace Sys2Proof.Laws.RoundTrip

/-! ## Fields of a word -/

/-- A field above the low part of a word. -/
theorem extract_above {m n k l : Nat} (a : BitVec m) (b : BitVec n) : (a ++ b).extractLsb' (n + k) l = a.extractLsb' k l := by
  ext i h
  simp only [BitVec.getElem_extractLsb', BitVec.getLsbD_append]
  rw [if_neg (by omega)]
  congr 1; omega

section
variable {n1 n2 n3 n4 n5 n6 n7 n8 : Nat} (x1 : BitVec n1) (x2 : BitVec n2) (x3 : BitVec n3) (x4 : BitVec n4) (x5 : BitVec n5)
  (x6 : BitVec n6) (x7 : BitVec n7) (x8 : BitVec n8)

theorem fields5 : let w := x5 ++ x4 ++ x3 ++ x2 ++ x1
    w.extractLsb' 0 n1 = x1 ∧ w.extractLsb' n1 n2 = x2 ∧ w.extractLsb' (n1 + n2) n3 = x3 ∧ w.extractLsb' (n1 + (n2 + n3)) n4 = x4 ∧
    w.extractLsb' (n1 + (n2 + (n3 + n4))) n5 = x5 := by
  simp only [extract_above, hi, lo, mid, and_self]
theorem fields6 : let w := x6 ++ x5 ++ x4 ++ x3 ++ x2 ++ x1
    w.extractLsb' 0 n1 = x1 ∧ w.extractLsb' n1 n2 = x2 ∧ w.extractLsb' (n1 + n2) n3 = x3 ∧ w.extractLsb' (n1 + (n2 + n3)) n4 = x4 ∧
    w.extractLsb' (n1 + (n2 + (n3 + n4))) n5 = x5 ∧ w.extractLsb' (n1 + (n2 + (n3 + (n4 + n5)))) n6 = x6 := by
  simp only [extract_above, hi, lo, mid, and_self]
theorem fields7 : let w := x7 ++ x6 ++ x5 ++ x4 ++ x3 ++ x2 ++ x1
    w.extractLsb' 0 n1 = x1 ∧ w.extractLsb' n1 n2 = x2 ∧ w.extractLsb' (n1 + n2) n3 = x3 ∧ w.extractLsb' (n1 + (n2 + n3)) n4 = x4 ∧
    w.extractLsb' (n1 + (n2 + (n3 + n4))) n5 = x5 ∧ w.extractLsb' (n1 + (n2 + (n3 + (n4 + n5)))) n6 = x6 ∧
    w.extractLsb' (n1 + (n2 + (n3 + (n4 + (n5 + n6))))) n7 = x7 := by
  simp only [extract_above, hi, lo, mid, and_self]
theorem fields8 : let w := x8 ++ x7 ++ x6 ++ x5 ++ x4 ++ x3 ++ x2 ++ x1
    w.extractLsb' 0 n1 = x1 ∧ w.extractLsb' n1 n2 = x2 ∧ w.extractLsb' (n1 + n2) n3 = x3 ∧ w.extractLsb' (n1 + (n2 + n3)) n4 = x4 ∧
    w.extractLsb' (n1 + (n2 + (n3 + n4))) n5 = x5 ∧ w.extractLsb' (n1 + (n2 + (n3 + (n4 + n5)))) n6 = x6 ∧
    w.extractLsb' (n1 + (n2 + (n3 + (n4 + (n5 + n6))))) n7 = x7 ∧
    w.extractLsb' (n1 + (n2 + (n3 + (n4 + (n5 + (n6 + n7)))))) n8 = x8 := by
  simp only [extract_above, hi, lo, mid, and_self]
end

/-! ## Parsing what was packed -/

/-- The format of the fields. -/
def fmtIs : Enc → Fmt
  | .bh .. => .bh | .ex .. => .ex | .rr .. => .rr | .ri .. => .ri | .sy .. => .sy
  | .lw .. => .lw | .xr .. => .xr | .vv .. => .vv | .mc .. => .mc | .ac .. => .ac
/-- Their major; those of the first two formats have one each. -/
def majIs : Enc → BitVec 6
  | .bh .. => 1 | .ex .. => 2
  | .rr _ maj .. | .ri _ maj .. | .sy _ maj .. | .lw _ maj .. | .xr _ maj .. | .vv _ maj .. | .mc _ maj .. | .ac _ maj .. => maj
/-- The major is one of the format's (R281 to R284). -/
def MajorFits (e : Enc) : Prop := fmtOf (majIs e) = some (fmtIs e)

/-- A bit read as a field of its own. -/
theorem bit_of_field {w : W32} {k : Nat} {b : Bool} (h : w.extractLsb' k 1 = BitVec.ofBool b) : w.getLsbD k = b := by
  have h' := congrArg (BitVec.getLsbD · 0) h
  simpa using h'

/-- R271: a head word whose L is 0 is an instruction of one word. -/
theorem parse_narrow {fm : Fmt} {w : W32} {e : Enc} (rest : List W32) (hm : fmtOf (majOf w) = some fm) (hf : fm.wide = false)
    (hw : w.extractLsb' 27 1 = 0) (he : parse1 fm w = .ok e) : parse (w :: rest) = .ok (e, rest) := by
  have hl : widthBit w = false := bit_of_field (b := false) hw
  simp [parse, hm, hf, hl, he, Except.map]
/-- R271: one whose L is 1 is an instruction of two, the upper nibble of its tail word zero. -/
theorem parse_wide {fm : Fmt} {w t : W32} {e : Enc} (rest : List W32) (hm : fmtOf (majOf w) = some fm) (hf : fm.wide = true)
    (hw : w.extractLsb' 27 1 = 1) (ht : t.extractLsb' 28 4 = 0) (he : parse2 fm w t = .ok e) :
    parse (w :: t :: rest) = .ok (e, rest) := by
  have hl : widthBit w = true := bit_of_field (b := true) hw
  simp [parse, hm, hf, hl, ht, he, Except.map]

/-- R270 to R272: packed fields are parsed as they were, whatever words follow. -/
theorem parse_pack (e : Enc) (rest : List W32) (h : MajorFits e) : parse (e.pack ++ rest) = .ok (e, rest) := by
  cases e with
  | bh f ni nx ac =>
    obtain ⟨h0, h13, h14, h16, h21, h27, h28⟩ := fields7 0#13 (BitVec.ofBool ac) nx ni 1#6 0#1 f
    refine parse_narrow rest (fm := .bh) (congrArg fmtOf h21) rfl h27 ?_
    simp only [parse1, syncOf, bit_of_field h13]
    rw [h0, h14, h16, h28]; rfl
  | ex f pred kind disp =>
    obtain ⟨h0, h14, h16, h21, h27, h28⟩ := fields6 disp kind pred 2#6 0#1 f
    refine parse_narrow rest (fm := .ex) (congrArg fmtOf h21) rfl h27 ?_
    simp only [parse1, syncOf]
    rw [h0, h14, h16, h28]
  | rr f maj d a b fn =>
    obtain ⟨h0, h6, h11, h16, h21, h27, h28⟩ := fields7 fn b a d maj 0#1 f
    refine parse_narrow rest ((congrArg fmtOf h21).trans h) rfl h27 ?_
    simp only [fmtIs, parse1, syncOf, majOf]
    rw [h0, h6, h11, h16, h21, h28]
  | ri f maj d a imm =>
    obtain ⟨h0, h11, h16, h21, h27, h28⟩ := fields6 imm a d maj 0#1 f
    refine parse_narrow rest ((congrArg fmtOf h21).trans h) rfl h27 ?_
    simp only [fmtIs, parse1, syncOf, majOf]
    rw [h0, h11, h16, h21, h28]
  | sy f maj a imm =>
    obtain ⟨h0, h16, h21, h27, h28⟩ := fields5 imm a maj 0#1 f
    refine parse_narrow rest ((congrArg fmtOf h21).trans h) rfl h27 ?_
    simp only [fmtIs, parse1, syncOf, majOf]
    rw [h0, h16, h21, h28]
  | lw f maj d imm =>
    obtain ⟨h0, h16, h21, h27, h28⟩ := fields5 (imm.extractLsb' 16 16) d maj 1#1 f
    have hz (k l : Nat) : (0#16 ++ imm.extractLsb' 0 16).extractLsb' (16 + k) l = 0 := by rw [extract_above]; simp
    have ht : (0#16 ++ imm.extractLsb' 0 16).extractLsb' 0 16 = imm.extractLsb' 0 16 := lo ..
    refine parse_wide rest ((congrArg fmtOf h21).trans h) rfl h27 (hz 12 4) ?_
    have hi : imm.extractLsb' 16 16 ++ imm.extractLsb' 0 16 = imm := BitVec.extractLsb'_append_extractLsb'
    simp only [fmtIs, parse2, syncOf, majOf]
    rw [h0, h16, h21, h28, hz 0 12, ht, hi]; rfl
  | xr g maj d a b fn c imm =>
    obtain ⟨h0, h6, h11, h16, h21, h27, h28⟩ := fields7 fn b a d maj 1#1 g.sync
    obtain ⟨t0, t14, t18, t23, t28⟩ := fields5 imm g.li c g.pred 0#4
    refine parse_wide rest ((congrArg fmtOf h21).trans h) rfl h27 t28 ?_
    simp only [fmtIs, parse2, guardOf, syncOf, majOf]
    rw [h0, h6, h11, h16, h21, h28, t0, t14, t18, t23]
  | vv g maj vd va vb sp ty vc fn =>
    obtain ⟨h0, h3, h9, h15, h21, h27, h28⟩ := fields7 sp vb va vd maj 1#1 g.sync
    obtain ⟨t0, t8, t14, t18, t23, t28⟩ := fields6 fn vc g.li ty g.pred 0#4
    refine parse_wide rest ((congrArg fmtOf h21).trans h) rfl h27 t28 ?_
    simp only [fmtIs, parse2, guardOf, syncOf, majOf]
    rw [h0, h3, h9, h15, h21, h28, t0, t8, t14, t18, t23]
  | mc g maj acc sa breg sgr ty si so fn =>
    obtain ⟨h0, h2, h14, h18, h21, h27, h28⟩ := fields7 sgr breg sa acc maj 1#1 g.sync
    obtain ⟨t0, t6, t10, t14, t18, t23, t28⟩ := fields7 fn so si g.li ty g.pred 0#4
    refine parse_wide rest ((congrArg fmtOf h21).trans h) rfl h27 t28 ?_
    simp only [fmtIs, parse2, guardOf, syncOf, majOf]
    rw [h0, h2, h14, h18, h21, h28, t0, t6, t10, t14, t18, t23]
  | ac g maj a sr hd b sgr ty gate xp fn =>
    obtain ⟨h0, h2, h7, h12, h16, h21, h27, h28⟩ := fields8 sgr b hd sr a maj 1#1 g.sync
    obtain ⟨t0, t6, t8, t14, t18, t23, t28⟩ := fields7 fn xp gate g.li ty g.pred 0#4
    refine parse_wide rest ((congrArg fmtOf h21).trans h) rfl h27 t28 ?_
    simp only [fmtIs, parse2, guardOf, syncOf, majOf]
    rw [h0, h2, h7, h12, h16, h21, h28, t0, t6, t8, t14, t18, t23]

/-! ## Fields that mean an instruction -/

theorem fmtOf_of_toNat {maj : BitVec 6} {k : Nat} {fm : Fmt} (hk : maj.toNat = k) (hf : fmtOf (BitVec.ofNat 6 k) = some fm) :
    fmtOf maj = some fm := by
  rwa [← hk, BitVec.ofNat_toNat, BitVec.setWidth_eq] at hf
/-- Fields of an unassigned major mean nothing (R284), so those that mean an instruction have one of their format. -/
theorem majorFits_of_instr {e : Enc} {i : Instr} (h : e.instr = .ok i) : MajorFits e := by
  cases e with
  | bh | ex => rfl
  | _ =>
    simp only [Enc.instr] at h
    split at h <;> first
      | exact fmtOf_of_toNat ‹_› rfl
      | cases h

/-- R281 to R286: the fields of every instruction decode to it. -/
theorem statement (i : Instr) : Statement i := by
  cases i with
  | blockHeader => apply blockHeader
  | jump => apply jump
  | call => apply call
  | ret => apply ret
  | done => apply done
  | add => apply add
  | sub => apply sub
  | and => apply and
  | or => apply or
  | xor => apply xor
  | andn => apply andn
  | sll => apply sll
  | srl => apply srl
  | sra => apply sra
  | minS => apply minS
  | minN => apply minN
  | maxS => apply maxS
  | maxN => apply maxN
  | clz => apply clz
  | popc => apply popc
  | addW => apply addW
  | subW => apply subW
  | addi => apply addi
  | andi => apply andi
  | ori => apply ori
  | xori => apply xori
  | slli => apply slli
  | srli => apply srli
  | srai => apply srai
  | liw => apply liw
  | lih => apply lih
  | cmpEq => apply cmpEq
  | cmpNe => apply cmpNe
  | cmpLtS => apply cmpLtS
  | cmpLtN => apply cmpLtN
  | cmpGeS => apply cmpGeS
  | cmpGeN => apply cmpGeN
  | cmpiEq => apply cmpiEq
  | cmpiNe => apply cmpiNe
  | cmpiLtS => apply cmpiLtS
  | cmpiLtN => apply cmpiLtN
  | cmpiGeS => apply cmpiGeS
  | cmpiGeN => apply cmpiGeN
  | pand => apply pand
  | por => apply por
  | pxor => apply pxor
  | pandn => apply pandn
  | pnot => apply pnot
  | pmov => apply pmov
  | pall => apply pall
  | pnone => apply pnone
  | ppop => apply ppop
  | pfirst => apply pfirst
  | mul => apply mul
  | mulhS => apply mulhS
  | mulhN => apply mulhN
  | divS => apply divS
  | divN => apply divN
  | remS => apply remS
  | remN => apply remN
  | mulW => apply mulW
  | divWS => apply divWS
  | divWN => apply divWN
  | remWS => apply remWS
  | remWN => apply remWN
  | sel => apply sel
  | rdc => apply rdc
  | wrc => apply wrc
  | swpc => apply swpc
  | setc => apply setc
  | clrc => apply clrc
  | nop => apply nop
  | trap => apply trap
  | eret => apply eret
  | brk => apply brk
  | kill => apply kill
  | loopn => apply loopn
  | lstride => apply lstride
  | loopgo => apply loopgo
  | loopbrk => apply loopbrk
  | post => apply post
  | await => apply await
  | mark => apply mark
  | rdvset => apply rdvset
  | rdvwait => apply rdvwait
  | dsync => apply dsync
  | mon => apply mon
  | mwait => apply mwait
  | mclr => apply mclr
  | spawn => apply spawn
  | spawnr => apply spawnr
  | evsig => apply evsig
  | evwait => apply evwait
  | joindec => apply joindec
  | yield => apply yield
  | tself => apply tself
  | stgadv => apply stgadv
  | stgjmp => apply stgjmp
  | waitl => apply waitl
  | stgrd => apply stgrd
  | abort => apply abort
  | abchk => apply abchk
  | abrd => apply abrd
  | segb => apply segb
  | sege => apply sege
  | ld => apply ld
  | st => apply st
  | amoAdd => apply amoAdd
  | amoAnd => apply amoAnd
  | amoOr => apply amoOr
  | amoXor => apply amoXor
  | amoMinS => apply amoMinS
  | amoMinN => apply amoMinN
  | amoMaxS => apply amoMaxS
  | amoMaxN => apply amoMaxN
  | amoSwap => apply amoSwap
  | amoCas => apply amoCas
  | fence => apply fence
  | xfence => apply xfence
  | ptfence => apply ptfence
  | tlbinv => apply tlbinv
  | ldx => apply ldx
  | erase => apply erase
  | extest => apply extest
  | exmap => apply exmap
  | setsBase => apply setsBase
  | setsDim => apply setsDim
  | setsFmt => apply setsFmt
  | setsScl => apply setsScl
  | setsXp => apply setsXp
  | setsMc => apply setsMc
  | setsHdl => apply setsHdl
  | setsClr => apply setsClr
  | gets => apply gets
  | copyin => apply copyin
  | copyout => apply copyout
  | copyk => apply copyk
  | copyd => apply copyd
  | copylin => apply copylin
  | gath => apply gath
  | gathmc => apply gathmc
  | scat => apply scat
  | scatadd => apply scatadd
  | gexp => apply gexp
  | garr => apply garr
  | gwait => apply gwait
  | ginit => apply ginit
  | hwait => apply hwait
  | hset => apply hset
  | hfree => apply hfree
  | nzscan => apply nzscan
  | thrset => apply thrset
  | dmrd => apply dmrd
  | tlget => apply tlget
  | tlstat => apply tlstat
  | tlack => apply tlack
  | rngtk => apply rngtk
  | rngput => apply rngput
  | rngget => apply rngget
  | rngeos => apply rngeos
  | rngstat => apply rngstat
  | qpush => apply qpush
  | qpop => apply qpop
  | qpeek => apply qpeek
  | qpopp => apply qpopp
  | vaddF => apply vaddF
  | vsubF => apply vsubF
  | vmulF => apply vmulF
  | vfma => apply vfma
  | vfms => apply vfms
  | vfnma => apply vfnma
  | vminF => apply vminF
  | vmaxF => apply vmaxF
  | vabsF => apply vabsF
  | vneg => apply vneg
  | vdiv => apply vdiv
  | vsqrt => apply vsqrt
  | vaddI => apply vaddI
  | vsubI => apply vsubI
  | vmulI => apply vmulI
  | vmulh => apply vmulh
  | vand => apply vand
  | vor => apply vor
  | vxor => apply vxor
  | vandn => apply vandn
  | vsll => apply vsll
  | vsrl => apply vsrl
  | vsra => apply vsra
  | vminI => apply vminI
  | vmaxI => apply vmaxI
  | vabsI => apply vabsI
  | vcmpEq => apply vcmpEq
  | vcmpNe => apply vcmpNe
  | vcmpLt => apply vcmpLt
  | vcmpLe => apply vcmpLe
  | vcmpGt => apply vcmpGt
  | vcmpGe => apply vcmpGe
  | vclass => apply vclass
  | cvtRne => apply cvtRne
  | cvtRtz => apply cvtRtz
  | cvtRup => apply cvtRup
  | cvtRdn => apply cvtRdn
  | cvtSat => apply cvtSat
  | vpack => apply vpack
  | vunpack => apply vunpack
  | vexp2 => apply vexp2
  | vlog2 => apply vlog2
  | vrcp => apply vrcp
  | vrsqrt => apply vrsqrt
  | vsig => apply vsig
  | vtanh => apply vtanh
  | vbcast => apply vbcast
  | vlane => apply vlane
  | vperm => apply vperm
  | vrot => apply vrot
  | vshl => apply vshl
  | vredadd => apply vredadd
  | vredmax => apply vredmax
  | vredmin => apply vredmin
  | vscan => apply vscan
  | vsel => apply vsel
  | vmov => apply vmov
  | vld => apply vld
  | vst => apply vst
  | vldi => apply vldi
  | vsti => apply vsti
  | vldb => apply vldb
  | vmrg => apply vmrg
  | visect => apply visect
  | vunion => apply vunion
  | vthr => apply vthr
  | vcmpr => apply vcmpr
  | vexpd => apply vexpd
  | vnzidx => apply vnzidx
  | vqnt => apply vqnt
  | vdqnt => apply vdqnt
  | vamax => apply vamax
  | vbscl => apply vbscl
  | mma => apply mma
  | mmas => apply mmas
  | mmag => apply mmag
  | mmak => apply mmak
  | mlease => apply mlease
  | mrel => apply mrel
  | mldb => apply mldb
  | mzero => apply mzero
  | maccd => apply maccd
  | mrd => apply mrd
  | mwr => apply mwr
  | mchk => apply mchk
  | escale => apply escale
  | ebias => apply ebias
  | erelu => apply erelu
  | esig => apply esig
  | esilu => apply esilu
  | emul => apply emul
  | eadd => apply eadd
  | econv => apply econv
  | swb => apply swb
  | swbacc => apply swbacc
  | swbnm => apply swbnm
  | swbz => apply swbz
  | sckstat => apply sckstat
  | _ => intro e h; cases h
/-- R270 to R286: what is packed of a well-formed instruction's fields decodes to it. -/
theorem decode_pack {i : Instr} {e : Enc} (rest : List W32) (hw : i.wf = true) (he : i.enc = some e) :
    decode (e.pack ++ rest) = .ok (i, rest) := by
  have hi : e.instr = .ok i := statement i e he
  simp only [decode, parse_pack e rest (majorFits_of_instr hi), hi, hw, if_true]

/-- Settles O57: packed fields are parsed as they were, and those of an instruction mean that instruction. -/
theorem decodeOfEncode : Obligations.DecodeOfEncode := by
  intro i rest hw hne
  unfold encode at hne ⊢
  cases he : i.enc with
  | none => rw [he] at hne; exact absurd rfl hne
  | some e => exact decode_pack rest hw he

/-- Settles O56: the words evaluate, each to its instruction or to the reason of its rejection. -/
theorem workedWordsDecode : Obligations.WorkedWordsDecode :=
  ⟨rfl, rfl, rfl, rfl, rfl, rfl, rfl, rfl, rfl, rfl, rfl, rfl, rfl, rfl, rfl, rfl⟩

end Sys2Proof.Laws.RoundTrip
end

section
/-! SUPPORT. The values of the scalar instructions as the rules of spec/16 write them, and the results of those instructions
(R341 to R348). -/

namespace Sys2Proof.Machine

open Sys2Proof

/-! ## Values (R341, R344, R347, R348) -/

theorem toNat_and_63 (v : W64) : (v &&& 63).toNat = v.toNat % 64 := by
  rw [BitVec.toNat_and]; exact Nat.and_two_pow_sub_one_eq_mod _ 6
theorem slt_eq (a b : W64) : a.slt b = decide (a.toInt < b.toInt) := rfl
theorem ult_eq (a b : W64) : a.ult b = decide (a.toNat < b.toNat) := rfl
theorem not_slt_iff (a b : W64) : (!a.slt b) = true ↔ b.toInt ≤ a.toInt := by simp [slt_eq]
theorem not_ult_iff (a b : W64) : (!a.ult b) = true ↔ b.toNat ≤ a.toNat := by simp [ult_eq]
theorem aluMinS_eq (a b : W64) : aluMinS a b = if a.toInt < b.toInt then a else b := by simp only [aluMinS, slt_eq, decide_eq_true_eq]
theorem aluMinN_eq (a b : W64) : aluMinN a b = if a.toNat < b.toNat then a else b := by simp only [aluMinN, ult_eq, decide_eq_true_eq]
theorem aluMaxS_eq (a b : W64) : aluMaxS a b = if a.toInt < b.toInt then b else a := by simp only [aluMaxS, slt_eq, decide_eq_true_eq]
theorem aluMaxN_eq (a b : W64) : aluMaxN a b = if a.toNat < b.toNat then b else a := by simp only [aluMaxN, ult_eq, decide_eq_true_eq]

/-- What a test writes to its predicate register. -/
theorem allOnes_eq {b : Bool} {c : Prop} [Decidable c] (h : b = true ↔ c) : allOnes b = if c then BitVec.allOnes 64 else 0 := by
  cases b with
  | true => rw [if_pos (h.mp rfl)]; rfl
  | false => rw [if_neg fun hc => Bool.false_ne_true (h.mpr hc)]; rfl

/-- Leading zeros end at a one bit, or at the end of the number. -/
theorem clzNat_spec (n v : Nat) : clzNat n v ≤ n ∧ (∀ i, n - clzNat n v ≤ i → i < n → v.testBit i = false) ∧
    (clzNat n v < n → v.testBit (n - 1 - clzNat n v) = true) := by
  induction n with
  | zero => exact ⟨Nat.le_refl 0, fun i _ h => absurd h (Nat.not_lt_zero i), nofun⟩
  | succ n ih =>
    obtain ⟨hle, hz, ho⟩ := ih
    rw [clzNat]
    split
    · next h => exact ⟨Nat.zero_le _, fun i h1 h2 => by omega, fun _ => by simpa [Nat.testBit_eq_decide_div_mod_eq] using h⟩
    · next h =>
      refine ⟨by omega, fun i h1 h2 => ?_, fun h1 => ?_⟩
      · by_cases hi : i = n
        · rw [hi, Nat.testBit_eq_decide_div_mod_eq]; simpa using h
        · exact hz i (by omega) (by omega)
      · rw [show n + 1 - 1 - (1 + clzNat n v) = n - 1 - clzNat n v by omega]
        exact ho (by omega)

theorem popNat_eq (n v : Nat) : popNat n v = ((List.range n).filter fun i => v.testBit i).length := by
  induction n with
  | zero => rfl
  | succ n ih =>
    have hb : v / 2 ^ n % 2 = if v.testBit n then 1 else 0 := by
      rw [Nat.testBit_eq_decide_div_mod_eq]
      split <;> simp_all
    rw [popNat, ih, hb, List.range_succ, List.filter_append, List.length_append, Nat.add_comm]
    by_cases hn : v.testBit n <;> simp [hn]
theorem aluPopc_eq (v : W64) : aluPopc v = BitVec.ofNat 64 ((List.range 64).filter fun i => v.getLsbD i).length :=
  congrArg (BitVec.ofNat 64) (popNat_eq 64 v.toNat)

theorem quotN_eq {w : Nat} (x y : BitVec w) :
    quotN x y = if y = 0 then BitVec.allOnes w else BitVec.ofNat w (x.toNat / y.toNat) := by rw [quotN, BitVec.udiv_def]
theorem remN_eq {w : Nat} (x y : BitVec w) : remN x y = if y = 0 then x else BitVec.ofNat w (x.toNat % y.toNat) := by
  rw [remN, BitVec.umod_def]

/-! ## Results -/

/-- R341: the meanings of the ALU operations, as the rule writes them. -/
theorem aluResults : Rule.AluResults := by
  intro s f d a b h
  have alu (op : W64 → W64 → W64) := alu2_next op h
  simp only [exec_add, exec_sub, exec_and, exec_or, exec_xor, exec_andn, exec_sll, exec_srl, exec_sra, exec_minS, exec_minN, exec_maxS,
    exec_maxN, exec_addW, exec_subW, ← toNat_and_63, ← aluMinS_eq, ← aluMinN_eq, ← aluMaxS_eq, ← aluMaxN_eq]
  exact ⟨alu _, alu _, alu _, alu _, alu _, alu _, alu _, alu _, alu _, alu _, alu _, alu _, alu _, alu _, alu _⟩

theorem countResults : Rule.CountResults := by
  intro s f d a h
  obtain ⟨hle, hz, ho⟩ := clzNat_spec 64 (s.x a).toNat
  rw [exec_popc, ← aluPopc_eq]
  exact ⟨⟨_, (exec_clz ..).trans (alu1_next aluClz h), hle, hz, ho⟩, alu1_next aluPopc h⟩

theorem immediateResults : Rule.ImmediateResults := by
  refine ⟨fun s f d a imm sh h => ?_, fun s f d imm h => ?_, fun s f d imm h => ?_⟩
  · have alu (op : W64 → W64) := alu1_next op h
    simp only [exec_addi, exec_andi, exec_ori, exec_xori, exec_slli, exec_srli, exec_srai]
    exact ⟨alu _, alu _, alu _, alu _, alu _, alu _, alu _⟩
  · exact (exec_liw ..).trans (issue32_go h rfl)
  · exact (exec_lih ..).trans (issue32_go h rfl)

theorem selectMultiplyResults : Rule.SelectMultiplyResults := by
  refine ⟨fun s g d a b c h => ?_, fun s f d a b h => ?_⟩
  · exact (exec_sel ..).trans (issue64_go h (Issuing.readPreds h (by simp) (by simp) _))
  · have alu (op : W64 → W64 → W64) := alu2_next op h
    simp only [exec_mul, exec_mulhS, exec_mulhN, exec_mulW]
    exact ⟨alu _, alu _, alu _, alu _⟩

/-- Settles O1: each instruction is of one of the shapes, whose result is its value. -/
theorem scalarResults : Obligations.ScalarResults := ⟨aluResults, countResults, immediateResults, selectMultiplyResults⟩

/-- R344: each compare is its test, signed or unsigned. -/
theorem compareResults : Rule.CompareResults := by
  refine ⟨fun s f d a b h => ?_, fun s g d a imm h => ?_⟩
  · intro r
    have cmp (op : W64 → W64 → Bool) {c : Prop} [Decidable c] (hc : op (s.x a) (s.x b) = true ↔ c) :
        cmp2 f d a b op s = .next ((s.setP d (r c)).issued f) := (cmp2_next op h).trans (by rw [allOnes_eq hc])
    simp only [exec_cmpEq, exec_cmpNe, exec_cmpLtS, exec_cmpLtN, exec_cmpGeS, exec_cmpGeN]
    exact ⟨cmp _ beq_iff_eq, cmp _ bne_iff_ne, cmp _ decide_eq_true_iff, cmp _ decide_eq_true_iff, cmp _ (not_slt_iff ..),
      cmp _ (not_ult_iff ..)⟩
  · intro r i
    have cmp (op : W64 → W64 → Bool) {c : Prop} [Decidable c] (hc : op (s.x a) i = true ↔ c) :
        cmpImm g d a imm op s = .next ((s.setP d (r c)).issued g.sync) := (cmpImm_next op h).trans (by rw [allOnes_eq hc])
    simp only [exec_cmpiEq, exec_cmpiNe, exec_cmpiLtS, exec_cmpiLtN, exec_cmpiGeS, exec_cmpiGeN]
    exact ⟨cmp _ beq_iff_eq, cmp _ bne_iff_ne, cmp _ decide_eq_true_iff, cmp _ decide_eq_true_iff, cmp _ (not_slt_iff ..),
      cmp _ (not_ult_iff ..)⟩

theorem predicateResults : Rule.PredicateResults := by
  refine ⟨fun s f d a b h => ?_, fun s f d a h => ?_, fun s f d a h => ?_⟩
  · simp only [exec_pand, exec_por, exec_pxor, exec_pandn]
    exact ⟨pred2_next _ h, pred2_next _ h, pred2_next _ h, pred2_next _ h⟩
  · simp only [exec_pnot, exec_pmov, exec_pall, exec_pnone, exec_pfirst, ← allOnes_eq beq_iff_eq, ← allOnes_eq bne_iff_ne]
    exact ⟨pred1_next _ h, pred1_next _ h, pred1_next _ h, pred1_next _ h, pred1_next _ h⟩
  · rw [exec_ppop, ← aluPopc_eq]
    exact issue32_go h (Issuing.readPreds h (by simp) (by simp) _)

/-- Settles O2: each compare is its test, and the predicate operations are of the shapes of one and two operands. -/
theorem compareAndPredicate : Obligations.CompareAndPredicate := ⟨compareResults, predicateResults⟩

/-- R348: a division that its divisor, or TRAPEN.DIVZ clear, keeps from trapping. -/
theorem divideResults_rule : Rule.DivideResults := by
  intro s f d a b h x y xw yw
  have runs {z : W64 → Bool} (ht : (s.csr 0x00B).getLsbD 0 = false ∨ z y = false) (op : W64 → W64 → W64) :=
    divide_next z op h (by rcases ht with ht | ht <;> simp only [ht, y, Bool.false_and, Bool.and_false])
  simp only [exec_divS, exec_divN, exec_remS, exec_remN, exec_divWS, exec_divWN, exec_remWS, exec_remWN, ← quotN_eq, ← remN_eq]
  refine ⟨fun ht => ?_, fun ht => ?_⟩
  · have run := runs (z := isZero) (ht.imp_right beq_eq_false_iff_ne.mpr)
    exact ⟨run _, run _, run _, run _⟩
  · have run := runs (z := isZeroW) (ht.imp_right beq_eq_false_iff_ne.mpr)
    exact ⟨run _, run _, run _, run _⟩

theorem divideByZeroTraps : Rule.DivideByZeroTraps := by
  intro s f d a b h ht
  simp only [List.forall_mem_cons, exec_divS, exec_divN, exec_remS, exec_remN, exec_divWS, exec_divWN, exec_remWS, exec_remWN]
  refine ⟨fun hy => ?_, fun hy => ?_⟩
  · have trap (op) := divide_trap isZero op h (beq_iff_eq.mpr hy) ht
    exact ⟨trap _, trap _, trap _, trap _, List.forall_mem_nil _⟩
  · have trap (op) := divide_trap isZeroW op h (beq_iff_eq.mpr hy) ht
    exact ⟨trap _, trap _, trap _, trap _, List.forall_mem_nil _⟩

/-- Settles O3: the eight divisions are of one shape, which traps or not by its divisor and TRAPEN.DIVZ. -/
theorem divideResults : Obligations.DivideResults := ⟨divideResults_rule, divideByZeroTraps⟩

end Sys2Proof.Machine
end

section
/-! SUPPORT. Skips (R274, R276): every guarded instruction is issued under its guard, and an issue whose LI condition or predicate fails
leaves the block with no other effect. -/

namespace Sys2Proof.Machine

open Sys2Proof

/-- R276: whatever an instruction is, its LI condition comes first. -/
theorem issue_skips_li {s : State} {f : Sync} {pred : R5} {li : BitVec 4} {u : Uses} {body : State → Res} (hb : s.blk.isSome = true)
    (hl : liHolds s.my s.me li = false) : issue s f pred li u body = .next s.next := by
  obtain ⟨b, hb⟩ := Option.isSome_iff_exists.mp hb
  simp only [issue, hb, hl, Bool.not_false, if_true]

/-- R274: once it is there, a predicate that reads 0 ends the issue. -/
theorem issue_skips_pred {s : State} {f : Sync} {pred : R5} {li : BitVec 4} {u : Uses} {body : State → Res} (hb : s.blk.isSome = true)
    (hl : liHolds s.my s.me li = true) (hh : listHits s (Uses.ofPred pred) = false) (hz : hazard s (Uses.ofPred pred) = false)
    (hc : PredsClean s (Uses.ofPred pred).ps) (hp : predHolds s.me pred = false) : issue s f pred li u body = .next s.next := by
  obtain ⟨b, hb⟩ := Option.isSome_iff_exists.mp hb
  obtain ⟨hr, hg⟩ := readPs_clean hc
  simp only [issue, hb, hl, hh, hz, hr, hg, hp, Bool.not_true, Bool.not_false, Bool.false_eq_true, if_false, if_true]

/-- The outcome is an issue under the guard's LI condition and the given predicate. -/
def GuardedBy (s : State) (g : Guard) (pred : R5) (o : Out) : Prop := ∃ u body, o = issue s g.sync pred g.li u body

/-! ## Shapes -/

section
variable {s : State} {g : Guard}

theorem issue64_guarded {u body} : GuardedBy s g g.pred (issue64 s g u body) := ⟨u, body, rfl⟩
theorem issueVV_guarded {u rd body} : GuardedBy s g 31 (issueVV s g u rd body) := ⟨_, _, rfl⟩
theorem cmpImm_guarded {d a imm op} : GuardedBy s g g.pred (cmpImm g d a imm op s) := by rw [cmpImm]; exact issue64_guarded
theorem loopIns_guarded {us body} : GuardedBy s g g.pred (loopIns g us body s) := by rw [loopIns]; exact issue64_guarded
theorem spawnIns_guarded {r d a} : GuardedBy s g g.pred (spawnIns r g d a s) := by rw [spawnIns]; exact issue64_guarded
theorem stageIns_guarded {us rs body} : GuardedBy s g g.pred (stageIns g us rs body s) := by rw [stageIns]; exact issue64_guarded
theorem amo_guarded {op w64 sp o sc d a b off} : GuardedBy s g g.pred (amo op g w64 sp o sc d a b off s) := by
  rw [amo]; exact issue64_guarded
theorem setS_guarded {us i bad f rd} : GuardedBy s g g.pred (setS g us i bad f s rd) := by rw [setS]; exact issue64_guarded
theorem copyLayout_guarded {inward i h sgr gate} : GuardedBy s g g.pred (copyLayout inward g i h sgr gate s) := by
  rw [copyLayout]; exact issue64_guarded
theorem copyLin_guarded {inward sp a h b sgr gate} : GuardedBy s g g.pred (copyLin inward sp g a h b sgr gate s) := by
  rw [copyLin]; exact issue64_guarded
theorem tableCmd_guarded {op a i h b gate} : GuardedBy s g g.pred (tableCmd op g a i h b gate s) := by
  rw [tableCmd]; exact issue64_guarded
theorem listRead_guarded {k n a b} : GuardedBy s g g.pred (listRead k n g a b s) := by rw [listRead]; exact issue64_guarded
theorem ringIns_guarded {us sp3 d a t slot rel acq reads op} : GuardedBy s g g.pred (ringIns g us sp3 d a t slot rel acq reads op s) := by
  rw [ringIns]; exact issue64_guarded
theorem epi1_guarded {fn floatOnly acc} : GuardedBy s g g.pred (epi1 fn floatOnly g acc s) := by rw [epi1]; exact issue64_guarded
theorem epi2_guarded {fn acc src} : GuardedBy s g g.pred (epi2 fn g acc src s) := by rw [epi2]; exact issue64_guarded
theorem storeAcc_guarded {fn us ty a si form gate} : GuardedBy s g g.pred (storeAcc fn g us ty a si form gate s) := by
  rw [storeAcc]; exact issue64_guarded
theorem vecOp_guarded {us rd vd f} : GuardedBy s g 31 (vecOp g us rd vd f s) := by rw [vecOp]; exact issueVV_guarded
theorem elem2_guarded {ty vd va vb f} : GuardedBy s g 31 (elem2 g ty vd va vb f s) := by rw [elem2]; exact vecOp_guarded
theorem float2_guarded {ty vd va vb f} : GuardedBy s g 31 (float2 g ty vd va vb f s) := by rw [float2]; exact elem2_guarded
theorem elem3_guarded {ty vd va vb vc f} : GuardedBy s g 31 (elem3 g ty vd va vb vc f s) := by rw [elem3]; exact vecOp_guarded
theorem float3_guarded {ty vd va vb vc f} : GuardedBy s g 31 (float3 g ty vd va vb vc f s) := by rw [float3]; exact elem3_guarded
theorem elem1_guarded {ty vd va f} : GuardedBy s g 31 (elem1 g ty vd va f s) := by rw [elem1]; exact vecOp_guarded
theorem float1_guarded {ty vd va f} : GuardedBy s g 31 (float1 g ty vd va f s) := by rw [float1]; exact elem1_guarded
theorem int2_guarded {ty vd va vb f} : GuardedBy s g 31 (int2 g ty vd va vb f s) := by rw [int2]; exact elem2_guarded
theorem vcmp_guarded {ty pd va vb el orders ff fi} : GuardedBy s g 31 (vcmp g ty pd va vb el orders ff fi s) := by
  rw [vcmp]; exact issueVV_guarded
theorem cvt_guarded {ty sty vd va pt rm sat} : GuardedBy s g 31 (cvt g ty sty vd va pt rm sat s) := by rw [cvt]; exact vecOp_guarded
theorem moveLanes_guarded {us rd vd f} : GuardedBy s g 31 (moveLanes g us rd vd f s) := by rw [moveLanes]; exact vecOp_guarded
theorem acrossLanes_guarded {ty vd va ident f} : GuardedBy s g 31 (acrossLanes g ty vd va ident f s) := by
  rw [acrossLanes]; exact issueVV_guarded
theorem vecLoad_guarded {us rd sp ty vd addr} : GuardedBy s g 31 (vecLoad g us rd sp ty vd addr s) := by
  rw [vecLoad]; exact issueVV_guarded
theorem vecStore_guarded {us rd sp ty vc addr} : GuardedBy s g 31 (vecStore g us rd sp ty vc addr s) := by
  rw [vecStore]; exact issueVV_guarded
theorem listCmd_guarded {op ty vd va vb pc} : GuardedBy s g 31 (listCmd op g ty vd va vb pc s) := by rw [listCmd]; exact issueVV_guarded
end

/-! ## Instructions -/

/-- R274: a guarded instruction other than a VV one is issued under its predicate. -/
theorem scalar_guarded {i : Instr} {g : Guard} (hg : i.guard = some g) (hm : i.masksLanes = false) (s : State) :
    GuardedBy s g g.pred (exec i s) := by
  cases i with
  | cmpiEq => cases hg; rw [exec_cmpiEq, execCmpiEq]; exact cmpImm_guarded
  | cmpiNe => cases hg; rw [exec_cmpiNe, execCmpiNe]; exact cmpImm_guarded
  | cmpiLtS => cases hg; rw [exec_cmpiLtS, execCmpiLtS]; exact cmpImm_guarded
  | cmpiLtN => cases hg; rw [exec_cmpiLtN, execCmpiLtN]; exact cmpImm_guarded
  | cmpiGeS => cases hg; rw [exec_cmpiGeS, execCmpiGeS]; exact cmpImm_guarded
  | cmpiGeN => cases hg; rw [exec_cmpiGeN, execCmpiGeN]; exact cmpImm_guarded
  | sel => cases hg; rw [exec_sel, execSel]; exact issue64_guarded
  | rdc => cases hg; rw [exec_rdc, execRdc]; exact issue64_guarded
  | wrc => cases hg; rw [exec_wrc, execWrc]; exact issue64_guarded
  | swpc => cases hg; rw [exec_swpc, execSwpc]; exact issue64_guarded
  | setc => cases hg; rw [exec_setc, execSetc]; exact issue64_guarded
  | clrc => cases hg; rw [exec_clrc, execClrc]; exact issue64_guarded
  | loopn => cases hg; rw [exec_loopn, execLoopn]; exact loopIns_guarded
  | lstride => cases hg; rw [exec_lstride, execLstride]; exact loopIns_guarded
  | loopgo => cases hg; rw [exec_loopgo, execLoopgo]; exact loopIns_guarded
  | loopbrk => cases hg; rw [exec_loopbrk, execLoopbrk]; exact loopIns_guarded
  | rdvset => cases hg; rw [exec_rdvset, execRdvset]; exact issue64_guarded
  | rdvwait => cases hg; rw [exec_rdvwait, execRdvwait]; exact issue64_guarded
  | mon => cases hg; rw [exec_mon, execMon]; exact issue64_guarded
  | mwait => cases hg; rw [exec_mwait, execMwait]; exact issue64_guarded
  | mclr => cases hg; rw [exec_mclr, execMclr]; exact issue64_guarded
  | spawn => cases hg; rw [exec_spawn, execSpawn]; exact spawnIns_guarded
  | spawnr => cases hg; rw [exec_spawnr, execSpawnr]; exact spawnIns_guarded
  | evsig => cases hg; rw [exec_evsig, execEvsig]; exact issue64_guarded
  | evwait => cases hg; rw [exec_evwait, execEvwait]; exact issue64_guarded
  | joindec => cases hg; rw [exec_joindec, execJoindec]; exact issue64_guarded
  | yield => cases hg; rw [exec_yield, execYield]; exact issue64_guarded
  | tself => cases hg; rw [exec_tself, execTself]; exact issue64_guarded
  | stgadv => cases hg; rw [exec_stgadv, execStgadv]; exact stageIns_guarded
  | stgjmp => cases hg; rw [exec_stgjmp, execStgjmp]; exact stageIns_guarded
  | waitl => cases hg; rw [exec_waitl, execWaitl]; exact stageIns_guarded
  | stgrd => cases hg; rw [exec_stgrd, execStgrd]; exact stageIns_guarded
  | abort => cases hg; rw [exec_abort, execAbort]; exact issue64_guarded
  | abchk => cases hg; rw [exec_abchk, execAbchk]; exact issue64_guarded
  | abrd => cases hg; rw [exec_abrd, execAbrd]; exact issue64_guarded
  | segb => cases hg; rw [exec_segb, execSegb]; exact issue64_guarded
  | sege => cases hg; rw [exec_sege, execSege]; exact issue64_guarded
  | ld => cases hg; rw [exec_ld, execLd]; exact issue64_guarded
  | st => cases hg; rw [exec_st, execSt]; exact issue64_guarded
  | amoAdd => cases hg; rw [exec_amoAdd, execAmoAdd]; exact amo_guarded
  | amoAnd => cases hg; rw [exec_amoAnd, execAmoAnd]; exact amo_guarded
  | amoOr => cases hg; rw [exec_amoOr, execAmoOr]; exact amo_guarded
  | amoXor => cases hg; rw [exec_amoXor, execAmoXor]; exact amo_guarded
  | amoMinS => cases hg; rw [exec_amoMinS, execAmoMinS]; exact amo_guarded
  | amoMinN => cases hg; rw [exec_amoMinN, execAmoMinN]; exact amo_guarded
  | amoMaxS => cases hg; rw [exec_amoMaxS, execAmoMaxS]; exact amo_guarded
  | amoMaxN => cases hg; rw [exec_amoMaxN, execAmoMaxN]; exact amo_guarded
  | amoSwap => cases hg; rw [exec_amoSwap, execAmoSwap]; exact amo_guarded
  | amoCas => cases hg; rw [exec_amoCas, execAmoCas]; exact amo_guarded
  | fence => cases hg; rw [exec_fence, execFence]; exact issue64_guarded
  | xfence => cases hg; rw [exec_xfence, execXfence]; exact issue64_guarded
  | ptfence => cases hg; rw [exec_ptfence, execPtfence]; exact issue64_guarded
  | tlbinv => cases hg; rw [exec_tlbinv, execTlbinv]; exact issue64_guarded
  | ldx => cases hg; rw [exec_ldx, execLdx]; exact issue64_guarded
  | erase => cases hg; rw [exec_erase, execErase]; exact issue64_guarded
  | extest => cases hg; rw [exec_extest, execExtest]; exact issue64_guarded
  | exmap => cases hg; rw [exec_exmap, execExmap]; exact issue64_guarded
  | setsBase => cases hg; rw [exec_setsBase, execSetsBase]; exact setS_guarded
  | setsDim => cases hg; rw [exec_setsDim, execSetsDim]; exact setS_guarded
  | setsFmt => cases hg; rw [exec_setsFmt, execSetsFmt]; exact setS_guarded
  | setsScl => cases hg; rw [exec_setsScl, execSetsScl]; exact setS_guarded
  | setsXp => cases hg; rw [exec_setsXp, execSetsXp]; exact setS_guarded
  | setsMc => cases hg; rw [exec_setsMc, execSetsMc]; exact setS_guarded
  | setsHdl => cases hg; rw [exec_setsHdl, execSetsHdl]; exact setS_guarded
  | setsClr => cases hg; rw [exec_setsClr, execSetsClr]; exact setS_guarded
  | gets => cases hg; rw [exec_gets, execGets]; exact issue64_guarded
  | copyin => cases hg; rw [exec_copyin, execCopyin]; exact copyLayout_guarded
  | copyout => cases hg; rw [exec_copyout, execCopyout]; exact copyLayout_guarded
  | copyk => cases hg; rw [exec_copyk, execCopyk]; exact copyLin_guarded
  | copyd => cases hg; rw [exec_copyd, execCopyd]; exact copyLin_guarded
  | copylin => cases hg; rw [exec_copylin, execCopylin]; exact copyLin_guarded
  | gath => cases hg; rw [exec_gath, execGath]; exact tableCmd_guarded
  | gathmc => cases hg; rw [exec_gathmc, execGathmc]; exact issue64_guarded
  | scat => cases hg; rw [exec_scat, execScat]; exact tableCmd_guarded
  | scatadd => cases hg; rw [exec_scatadd, execScatadd]; split; exacts [tableCmd_guarded, issue64_guarded]
  | gexp => cases hg; rw [exec_gexp, execGexp]; exact issue64_guarded
  | garr => cases hg; rw [exec_garr, execGarr]; exact issue64_guarded
  | gwait => cases hg; rw [exec_gwait, execGwait]; exact issue64_guarded
  | ginit => cases hg; rw [exec_ginit, execGinit]; exact issue64_guarded
  | hwait => cases hg; rw [exec_hwait, execHwait]; exact issue64_guarded
  | hset => cases hg; rw [exec_hset, execHset]; exact issue64_guarded
  | hfree => cases hg; rw [exec_hfree, execHfree]; exact issue64_guarded
  | nzscan => cases hg; rw [exec_nzscan, execNzscan]; exact issue64_guarded
  | thrset => cases hg; rw [exec_thrset, execThrset]; exact issue64_guarded
  | dmrd => cases hg; rw [exec_dmrd, execDmrd]; exact issue64_guarded
  | tlget => cases hg; rw [exec_tlget, execTlget]; exact listRead_guarded
  | tlstat => cases hg; rw [exec_tlstat, execTlstat]; exact listRead_guarded
  | tlack => cases hg; rw [exec_tlack, execTlack]; exact listRead_guarded
  | rngtk => cases hg; rw [exec_rngtk, execRngtk]; exact ringIns_guarded
  | rngput => cases hg; rw [exec_rngput, execRngput]; exact ringIns_guarded
  | rngget => cases hg; rw [exec_rngget, execRngget]; exact ringIns_guarded
  | rngeos => cases hg; rw [exec_rngeos, execRngeos]; exact ringIns_guarded
  | rngstat => cases hg; rw [exec_rngstat, execRngstat]; exact issue64_guarded
  | qpush => cases hg; rw [exec_qpush, execQpush]; exact issue64_guarded
  | qpop => cases hg; rw [exec_qpop, execQpop]; exact issue64_guarded
  | qpeek => cases hg; rw [exec_qpeek, execQpeek]; exact issue64_guarded
  | qpopp => cases hg; rw [exec_qpopp, execQpopp]; exact issue64_guarded
  | mma => cases hg; rw [exec_mma, execMma]; exact issue64_guarded
  | mmas => cases hg; rw [exec_mmas, execMmas]; exact issue64_guarded
  | mmag => cases hg; rw [exec_mmag, execMmag]; exact issue64_guarded
  | mmak => cases hg; rw [exec_mmak, execMmak]; exact issue64_guarded
  | mlease => cases hg; rw [exec_mlease, execMlease]; exact issue64_guarded
  | mrel => cases hg; rw [exec_mrel, execMrel]; exact issue64_guarded
  | mldb => cases hg; rw [exec_mldb, execMldb]; exact issue64_guarded
  | mzero => cases hg; rw [exec_mzero, execMzero]; exact issue64_guarded
  | maccd => cases hg; rw [exec_maccd, execMaccd]; exact issue64_guarded
  | mrd => cases hg; rw [exec_mrd, execMrd]; exact issue64_guarded
  | mwr => cases hg; rw [exec_mwr, execMwr]; exact issue64_guarded
  | mchk => cases hg; rw [exec_mchk, execMchk]; exact issue64_guarded
  | escale => cases hg; rw [exec_escale, execEscale]; exact issue64_guarded
  | ebias => cases hg; rw [exec_ebias, execEbias]; exact issue64_guarded
  | erelu => cases hg; rw [exec_erelu, execErelu]; exact epi1_guarded
  | esig => cases hg; rw [exec_esig, execEsig]; exact epi1_guarded
  | esilu => cases hg; rw [exec_esilu, execEsilu]; exact epi1_guarded
  | emul => cases hg; rw [exec_emul, execEmul]; exact epi2_guarded
  | eadd => cases hg; rw [exec_eadd, execEadd]; exact epi2_guarded
  | econv => cases hg; rw [exec_econv, execEconv]; exact issue64_guarded
  | swb => cases hg; rw [exec_swb, execSwb]; exact issue64_guarded
  | swbacc => cases hg; rw [exec_swbacc, execSwbacc]; exact storeAcc_guarded
  | swbnm => cases hg; rw [exec_swbnm, execSwbnm]; exact storeAcc_guarded
  | swbz => cases hg; rw [exec_swbz, execSwbz]; exact storeAcc_guarded
  | sckstat => cases hg; rw [exec_sckstat, execSckstat]; exact issue64_guarded
  | _ => first | (cases hg; done) | cases hm

/-- R274: a VV one is issued under no predicate, but under its LI condition. -/
theorem vector_guarded {i : Instr} {g : Guard} (hg : i.guard = some g) (hm : i.masksLanes = true) (s : State) :
    GuardedBy s g 31 (exec i s) := by
  cases i with
  | vaddF => cases hg; rw [exec_vaddF, execVaddF]; exact float2_guarded
  | vsubF => cases hg; rw [exec_vsubF, execVsubF]; exact float2_guarded
  | vmulF => cases hg; rw [exec_vmulF, execVmulF]; exact float2_guarded
  | vfma => cases hg; rw [exec_vfma, execVfma]; exact float3_guarded
  | vfms => cases hg; rw [exec_vfms, execVfms]; exact float3_guarded
  | vfnma => cases hg; rw [exec_vfnma, execVfnma]; exact float3_guarded
  | vminF => cases hg; rw [exec_vminF, execVminF]; exact elem2_guarded
  | vmaxF => cases hg; rw [exec_vmaxF, execVmaxF]; exact elem2_guarded
  | vabsF => cases hg; rw [exec_vabsF, execVabsF]; exact elem1_guarded
  | vneg => cases hg; rw [exec_vneg, execVneg]; exact elem1_guarded
  | vdiv => cases hg; rw [exec_vdiv, execVdiv]; exact float2_guarded
  | vsqrt => cases hg; rw [exec_vsqrt, execVsqrt]; exact float1_guarded
  | vaddI => cases hg; rw [exec_vaddI, execVaddI]; exact int2_guarded
  | vsubI => cases hg; rw [exec_vsubI, execVsubI]; exact int2_guarded
  | vmulI => cases hg; rw [exec_vmulI, execVmulI]; exact int2_guarded
  | vmulh => cases hg; rw [exec_vmulh, execVmulh]; exact int2_guarded
  | vand => cases hg; rw [exec_vand, execVand]; exact int2_guarded
  | vor => cases hg; rw [exec_vor, execVor]; exact int2_guarded
  | vxor => cases hg; rw [exec_vxor, execVxor]; exact int2_guarded
  | vandn => cases hg; rw [exec_vandn, execVandn]; exact int2_guarded
  | vsll => cases hg; rw [exec_vsll, execVsll]; exact int2_guarded
  | vsrl => cases hg; rw [exec_vsrl, execVsrl]; exact int2_guarded
  | vsra => cases hg; rw [exec_vsra, execVsra]; exact int2_guarded
  | vminI => cases hg; rw [exec_vminI, execVminI]; exact int2_guarded
  | vmaxI => cases hg; rw [exec_vmaxI, execVmaxI]; exact int2_guarded
  | vabsI => cases hg; rw [exec_vabsI, execVabsI]; exact elem1_guarded
  | vcmpEq => cases hg; rw [exec_vcmpEq, execVcmpEq]; exact vcmp_guarded
  | vcmpNe => cases hg; rw [exec_vcmpNe, execVcmpNe]; exact vcmp_guarded
  | vcmpLt => cases hg; rw [exec_vcmpLt, execVcmpLt]; exact vcmp_guarded
  | vcmpLe => cases hg; rw [exec_vcmpLe, execVcmpLe]; exact vcmp_guarded
  | vcmpGt => cases hg; rw [exec_vcmpGt, execVcmpGt]; exact vcmp_guarded
  | vcmpGe => cases hg; rw [exec_vcmpGe, execVcmpGe]; exact vcmp_guarded
  | vclass => cases hg; rw [exec_vclass, execVclass]; exact issueVV_guarded
  | cvtRne => cases hg; rw [exec_cvtRne, execCvtRne]; exact cvt_guarded
  | cvtRtz => cases hg; rw [exec_cvtRtz, execCvtRtz]; exact cvt_guarded
  | cvtRup => cases hg; rw [exec_cvtRup, execCvtRup]; exact cvt_guarded
  | cvtRdn => cases hg; rw [exec_cvtRdn, execCvtRdn]; exact cvt_guarded
  | cvtSat => cases hg; rw [exec_cvtSat, execCvtSat]; exact cvt_guarded
  | vpack => cases hg; rw [exec_vpack, execVpack]; exact vecOp_guarded
  | vunpack => cases hg; rw [exec_vunpack, execVunpack]; exact issueVV_guarded
  | vexp2 => cases hg; rw [exec_vexp2, execVexp2]; exact float1_guarded
  | vlog2 => cases hg; rw [exec_vlog2, execVlog2]; exact float1_guarded
  | vrcp => cases hg; rw [exec_vrcp, execVrcp]; exact float1_guarded
  | vrsqrt => cases hg; rw [exec_vrsqrt, execVrsqrt]; exact float1_guarded
  | vsig => cases hg; rw [exec_vsig, execVsig]; exact float1_guarded
  | vtanh => cases hg; rw [exec_vtanh, execVtanh]; exact float1_guarded
  | vbcast => cases hg; rw [exec_vbcast, execVbcast]; exact moveLanes_guarded
  | vlane => cases hg; rw [exec_vlane, execVlane]; exact issueVV_guarded
  | vperm => cases hg; rw [exec_vperm, execVperm]; exact moveLanes_guarded
  | vrot => cases hg; rw [exec_vrot, execVrot]; exact moveLanes_guarded
  | vshl => cases hg; rw [exec_vshl, execVshl]; exact issueVV_guarded
  | vredadd => cases hg; rw [exec_vredadd, execVredadd]; exact acrossLanes_guarded
  | vredmax => cases hg; rw [exec_vredmax, execVredmax]; exact acrossLanes_guarded
  | vredmin => cases hg; rw [exec_vredmin, execVredmin]; exact acrossLanes_guarded
  | vscan => cases hg; rw [exec_vscan, execVscan]; exact acrossLanes_guarded
  | vsel => cases hg; rw [exec_vsel, execVsel]; exact issueVV_guarded
  | vmov => cases hg; rw [exec_vmov, execVmov]; exact moveLanes_guarded
  | vld => cases hg; rw [exec_vld, execVld]; exact vecLoad_guarded
  | vst => cases hg; rw [exec_vst, execVst]; exact vecStore_guarded
  | vldi => cases hg; rw [exec_vldi, execVldi]; exact vecLoad_guarded
  | vsti => cases hg; rw [exec_vsti, execVsti]; exact vecStore_guarded
  | vldb => cases hg; rw [exec_vldb, execVldb]; exact issueVV_guarded
  | vmrg => cases hg; rw [exec_vmrg, execVmrg]; exact listCmd_guarded
  | visect => cases hg; rw [exec_visect, execVisect]; exact listCmd_guarded
  | vunion => cases hg; rw [exec_vunion, execVunion]; exact listCmd_guarded
  | vthr => cases hg; rw [exec_vthr, execVthr]; exact issueVV_guarded
  | vcmpr => cases hg; rw [exec_vcmpr, execVcmpr]; exact issueVV_guarded
  | vexpd => cases hg; rw [exec_vexpd, execVexpd]; exact issueVV_guarded
  | vnzidx => cases hg; rw [exec_vnzidx, execVnzidx]; exact issueVV_guarded
  | vqnt => cases hg; rw [exec_vqnt, execVqnt]; exact issueVV_guarded
  | vdqnt => cases hg; rw [exec_vdqnt, execVdqnt]; exact issueVV_guarded
  | vamax => cases hg; rw [exec_vamax, execVamax]; exact issueVV_guarded
  | vbscl => cases hg; rw [exec_vbscl, execVbscl]; exact vecOp_guarded
  | _ => cases hm

theorem predicateSkips : Rule.PredicateSkips := by
  intro s i g hg hm hb hl hh hz hc hp
  obtain ⟨u, body, he⟩ := scalar_guarded hg hm s
  rw [he]
  exact issue_skips_pred hb hl hh hz hc hp

theorem loopConditionSkips : Rule.LoopConditionSkips := by
  intro s i g hg hb hl
  cases hm : i.masksLanes with
  | false =>
    obtain ⟨u, body, he⟩ := scalar_guarded hg hm s
    rw [he]
    exact issue_skips_li hb hl
  | true =>
    obtain ⟨u, body, he⟩ := vector_guarded hg hm s
    rw [he]
    exact issue_skips_li hb hl

/-- Settles O5: a guarded instruction is an issue under its guard, and that issue ends at the condition that fails. -/
theorem skips : Obligations.Skips := ⟨predicateSkips, loopConditionSkips⟩

end Sys2Proof.Machine
end

section
/-! SUPPORT. The return from a trap, which resumes one stream and at TL0 lets the others run, and the trap taken at a boundary
(R248 to R250, R268). -/

namespace Sys2Proof.Machine

open Sys2Proof

/-! ## The task that has returned -/

/-- The task at TL1 or TL2 whose trap's stream is resumed at EPCn, before the others run again. -/
def resumed (t : Task) (e : Eng) : Task :=
  { t with c := { t.c with tl := t.c.tl - 1 } }.modStm e fun st => { st with pc := if t.c.tl = 2 then t.c.epc2 else t.c.epc1 }
/-- What a return to TL0 makes of every stream. -/
def runs (_ : Eng) (st : EStream) : EStream := { st with stopped := false }

theorem trapReturn_eq (t : Task) (e : Eng) : trapReturn t e =
    if t.c.tl - 1 = 0 then Eng.all.foldl (fun t g => t.modStm g (runs g)) (resumed t e) else resumed t e := rfl

theorem stm_resumed (t : Task) (e : Eng) :
    (resumed t e).stm e = { t.stm e with pc := if t.c.tl = 2 then t.c.epc2 else t.c.epc1 } := stm_modStm ..
theorem stm_resumed_other (t : Task) {e g : Eng} (h : g ≠ e) : (resumed t e).stm g = t.stm g := stm_modStm_other _ _ h
/-- Every stream keeps its registers, its pc, unless it is resumed, and whether it is stopped. -/
theorem stm_resumed_keeps (t : Task) (e g : Eng) : ((resumed t e).stm g).x = (t.stm g).x ∧ ((resumed t e).stm g).p = (t.stm g).p ∧
    (g ≠ e → ((resumed t e).stm g).pc = (t.stm g).pc) ∧ ((resumed t e).stm g).stopped = (t.stm g).stopped := by
  by_cases h : g = e
  · subst h
    rw [stm_resumed]
    exact ⟨rfl, rfl, fun hg => absurd rfl hg, rfl⟩
  · rw [stm_resumed_other t h]
    exact ⟨rfl, rfl, fun _ => rfl, rfl⟩

/-- From TL1 every stream runs again; from TL2 each stays as it was resumed. -/
theorem stm_trapReturn {t : Task} (h : t.c.tl = 1 ∨ t.c.tl = 2) (e g : Eng) : (trapReturn t e).stm g =
    if t.c.tl = 1 then runs g ((resumed t e).stm g) else (resumed t e).stm g := by
  rw [trapReturn_eq]
  rcases h with h | h
  · rw [if_pos (by omega), if_pos h, stm_modEach]
  · rw [if_neg (by omega), if_neg (by omega)]
/-- Only streams and the level change. -/
theorem trapReturn_only (t : Task) (e : Eng) : ∃ st, trapReturn t e = { t with c := { t.c with tl := t.c.tl - 1 }, st := st } := by
  rw [trapReturn_eq]
  split
  · obtain ⟨st, h⟩ := modEach_only runs Eng.all (resumed t e)
    exact ⟨st, h⟩
  · exact ⟨_, rfl⟩

theorem trapReturn_rule : Rule.TrapReturn := by
  intro t e h t'
  obtain ⟨st, ho : t' = _⟩ := trapReturn_only t e
  have hs (g : Eng) : t'.stm g = _ := stm_trapReturn h e g
  refine ⟨by rw [ho], ?_, fun g => ?_, fun g => ?_, by rw [ho], by rw [ho], by rw [ho], by rw [ho], by rw [ho], by rw [ho], by rw [ho]⟩
  · rw [hs, stm_resumed]
    split <;> rfl
  · obtain ⟨hx, hp, hpc, -⟩ := stm_resumed_keeps t e g
    rw [hs]
    split <;> exact ⟨hx, hp, hpc⟩
  · obtain ⟨-, -, -, hst⟩ := stm_resumed_keeps t e g
    rw [hs]
    split
    · rfl
    · exact hst

/-! ## Deferred traps -/

/-- R248, R250: the cases of deferredTrap in a live stream at a boundary, whose first trap waits. -/
theorem deferredTrapTaken : Rule.DeferredTrapTaken := by
  intro s d ds hb hd hst hl
  have hrun : execDeferredTrap s = if s.my.c.tl ≠ 0 then .next s else match dueBefore s.my s.cur.eng with
      | some (e, d') => .next (trapAt (s.modSt ⟨s.cur.core, s.cur.slot, e⟩ fun st => { st with deferred := st.deferred.tail })
          ⟨s.cur.core, s.cur.slot, e⟩ d'.code d'.eval true)
      | none => .next (trapAt (s.modMe fun st => { st with deferred := ds }) s.cur d.code d.eval true) := by
    have hb' : s.me.blk = none := hb
    simp only [execDeferredTrap, hb', hd, hst, hl, Bool.not_true, Bool.or_self, Bool.false_or, decide_eq_true_eq]
      <;> rfl
  refine ⟨fun h => ?_, fun h hn => ?_, fun e d' h he => ?_⟩
  · rw [exec_deferredTrap, hrun, if_pos h]
  · rw [exec_deferredTrap, hrun, if_neg (not_not_intro h), hn]
  · rw [exec_deferredTrap, hrun, if_neg (not_not_intro h), he]

/-- Settles O10: a return changes its stream's pc, the level, and at TL0 what is stopped; deferredTrap chooses by the level and the
traps due in earlier streams. -/
theorem trapReturns : Obligations.TrapReturns := ⟨trapReturn_rule, deferredTrapTaken⟩

end Sys2Proof.Machine
end

section
/-! SUPPORT. Instructions whose effect stands for their block's commit (R322, R323, R325, R328, R334, R335, R337). -/

namespace Sys2Proof.Machine

open Sys2Proof

/-- The low bits of a sum are the sum of the low bits. -/
theorem extractLsb'_add {v w n : Nat} (x : BitVec w) (y : BitVec v) (hn : n ≤ w) :
    (x + y.zeroExtend w).extractLsb' 0 n = x.extractLsb' 0 n + y.zeroExtend n := by
  rw [← BitVec.setWidth_eq_extractLsb' hn, ← BitVec.setWidth_eq_extractLsb' hn, BitVec.setWidth_add _ _ hn,
    BitVec.setWidth_setWidth_of_le _ hn]

theorem commitEffectResults : Rule.CommitEffectResults := by
  refine ⟨fun s f e n h => ⟨?_, ?_⟩, fun s g a mask num imm h => ⟨?_, ?_⟩, fun s g h => ⟨?_, ?_, fun ha => ?_, fun ha => ?_⟩⟩
  · exact (exec_post ..).trans (issue32_go h rfl)
  · exact (exec_mark ..).trans (issue32_go h rfl)
  · refine (exec_rdvset ..).trans (issue64_go h ?_)
    rw [extractLsb'_add _ _ (by decide)]
  · exact (exec_evsig ..).trans (issue64_go h rfl)
  · exact (exec_mclr ..).trans (issue64_go h rfl)
  · exact (exec_yield ..).trans (issue64_go h rfl)
  · exact (exec_abort ..).trans (issue64_go h (if_neg ha))
  · exact (exec_abort ..).trans (issue64_trap h (if_pos ha))

/-- The keys that joindec refuses (R334): a reserved bit is set, or a node is named outside the task's own graph. -/
theorem joindec_refuses_iff (s : State) (k : W64) :
    (bits k.toNat 39 24 ≠ 0 || (k.getLsbD 63 && (!s.my.isNode || bits k.toNat 0 16 ≥ nnode s s.my)) : Bool) = true ↔
    k.extractLsb' 39 24 ≠ 0 ∨ (k.getLsbD 63 = true ∧ (s.my.isNode = false ∨ nnode s s.my ≤ (k.extractLsb' 0 16).toNat)) := by
  rw [bits_toNat k 0 16]
  simp only [Bool.or_eq_true, Bool.and_eq_true, decide_eq_true_eq, ne_eq, bits_eq_zero_iff, Bool.not_eq_true', ge_iff_le]

theorem joindecResults : Rule.JoindecResults := by
  intro s g a h k
  refine ⟨fun h0 hn => ?_, fun hbad => ?_⟩
  · refine (exec_joindec ..).trans (issue64_go h (if_neg (mt (joindec_refuses_iff s k).mp ?_)))
    rintro (hr | ⟨hk, hm | hm⟩)
    · exact hr h0
    · rw [(hn hk).1] at hm; exact Bool.noConfusion hm
    · exact Nat.not_lt.mpr hm (hn hk).2
  · exact (exec_joindec ..).trans (issue64_trap h (if_pos ((joindec_refuses_iff s k).mpr hbad)))

/-- Settles O11: each of these instructions issues with its effect added to its block's, or refuses its operand. -/
theorem commitEffects : Obligations.CommitEffects := ⟨commitEffectResults, joindecResults⟩

end Sys2Proof.Machine
end

section
/-! SUPPORT. The kill of a context (R252 to R254): what its drain changes beside the context's own records, and what of another context
stays. -/

namespace Sys2Proof.Machine

/-! ## Lists and tables -/

/-- A table without some entries reads as before where the entry that is read stays. -/
theorem tget_filter_of_kept {α : Type} (z : α) (q : Nat × α → Bool) : ∀ (t : Tab α) (i : Nat), q (i, tget z t i) = true →
    tget z (t.filter q) i = tget z t i
  | [], _, _ => rfl
  | (k, v) :: t, i, h => by
    by_cases hk : k = i
    · subst hk
      have hq : q (k, v) = true := by simpa [tget] using h
      simp [hq, tget]
    · have ht : tget z ((k, v) :: t) i = tget z t i := by simp [tget, hk]
      rw [ht] at h ⊢
      have ih := tget_filter_of_kept z q t i h
      by_cases hq : q (k, v) = true
      · simp [hq, tget, hk, ih]
      · simp [hq, ih]

theorem ne_of_mem_filter {α : Type} {f : α → Nat} {c : Nat} {l : List α} {x : α} (h : x ∈ l.filter fun a => f a != c) : f x ≠ c :=
  bne_iff_ne.1 (List.mem_filter.1 h).2
theorem mem_filter_of_ne {α : Type} {f : α → Nat} {c : Nat} {l : List α} {x : α} (h : x ∈ l) (hc : f x ≠ c) :
    x ∈ l.filter fun a => f a != c := List.mem_filter.2 ⟨h, bne_iff_ne.2 hc⟩

/-! ## The fields a drain's first steps change -/

/-- At most the snapshot, the group and replay records, the package, the memory, the shells and the scheduler's state differ. -/
def BesideTasks (s t : State) : Prop :=
  t = { s with snap := t.snap, parts := t.parts, stages := t.stages, replays := t.replays, pkg := t.pkg, mem := t.mem, shells := t.shells,
               sch := t.sch }

theorem BesideTasks.refl (s : State) : BesideTasks s s := rfl
theorem BesideTasks.trans {s t u : State} (h : BesideTasks s t) (h' : BesideTasks t u) : BesideTasks s u := by
  unfold BesideTasks at *
  rw [h', h]
theorem BesideTasks.foldl {α : Type} {f : State → α → State} (h : ∀ s a, BesideTasks s (f s a)) (l : List α) (s : State) :
    BesideTasks s (l.foldl f s) :=
  List.foldlRecOn l f (.refl s) fun t ht a _ => ht.trans (h t a)

theorem besideTasks_fireSnap (s : State) (src cid : Nat) : BesideTasks s (s.fireSnap src cid) := by
  unfold State.fireSnap
  split <;> rfl
theorem besideTasks_taskRecords (s : State) (t : Task) (st : Nat) (k : Bool) : BesideTasks s (taskRecords s t st k).1 := by
  unfold taskRecords
  extract_lets mk
  split
  · split
    · rfl
    · split
      · rfl
      · split <;> rfl
  · rfl
theorem besideTasks_endRecords (s : State) (t : Task) (st : Nat) (k : Bool) : BesideTasks s (endRecords s t st k).1 := by
  unfold endRecords
  extract_lets part last st' gone u
  have hu : BesideTasks s u := rfl
  split
  · exact hu
  · exact hu.trans (besideTasks_taskRecords ..)
theorem besideTasks_endMany (status : Nat → Nat) : ∀ (ts : List (Task × Bool)) (s : State), BesideTasks s (endMany status ts s).1
  | [], s => .refl s
  | (t, res) :: ts, s => by
    rw [endMany]
    exact (besideTasks_endRecords ..).trans (besideTasks_endMany status ts _)
theorem besideTasks_touchHbm (s : State) (k : Nat) : BesideTasks s (touchHbm s k) := by
  unfold touchHbm
  split <;> rfl
theorem besideTasks_write (s : State) (k : Nat) (bs : List Byte) : BesideTasks s (s.write k bs) := rfl
theorem besideTasks_bumpEpoch (s : State) (cid : Nat) : BesideTasks s (bumpEpoch s cid) :=
  .foldl (fun s d => (besideTasks_touchHbm s (ctxKey s d cid + 2)).trans (besideTasks_write ..)) _ s
theorem besideTasks_dropLease (s : State) (core : Nat) : BesideTasks s (dropLease s core) := by
  unfold dropLease State.modShell
  split <;> rfl
theorem besideTasks_payResidency (s : State) (core : Nat) (t : Task) : BesideTasks s (payResidency s core t) := rfl

/-! ## Streams whose fetch ends in an error -/

/-- At most the host streams and the messages differ. -/
def StreamsOnly (s t : State) : Prop := t = { s with strm := t.strm, msix := t.msix }

theorem StreamsOnly.refl (s : State) : StreamsOnly s s := rfl
theorem StreamsOnly.trans {s t u : State} (h : StreamsOnly s t) (h' : StreamsOnly t u) : StreamsOnly s u := by
  unfold StreamsOnly at *
  rw [h', h]
theorem StreamsOnly.foldl {α : Type} {f : State → α → State} (h : ∀ s a, StreamsOnly s (f s a)) (l : List α) (s : State) :
    StreamsOnly s (l.foldl f s) :=
  List.foldlRecOn l f (.refl s) fun t ht a _ => ht.trans (h t a)

theorem streamsOnly_signalVec (s : State) (f vec : Nat) : StreamsOnly s (s.signalVec f vec) := rfl
theorem streamsOnly_fetchErr (s : State) (i : Nat) : StreamsOnly s (fetchErr s i) := by
  unfold fetchErr
  extract_lets f u
  exact StreamsOnly.trans (t := u) rfl (.foldl (fun s f => streamsOnly_signalVec s f 1) _ u)
theorem streamsOnly_fetchErrs (s : State) (tags : List Nat) : StreamsOnly s (fetchErrs s tags) := by
  unfold fetchErrs
  refine .foldl (fun s i => ?_) _ s
  split
  · split
    · exact streamsOnly_fetchErr s i
    · exact .refl s
  · exact .refl s
/-- No stream waits for a record, and none has an error. -/
theorem fetchErrs_of_no_waits {s : State} (h : ∀ i, i < 128 → (hst s i).qwait = none) (tags : List Nat) : fetchErrs s tags = s := by
  unfold fetchErrs
  refine List.foldlRecOn (motive := fun t => t = s) _ _ rfl fun t ht i hi => ?_
  rw [ht, h i (List.mem_range.1 hi)]

/-! ## Waits that end -/

/-- A stream that differs at most in what its fetch waits for. -/
def FetchOnly (x y : EStream) : Prop := y = { x with fwait := y.fwait }
/-- A task whose streams differ at most in what their fetches wait for. -/
def Task.FetchOnly (t u : Task) : Prop := u = { t with st := u.st } ∧ ∀ e, Machine.FetchOnly (t.stm e) (u.stm e)

theorem Task.FetchOnly.refl (t : Task) : t.FetchOnly t := ⟨rfl, fun _ => rfl⟩
theorem Task.FetchOnly.trans {t u v : Task} (h : t.FetchOnly u) (h' : u.FetchOnly v) : t.FetchOnly v := by
  refine ⟨by rw [h'.1, h.1], fun e => ?_⟩
  have h1 := h.2 e
  have h2 := h'.2 e
  unfold Machine.FetchOnly at *
  rw [h2, h1]
theorem fetchOnly_clearFetch (w : Nat) (t : Task) : t.FetchOnly (t.clearFetch w) := by
  refine ⟨rfl, fun e => ?_⟩
  unfold Task.clearFetch Task.stm
  simp only [Vector.get_eq_getElem, Vector.getElem_map]
  split
  · split <;> rfl
  · rfl

/-- An entry that differs at most in its wait, which has ended. -/
def Entry.Cleared (e f : Entry) : Prop := f = e ∨ f = { e with wait := none }

theorem Entry.Cleared.refl (e : Entry) : e.Cleared e := .inl rfl
theorem Entry.Cleared.trans {e f g : Entry} (h : e.Cleared f) (h' : f.Cleared g) : e.Cleared g := by
  obtain rfl | rfl := h
  · exact h'
  · obtain rfl | rfl := h'
    · exact .inr rfl
    · exact .inr rfl
theorem cleared_clear (w : Nat) (e : Entry) : e.Cleared (e.clear w) := by
  unfold Entry.clear
  split
  · exact .inr rfl
  · exact .inl rfl

/-- A state in which some waits of accesses and fetches have ended, and nothing else has changed. -/
structure WaitsEnd (s t : State) : Prop where
  others : t = { s with paths := t.paths, logs := t.logs, tasks := t.tasks, jobs := t.jobs, te := t.te, strm := t.strm }
  task : ∀ core slot, (s.task core slot).FetchOnly (t.task core slot)
  paths : ∀ e ∈ s.paths, ∃ f ∈ t.paths, e.Cleared f
  jobs : ∀ j ∈ s.jobs, ∃ k ∈ t.jobs, k.st = j.st ∧ k.q = j.q ∧ j.t.FetchOnly k.t
  logs : ∀ l ∈ t.logs, ∃ m ∈ s.logs, m.e.cid = l.e.cid

theorem WaitsEnd.refl (s : State) : WaitsEnd s s :=
  ⟨rfl, fun _ _ => .refl _, fun e h => ⟨e, h, .refl e⟩, fun j h => ⟨j, h, rfl, rfl, .refl _⟩, fun l h => ⟨l, h, rfl⟩⟩
theorem WaitsEnd.trans {s t u : State} (h : WaitsEnd s t) (h' : WaitsEnd t u) : WaitsEnd s u where
  others := by rw [h'.others, h.others]
  task core slot := (h.task core slot).trans (h'.task core slot)
  paths e he := by
    obtain ⟨f, hf, hef⟩ := h.paths e he
    obtain ⟨g, hg, hfg⟩ := h'.paths f hf
    exact ⟨g, hg, hef.trans hfg⟩
  jobs j hj := by
    obtain ⟨k, hk, hst, hq, ht⟩ := h.jobs j hj
    obtain ⟨l, hl, hst', hq', ht'⟩ := h'.jobs k hk
    exact ⟨l, hl, hst'.trans hst, hq'.trans hq, ht.trans ht'⟩
  logs l hl := by
    obtain ⟨m, hm, hml⟩ := h'.logs l hl
    obtain ⟨n, hn, hnm⟩ := h.logs m hm
    exact ⟨n, hn, hnm.trans hml⟩

theorem waitsEnd_clearWait (s : State) (w : Nat) : WaitsEnd s (clearWait s w) where
  others := rfl
  task core slot := by
    obtain ⟨h1, h2⟩ | h := tget_map Task.empty (fun k : Nat × Task => (k.1, k.2.clearFetch w)) (fun _ => rfl) s.tasks (slotKey core slot)
    · have h' : (clearWait s w).task core slot = s.task core slot := h1.trans h2.symm
      rw [h']
      exact .refl _
    · have h' : (clearWait s w).task core slot = (s.task core slot).clearFetch w := h
      rw [h']
      exact fetchOnly_clearFetch w _
  paths e he := ⟨_, List.mem_map_of_mem he, cleared_clear w e⟩
  jobs j hj := ⟨_, List.mem_map_of_mem hj, rfl, rfl, fetchOnly_clearFetch w j.t⟩
  logs l hl := by
    obtain ⟨m, hm, rfl⟩ := List.mem_map.1 hl
    refine ⟨m, hm, ?_⟩
    obtain h | h := cleared_clear w m.e
    · rw [LogEnt.clear, h]
    · rw [LogEnt.clear, h]
theorem waitsEnd_clearWaits (s : State) (ws : List Nat) : WaitsEnd s (clearWaits s ws) :=
  List.foldlRecOn ws clearWait (.refl s) fun t ht w _ => ht.trans (waitsEnd_clearWait t w)

/-! ## The drain of a kill -/

/-- What the first four steps of the drain of a context leave, of a state in which the waits on what they free have ended. -/
structure DrainOf (cid status : Nat) (rest : List Kill) (w t : State) : Prop where
  tasks : t.tasks = w.tasks.filter fun e => !(e.2.cid == cid && e.2.live)
  jobs : t.jobs = w.jobs.filter fun j => j.t.cid != cid
  paths : t.paths = w.paths.filter fun e => e.cid != cid
  tlb : t.tlb = w.tlb.filter fun e => e.cid != cid
  views : t.views = w.views.filter fun v => v.cid != cid
  logs : t.logs = w.logs
  faults : t.faults = w.faults
  fns : t.fns = w.fns
  msix : t.msix = w.msix
  kills : ∃ k, t.kills = k :: rest ∧ k.cid = cid ∧ k.status = status

/-- The faults and log entries of a context freed. -/
def freeCid (s : State) (cid : Nat) : State := freeLogs (freeTags s fun f => f.cid == cid) fun l => l.e.cid == cid

/-- A context's epoch counted up, the leases of its M tasks ended, and the cycles its tasks were resident paid. -/
def leaveResidency (s : State) (cid : Nat) (res : Tab Task) : State :=
  res.foldl (fun s e => payResidency s (e.1 / 4) e.2)
    ((res.filter fun e => e.2.mtask).foldl (fun s e => dropLease s (e.1 / 4)) (bumpEpoch s cid))

theorem besideTasks_leaveResidency (s : State) (cid : Nat) (res : Tab Task) : BesideTasks s (leaveResidency s cid res) :=
  ((besideTasks_bumpEpoch s cid).trans (.foldl (fun s _ => besideTasks_dropLease s _) _ _)).trans
    (.foldl (fun s _ => besideTasks_payResidency s _ _) _ _)

/-- The tags of a context's fault records. -/
def faultTags (s : State) (cid : Nat) : List Nat := (s.faults.filter fun f => f.cid == cid).map (·.tag)

theorem schedOnly_actSyncAll (s : State) : SchedOnly s (actSyncAll s) :=
  .foldl (fun s d => .foldl (fun s c => schedOnly_actSync s d c) _ s) _ s

theorem DrainOf.of_schedOnly {cid status : Nat} {rest : List Kill} {w t u : State} (h : DrainOf cid status rest w t)
    (h' : SchedOnly t u) : DrainOf cid status rest w u := by
  unfold SchedOnly at h'
  rw [h']
  exact ⟨h.tasks, h.jobs, h.paths, h.tlb, h.views, h.logs, h.faults, h.fns, h.msix, h.kills⟩

/-- The drain, step by step: what changes no task, the streams whose fetch ends in an error, what is freed, and what leaves. -/
theorem killNow_steps (s : State) (cid status : Nat) (rest : List Kill) : ∃ u tags,
    BesideTasks s u ∧ DrainOf cid status rest (freeCid (fetchErrs u tags) cid) (killNow s cid status rest) := by
  unfold killNow
  extract_lets res jobs onkill s₁ here s₂
  have h₁ : BesideTasks s s₁ := by
    dsimp only [s₁]
    split
    · exact besideTasks_fireSnap ..
    · exact .refl s
  have h₂ : BesideTasks s s₂ := h₁.trans rfl
  generalize hm : endMany _ _ s₂ = m
  have h₃ : BesideTasks s m.1 := h₂.trans (hm ▸ besideTasks_endMany ..)
  obtain ⟨s₃, recs⟩ := m
  refine ⟨leaveResidency s₃ cid res, faultTags (leaveResidency s₃ cid res) cid, h₃.trans (besideTasks_leaveResidency ..), ?_⟩
  unfold freeCid leaveResidency faultTags
  refine DrainOf.of_schedOnly ?_ (schedOnly_actSyncAll _)
  constructor <;> dsimp only
  exact ⟨_, rfl, rfl, rfl⟩

/-! ## What is freed -/

/-- A state without the log entries of a context. -/
def withoutLogs (s : State) (cid : Nat) : State := { s with logs := s.logs.filter fun l => !(l.e.cid == cid) }
/-- A state without the fault records of a context. -/
def withoutFaults (s : State) (cid : Nat) : State := { s with faults := s.faults.filter fun f => !(f.cid == cid) }

theorem WaitsEnd.withoutLogs {s t : State} (h : WaitsEnd s t) (cid : Nat) :
    WaitsEnd (Machine.withoutLogs s cid) (Machine.withoutLogs t cid) where
  others := by rw [h.others]; rfl
  task := h.task
  paths := h.paths
  jobs := h.jobs
  logs l hl := by
    obtain ⟨hl, hc⟩ := List.mem_filter.1 hl
    obtain ⟨m, hm, hml⟩ := h.logs l hl
    exact ⟨m, List.mem_filter.2 ⟨hm, hml ▸ hc⟩, hml⟩
theorem waitsEnd_freeCid (s : State) (cid : Nat) : WaitsEnd (withoutLogs (withoutFaults s cid) cid) (freeCid s cid) :=
  ((waitsEnd_clearWaits (withoutFaults s cid) _).withoutLogs cid).trans (waitsEnd_clearWaits _ _)

/-! ## What a drain leaves -/

/-- What the drain of a context leaves of a state: none of the context's own, and of the others all but waits that have ended. -/
structure Drained (cid status : Nat) (rest : List Kill) (s t : State) : Prop where
  tasks : ∀ e ∈ t.tasks, ¬ (e.2.cid = cid ∧ e.2.live = true)
  task : ∀ core slot, (s.task core slot).cid ≠ cid → (s.task core slot).FetchOnly (t.task core slot)
  noJobs : ∀ j ∈ t.jobs, j.t.cid ≠ cid
  jobs : ∀ j ∈ s.jobs, j.t.cid ≠ cid → ∃ k ∈ t.jobs, k.st = j.st ∧ k.q = j.q ∧ j.t.FetchOnly k.t
  noPaths : ∀ e ∈ t.paths, e.cid ≠ cid
  paths : ∀ e ∈ s.paths, e.cid ≠ cid → ∃ f ∈ t.paths, e.Cleared f
  logs : ∀ l ∈ t.logs, l.e.cid ≠ cid
  faults : ∀ f ∈ t.faults, f.cid ≠ cid
  tlb : t.tlb = s.tlb.filter fun e => e.cid != cid
  views : t.views = s.views.filter fun v => v.cid != cid
  fns : t.fns = s.fns
  msix : (∀ i, i < 128 → (hst s i).qwait = none) → t.msix = s.msix
  kills : ∃ k, t.kills = k :: rest ∧ k.cid = cid ∧ k.status = status

theorem Task.FetchOnly.cid {t u : Task} (h : t.FetchOnly u) : u.cid = t.cid := by rw [h.1]
theorem Entry.Cleared.cid {e f : Entry} (h : e.Cleared f) : f.cid = e.cid := by
  obtain rfl | rfl := h <;> rfl

/-- The tasks, jobs, accesses, translations and copies are those of before. -/
theorem fetchErrs_of_besideTasks {s u : State} (h : BesideTasks s u) (tags : List Nat) : let v := fetchErrs u tags
    v.tasks = s.tasks ∧ v.jobs = s.jobs ∧ v.paths = s.paths ∧ v.tlb = s.tlb ∧ v.views = s.views ∧ v.fns = s.fns := by
  have hf := streamsOnly_fetchErrs u tags
  unfold StreamsOnly BesideTasks at *
  intro v
  rw [show v = _ from hf, h]
  exact ⟨rfl, rfl, rfl, rfl, rfl, rfl⟩
theorem fetchErrs_msix {s u : State} (h : BesideTasks s u) (tags : List Nat) (hq : ∀ i, i < 128 → (hst s i).qwait = none) :
    (fetchErrs u tags).msix = s.msix := by
  unfold BesideTasks at h
  have hs : u.strm = s.strm := by rw [h]
  rw [fetchErrs_of_no_waits (fun i hi => (congrArg HStream.qwait (hst_congr hs i)).trans (hq i hi)), h]

theorem drained_killNow (s : State) (cid status : Nat) (rest : List Kill) : Drained cid status rest s (killNow s cid status rest) := by
  obtain ⟨u, tags, hu, hd⟩ := killNow_steps s cid status rest
  have hm := fetchErrs_msix hu tags
  obtain ⟨htasks, hjobs, hpaths, htlb, hviews, hfns⟩ := fetchErrs_of_besideTasks hu tags
  have hw := waitsEnd_freeCid (fetchErrs u tags) cid
  generalize fetchErrs u tags = v at *
  generalize freeCid v cid = w at *
  generalize killNow s cid status rest = t at *
  have ho := hw.others
  exact {
    tasks := fun e he hc => by
      rw [hd.tasks, List.mem_filter] at he
      simp [hc.1, hc.2] at he
    task := fun core slot hc => by
      have hv : (s.task core slot).FetchOnly (w.task core slot) := by
        have h := hw.task core slot
        unfold State.task at *
        exact htasks ▸ h
      have ht : t.task core slot = w.task core slot := by
        unfold State.task
        rw [hd.tasks]
        refine tget_filter_of_kept _ _ _ _ ?_
        have hne : (w.task core slot).cid ≠ cid := hv.cid ▸ hc
        simp only [Bool.not_eq_true', Bool.and_eq_false_iff, beq_eq_false_iff_ne]
        exact .inl hne
      exact ht ▸ hv
    noJobs := fun j hj => ne_of_mem_filter (f := fun j : Job => j.t.cid) (hd.jobs ▸ hj)
    jobs := fun j hj hc => by
      obtain ⟨k, hk, hst, hq, ht⟩ := hw.jobs j (hjobs.symm ▸ hj)
      have hne : k.t.cid ≠ cid := ht.cid ▸ hc
      exact ⟨k, hd.jobs ▸ mem_filter_of_ne (f := fun j : Job => j.t.cid) hk hne, hst, hq, ht⟩
    noPaths := fun e he => ne_of_mem_filter (f := Entry.cid) (hd.paths ▸ he)
    paths := fun e he hc => by
      obtain ⟨f, hf, hef⟩ := hw.paths e (hpaths.symm ▸ he)
      have hne : f.cid ≠ cid := hef.cid ▸ hc
      exact ⟨f, hd.paths ▸ mem_filter_of_ne (f := Entry.cid) hf hne, hef⟩
    logs := fun l hl => by
      obtain ⟨m, hm, hml⟩ := hw.logs l (hd.logs ▸ hl)
      have hne := (List.mem_filter.1 hm).2
      simpa [hml] using hne
    faults := fun f hf => by
      rw [hd.faults, ho] at hf
      simpa using (List.mem_filter.1 hf).2
    tlb := by
      rw [hd.tlb, ← htlb, ho]
      rfl
    views := by
      rw [hd.views, ← hviews, ho]
      rfl
    fns := by
      rw [hd.fns, ← hfns, ho]
      rfl
    msix := fun hq => by
      rw [hd.msix, ← hm hq, ho]
      rfl
    kills := hd.kills }

/-- R252: with no kill under way, a kill's drain begins at once. -/
theorem kill_of_no_kills {s : State} (h : s.kills = []) (cid status : Nat) :
    kill s cid status = killNow { s with kills := [⟨cid, status, [], 0⟩] } cid status [] := by
  simp [kill, killStart, h]
theorem drained_kill {s : State} (h : s.kills = []) (cid status : Nat) : Drained cid status [] s (kill s cid status) := by
  rw [kill_of_no_kills h]
  have hd := drained_killNow { s with kills := [⟨cid, status, [], 0⟩] } cid status []
  exact ⟨hd.tasks, hd.task, hd.noJobs, hd.jobs, hd.noPaths, hd.paths, hd.logs, hd.faults, hd.tlb, hd.views, hd.fns, hd.msix, hd.kills⟩

/-! ## The obligation -/

theorem execCtxkillWrite_kills {s : State} {v : W64} (hg : v.getLsbD 15 = true) (hv : ctxValid s 0 (v.extractLsb' 0 12).toNat = true)
    (hk : s.kills = []) : execCtxkillWrite 0 v s = .next (kill s (v.extractLsb' 0 12).toNat 0x10) := by
  unfold execCtxkillWrite
  rw [bits_toNat, hg, hk]
  simp only [List.any_cons, hv]
  rfl
theorem execCtxkillWrite_nothing (s : State) {fn : Nat} {v : W64} (h : fn ≠ 0 ∨ v.getLsbD 15 = false) :
    execCtxkillWrite fn v s = .next s := by
  unfold execCtxkillWrite
  extract_lets cid
  refine if_pos ?_
  obtain h | h := h
  · simp [h]
  · rw [h]
    simp
theorem killStart_nothing {s : State} (h : s.kills = []) : killStart s = s := by
  rw [killStart, h]
theorem execKillDrainEnd_nothing {s : State} (h : s.kills = []) : execKillDrainEnd s = .next s := by
  simp [execKillDrainEnd, h]

/-- With no drain left, and no trip, hold or reset to follow, nothing goes on. -/
theorem afterDrains_nothing {s : State} (hk : s.kills = []) (ht : s.pkg.tripping = false) (hh : s.pkg.holding = false)
    (hr : ∀ d, d < 4 → (dieAt s d).rst = none) : afterDrains s = s := by
  simp [afterDrains, hk, ht, hh, hr]

/-- R252, R254: the write of CTXKILL, and the end of a drain. -/
theorem contextKills : Rule.ContextKills := by
  refine ⟨fun s v hg hv hk => ?_, fun s fn v h => ?_, fun s h => ?_, fun s k hk hr ht hh hd => ?_⟩
  · extract_lets cid
    have h := drained_kill hk cid 0x10
    obtain ⟨k, hks, hc, hst⟩ := h.kills
    refine ⟨_, (exec_ctxkillWrite ..).trans (execCtxkillWrite_kills hg hv hk), h.tasks, h.noJobs, h.noPaths, h.logs, h.faults,
      fun e he => ne_of_mem_filter (h.tlb ▸ he), fun v hv => ne_of_mem_filter (h.views ▸ hv), k, ?_, hc, hst⟩
    exact hks ▸ List.mem_singleton_self k
  · exact (exec_ctxkillWrite ..).trans (execCtxkillWrite_nothing s h)
  · exact (exec_killDrainEnd s).trans (execKillDrainEnd_nothing h)
  · refine ⟨_, (exec_killDrainEnd s).trans (by rw [execKillDrainEnd, hk]), ?_⟩
    rw [hr, List.foldl_nil, killStart_nothing rfl, afterDrains_nothing]
    · exact ⟨rfl, fun a ha => ne_of_mem_filter ha, fun e he => ne_of_mem_filter he, rfl⟩
    · rfl
    · exact ht
    · exact hh
    · exact hd

/-- R253: what the drain of one context leaves of the others. -/
theorem killLeavesOthers : Rule.KillLeavesOthers := by
  intro s cid status hk
  have h := drained_kill hk cid status
  refine ⟨fun core slot hc => ?_, fun e he hc => ?_, fun j hj hc => ?_, fun e he hc => ?_, fun v hv hc => ?_, h.fns, h.msix⟩
  · obtain ⟨ht, hs⟩ := h.task core slot hc
    refine ⟨by rw [ht], by rw [ht], by rw [ht], by rw [ht], fun e => ?_⟩
    have he := hs e
    unfold FetchOnly at he
    exact ⟨by rw [he], by rw [he], by rw [he], by rw [he], by rw [he]⟩
  · obtain ⟨f, hf, rfl | rfl⟩ := h.paths e he hc
    · exact .inl hf
    · exact .inr hf
  · obtain ⟨k, hk, hst, hq, ht, -⟩ := h.jobs j hj hc
    exact ⟨k, hk, by rw [ht], hst, hq, by rw [ht], by rw [ht]⟩
  · exact h.tlb ▸ mem_filter_of_ne he hc
  · exact h.views ▸ mem_filter_of_ne hv hc

/-- Settles O28: of a kill by what its drain leaves, of the end of a drain by what it takes. -/
theorem killsIsolate : Obligations.KillsIsolate := ⟨contextKills, killLeavesOthers⟩

end Sys2Proof.Machine
end

section
/-! SUPPORT. The instructions of accumulators: moves and epilogue steps by their list of checks, mchk by the commands before it and by
its accumulator (R410, R411, R413). -/

namespace Sys2Proof.Machine

open Sys2Proof

section
variable {s : State} {g : Guard} {ty : Ty} {acc : BitVec 3} {sa mode : BitVec 4} {cs : List (Option (Nat × W64))} {c : Cmd}

/-- A command without lease or operand. -/
theorem issueM_plain (hc : firstTrap cs = none) (he : entsTrap s c.ents = none) : issueM cs false none c s = .go (s.addEff (.cmd c)) := by
  simp [issueM, hc, he]

theorem badWord_of_no_errors (h : s.soft = []) (k n : Nat) : badWord s k n = false := by simp [badWord, h]

/-! ## The check of a tile (R413) -/

theorem accTrap_false (a : BitVec 3) : accTrap false a = none := rfl
theorem accTrap_true (a : BitVec 3) : accTrap true a = some (0x01, a.zeroExtend 64) := rfl
/-- A tile that is not converted, and where the step needs it no s32 one. -/
theorem epiAccTrap_passes {floatOnly : Bool} (hx : (accView s acc).1 = (accView s acc).2)
    (hf : floatOnly = true → (accView s acc).1 ≠ .s32) : epiAccTrap s floatOnly acc = none := by
  rw [epiAccTrap, hx, bne_self_eq_false, ← hx]
  cases floatOnly with
  | false => rfl
  | true => rw [beq_eq_false_iff_ne.mpr (hf rfl)]; rfl
theorem epiAccTrap_unconverted (hx : (accView s acc).1 = (accView s acc).2) : epiAccTrap s false acc = none :=
  epiAccTrap_passes hx nofun
theorem epiAccTrap_converted (floatOnly : Bool) (hx : (accView s acc).1 ≠ (accView s acc).2) :
    epiAccTrap s floatOnly acc = some (0x01, acc.zeroExtend 64) := by
  rw [epiAccTrap, bne_iff_ne.mpr hx, Bool.true_or, accTrap_true]
theorem epiAccTrap_s32 (hx : (accView s acc).1 = .s32) : epiAccTrap s true acc = some (0x01, acc.zeroExtend 64) := by
  rw [epiAccTrap, hx, beq_self_eq_true, Bool.and_true, Bool.or_true, accTrap_true]

/-- The second tile of a step on two, against the first. -/
theorem secondAcc_passes {a b : BitVec 3} (hx : (accView s a).1 = (accView s a).2) (hy : accView s b = accView s a) :
    accTrap ((accView s b).1 != (accView s b).2 || (accView s b).1 != (accView s a).1) a = none := by
  simp [hy, hx, accTrap]
theorem secondAcc_fails {a b : BitVec 3} (hx : (accView s a).1 = (accView s a).2) (hy : accView s b ≠ accView s a) :
    accTrap ((accView s b).1 != (accView s b).2 || (accView s b).1 != (accView s a).1) a = some (0x01, a.zeroExtend 64) := by
  refine if_pos ?_
  by_contra hb
  simp only [Bool.or_eq_true, bne_iff_ne, ne_eq, not_or, not_not] at hb
  exact hy (Prod.ext hb.2 (hb.1.symm.trans (hb.2.trans hx)))

/-! ## Steps -/

variable (h : Issues64 s g ⟨[], [], [], []⟩)
include h

theorem epi1_issues {fn : BitVec 3} {floatOnly : Bool} (hc : epiAccTrap s floatOnly acc = none) :
    epi1 fn floatOnly g acc s = .next ((s.addEff (.cmd (epiCmd s fn acc 0 .f32 0 0 []))).issued g.sync) :=
  issue64_go h (issueM_plain (by rw [hc]; rfl) rfl)
theorem epi1_refused {fn : BitVec 3} {floatOnly : Bool} (hc : epiAccTrap s floatOnly acc = some (0x01, acc.zeroExtend 64)) :
    epi1 fn floatOnly g acc s = .next (trapAt s s.cur 0x01 (acc.zeroExtend 64) false) :=
  issue64_trap h (issueM_trap (x := (0x01, acc.zeroExtend 64)) (by rw [hc]; rfl))

theorem epi2_issues {fn : BitVec 3} (hx : (accView s acc).1 = (accView s acc).2)
    (hy : accView s (sa.extractLsb' 0 3) = accView s acc) : epi2 fn g acc sa s =
      .next ((s.addEff (.cmd (epiCmd s fn acc (sa.extractLsb' 0 3) .f32 0 0 []))).issued g.sync) :=
  issue64_go h (issueM_plain (by rw [epiAccTrap_unconverted hx, secondAcc_passes hx hy]; rfl) rfl)
theorem epi2_converted {fn : BitVec 3} (hx : (accView s acc).1 ≠ (accView s acc).2) :
    epi2 fn g acc sa s = .next (trapAt s s.cur 0x01 (acc.zeroExtend 64) false) :=
  issue64_trap h (issueM_trap (x := (0x01, acc.zeroExtend 64)) (by rw [epiAccTrap_converted _ hx]; rfl))
theorem epi2_mixed {fn : BitVec 3} (hx : (accView s acc).1 = (accView s acc).2)
    (hy : accView s (sa.extractLsb' 0 3) ≠ accView s acc) :
    epi2 fn g acc sa s = .next (trapAt s s.cur 0x01 (acc.zeroExtend 64) false) :=
  issue64_trap h (issueM_trap (x := (0x01, acc.zeroExtend 64)) (by rw [epiAccTrap_unconverted hx, secondAcc_fails hx hy]; rfl))

theorem econv_issues (hx : (accView s acc).1 = (accView s acc).2) (hy : convOk (accView s acc).1 ty = true) :
    execEconv g ty acc sa s =
      .next ((s.addEff (.cmd (epiCmd s 7 acc 0 ty (if sa.getLsbD 0 || (s.csr 0x005).getLsbD 2 then 1 else 0) 0 []))).issued g.sync) :=
  issue64_go h (issueM_plain (by rw [epiAccTrap_unconverted hx, hy]; rfl) rfl)
theorem econv_refused (hx : epiAccTrap s false acc = some (0x01, acc.zeroExtend 64) ∨ convOk (accView s acc).1 ty = false) :
    execEconv g ty acc sa s = .next (trapAt s s.cur 0x01 (acc.zeroExtend 64) false) := by
  refine issue64_trap h (issueM_trap (x := (0x01, acc.zeroExtend 64)) ?_)
  rcases hx with hx | hx
  · rw [hx]; rfl
  · by_cases hc : (accView s acc).1 = (accView s acc).2
    · rw [epiAccTrap_unconverted hc, hx]; rfl
    · rw [epiAccTrap_converted _ hc]; rfl

/-! ## Scale and bias -/

/-- escale of mode 3 names no operand. -/
theorem escale_bare (hx : (accView s acc).1 = (accView s acc).2) :
    execEscale g acc sa 3 s = .next ((s.addEff (.cmd (epiCmd s 0 acc 0 .f32 3 (s.sreg sa) []))).issued g.sync) := by
  rw [execEscale, if_pos (rfl : (3 : BitVec 4) = 3)]
  exact issueS_go ⟨h, List.forall_mem_nil _⟩ (issueM_plain (by rw [epiAccTrap_unconverted hx]; rfl) rfl)
theorem escale_bare_refused (hx : (accView s acc).1 ≠ (accView s acc).2) :
    execEscale g acc sa 3 s = .next (trapAt s s.cur 0x01 (acc.zeroExtend 64) false) := by
  rw [execEscale, if_pos (rfl : (3 : BitVec 4) = 3)]
  exact issueS_trap ⟨h, List.forall_mem_nil _⟩ (issueM_trap (x := (0x01, acc.zeroExtend 64)) (by rw [epiAccTrap_converted _ hx]; rfl))

/-! ## mchk (R411) -/

theorem mchk_held (hq : (s.cmds.any fun op => op.accs.contains acc) = true) : execMchk g acc s = .next (s.held .queueFull) :=
  issue64_hold h (if_pos hq)

variable (hq : (s.cmds.any fun op => op.accs.contains acc) = false) (hs : s.soft = [])
include hq hs

/-- Its verdict, every column checked. -/
theorem mchk_passes (hv : (s.my.accu acc).verify = (none, 0)) : execMchk g acc s = .next (s.issued g.sync) := by
  refine issue64_go h ?_
  simp only [hq, eccRead_of_no_errors hs, badWord_of_no_errors hs, hv, Bool.false_eq_true, if_false, if_true]
theorem mchk_fails {n : Nat} (hv : (s.my.accu acc).verify = (some n, 0)) :
    execMchk g acc s = .next (chkFail s s.cur (n + 64 * acc.toNat) false) := by
  refine issue64_stop h ?_
  simp only [hq, eccRead_of_no_errors hs, badWord_of_no_errors hs, hv, Bool.false_eq_true, if_false, if_true]
end

/-- Settles O41: each instruction by its list of checks, mchk by what names its accumulator and by its columns. -/
theorem accumulatorResults : Obligations.AccumulatorResults := by
  intro s g ty acc sa mode h v b x y out bad
  refine ⟨fun hclean hr ho => ⟨fun he => ?_, fun he => ?_⟩, fun hx => ⟨fun hclean hm hr he => ?_, fun hm => ?_, fun hclean hr he => ?_, ?_,
    fun h32 => ⟨?_, ?_⟩, fun h32 => ⟨?_, ?_⟩, fun hy => ⟨?_, ?_⟩, fun hy => ⟨?_, ?_⟩, fun hc => ?_, fun hc => ?_⟩,
    fun hx => ⟨?_, ?_, ?_, ?_, ?_, ?_, ?_⟩, fun hq => ?_, fun hq hs => ⟨fun hv => ?_, fun n hv => ?_⟩⟩
  · rw [exec_mrd]; exact issueS_go ⟨h, hclean⟩ (issueM_plain (by rw [hr, ho]; rfl) he)
  · rw [exec_mwr]; exact issueS_go ⟨h, hclean⟩ (issueM_plain (by rw [hr, ho]; rfl) he)
  · have hm' : mode.toNat ≠ 3 := fun he => hm (BitVec.eq_of_toNat_eq he)
    rw [exec_escale, execEscale, if_neg hm]
    exact issueS_go ⟨h, hclean⟩ (by simpa only [if_neg hm'] using issueM_plain (by rw [hr, epiAccTrap_unconverted hx]; rfl) he)
  · subst hm
    rw [exec_escale]; exact escale_bare h hx
  · rw [exec_ebias]; exact issueS_go ⟨h, hclean⟩ (issueM_plain (by rw [hr, epiAccTrap_unconverted hx]; rfl) he)
  · rw [exec_erelu]; exact epi1_issues h (epiAccTrap_unconverted hx)
  · rw [exec_esig]; exact epi1_issues h (epiAccTrap_passes hx fun _ => h32)
  · rw [exec_esilu]; exact epi1_issues h (epiAccTrap_passes hx fun _ => h32)
  · rw [exec_esig]; exact epi1_refused h (epiAccTrap_s32 h32)
  · rw [exec_esilu]; exact epi1_refused h (epiAccTrap_s32 h32)
  · rw [exec_emul]; exact epi2_issues h hx hy
  · rw [exec_eadd]; exact epi2_issues h hx hy
  · rw [exec_emul]; exact epi2_mixed h hx hy
  · rw [exec_eadd]; exact epi2_mixed h hx hy
  · rw [exec_econv]; exact econv_issues h hx hc
  · rw [exec_econv]; exact econv_refused h (.inr hc)
  · rw [exec_erelu]; exact epi1_refused h (epiAccTrap_converted _ hx)
  · rw [exec_esig]; exact epi1_refused h (epiAccTrap_converted _ hx)
  · rw [exec_esilu]; exact epi1_refused h (epiAccTrap_converted _ hx)
  · rw [exec_emul]; exact epi2_converted h hx
  · rw [exec_eadd]; exact epi2_converted h hx
  · rw [exec_econv]; exact econv_refused h (.inl (epiAccTrap_converted _ hx))
  · rw [exec_escale]; exact escale_bare_refused h hx
  · rw [exec_mchk]; exact mchk_held h hq
  · rw [exec_mchk]; exact mchk_passes h hq hs hv
  · rw [exec_mchk]; exact mchk_fails h hq hs hv

end Sys2Proof.Machine
end

section
/-! SUPPORT. The store engine's instructions: swb by the handle it writes out, the writes that swbacc, swbz and swbnm form of a tile, and
sckstat (R416 to R420, R422). -/

namespace Sys2Proof.Machine

open Sys2Proof

/-! ## swb (R417) -/

section
variable {s : State} {g : Guard} {i : BitVec 4} {hd : R5} {sgr : BitVec 2} {gate : BitVec 6} {sp : Space}

/-- The command of swb. -/
def bufferStore (s : State) (sp : Space) (v : BitVec 512) (hd : R5) (sgr : BitVec 2) (gate : BitVec 6) : Cmd :=
  { newCmd s .swb with
    s1 := v, sgr := sgr, gate := gate.toNat, gateCore := gateHome s sp (sBase v)
    ents := bufEntries s 5 hd (layoutN v * sBlen v) (.cread 0) ++ layoutEntries s 5 sp v (.cwrite 0) }

variable (h : IssuesS s g ⟨[], [], [], []⟩ [i])
include h

theorem swb_noSpace (hsp : storeSpace s i = none) :
    execSwb g i hd sgr gate s = .next (trapAt s s.cur cILLOP (i.zeroExtend 64) false) :=
  issueS_trap h (by simp only [hsp])

variable (hsp : storeSpace s i = some sp)
  (he : endsTrap s sp (layoutEnds (s.sreg i)).1 (layoutEnds (s.sreg i)).2 true = none)
  (hh : handleTrap s hd (layoutN (s.sreg i) * sBlen (s.sreg i)) = none)
include hsp he hh

theorem swb_go {t : State} (hb : consume s hd (bufferStore s sp (s.sreg i) hd sgr gate) = .go t) :
    execSwb g i hd sgr gate s = .next (t.issued g.sync) := by
  refine issueS_go h ?_
  simp only [hsp, he, hh, Option.orElse]
  exact hb
theorem swb_hold {t : State} {k : Hold} (hb : consume s hd (bufferStore s sp (s.sreg i) hd sgr gate) = .hold k t) :
    execSwb g i hd sgr gate s = .next (t.held k) := by
  refine issueS_hold h ?_
  simp only [hsp, he, hh, Option.orElse]
  exact hb
end

/-! ## Stores of a tile (R416, R418, R422) -/

/-- The tile as it is written, with its MSTAT bits, and the pieces that an instruction forms of it. -/
def tileVals (s : State) (ty : Ty) (a : Accu) : Array Nat × W64 := storeTile a ty ((s.csr 0x005).getLsbD 2)
def tilePieces (fn : BitVec 2) (v : BitVec 512) (ty : Ty) (form : Nat) (t : Array Nat) : List Piece :=
  if fn = 2 then nmPieces v ty form t else rowPieces v (ty.bits / 8) t
/-- The command that writes pieces of an accumulator. -/
def tileStore (s : State) (fn : BitVec 2) (ty : Ty) (v : BitVec 512) (x form : W64) (sp : Space) (gate : BitVec 6) (ps : List Piece) : Cmd :=
  let a := s.my.accu (x.extractLsb' 0 3)
  let bad := storeVerify a ty (tileVals s ty a).1
  { newCmd s (.swbAcc fn (x.extractLsb' 0 3) ty) with
    s1 := v, gate := gate.toNat, gateCore := gateHome s sp (sBase v)
    xs := storeXs (tileVals s ty a).2 bad.1 bad.2 x form ((s.csr 0x005).getLsbD 2)
    buf := pieceCells ps
    ents := ps.flatMap fun p => spanEntries s 5 sp p.addr p.bytes.length p.pos (.cwrite 0) }

theorem storeOut_eq (fn : BitVec 2) (ty : Ty) (v : BitVec 512) (form : Nat) (sat8 : Bool) (a : Accu) : storeOut fn ty v form sat8 a =
    (tilePieces fn v ty form (storeTile a ty sat8).1, (storeTile a ty sat8).2, storeVerify a ty (storeTile a ty sat8).1) := rfl

section
variable {s : State} {g : Guard} {fn : BitVec 2} {us : List R5} {ty : Ty} {a : R5} {i : BitVec 4} {form : State → W64} {gate : BitVec 6}
  {sp : Space} {rows : List Piece}

theorem storeAcc_go (h : IssuesS s g ⟨us, [], [], us⟩ [i]) (hsp : storeSpace s i = some sp) (hm : s.my.mtask = true)
    (hx : (s.x a).toNat ≤ 7) (hq : ((s.my.stm .m).cq.any fun c => c.op.accs.contains ((s.x a).extractLsb' 0 3)) = false)
    (hok : storeOk (s.my.accu ((s.x a).extractLsb' 0 3)) ty = true) (hf : fn = 2 → (form s).toNat ≤ 1)
    (hrows : tilePieces fn (s.sreg i) ty (form s).toNat (tileVals s ty (s.my.accu ((s.x a).extractLsb' 0 3))).1 = rows)
    (hr : ∀ p ∈ rows, checkAddr s s.cur s.my.cid sp p.addr p.bytes.length true = none)
    (hb : sBase (s.sreg i) % (ty.bits / 8) = 0) (h1 : sStrideN (s.sreg i) 1 % (ty.bits / 8) = 0)
    (h23 : fn = 2 → sStrideN (s.sreg i) 2 % 4 = 0 ∧ sStrideN (s.sreg i) 3 % 4 = 0) :
    storeAcc fn g us ty a i form gate s = .next ((s.addEff (.cmd (tileStore s fn ty (s.sreg i) (s.x a) (form s) sp gate
      (if fn = 3 then nonzeroPieces rows else rows)))).issued g.sync) := by
  have hx' : (decide ((s.x a).toNat > 7) || !s.my.mtask) = false := by simp [hx, hm]
  have hf' : (decide (fn = 2) && decide (form s > 1)) = false := by
    simpa [BitVec.lt_def] using hf
  have hal : (decide (sBase (s.sreg i) % (ty.bits / 8) ≠ 0) || decide (sStrideN (s.sreg i) 1 % (ty.bits / 8) ≠ 0) ||
      (decide (fn = 2) && (decide (sStrideN (s.sreg i) 2 % 4 ≠ 0) || decide (sStrideN (s.sreg i) 3 % 4 ≠ 0)))) = false := by
    simpa [hb, h1] using h23
  have hs : rows.findSome? (fun p => checkAddr s s.cur s.my.cid sp p.addr p.bytes.length true) = none :=
    List.findSome?_eq_none_iff.mpr hr
  subst hrows
  refine issueS_go h ?_
  simp only [hsp, hx', hq, hok, hf', storeOut_eq, Bool.not_true, Bool.false_eq_true, if_false]
  rw [tileVals] at hs
  simp only [hs, hal, Bool.false_eq_true, if_false]
    <;> rfl
end

/-- R419: sckstat once the queue of its stream is empty. -/
theorem sckstat_issues {s : State} {g : Guard} {a : R5} (h : Issues64 s g ⟨[a], [], [], []⟩) :
    (s.me.cq = [] → execSckstat g a s = .next ((s.setX a s.my.sck).issued g.sync)) ∧
    (s.me.cq ≠ [] → execSckstat g a s = .next (s.held .queueFull)) :=
  ⟨fun hq => issue64_go h (if_pos (List.isEmpty_iff.mpr hq)), fun hq => issue64_hold h (if_neg (mt List.isEmpty_iff.mp hq))⟩

/-- Settles O42: swb by the state of its handle, a store of a tile by its checks and pieces, sckstat by its stream's queue. -/
theorem storeEngineResults : Obligations.StoreEngineResults := by
  refine ⟨fun s g i hd sgr gate sp h => ⟨fun hsp => ?_, fun hsp he hh => ⟨fun hf => ?_, fun hf => ?_⟩⟩, ?_, fun s g a h => ?_⟩
  · rw [exec_swb]; exact swb_noSpace h hsp
  · rw [exec_swb]; exact swb_go h hsp he hh (consume_full hf)
  · rw [exec_swb]; exact held_for_handle (swb_hold h hsp he hh (consume_busy hf))
  · intro s g ty a b i gate sp v w acc t vals writes reach hclean hsp hm hx hq hok hb h1
    refine ⟨fun h hr => ⟨?_, ?_⟩, fun h hform h2 h3 hr => ?_⟩
    · rw [exec_swbacc]
      exact storeAcc_go ⟨h, hclean⟩ hsp hm hx hq hok nofun rfl hr hb h1 nofun
    · rw [exec_swbz]
      exact storeAcc_go ⟨h, hclean⟩ hsp hm hx hq hok nofun rfl hr hb h1 nofun
    · rw [exec_swbnm]
      exact storeAcc_go ⟨h, hclean⟩ hsp hm hx hq hok (fun _ => hform) rfl hr hb h1 fun _ => ⟨h2, h3⟩
  · rw [exec_sckstat]; exact sckstat_issues h

end Sys2Proof.Machine
end
